-- ==== Sys2Proof/Word.lean ====
section
/-! DEFINITION. The word types of the Voino machine: bytes, 16-, 32- and 64-bit words (R6). -/

namespace Sys2Proof

/-- The smallest addressable unit. -/
abbrev Byte := BitVec 8

/-- A 32-bit register word. -/
abbrev Word := BitVec 32

/-- A 64-bit register pair, an address or an instruction word. -/
abbrev Dword := BitVec 64

/-- A mask of the 32 lanes of a group (R13). -/
abbrev LaneMask := BitVec 32

end Sys2Proof
end

