-- ==== Sys2Proof/Machine/KMap.lean ====
section
/-! DEFINITION. Sparse maps as lists of key and value, and memory as such a list in canonical form: addresses
strictly rising, and no entry equal to what an unlisted address reads as. -/

namespace Sys2Proof.Machine

/-- A sparse map from numbers. -/
abbrev KMap (α : Type) := List (Nat × α)

/-- The value at a key, `d` where the list has none. -/
def KMap.get {α : Type} (d : α) : KMap α → Nat → α
  | [], _ => d
  | (k', v) :: t, k => if k = k' then v else KMap.get d t k

/-- The entry at a key. -/
def KMap.find {α : Type} : KMap α → Nat → Option α
  | [], _ => none
  | (k', v) :: t, k => if k = k' then some v else KMap.find t k

/-- Put a value at a key, keeping keys in order. -/
def KMap.put {α : Type} : KMap α → Nat → α → KMap α
  | [], k, v => [(k, v)]
  | (k', v') :: t, k, v =>
    if k = k' then (k, v) :: t
    else if k < k' then (k, v) :: (k', v') :: t
    else (k', v') :: KMap.put t k v

/-- Put a value at a key of a canonical map: an entry equal to the default `d` is taken out. -/
def KMap.set {α : Type} [DecidableEq α] (d : α) : KMap α → Nat → α → KMap α
  | [], k, v => if v = d then [] else [(k, v)]
  | (k', v') :: t, k, v =>
    if k = k' then (if v = d then t else (k, v) :: t)
    else if k < k' then (if v = d then (k', v') :: t else (k, v) :: (k', v') :: t)
    else (k', v') :: KMap.set d t k v

/-- Take the entry at a key out. -/
def KMap.drop {α : Type} (m : KMap α) (k : Nat) : KMap α := m.filter (fun p => p.1 != k)

/-- The canonical form: keys strictly rising from `lo`, no entry equal to `d`. -/
def KMap.wfFrom {α : Type} [DecidableEq α] (d : α) : Nat → KMap α → Bool
  | _, [] => true
  | lo, (k, v) :: t => decide (lo ≤ k) && decide (v ≠ d) && KMap.wfFrom d (k + 1) t

/-- Memory: bytes by address. -/
abbrev Memory := List Host.Cell

/-- What a byte that nothing has written reads as (log 6). -/
def Memory.unlisted : Byte := 0

/-- One byte. -/
def Memory.read (m : Memory) (a : Nat) : Byte := KMap.get Memory.unlisted m a

/-- Write one byte, keeping the canonical form. -/
def Memory.write (m : Memory) (a : Nat) (b : Byte) : Memory := KMap.set Memory.unlisted m a b

/-- The canonical form of memory. -/
def Memory.wf (m : Memory) : Bool := KMap.wfFrom Memory.unlisted 0 m

/-- n bytes from an address, lowest first. -/
def Memory.readN (m : Memory) (a : Nat) : Nat → List Byte
  | 0 => []
  | n + 1 => m.read a :: Memory.readN m (a + 1) n

/-- Write bytes from an address, lowest first. -/
def Memory.writeN (m : Memory) (a : Nat) : List Byte → Memory
  | [] => m
  | b :: bs => Memory.writeN (m.write a b) (a + 1) bs

/-- Write bytes through a mask: a byte b with mask k leaves the bits clear in k as they stand. -/
def Memory.writeMasked (m : Memory) (a : Nat) : List (Byte × Byte) → Memory
  | [] => m
  | (b, k) :: bs => Memory.writeMasked (m.write a ((b &&& k) ||| (m.read a &&& ~~~k))) (a + 1) bs

/-- Item i of a list, `d` past its end. -/
def listGet {α : Type} (d : α) : List α → Nat → α
  | [], _ => d
  | x :: _, 0 => x
  | _ :: t, i + 1 => listGet d t i

/-- The list with item i replaced; unchanged past its end. -/
def listSet {α : Type} : List α → Nat → α → List α
  | [], _, _ => []
  | _ :: t, 0, v => v :: t
  | x :: t, i + 1, v => x :: listSet t i v

/-- The list with item i passed through `f`. -/
def listMod {α : Type} (l : List α) (i : Nat) (f : α → α) : List α :=
  match l, i with
  | [], _ => []
  | x :: t, 0 => f x :: t
  | x :: t, i + 1 => x :: listMod t i f

/-- The list without item i. -/
def listDrop {α : Type} (l : List α) (i : Nat) : List α :=
  match l, i with
  | [], _ => []
  | _ :: t, 0 => t
  | x :: t, i + 1 => x :: listDrop t i

/-- The position of the first item that satisfies `p`. -/
def findIdx {α : Type} (p : α → Bool) : List α → Option Nat
  | [] => none
  | x :: t => if p x then some 0 else (findIdx p t).map (· + 1)

end Sys2Proof.Machine
end

