-- ==== Sys2Proof/Syntax.lean ====
section
/-! DEFINITION. The steps of the machine as syntax: one constructor of Instr for each row of the opcode
table. The first part holds the instructions of the Voino native encoding (R228) with typed operands, so that
nothing after the decoder sees a raw field. The second part holds the steps that are no instruction: what the
memory system, the engines, the fabric, the distributors, the firmware and the host do. -/

namespace Sys2Proof

/-! ## Operand classes (R222, R224, R225) -/

/-- The type codes of R225. -/
inductive Ty where
  | b8 | b16 | b32 | b64 | i8 | i16 | i32 | i64 | n8 | n16 | n32 | n64
  | f32 | f16 | bf16 | e4m3 | e5m2 | e2m1 | sq2 | sq4 | sq7 | f16x2 | bf16x2
  deriving DecidableEq, Repr

/-- The consistency domains of R69, weakest first. -/
inductive Dom where
  | ub | rc | co | tso | sc
  deriving DecidableEq, Repr

/-- The scopes of R71, narrowest first. -/
inductive Scope where
  | grp | blk | clu | dev | fab | sys
  deriving DecidableEq, Repr

/-- The order marks of R78. -/
inductive Ord where
  | none | acq | rel | ar
  deriving DecidableEq, Repr

/-- A guard (R221): the predicate, 7 for PT, and the negation. -/
structure Guard where
  neg : Bool
  pred : BitVec 3
  deriving DecidableEq, Repr

/-- What a slot control says beside the latch sources (R218). -/
structure Ctl where
  stall : BitVec 4
  yield : Bool
  wait : BitVec 8
  sett : Option (BitVec 3)
  deriving DecidableEq, Repr

/-- Guard and slot control of an instruction whose guard acts. -/
structure Hd where
  g : Guard
  k : Ctl
  deriving DecidableEq, Repr

/-- Where a V result goes beside its register (R223). -/
structure Wb where
  nowb : Bool
  ldst : BitVec 2
  deriving DecidableEq, Repr

/-- A V-register source: the register, or a latch when the LSRC bit is set (R222). -/
inductive VSrc where
  | reg (n : BitVec 8)
  | latch (l : BitVec 2)
  deriving DecidableEq, Repr

/-- A source that may be a V register, an S register or the immediate (R234). -/
inductive Opnd where
  | v (x : VSrc)
  | s (n : BitVec 6)
  | imm (i : BitVec 8)
  deriving DecidableEq, Repr

/-- A uniform source: an S register or the immediate (R259). -/
inductive SOp where
  | s (n : BitVec 6)
  | imm (i : BitVec 8)
  deriving DecidableEq, Repr

/-- A memory base (R286). -/
inductive Base where
  | v (x : VSrc)
  | s (n : BitVec 6)
  deriving DecidableEq, Repr

/-- A predicate source with its negation; 7 is PT. -/
structure PSrc where
  neg : Bool
  p : BitVec 3
  deriving DecidableEq, Repr

/-- Comparison conditions of ICMP and SCMP (R255). -/
inductive Cond where
  | eq | ne | lt | le | gt | ge
  deriving DecidableEq, Repr

/-- Comparison conditions of FCMP (R266). -/
inductive FCond where
  | eq | ne | lt | le | gt | ge | num | nan
  deriving DecidableEq, Repr

/-- How a compare combines with the old predicate (R255). -/
inductive Comb where
  | none | pand | por
  deriving DecidableEq, Repr

/-- Rounding modes 0 to 4 of R109. -/
inductive Rnd where
  | rne | rtz | rpi | rmi | rsr
  deriving DecidableEq, Repr

/-- Atomic operators of R229. -/
inductive AOp where
  | add | min | max | and | or | xor | exch | cas
  deriving DecidableEq, Repr

/-- The operators of REDUX and SCAN (R283). -/
inductive ROp where
  | add | min | max | and | or | xor
  deriving DecidableEq, Repr

/-- Shuffle modes (R281). -/
inductive ShMode where
  | idx | up | down | xor
  deriving DecidableEq, Repr

/-- Vote operators (R282). -/
inductive VoteOp where
  | all | any | uni
  deriving DecidableEq, Repr

/-- Copy directions (R318). -/
inductive CpyDir where
  | gl | lg | ll
  deriving DecidableEq, Repr

/-- Domain, scope and mark of an access. -/
structure Acc where
  dom : Dom
  scope : Scope
  ord : Ord
  deriving DecidableEq, Repr

/-- Domain, scope and flags of a command (R92). -/
structure CAcc where
  dom : Dom
  scope : Scope
  acqf : Bool
  relf : Bool
  deriving DecidableEq, Repr

/-- A remote endpoint named by a manifest entry or a convoy (R337). -/
inductive Endp where
  | entry (m : BitVec 8)
  | convoy (c : BitVec 4)
  deriving DecidableEq, Repr

/-! ## Operand shapes -/

/-- Unary shape of R234; `m` is OPMOD[0]. -/
structure IUn where
  h : Hd
  wb : Wb
  ty : Ty
  d : BitVec 8
  a : VSrc
  m : Bool
  deriving DecidableEq, Repr

/-- Binary shape of R234; `m` is OPMOD[0] (.SAT). -/
structure IBin where
  h : Hd
  wb : Wb
  ty : Ty
  d : BitVec 8
  a : VSrc
  b : Opnd
  m : Bool
  deriving DecidableEq, Repr

/-- Ternary shape of R234; `m` is OPMOD[0] (.SAT, or .R of FUNNEL). -/
structure ITern where
  h : Hd
  wb : Wb
  ty : Ty
  d : BitVec 8
  a : VSrc
  b : Opnd
  c : Opnd
  m : Bool
  deriving DecidableEq, Repr

/-- LOP3 (R249). -/
structure Lop3 where
  h : Hd
  wb : Wb
  ty : Ty
  d : BitVec 8
  a : VSrc
  b : Opnd
  table : BitVec 8
  deriving DecidableEq, Repr

/-- SEL (R254). -/
structure SelOp where
  h : Hd
  wb : Wb
  ty : Ty
  d : BitVec 8
  a : VSrc
  b : Opnd
  p : PSrc
  deriving DecidableEq, Repr

/-- MOV (R254). -/
structure MovOp where
  h : Hd
  wb : Wb
  ty : Ty
  d : BitVec 8
  b : Opnd
  deriving DecidableEq, Repr

/-- MOVI and MOVK (R254); MOVI has `k` zero. -/
structure MovImm where
  h : Hd
  wb : Wb
  ty : Ty
  d : BitVec 8
  imm : BitVec 8
  k : BitVec 3
  deriving DecidableEq, Repr

/-- ICMP (R255). -/
structure IcmpOp where
  h : Hd
  ty : Ty
  cond : Cond
  comb : Comb
  p : BitVec 3
  a : VSrc
  b : Opnd
  deriving DecidableEq, Repr

/-- PSET (R256). -/
structure PsetOp where
  h : Hd
  op : ROp
  p : BitVec 3
  a : PSrc
  b : PSrc
  deriving DecidableEq, Repr

/-- PMOV (R257). -/
structure PmovOp where
  h : Hd
  p : BitVec 3
  a : VSrc
  bit : BitVec 8
  deriving DecidableEq, Repr

/-- Uniform scalar instructions (R259); `m` is OPMOD[0]. -/
structure SBin where
  k : Ctl
  ty : Ty
  d : BitVec 6
  a : BitVec 6
  b : SOp
  m : Bool
  deriving DecidableEq, Repr

/-- SMOV and SMOVI (R259). -/
structure SMov where
  k : Ctl
  ty : Ty
  d : BitVec 6
  b : SOp
  deriving DecidableEq, Repr

/-- SCMP (R259). -/
structure ScmpOp where
  k : Ctl
  ty : Ty
  cond : Cond
  d : BitVec 6
  a : BitVec 6
  b : SOp
  deriving DecidableEq, Repr

/-- The special values of MOVSR (R260). -/
inductive SrName where
  | lane | group | blockx | blocky | blockz | stage | node | core | clock | leg
  deriving DecidableEq, Repr

/-- MOVSR (R260). -/
structure MovsrOp where
  h : Hd
  wb : Wb
  d : BitVec 8
  name : SrName
  deriving DecidableEq, Repr

/-- Float source modifiers of R262, bits [4:0] of OPMOD. -/
structure FMods where
  negA : Bool
  absA : Bool
  negB : Bool
  absB : Bool
  negC : Bool
  deriving DecidableEq, Repr

/-- Unary float instruction. -/
structure FUn where
  h : Hd
  wb : Wb
  ty : Ty
  d : BitVec 8
  a : VSrc
  mods : FMods
  deriving DecidableEq, Repr

/-- Binary float instruction. -/
structure FBin where
  h : Hd
  wb : Wb
  ty : Ty
  d : BitVec 8
  a : VSrc
  b : Opnd
  mods : FMods
  deriving DecidableEq, Repr

/-- Ternary float instruction. -/
structure FTern where
  h : Hd
  wb : Wb
  ty : Ty
  d : BitVec 8
  a : VSrc
  b : Opnd
  c : Opnd
  mods : FMods
  deriving DecidableEq, Repr

/-- FCMP (R266). -/
structure FcmpOp where
  h : Hd
  ty : Ty
  cond : FCond
  comb : Comb
  p : BitVec 3
  a : VSrc
  b : Opnd
  deriving DecidableEq, Repr

/-- FRND (R268); `rm` none is code 7, the RND of MODE. -/
structure FrndOp where
  h : Hd
  wb : Wb
  ty : Ty
  d : BitVec 8
  a : VSrc
  rm : Option Rnd
  negA : Bool
  absA : Bool
  deriving DecidableEq, Repr

/-- Conversions of format K (R271); `rm` none is code 7. -/
structure CvtOp where
  h : Hd
  wb : Wb
  dt : Ty
  st : Ty
  rm : Option Rnd
  d : BitVec 8
  a : VSrc
  deriving DecidableEq, Repr

/-- PACK2 (R278). -/
structure PackOp where
  h : Hd
  wb : Wb
  dt : Ty
  rm : Option Rnd
  d : BitVec 8
  a : VSrc
  b : VSrc
  deriving DecidableEq, Repr

/-- SHFL and SHFL16 (R281, R285); `sz` is log2 of the subgroup size, 0 in SHFL16. -/
structure ShflOp where
  h : Hd
  wb : Wb
  ty : Ty
  mode : ShMode
  sz : BitVec 3
  d : BitVec 8
  a : VSrc
  b : Opnd
  deriving DecidableEq, Repr

/-- VOTE and VOTE16 (R282, R285). -/
structure VoteArgs where
  h : Hd
  op : VoteOp
  a : PSrc
  sz : BitVec 3
  p : BitVec 3
  deriving DecidableEq, Repr

/-- BALLOT and BALLOT16 (R282, R285). -/
structure BallotOp where
  h : Hd
  wb : Wb
  a : PSrc
  sz : BitVec 3
  d : BitVec 8
  deriving DecidableEq, Repr

/-- REDUX and SCAN (R283). -/
structure ReduxOp where
  h : Hd
  wb : Wb
  op : ROp
  exc : Bool
  ty : Ty
  sz : BitVec 3
  d : BitVec 8
  a : VSrc
  deriving DecidableEq, Repr

/-- MATCH (R284). -/
structure MatchOp where
  h : Hd
  wb : Wb
  ty : Ty
  sz : BitVec 3
  d : BitVec 8
  a : VSrc
  deriving DecidableEq, Repr

/-- BCAST (R284); `k` none is .FIRST. -/
structure BcastOp where
  h : Hd
  wb : Wb
  ty : Ty
  k : Option (BitVec 8)
  sz : BitVec 3
  d : BitVec 8
  a : VSrc
  deriving DecidableEq, Repr

/-- LD and LDL (R291). -/
structure LdOp where
  h : Hd
  wb : Wb
  ty : Ty
  acc : Acc
  d : BitVec 8
  base : Base
  imm : BitVec 8
  deriving DecidableEq, Repr

/-- ST, STL and RED (R291, R298). -/
structure StOp where
  h : Hd
  ty : Ty
  acc : Acc
  base : Base
  data : VSrc
  imm : BitVec 8
  deriving DecidableEq, Repr

/-- LDX (R293). -/
structure LdxOp where
  h : Hd
  wb : Wb
  ty : Ty
  acc : Acc
  d : BitVec 8
  base : Base
  idx : VSrc
  deriving DecidableEq, Repr

/-- STX (R294). -/
structure StxOp where
  h : Hd
  ty : Ty
  acc : Acc
  base : Base
  data : VSrc
  idx : VSrc
  deriving DecidableEq, Repr

/-- ACCRD (R295). -/
structure AccrdOp where
  h : Hd
  wb : Wb
  ty : Ty
  d : BitVec 8
  base : Base
  imm : BitVec 8
  deriving DecidableEq, Repr

/-- ACCWR (R295). -/
structure AccwrOp where
  h : Hd
  ty : Ty
  base : Base
  data : VSrc
  imm : BitVec 8
  deriving DecidableEq, Repr

/-- PREF (R296); `llc` is option 1. -/
structure PrefOp where
  h : Hd
  llc : Bool
  base : Base
  imm : BitVec 8
  deriving DecidableEq, Repr

/-- The second and third operands of an atomic (R286). -/
inductive AArg where
  | one (b : VSrc) (imm : BitVec 8)
  | cas (c : VSrc) (n : VSrc)
  deriving DecidableEq, Repr

/-- ATOM and ATOML (R298). -/
structure AtomOp where
  h : Hd
  wb : Wb
  op : AOp
  ty : Ty
  acc : Acc
  d : BitVec 8
  base : Base
  arg : AArg
  deriving DecidableEq, Repr

/-- RED (R298). -/
structure RedOp where
  h : Hd
  op : AOp
  ty : Ty
  acc : Acc
  base : Base
  data : VSrc
  imm : BitVec 8
  deriving DecidableEq, Repr

/-- FENCE (R303); `dom` none is the form of all 25 pairs. -/
structure FenceOp where
  h : Hd
  dom : Option Dom
  scope : Scope
  deriving DecidableEq, Repr

/-- BRIDGE (R303). -/
structure BridgeOp where
  h : Hd
  x : Dom
  y : Dom
  scope : Scope
  deriving DecidableEq, Repr

/-- BARINIT (R308). -/
structure BarinitOp where
  h : Hd
  acc : Acc
  base : Base
  data : VSrc
  imm : BitVec 8
  deriving DecidableEq, Repr

/-- BARARRIVE, BARWAIT and BARTEST (R309 to R311); `wm` in BARWAIT only. -/
structure BarOp where
  h : Hd
  wb : Wb
  acc : Acc
  wm : Bool
  d : BitVec 8
  base : Base
  data : VSrc
  imm : BitVec 8
  deriving DecidableEq, Repr

/-- BLKSYNC (R312). -/
structure BlksyncOp where
  h : Hd
  acc : Acc
  wm : Bool
  deriving DecidableEq, Repr

/-- The valid count of CPY. -/
inductive CpyCnt where
  | v (x : VSrc)
  | imm (i : BitVec 8)
  deriving DecidableEq, Repr

/-- CPY (R318); `sz` is SZ, n = 4 * 2^sz. -/
structure CpyOp where
  h : Hd
  acc : CAcc
  dir : CpyDir
  sz : BitVec 2
  tag : BitVec 6
  src : VSrc
  dst : VSrc
  cnt : CpyCnt
  deriving DecidableEq, Repr

/-- TCPY (R320). -/
structure TcpyOp where
  h : Hd
  acc : CAcc
  fo : Bool
  tag : BitVec 6
  rcd : BitVec 6
  org : BitVec 6
  dense : BitVec 6
  deriving DecidableEq, Repr

/-- TLD and TST (R329). -/
structure TileMv where
  h : Hd
  acc : CAcc
  tag : BitVec 6
  tile : BitVec 3
  addr : BitVec 6
  deriving DecidableEq, Repr

/-- TDRAIN (R335). -/
structure TdrainOp where
  h : Hd
  acc : CAcc
  clr : Bool
  tag : BitVec 6
  desc : BitVec 6
  org : BitVec 6
  org2 : BitVec 6
  deriving DecidableEq, Repr

/-- XLD (R337). -/
structure XldOp where
  h : Hd
  wb : Wb
  ty : Ty
  acc : Acc
  d : BitVec 8
  ep : Endp
  off : VSrc
  deriving DecidableEq, Repr

/-- XST (R337). -/
structure XstOp where
  h : Hd
  ty : Ty
  acc : Acc
  ep : Endp
  off : VSrc
  data : VSrc
  deriving DecidableEq, Repr

/-- XATOM (R337): returning exactly when the slot sets a token; a non-returning one has `d` and `wb` zero. -/
structure XatomOp where
  h : Hd
  wb : Wb
  op : AOp
  ty : Ty
  acc : Acc
  d : BitVec 8
  ep : Endp
  off : VSrc
  data : VSrc
  deriving DecidableEq, Repr

/-- The kinds of LOCQ (R352). -/
inductive LocKind where
  | addr | core | ent
  deriving DecidableEq, Repr

/-- The control registers of R360. -/
inductive CtlReg where
  | mode | trapinfo | floor | legid
  deriving DecidableEq, Repr

/-- Why a word is illegal (R230): rows 1 and 4 give the illegal-bundle fault, row 3 the
illegal-instruction fault. -/
inductive IllegalWhy where
  /-- Row 1: reserved control-word bits, a slot after a terminator, fall-through into a segment entry, or a
  GROW, SHRINK or WAYMARK without a terminator. -/
  | bundleAtFetch
  /-- Row 3: an illegal major, an unassigned minor, a reserved field or value. -/
  | word
  /-- Row 4: slot control misuse. -/
  | slotControl
  deriving DecidableEq, Repr

/-! ## What travels and what happens outside a core -/

/-- Who issued a remote operation on this package. -/
structure Issuer where
  core : Nat
  slot : Nat
  gen : BitVec 32
  grp : Nat
  node : BitVec 32
  block : BitVec 32
  pc : Dword
  leg : BitVec 32
  deriving DecidableEq, Repr

/-- What a packet asks of its target (R158, R163, R168, R174). -/
inductive PktOp where
  /-- Store of runs of bytes at their offsets; each byte carries the mask of the bits it writes. -/
  | store (runs : List (Nat × List (Byte × Byte)))
  /-- Load of n bytes at each offset of a list. -/
  | load (offs : List Nat) (n : Nat)
  /-- Atomics, one per lane in ascending order: offset, operand, new value of a CAS. -/
  | atom (op : AOp) (ty : Ty) (ops : List (Nat × Dword × Dword))
  /-- A collective reduction by ROP of elements at their offsets; in ordered mode with the rank and CMASK. -/
  | reduce (rop : Nat) (ord : Option (Nat × Dword)) (elems : List (Nat × List Byte))
  /-- A serai reservation of B bytes. -/
  | reserve (b : Nat)
  /-- The flagged arrival of FENCEF. -/
  | arrive (k : Nat)
  deriving DecidableEq, Repr

/-- A packet (R152, R156, R160, R175). -/
structure Packet where
  id : Nat
  op : PktOp
  dom : Dom
  scope : Scope
  rel : Bool
  /-- target package and context -/
  pkg : BitVec 12
  tctx : BitVec 6
  /-- core endpoint: logical core, slot and generation -/
  toCore : Bool
  unit : BitVec 16
  slot : BitVec 5
  gen : BitVec 32
  /-- home endpoint: base of the window -/
  wbase : Nat
  /-- barrier word credited -/
  bar : Option Nat
  /-- source package and context, source gateway and its sequence number (R474) -/
  srcPkg : BitVec 12
  srcCtx : BitVec 6
  gate : Nat
  seq : Nat
  /-- recovery domain of its maker and leg tag (R179) -/
  rdom : Option Nat
  leg : BitVec 32
  irrev : Bool
  /-- convoy and item number, for R160 -/
  convoy : Option Nat
  item : Nat
  /-- collective sequence (R175) -/
  coll : Option (BitVec 32)
  /-- what must be performed first, by numbers of its source package (R80, R162) -/
  after : List Nat
  /-- its number on its source package, and the packets that its home delivers before it: earlier ones of its source in SC
  and TSO, causal tags in CO, those that an RC release counts, those of earlier items of its convoy (R100, R101) -/
  srcId : Nat
  tags : List (BitVec 12 × Nat)
  issuer : Issuer
  /-- manifest entry it was sent through, and the payload bytes -/
  entry : Nat
  payload : Nat
  deriving DecidableEq, Repr

/-- How a packet event is named: one of this package's packets by id, or one that another package sent, with the port it came in
by. -/
inductive Hop where
  | own (id : Nat)
  | inbound (p : Packet) (port : Nat)
  deriving DecidableEq, Repr

/-- A refusal by a target: its sub-code (R164), and whether it refuses because the target is irrevocable (R199). -/
structure Refused where
  sub : BitVec 4
  irrev : Bool := false
  deriving DecidableEq, Repr

/-- Data of a positive reply. -/
inductive Reply where
  | values (xs : List Dword)
  | word (w : Word)
  | done
  deriving DecidableEq, Repr

/-- The work of a home agent (R98, R179, R196). -/
inductive HomeWork where
  /-- the k-th write held for want of log space tries again -/
  | held (k : Nat)
  /-- two contributions i and j of the k-th CU word merge -/
  | cuMerge (k i j : Nat)
  /-- a master's access that an access table refuses after translation (R462) -/
  | refused (core slot grp : Nat) (pa : Nat) (eng : Bool)
  deriving DecidableEq, Repr

/-- Where an error strikes (R191, R497). -/
inductive ErrSite where
  | hbm (pa : Nat)
  | llc (pa : Nat)
  | localMem (core slot : Nat)
  | regFile (core slot : Nat)
  | tile (core slot : Nat)
  | accum (core slot : Nat)
  /-- the entry of a sector in the log of a domain -/
  | undoLog (dom pa : Nat)
  deriving DecidableEq, Repr

/-- The outcome of INIT at one base die (R419, R421). -/
inductive InitResult where
  | ok
  | hbmFailed
  | linkFailed
  deriving DecidableEq, Repr

/-- What the system controller of a base die learns in a step of boot (R419): that the image's digest agrees, what INIT found, or a
fuse error. -/
structure AtDie (α : Type) where
  die : BitVec 3
  val : α
  deriving DecidableEq, Repr

/-- The members of a caravan halt, with the other packages that have said that theirs are held (R176). -/
structure HaltReport where
  ctx : Nat
  members : List Dword
  held : List (BitVec 12)
  deriving DecidableEq, Repr

/-- What reaches a package about a caravan halt: its members, with the largest declarations of their chunks that other packages
report (R176); or the end of the halt (R448). -/
structure HaltCall where
  members : List Dword
  chunks : List (BitVec 12 × BitVec 32)
  lifted : Bool
  deriving DecidableEq, Repr

/-- The arguments of DOMCREATE that the members match (R481). -/
structure DomArgs where
  members : List (BitVec 12)
  interval : Nat
  waitLimit : Nat
  capacity : Nat
  deriving DecidableEq, Repr

/-- A DOMCREATE that has timed out: the domain, and how long before this member's issue the first member's lay (R481). -/
structure DomLate where
  dom : Nat
  lead : Nat
  deriving DecidableEq, Repr

/-- A block that a rollback has placed elsewhere: its package, and core, slot and generation before and after (R193). -/
structure MovedBlock where
  pkg : BitVec 12
  core : Nat
  slot : Nat
  gen : BitVec 32
  toCore : Nat
  toSlot : Nat
  toGen : BitVec 32
  deriving DecidableEq, Repr

/-- The end of a rollback of a domain, with the blocks that other members have placed elsewhere (R193, R486). -/
structure ResumeReport where
  dom : Nat
  moved : List MovedBlock
  deriving DecidableEq, Repr

/-- A domain, with the members that have said that their blocks are at seal points (R183). -/
structure SealReport where
  dom : Nat
  parked : List (BitVec 12)
  deriving DecidableEq, Repr

/-- A domain that rolls back, with the leg overflow that a member has met (R197, R485), and whether it is an injection that began it (R497). -/
structure RollbackCall where
  dom : Nat
  overflow : Option Nat
  injected : Bool := false
  deriving DecidableEq, Repr

/-- Where the host accesses BAR0: an offset and a width in bytes (R416). -/
structure RegAt where
  off : Nat
  n : Nat
  deriving DecidableEq, Repr

/-- A victim choice (R444): a core, and a group or a whole block. -/
structure Victim where
  core : Nat
  slot : Nat
  grp : Option Nat
  deriving DecidableEq, Repr

/-! ## The instructions and steps, one constructor per row of the opcode table -/

/-- One step of the machine. -/
inductive Instr where
  -- major 0x00: segments and control
  | nop (k : Ctl)
  | nextSeg (k : Ctl) (seg : BitVec 8)
  | nextp (k : Ctl) (p : BitVec 3) (t f : BitVec 8)
  | nextx (k : Ctl) (s : BitVec 6) (imm : BitVec 8)
  | call (k : Ctl) (callee cont : BitVec 8)
  | ret (k : Ctl) (imm : BitVec 8)
  | exit (k : Ctl)
  | waitTok (h : Hd) (wm : Bool) (mask : BitVec 8)
  | waitClk (h : Hd) (wm : Bool) (n : BitVec 8)
  | trap (h : Hd) (code : BitVec 8)
  | assert (h : Hd) (s : BitVec 6) (p : PSrc)
  | bkpt (h : Hd) (code : BitVec 8)
  -- major 0x01: integer arithmetic
  | iadd (o : IBin)
  | isub (o : IBin)
  | iadd3 (o : ITern)
  | imul (o : IBin)
  | imulhi (o : IBin)
  | imad (o : ITern)
  | imin (o : IBin)
  | imax (o : IBin)
  | iabs (o : IUn)
  | ineg (o : IUn)
  -- major 0x02: logic and shifts
  | and (o : IBin)
  | or (o : IBin)
  | xor (o : IBin)
  | not (o : IUn)
  | lop3 (o : Lop3)
  | shl (o : IBin)
  | shr (o : IBin)
  | sar (o : IBin)
  | rotl (o : IBin)
  | funnel (o : ITern)
  -- major 0x03: bit fields, permutes and moves
  | bfx (o : IBin)
  | bfi (o : ITern)
  | popc (o : IUn)
  | clz (o : IUn)
  | ctz (o : IUn)
  | brev (o : IUn)
  | permb (o : ITern)
  | sel (o : SelOp)
  | mov (o : MovOp)
  | movi (o : MovImm)
  | movk (o : MovImm)
  -- major 0x04: compare and predicates
  | icmp (o : IcmpOp)
  | pset (o : PsetOp)
  | pmov (o : PmovOp)
  -- major 0x05: uniform scalar
  | sadd (o : SBin)
  | ssub (o : SBin)
  | smul (o : SBin)
  | sand (o : SBin)
  | sor (o : SBin)
  | sxor (o : SBin)
  | sshl (o : SBin)
  | sshr (o : SBin)
  | smov (o : SMov)
  | smovi (o : SMov)
  | scmp (o : ScmpOp)
  | movsr (o : MovsrOp)
  -- major 0x06: float arithmetic
  | fadd (o : FBin)
  | fsub (o : FBin)
  | fmul (o : FBin)
  | ffma (o : FTern)
  | fmin (o : FBin)
  | fmax (o : FBin)
  | fcmp (o : FcmpOp)
  | fclass (o : FUn)
  | frnd (o : FrndOp)
  -- major 0x07: special functions
  | frcp (o : FUn)
  | frsq (o : FUn)
  | fsqrt (o : FUn)
  | fexp2 (o : FUn)
  | flog2 (o : FUn)
  | fsin (o : FUn)
  | fcos (o : FUn)
  | ftanh (o : FUn)
  -- major 0x08: conversions
  | cvt (o : CvtOp)
  | cvtsr (o : CvtOp)
  | qenc (o : CvtOp)
  | qdec (o : CvtOp)
  | pack2 (o : PackOp)
  | unpack2 (o : CvtOp)
  -- majors 0x09 and 0x0A: cross-lane
  | shfl (o : ShflOp)
  | vote (o : VoteArgs)
  | ballot (o : BallotOp)
  | redux (o : ReduxOp)
  | scan (o : ReduxOp)
  | matchLanes (o : MatchOp)
  | bcast (o : BcastOp)
  | shfl16 (o : ShflOp)
  | vote16 (o : VoteArgs)
  | ballot16 (o : BallotOp)
  -- majors 0x0B and 0x0C: memory
  | ld (o : LdOp)
  | st (o : StOp)
  | ldx (o : LdxOp)
  | stx (o : StxOp)
  | pref (o : PrefOp)
  | cctlIv (h : Hd) (base : VSrc) (imm : BitVec 8)
  | cctlIvall (h : Hd)
  | ldl (o : LdOp)
  | stl (o : StOp)
  | accrd (o : AccrdOp)
  | accwr (o : AccwrOp)
  -- majors 0x0D to 0x0F: atomics
  | atom (o : AtomOp)
  | atoml (o : AtomOp)
  | red (o : RedOp)
  -- major 0x10: ordering and barriers
  | fence (o : FenceOp)
  | bridge (o : BridgeOp)
  | barinit (o : BarinitOp)
  | bararrive (o : BarOp)
  | barwait (o : BarOp)
  | bartest (o : BarOp)
  | blksync (o : BlksyncOp)
  -- majors 0x11 and 0x12: copy, tiles, matrix
  | cpy (o : CpyOp)
  | tcpy (o : TcpyOp)
  | cpywait (h : Hd) (any : Bool) (mask : BitVec 6)
  | tagff (h : Hd) (d : BitVec 6) (mask : BitVec 6)
  | tagrd (h : Hd) (d : BitVec 6) (tag : BitVec 6)
  | tcfg (h : Hd) (tile : BitVec 3) (v : BitVec 6)
  | tld (o : TileMv)
  | tst (o : TileMv)
  | tzero (h : Hd) (tag : BitVec 6) (tile : BitVec 3)
  | tmma (h : Hd) (tag : BitVec 6) (desc : BitVec 6)
  | tdrain (o : TdrainOp)
  | tacc (h : Hd) (add : Bool) (tag : BitVec 6) (tile : BitVec 3) (base : BitVec 6)
  | tstat (h : Hd) (d : BitVec 6)
  -- majors 0x13 and 0x14: remote
  | xld (o : XldOp)
  | xst (o : XstOp)
  | xatom (o : XatomOp)
  | xsend (h : Hd) (acc : CAcc) (tag : BitVec 6) (desc : BitVec 6) (bar : BitVec 6)
  | cvopen (h : Hd) (c : BitVec 4) (e : BitVec 6)
  | cvclose (h : Hd) (c : BitVec 4)
  | fencef (h : Hd) (dom : Dom) (c : BitVec 4) (bar : BitVec 6) (n : BitVec 8)
  | slotrsv (h : Hd) (d e b : BitVec 6)
  | slotrel (h : Hd) (j : BitVec 6)
  | slotrelFault (h : Hd) (j : BitVec 6)
  | chunk (k : Ctl) (c : BitVec 6)
  -- major 0x15: recovery
  | waymark (k : Ctl) (d : BitVec 6) (vg : BitVec 6)
  | legrd (h : Hd) (d : BitVec 6)
  | irrev (h : Hd)
  -- major 0x16: registers, placement, launch
  | grow (k : Ctl) (n : BitVec 5)
  | shrink (k : Ctl) (n : BitVec 5)
  | locq (h : Hd) (kind : LocKind) (d a : BitVec 6)
  | launch (k : Ctl) (d r q : BitVec 6)
  | prio (k : Ctl) (p : BitVec 6)
  -- major 0x17: trap handlers and control registers
  | rfeRegion (k : Ctl)
  | rfeNext (k : Ctl)
  | ctlrd (h : Hd) (d : BitVec 6) (r : CtlReg)
  | ctlwr (h : Hd) (r : CtlReg) (s : BitVec 6)
  | traprd (h : Hd) (d : BitVec 6) (k : BitVec 4)
  -- words that are no instruction
  | extensionWord (ctl : BitVec 20) (w : Dword)
  | illegalWord (ctl : BitVec 20) (w : Dword) (why : IllegalWhy)
  -- steps inside a core
  | resultWriteback (core slot grp k : Nat)
  | trapDelivery (core slot grp ig : Nat)
  | growGrant (core part : Nat)
  | waitClkExpiry (core slot grp ig : Nat)
  -- memory system
  | storeDrain (core k : Nat)
  | invalidationArrival (core k : Nat)
  | filterAgeExpiry (core k : Nat) (dom : Dom)
  | bankRequestComplete (core k : Nat)
  | homeAgentWrite (w : HomeWork)
  -- engines
  | commandComplete (core slot k : Nat) (part : Option Nat)
  | tmmaSubblock (core slot k : Nat)
  | followOnStart (core slot k : Nat)
  -- fabric
  | firstHopCustody (id : Nat)
  | packetHop (h : Hop)
  | custodyTimeout (id : Nat)
  | packetArrival (id : Nat)
  | slotrsvRequest (id : Nat)
  | remoteReply (id : Nat) (r : Reply)
  | custodyAck (id : Nat)
  | negativeReply (id : Nat) (r : Refused)
  | linkFailure (id : Nat)
  | errorNoticeArrival (core : Nat) (slot : BitVec 5) (gen : BitVec 32) (off : Nat)
  | flitError (port : Nat)
  | peerLost (port : Nat)
  | portTrain (port : Nat)
  | keylow (port dir : Nat)
  | keyExhausted (port dir : Nat)
  | keyStarveTimeout (port dir : Nat)
  | keySwitch (port dir : Nat)
  -- distribution and scheduling
  | itineraryAdmit (ctx q : Nat)
  | blockPlace (die : Nat)
  | stealRequest (thief victim : Nat)
  | groupRelease (core slot grp : Nat)
  | blockTaskRetire (core slot : Nat)
  | evictionDecision (die : Nat)
  | evictionStopTimeout (core slot grp : Nat)
  | blockSave (v : Victim)
  | blockRestore (k core : Nat)
  | watchdogExpiry (core slot : Nat)
  | contextEnded (ctx : Nat)
  | caravanHaltPause (ctx : Nat) (x : HaltCall)
  | caravanHaltComplete (x : HaltReport)
  -- seal
  | sealIntervalExpiry (dom : Nat)
  | sealRequestMessage (dom : Nat)
  | sealPrep (dom : Nat) (leg : BitVec 32)
  | sealDrainBegin (x : SealReport)
  | sealWaitLimit (dom : Nat)
  | sealSave (dom : Nat)
  | sealApplyAck (dom : Nat) (member : BitVec 12)
  | sealReady (dom : Nat) (member : BitVec 12)
  | sealCommitWitness (dom : Nat) (leg : BitVec 32)
  | sealCut (dom : Nat)
  | sealApply (dom : Nat) (leg : BitVec 32)
  | memberSilence (dom : Nat) (member : BitVec 12)
  -- errors and rollback
  | uncorrectableError (site : ErrSite)
  | correctedError (site : ErrSite)
  | dieFault (die : Nat)
  | railUndervolt (base : Nat)
  | rollbackAbort (x : RollbackCall)
  | rollbackStop (x : RollbackCall) (leg : BitVec 32)
  | rollbackDone (dom : Nat) (member : BitVec 12)
  | rollbackResume (x : ResumeReport)
  -- power and boot
  | powerSample (power : BitVec 16)
  | powerUp
  | fundamentalReset
  | bootVerify (x : AtDie Bool)
  | bootInit (x : AtDie InitResult)
  | bootEnum (x : AtDie Bool)
  -- host windows
  | bar2Read (off n : Nat)
  | bar2Write (off : Nat) (bytes : List Byte)
  | registerWrite (x : RegAt) (v : Dword)
  | qtailWrite (ctx q : Nat) (v : Word)
  | queueEnable (ctx q : Nat)
  | queueDisable (ctx q : Nat)
  | invalidatePage (ctx : Nat) (size : BitVec 2)
  | invalidateContext (ctx : Nat) (size : BitVec 2)
  | invalidationComplete (ctx : Nat)
  | invctlRead (ctx : Nat)
  | ctxstatRead (ctx : Nat)
  | cmdstatRead
  | handlerWrite (ctx : Nat) (v : Dword)
  | ctxcfgWrite (ctx : Nat) (v : Dword)
  | manifestStage (ctx entry : Nat) (word : BitVec 2) (v : Dword)
  | manifestInstall (ctx entry : Nat) (v : Dword)
  | pwrlimWrite (v : Dword)
  | i3cPwrlimWrite (v : BitVec 16)
  | domcreateMatch (dom : Nat) (others : List DomArgs)
  | domcreateTimeout (x : DomLate)
  | injectFire (k : Nat)
  | mailboxUnknownCode (code : Word)
  | i3cAttest (nonce : List Byte)
  | i3cRasRead
  -- mailbox commands, whose arguments stand in ARG0 to ARG7
  | attest
  | fuseadv
  | cacheput
  | cacheget
  | halt
  | unhalt
  | ctxresume
  | ctxend
  | release
  | ctxcreate
  | ctxfree
  | accset
  | fabcfg
  | routeset
  | keyinst
  | linkstat
  | linkctlRetire
  | linkctlUp
  | domcreate
  | domjoin
  | domfree
  | sealreq
  | injectUe
  | injectDieFault
  | injectRollback
  | injectPortRetire
  | injectKeyStarve
  | coreretRetire
  | coreretReturn
  | fwstage
  | powerLoss
  deriving DecidableEq, Repr

end Sys2Proof
end

