-- ==== Sys2Proof/Machine/Bits.lean ====
section
/-! DEFINITION. Bit fields, byte order, sign extension and lane masks. Multi-byte values are little-endian (R6). -/

namespace Sys2Proof.Machine

/-- The 32 lanes. -/
def lanes : List Nat := List.range 32

/-- The lanes of a mask, lowest first. -/
def lanesOf (m : LaneMask) : List Nat := lanes.filter (fun l => m.getLsbD l)

/-- The mask of the lanes that satisfy `p`. -/
def maskOf (p : Nat → Bool) : LaneMask :=
  BitVec.ofNat 32 (lanes.foldl (fun a l => if p l then a + 2 ^ l else a) 0)

/-- The lowest lane of a mask, 0 when it is empty. -/
def lowest (m : LaneMask) : Nat := ((lanesOf m).head?).getD 0

/-- The number of bits set. -/
def popcount {w : Nat} (x : BitVec w) : Nat := (List.range w).countP (fun i => x.getLsbD i)

/-- The bytes of a number, lowest first. -/
def leBytes : Nat → Nat → List Byte
  | 0, _ => []
  | n + 1, x => BitVec.ofNat 8 x :: leBytes n (x / 256)

/-- The number that bytes make, lowest first. -/
def leNat : List Byte → Nat
  | [] => 0
  | b :: bs => b.toNat + 256 * leNat bs

/-- Bits [lo + n - 1 : lo] of a number. -/
def field (x lo n : Nat) : Nat := (x / 2 ^ lo) % 2 ^ n

/-- Bit i of a number. -/
def bitAt (x i : Nat) : Bool := x.testBit i

/-- The signed value of the low w bits of a number. -/
def signedOf (w x : Nat) : Int :=
  let y := x % 2 ^ w
  if 2 ^ (w - 1) ≤ y then (y : Int) - 2 ^ w else y

/-- A number reduced to w bits, from an exact integer. -/
def wrapTo (w : Nat) (x : Int) : Nat := (x % 2 ^ w).toNat

/-- sat_signed and sat_unsigned of R214, as w bits. -/
def satTo (signed : Bool) (w : Nat) (x : Int) : Nat :=
  if signed then
    let hi : Int := 2 ^ (w - 1) - 1
    let lo : Int := -(2 ^ (w - 1))
    wrapTo w (if x < lo then lo else if hi < x then hi else x)
  else
    let hi : Int := 2 ^ w - 1
    wrapTo w (if x < 0 then 0 else if hi < x then hi else x)

/-- A 64-bit value of a number. -/
def dw (x : Nat) : Dword := BitVec.ofNat 64 x

/-- A 32-bit value of a number. -/
def wd (x : Nat) : Word := BitVec.ofNat 32 x

/-- The low word of a 64-bit value. -/
def loWord (x : Dword) : Word := x.setWidth 32

/-- The high word of a 64-bit value. -/
def hiWord (x : Dword) : Word := x.extractLsb' 32 32

/-- The 64-bit value of two words. -/
def pairOf (hi lo : Word) : Dword := hi ++ lo

/-- Width in bits of a type's operand (R222, R235). -/
def widthOf (ty : Ty) : Nat := if ty == .b64 || ty == .i64 || ty == .n64 then 64 else 32

/-- Size in bytes of a memory type (R291, R299). -/
def sizeOf (ty : Ty) : Nat :=
  match ty with
  | .b8 | .i8 | .n8 | .e4m3 | .e5m2 | .e2m1 => 1
  | .b16 | .i16 | .n16 | .f16 | .bf16 => 2
  | .b64 | .i64 | .n64 => 8
  | _ => 4

/-- Signed types. -/
def isSigned (ty : Ty) : Bool := ty == .i8 || ty == .i16 || ty == .i32 || ty == .i64

/-- A value as the exact integer that its type reads (R247). -/
def intOf (ty : Ty) (x : Dword) : Int :=
  let w := widthOf ty
  if isSigned ty then signedOf w x.toNat else ((x.toNat % 2 ^ w : Nat) : Int)

/-- An immediate extended under R235: signed types sign-extend, others zero-extend. -/
def immOf (ty : Ty) (i : BitVec 8) : Dword :=
  if isSigned ty then i.signExtend 64 else i.setWidth 64

/-- Fold over the lanes of a mask, lowest first. -/
def forLanes {α : Type} (m : LaneMask) (a : α) (f : α → Nat → α) : α := (lanesOf m).foldl f a

/-- The first item of a list for which `f` answers. -/
def firstSome {α β : Type} (f : α → Option β) : List α → Option β
  | [] => none
  | x :: t =>
    match f x with
    | some b => some b
    | none => firstSome f t

/-- Wall-clock time is counted exactly in units of 40 ns divided by the least common multiple of 1 to 42: aclk runs at 25 MHz
times 21 to 42 (R490). -/
def timeUnits : Nat := 219060189739591200

/-- Units of one aclk at a rate in MHz. -/
def aclkUnits (mhz : Nat) : Nat := timeUnits / (mhz / 25)

/-- Units of n microseconds. -/
def usec (n : Nat) : Nat := 25 * n * timeUnits

/-- Sum of numbers. -/
def sumOf {α : Type} (f : α → Nat) (l : List α) : Nat := l.foldl (fun a x => a + f x) 0

/-- a divided by b, rounded up. -/
def ceilDiv (a b : Nat) : Nat := (a + b - 1) / b

end Sys2Proof.Machine
end

