-- ==== Sys2Proof/Machine/Num.lean ====
section
/-! DEFINITION. Number formats, exact values and their one rounding (R105 to R112, R119, R500). -/

namespace Sys2Proof.Machine

/-- A value: a NaN with its sign, an infinity, or (-1)^neg * m * 2^e. -/
inductive Val where
  | nan (neg : Bool)
  | inf (neg : Bool)
  | fin (neg : Bool) (m : Nat) (e : Int)
  deriving DecidableEq, Repr

/-- A format of R105. The code of a magnitude is its exponent and fraction fields. -/
structure Fmt where
  ebits : Nat
  fbits : Nat
  bias : Nat
  /-- code of the largest finite magnitude -/
  top : Nat
  /-- infinities and NaNs under IEEE 754 -/
  ieee : Bool
  /-- code of the canonical NaN, 0 where there is none -/
  nan : Nat
  deriving DecidableEq, Repr

/-- FP32. -/
def fp32 : Fmt := ⟨8, 23, 127, 0x7F7FFFFF, true, 0x7FC00000⟩
/-- FP16. -/
def fp16 : Fmt := ⟨5, 10, 15, 0x7BFF, true, 0x7E00⟩
/-- BF16. -/
def bf16 : Fmt := ⟨8, 7, 127, 0x7F7F, true, 0x7FC0⟩
/-- E4M3. -/
def e4m3 : Fmt := ⟨4, 3, 7, 0x7E, false, 0x7F⟩
/-- E5M2. -/
def e5m2 : Fmt := ⟨5, 2, 15, 0x7B, true, 0x7E⟩
/-- E2M1 (R106). -/
def e2m1 : Fmt := ⟨2, 1, 1, 7, false, 0⟩

/-- The element format of a float type. -/
def fmtOf (ty : Ty) : Fmt :=
  match ty with
  | .f16 | .f16x2 => fp16
  | .bf16 | .bf16x2 => bf16
  | .e4m3 => e4m3
  | .e5m2 => e5m2
  | .e2m1 => e2m1
  | _ => fp32

/-- Bits of a magnitude code. -/
def Fmt.bits (f : Fmt) : Nat := f.ebits + f.fbits

/-- The weight of the last place of a subnormal. -/
def Fmt.low (f : Fmt) : Int := 1 - (f.bias : Int) - f.fbits

/-- The code of an infinity. -/
def Fmt.infCode (f : Fmt) : Nat := (2 ^ f.ebits - 1) * 2 ^ f.fbits

/-- Bits with a sign. -/
def Fmt.signed (f : Fmt) (neg : Bool) (mag : Nat) : Nat := if neg then mag + 2 ^ f.bits else mag

/-- decode_elem: exact (R105, R112). -/
def Fmt.decode (f : Fmt) (x : Nat) : Val :=
  let neg := x.testBit f.bits
  let mag := x % 2 ^ f.bits
  if f.ieee && mag == f.infCode then .inf neg
  else if mag > f.top then .nan neg
  else
    let ex := mag / 2 ^ f.fbits
    let fr := mag % 2 ^ f.fbits
    if ex = 0 then .fin neg fr f.low else .fin neg (fr + 2 ^ f.fbits) (f.low + ex - 1)

/-- A subnormal of a format becomes a zero of its sign (R119). -/
def Fmt.flushBits (f : Fmt) (ftz : Bool) (x : Nat) : Nat :=
  if ftz && x % 2 ^ f.bits < 2 ^ f.fbits then f.signed (x.testBit f.bits) 0 else x

/-- A magnitude m * 2^-k rounded to an integer under modes 0 to 4 of R109; r is the stochastic draw (R117). -/
def roundMag (mode r : Nat) (neg : Bool) (m k : Nat) : Nat :=
  let q := m / 2 ^ k
  let rem := m % 2 ^ k
  let up :=
    match mode with
    | 0 => decide (2 ^ k < 2 * rem) || (2 * rem == 2 ^ k && q % 2 == 1)
    | 1 => false
    | 2 => !neg && rem != 0
    | 3 => neg && rem != 0
    | _ => decide (r < rem * 65536 / 2 ^ k)
  if up then q + 1 else q

/-- Overflow of R111. -/
def Fmt.overflow (f : Fmt) (mode : Nat) (neg : Bool) : Nat :=
  if !f.ieee then f.top
  else
    match mode with
    | 0 => f.infCode
    | 2 => if neg then f.top else f.infCode
    | 3 => if neg then f.infCode else f.top
    | _ => f.top

/-- round_to_format: one rounding from the exact value (R109 to R111). -/
def Fmt.round (f : Fmt) (mode r : Nat) (v : Val) : Nat :=
  match v with
  | .nan neg => if f.ieee then f.nan else f.signed (neg && f.nan != 0) f.nan
  | .inf neg => f.signed neg (if f.ieee then f.infCode else f.top)
  | .fin neg m e =>
    if m = 0 then f.signed neg 0
    else
      let q := max ((Nat.log2 m : Int) + e - f.fbits) f.low
      let mant := if q ≤ e then m * 2 ^ (e - q).toNat else roundMag mode r neg m (q - e).toNat
      let code := (q - f.low).toNat * 2 ^ f.fbits + mant
      f.signed neg (if f.top < code then f.overflow mode neg else code)

/-- One rounding, then the flush of the result (R119). -/
def Fmt.roundZ (f : Fmt) (ftz : Bool) (mode r : Nat) (v : Val) : Nat := f.flushBits ftz (f.round mode r v)

/-- The zero of a sign. -/
def Val.zero (neg : Bool) : Val := .fin neg 0 0

/-- An exact integer. -/
def Val.ofInt (x : Int) : Val := .fin (decide (x < 0)) x.natAbs 0

/-- NaN test. -/
def Val.isNan : Val → Bool
  | .nan _ => true
  | _ => false

/-- Zero test. -/
def Val.isZero : Val → Bool
  | .fin _ m _ => m == 0
  | _ => false

/-- Sign bit. -/
def Val.sign : Val → Bool
  | .nan n => n
  | .inf n => n
  | .fin n _ _ => n

/-- The value with another sign. -/
def Val.withSign (n : Bool) : Val → Val
  | .nan _ => .nan n
  | .inf _ => .inf n
  | .fin _ m e => .fin n m e

/-- Sign inverted. -/
def Val.negate (v : Val) : Val := v.withSign (!v.sign)

/-- ABS, then NEG (R262). -/
def Val.modify (neg abs : Bool) (v : Val) : Val :=
  let v := if abs then v.withSign false else v
  if neg then v.negate else v

/-- The exact product; a zero takes the exclusive-or of the signs, 0 * infinity is invalid. -/
def Val.mul (a b : Val) : Val :=
  let n := a.sign != b.sign
  if a.isNan || b.isNan then .nan false
  else
    match a, b with
    | .inf _, x => if x.isZero then .nan false else .inf n
    | x, .inf _ => if x.isZero then .nan false else .inf n
    | .fin _ m e, .fin _ m' e' => .fin n (m * m') (e + e')
    | _, _ => .nan false

/-- The lowest exponent of the finite terms. -/
def lowExp (ts : List Val) : Int :=
  ts.foldl (fun a t => match t with | .fin _ _ e => min a e | _ => a) 0

/-- The exact integer of a finite value over 2^e. -/
def Val.over (e : Int) : Val → Int
  | .fin n m e' => let x : Int := m * 2 ^ (e' - e).toNat; if n then -x else x
  | _ => 0

/-- An exact sum, with the sign of a zero under R500; infinities of both signs and NaNs give NaN. -/
def Val.sum (mode : Nat) (ts : List Val) : Val :=
  if ts.any Val.isNan then .nan false
  else
    let hasInf := fun n => ts.any (fun t => t == .inf n)
    if hasInf true && hasInf false then .nan false
    else if hasInf true then .inf true
    else if hasInf false then .inf false
    else
      let e := lowExp ts
      let x : Int := ts.foldl (fun a t => a + t.over e) 0
      if x != 0 then .fin (decide (x < 0)) x.natAbs e
      else if ts.all (fun t => t.isZero && t.sign) && !ts.isEmpty then .zero true
      else if ts.all (fun t => t.isZero && !t.sign) then .zero false
      else .zero (mode == 3)

/-- Numeric order of values that are not NaN; -0 equals +0. -/
def Val.lt (a b : Val) : Bool :=
  match a, b with
  | .inf na, .inf nb => na && !nb
  | .inf na, _ => na
  | _, .inf nb => !nb
  | a, b => let e := lowExp [a, b]; decide (a.over e < b.over e)

/-- Order in which -0 lies below +0 (R123, R265). -/
def Val.below (a b : Val) : Bool := a.lt b || (a.isZero && b.isZero && a.sign && !b.sign)

/-- Numeric equality of values that are not NaN. -/
def Val.eqv (a b : Val) : Bool := !a.lt b && !b.lt a

/-- A finite value rounded to an integer. -/
def Val.toInt (mode r : Nat) : Val → Int
  | .fin n m e =>
    let x : Nat := if 0 ≤ e then m * 2 ^ e.toNat else roundMag mode r n m (-e).toNat
    if n then -(x : Int) else x
  | _ => 0

/-- A value as a saturated integer of w bits (R111, R273); mode 4 reads as 0. -/
def Val.satInt (signed : Bool) (w mode : Nat) (v : Val) : Nat :=
  match v with
  | .nan _ => 0
  | .inf n => satTo signed w (if n then -(2 ^ 64) else 2 ^ 64)
  | v => satTo signed w (v.toInt (if mode = 4 then 0 else mode) 0)

/-! ## MODE (R120) -/

/-- RND. -/
def rndOf (mode : Word) : Nat := mode.toNat % 8

/-- RND with mode 4 read as 0 (R109). -/
def rndArith (mode : Word) : Nat := if rndOf mode = 4 then 0 else rndOf mode

/-- The FTZ bit that governs a format (R119); E4M3, E5M2 and E2M1 never flush. -/
def ftzOf (mode : Word) (f : Fmt) : Bool :=
  if f = fp32 then mode.getLsbD 4 else (f = fp16 || f = bf16) && mode.getLsbD 5

/-- What MODE admits (R120). -/
def modeLegal (x : Nat) : Bool :=
  decide (field x 16 16 = 0) && decide (field x 10 5 ≤ 16) && decide (field x 6 4 = 0) && !bitAt x 3
    && decide (field x 0 3 ≤ 4)

/-! ## The stochastic generator (R117) -/

/-- One advance. -/
def advance (g : Word) : Word :=
  let g := g ^^^ (g <<< 13)
  let g := g ^^^ (g >>> 17)
  g ^^^ (g <<< 5)

/-- The draw of a lane. -/
def draw (g : Word) (lane : Nat) : Nat := (g.rotateLeft (5 * lane % 32)).toNat % 2 ^ 16

/-! ## Roots and quotients, kept to enough places that one rounding is exact -/

/-- The integer square root of n, found bit by bit below 2^k. -/
def isqrt (n : Nat) : Nat → Nat → Nat
  | 0, r => r
  | k + 1, r => isqrt n k (if (r + 2 ^ k) * (r + 2 ^ k) ≤ n then r + 2 ^ k else r)

/-- A quotient with a sticky last bit: p extra places. -/
def quotient (neg : Bool) (a b : Nat) (e : Int) (p : Nat) : Val :=
  let n := a * 2 ^ p
  .fin neg (2 * (n / b) + (if n % b = 0 then 0 else 1)) (e - p - 1)

/-- 1 / a of a finite value that is not 0. -/
def Val.recip : Val → Val
  | .fin n m e => quotient n 1 m (-e) 80
  | v => v

/-- The root of a positive finite value, with a sticky last bit. -/
def Val.root : Val → Val
  | .fin _ m e =>
    let m' := if e % 2 = 0 then m * 2 ^ 80 else m * 2 ^ 81
    let e' := if e % 2 = 0 then (e - 80) / 2 else (e - 81) / 2
    let r := isqrt m' 96 0
    .fin false (2 * r + (if r * r = m' then 0 else 1)) (e' - 1)
  | v => v

end Sys2Proof.Machine
end

