-- ==== Sys2Proof/Machine/Flags.lean ====
section
/-! DEFINITION. Comparisons, predicate combinations and the operators that atomics, reductions and votes share
(R123, R255, R265, R266, R283, R299). The machine has no flag register: a comparison writes a predicate (R12). -/

namespace Sys2Proof.Machine

/-- a cond b of two exact integers (R255). -/
def condInt (c : Cond) (a b : Int) : Bool :=
  match c with
  | .eq => a == b
  | .ne => a != b
  | .lt => decide (a < b)
  | .le => decide (a ≤ b)
  | .gt => decide (b < a)
  | .ge => decide (b ≤ a)

/-- a cond b of two values (R266). -/
def condVal (c : FCond) (a b : Val) : Bool :=
  if a.isNan || b.isNan then c == .ne || c == .nan
  else
    match c with
    | .eq => a.eqv b
    | .ne => !a.eqv b
    | .lt => a.lt b
    | .le => !b.lt a
    | .gt => b.lt a
    | .ge => !a.lt b
    | .num => true
    | .nan => false

/-- How a comparison combines with the old predicate (R255). -/
def combine (c : Comb) (k old : Bool) : Bool :=
  match c with
  | .none => k
  | .pand => k && old
  | .por => k || old

/-- FMIN and FMAX (R265): a NaN gives way to the other operand, -0 lies below +0. -/
def fminmax (max : Bool) (a b : Val) : Val :=
  if a.isNan then (if b.isNan then .nan false else b)
  else if b.isNan then a
  else if max then (if a.below b then b else a)
  else (if b.below a then b else a)

/-- Home-agent min and max (R123): any NaN gives NaN. -/
def homeMinMax (max : Bool) (a b : Val) : Val := if a.isNan || b.isNan then .nan false else fminmax max a b

/-- One merge of float bits at a home agent: nearest-even, never flushed (R119, R123). -/
def mergeFloat (f : Fmt) (op : AOp) (a b : Nat) : Nat :=
  let x := f.decode a
  let y := f.decode b
  match op with
  | .add => f.round 0 0 (.sum 0 [x, y])
  | .min => f.round 0 0 (homeMinMax false x y)
  | _ => f.round 0 0 (homeMinMax true x y)

/-- The value an operator makes of the old value and the operand (R299), in the low bits of 64. -/
def opApply (op : AOp) (ty : Ty) (o b : Dword) : Dword :=
  let w := widthOf ty
  let mask := fun (x : Dword) => dw (x.toNat % 2 ^ w)
  let x := o.toNat % 2 ^ w
  let y := b.toNat % 2 ^ w
  match op with
  | .and => mask (o &&& b)
  | .or => mask (o ||| b)
  | .xor => mask (o ^^^ b)
  | .exch => mask b
  | .cas => mask b
  | op =>
    match ty with
    | .f32 => dw (mergeFloat fp32 op x y)
    | .f16 => dw (mergeFloat fp16 op x y)
    | .bf16 => dw (mergeFloat bf16 op x y)
    | .f16x2 => dw (mergeFloat fp16 op (field x 0 16) (field y 0 16)
        + 2 ^ 16 * mergeFloat fp16 op (field x 16 16) (field y 16 16))
    | .bf16x2 => dw (mergeFloat bf16 op (field x 0 16) (field y 0 16)
        + 2 ^ 16 * mergeFloat bf16 op (field x 16 16) (field y 16 16))
    | _ =>
      match op with
      | .add => dw ((x + y) % 2 ^ w)
      | .min => dw (wrapTo w (min (intOf ty o) (intOf ty b)))
      | _ => dw (wrapTo w (max (intOf ty o) (intOf ty b)))

/-- The new value of an atomic, none where a compare-and-swap fails (R299): `b` is the operand or the compare value,
`n` the new value of a CAS. -/
def atomNew (op : AOp) (ty : Ty) (o b n : Dword) : Option Dword :=
  if op = .cas then
    (if o.toNat % 2 ^ widthOf ty = b.toNat % 2 ^ widthOf ty then some (dw (n.toNat % 2 ^ widthOf ty)) else none)
  else some (opApply op ty o b)

/-- The operator of REDUX and SCAN as an atomic operator. -/
def ropAop : ROp → AOp
  | .add => .add
  | .min => .min
  | .max => .max
  | .and => .and
  | .or => .or
  | .xor => .xor

/-- The identity of an empty exclusive prefix (R283). -/
def ropIdentity (op : ROp) (ty : Ty) : Nat :=
  match op with
  | .add | .or | .xor => 0
  | .and => 0xFFFFFFFF
  | .min => match ty with | .i32 => 0x7FFFFFFF | .n32 => 0xFFFFFFFF | _ => fp32.infCode
  | .max => match ty with | .i32 => 0x80000000 | .n32 => 0 | _ => fp32.infCode + 2 ^ 31

/-- REDUX of a list of 32-bit values that is not empty (R283), under the MODE of the lane's group. -/
def reduceWords (op : ROp) (ty : Ty) (mode : Word) (xs : List Nat) : Nat :=
  if ty = .f32 then
    let vs := xs.map (fun x => fp32.decode (fp32.flushBits (ftzOf mode fp32) x))
    match op with
    | .add => fp32.roundZ (ftzOf mode fp32) (rndArith mode) 0 (.sum (rndArith mode) vs)
    | .min => fp32.round 0 0 (vs.foldl (fminmax false) (.nan false))
    | _ => fp32.round 0 0 (vs.foldl (fminmax true) (.nan false))
  else
    match xs with
    | [] => ropIdentity op ty
    | x :: t => (t.foldl (fun a y => opApply (ropAop op) ty a (dw y)) (dw x)).toNat % 2 ^ 32

/-- REDUX or SCAN of a list that may be empty. -/
def combineWords (op : ROp) (ty : Ty) (mode : Word) (xs : List Nat) : Nat :=
  if xs.isEmpty then ropIdentity op ty else reduceWords op ty mode xs

end Sys2Proof.Machine
end

