-- ==== Sys2Proof/WellFormed.lean ====
section
/-! DEFINITION. What makes an instruction legal beside its shape: types, register pairs, ranges (rows 3 and 4 of
R230). The decoder refuses by name every word whose instruction fails one of these checks. -/

namespace Sys2Proof

/-- 64-bit types of R225. -/
def Ty.is64 : Ty → Bool
  | .b64 | .i64 | .n64 => true
  | _ => false

/-- Signed integer types. -/
def Ty.signed : Ty → Bool
  | .i8 | .i16 | .i32 | .i64 => true
  | _ => false

/-- The integer arithmetic types of R247. -/
def Ty.intArith : Ty → Bool
  | .i32 | .n32 | .i64 | .n64 => true
  | _ => false

/-- The raw types of R248. -/
def Ty.raw : Ty → Bool
  | .b32 | .b64 => true
  | _ => false

/-- The five float types of R261. -/
def Ty.float5 : Ty → Bool
  | .f32 | .f16 | .bf16 | .f16x2 | .bf16x2 => true
  | _ => false

/-- The three scalar float types of R264, FCMP. -/
def Ty.float3 : Ty → Bool
  | .f32 | .f16 | .bf16 => true
  | _ => false

/-- The load types of R291. -/
def Ty.loadTy : Ty → Bool
  | .b8 | .b16 | .b32 | .b64 | .i8 | .i16 | .n8 | .n16 => true
  | _ => false

/-- The store types of R291. -/
def Ty.storeTy : Ty → Bool
  | .b8 | .b16 | .b32 | .b64 => true
  | _ => false

/-- Check `even`: a V register of a 64-bit operand is even (R222). -/
def vEven (wide : Bool) (n : BitVec 8) : Bool := !wide || !n.getLsbD 0

/-- Check `even` on a source. -/
def VSrc.pairOk (wide : Bool) : VSrc → Bool
  | .reg n => vEven wide n
  | .latch _ => true

/-- Check `even` on an S register. -/
def sEven (wide : Bool) (n : BitVec 6) : Bool := !wide || !n.getLsbD 0

/-- Check `even` on an operand. -/
def Opnd.pairOk (wide : Bool) : Opnd → Bool
  | .v x => x.pairOk wide
  | .s n => sEven wide n
  | .imm _ => true

/-- Check `even` on a uniform operand. -/
def SOp.pairOk (wide : Bool) : SOp → Bool
  | .s n => sEven wide n
  | .imm _ => true

/-- Check `even` on a base. -/
def Base.pairOk (wide : Bool) : Base → Bool
  | .v x => x.pairOk wide
  | .s n => sEven wide n

/-- Check `noImm`: the operand is a register (R234, b of the ternary shapes; R251, V or S only; R261). -/
def Opnd.isReg : Opnd → Bool
  | .imm _ => false
  | _ => true

/-- Check `vOrImm`: format X has no S operand (R224). -/
def Opnd.notS : Opnd → Bool
  | .s _ => false
  | _ => true

/-- Check `predicate destination`: 7 is no destination (R222). -/
def predDst (p : BitVec 3) : Bool := p != 7

/-- The operand types of an atomic operator (R299). -/
def AOp.tyOk : AOp → Ty → Bool
  | .add, .i32 | .add, .n32 | .add, .i64 | .add, .n64 | .add, .f32 | .add, .f16x2 | .add, .bf16x2 => true
  | .min, .i32 | .min, .n32 | .min, .i64 | .min, .n64 | .min, .f32 => true
  | .max, .i32 | .max, .n32 | .max, .i64 | .max, .n64 | .max, .f32 => true
  | .and, .b32 | .and, .b64 | .or, .b32 | .or, .b64 | .xor, .b32 | .xor, .b64 => true
  | .exch, .b32 | .exch, .b64 | .cas, .b32 | .cas, .b64 => true
  | _, _ => false

/-- The types of an integer compare (R255). -/
def icmpTyOk (ty : Ty) (c : Cond) : Bool :=
  ty.intArith || (ty.raw && (c == .eq || c == .ne))

/-- The operand types of REDUX and SCAN (R283). -/
def ROp.tyOk : ROp → Ty → Bool
  | .add, .i32 | .add, .n32 | .add, .f32 => true
  | .min, .i32 | .min, .n32 | .min, .f32 => true
  | .max, .i32 | .max, .n32 | .max, .f32 => true
  | .and, .b32 | .or, .b32 | .xor, .b32 => true
  | _, _ => false

/-- The float formats among the type codes, with their width rank (R273): equal rank is equal width. -/
def Ty.floatRank : Ty → Option Nat
  | .f32 => some 3
  | .f16 | .bf16 => some 2
  | .e4m3 | .e5m2 => some 1
  | .e2m1 => some 0
  | _ => none

/-- Integer types of a conversion (R273). -/
def Ty.isInt : Ty → Bool
  | .i8 | .i16 | .i32 | .i64 | .n8 | .n16 | .n32 | .n64 => true
  | _ => false

/-- SQ types. -/
def Ty.isSq : Ty → Bool
  | .sq2 | .sq4 | .sq7 => true
  | _ => false

/-- The type pairs that CVT accepts (R273). -/
def cvtPair (dt st : Ty) : Bool :=
  (dt.isInt || dt.floatRank.isSome) && (st.isInt || st.floatRank.isSome)

/-- Modifier bits only for operands that the instruction reads (R262). -/
def FMods.only (m : FMods) (b c : Bool) : Bool :=
  (b || (!m.negB && !m.absB)) && (c || !m.negC)

/-- No modifier at all. -/
def FMods.none (m : FMods) : Bool :=
  !m.negA && !m.absA && !m.negB && !m.absB && !m.negC

/-- Subgroup size field of major 0x09: 1 to 5, and 6 which row 5 of R230 traps (R226). -/
def szLegal (s : BitVec 3) : Bool := s != 0 && s != 7

/-- S register quad (R315). -/
def s4 (n : BitVec 6) : Bool := n.extractLsb' 0 2 == 0

/-- A 64-bit access type needs an even data register. -/
def IUn.legal (o : IUn) (tys : Ty → Bool) (sat narrow : Bool) : Bool :=
  tys o.ty && (narrow || vEven o.ty.is64 o.d) && o.a.pairOk o.ty.is64 && (sat || !o.m)

def IBin.legal (o : IBin) (tys : Ty → Bool) (sat count imm : Bool) : Bool :=
  tys o.ty && vEven o.ty.is64 o.d && o.a.pairOk o.ty.is64 && o.b.pairOk (o.ty.is64 && !count)
    && (sat || !o.m) && (imm || o.b.isReg)

def ITern.legal (o : ITern) (tys : Ty → Bool) (m count imm : Bool) : Bool :=
  tys o.ty && vEven o.ty.is64 o.d && o.a.pairOk o.ty.is64 && o.b.isReg && o.b.pairOk o.ty.is64
    && o.c.pairOk (o.ty.is64 && !count) && (m || !o.m) && (imm || o.c.isReg)

def SBin.legal (o : SBin) (tys : Ty → Bool) (sat count : Bool) : Bool :=
  tys o.ty && sEven o.ty.is64 o.d && sEven o.ty.is64 o.a && o.b.pairOk (o.ty.is64 && !count) && (sat || !o.m)

def AArg.legal (wide : Bool) : AArg → Bool
  | .one b _ => b.pairOk wide
  | .cas c n => c.pairOk wide && n.pairOk wide

/-- Operator and argument form agree: CAS has two values (R286). -/
def AArg.fits : AOp → AArg → Bool
  | .cas, .cas _ _ => true
  | .cas, .one _ _ => false
  | _, .one _ _ => true
  | _, .cas _ _ => false

/-- RED's operators (R229). -/
def AOp.redOk : AOp → Bool
  | .exch | .cas => false
  | _ => true

/-- The XATOM data register: CAS reads consecutive registers (R337). -/
def xatomData (op : AOp) (ty : Ty) : VSrc → Bool
  | .latch _ => true
  | .reg n =>
    match op with
    | .cas => if ty.is64 then n.extractLsb' 0 2 == 0 else !n.getLsbD 0
    | _ => vEven ty.is64 n

/-- Row 3 of R230 on the typed instruction: the checks that the shape does not already make. A step that is no
instruction has none. -/
def Instr.legal : Instr → Bool
  | .assert _ s _ => sEven true s
  | .iadd o | .isub o | .imul o => o.legal Ty.intArith true false true
  | .imulhi o | .imin o | .imax o => o.legal Ty.intArith false false true
  | .iadd3 o | .imad o => o.legal Ty.intArith true false true
  | .iabs o | .ineg o => o.legal (fun t => t == .i32 || t == .i64) true false
  | .and o | .or o | .xor o => o.legal Ty.raw false false true
  | .not o => o.legal Ty.raw false false
  | .lop3 o => o.ty.raw && vEven o.ty.is64 o.d && o.a.pairOk o.ty.is64 && o.b.isReg && o.b.pairOk o.ty.is64
  | .shl o | .shr o | .rotl o => o.legal Ty.raw false true true
  | .sar o => o.legal (fun t => t == .i32 || t == .i64) false true true
  | .funnel o => o.legal Ty.raw true true true
  | .bfx o => o.legal Ty.intArith false true false
  | .bfi o => o.legal Ty.raw false true false
  | .popc o | .clz o | .ctz o => o.legal Ty.raw false true
  | .brev o => o.legal Ty.raw false false
  | .permb o => o.legal (fun t => t == .b32) false false true
  | .sel o => o.ty.raw && vEven o.ty.is64 o.d && o.a.pairOk o.ty.is64 && o.b.pairOk o.ty.is64
  | .mov o => o.ty.raw && vEven o.ty.is64 o.d && o.b.isReg && o.b.pairOk o.ty.is64
  | .movi o => o.ty.intArith && vEven o.ty.is64 o.d && o.k == 0
  | .movk o => o.ty.raw && vEven o.ty.is64 o.d && (o.ty.is64 || o.k.toNat < 4)
  | .icmp o => icmpTyOk o.ty o.cond && predDst o.p && o.a.pairOk o.ty.is64 && o.b.pairOk o.ty.is64
  | .pset o => predDst o.p && (o.op == .and || o.op == .or || o.op == .xor)
  | .pmov o => predDst o.p
  | .sadd o | .ssub o => o.legal Ty.intArith true false
  | .smul o => o.legal Ty.intArith false false
  | .sand o | .sor o | .sxor o => o.legal Ty.raw false false
  | .sshl o => o.legal Ty.raw false true
  | .sshr o => o.legal (fun t => t.raw || t == .i32 || t == .i64) false true
  | .smov o => o.ty.raw && sEven o.ty.is64 o.d && o.b.pairOk o.ty.is64
  | .smovi o => o.ty.intArith && sEven o.ty.is64 o.d && (match o.b with | .s _ => false | .imm _ => true)
  | .scmp o => icmpTyOk o.ty o.cond && sEven o.ty.is64 o.a && o.b.pairOk o.ty.is64
  | .movsr o => vEven (o.name == .clock) o.d
  | .fadd o | .fsub o | .fmul o | .fmin o | .fmax o => o.ty.float5 && o.b.isReg && o.mods.only true false
  | .ffma o => o.ty.float5 && o.b.isReg && o.c.isReg
  | .fcmp o => o.ty.float3 && o.b.isReg && predDst o.p
  | .fclass o => o.ty.float5 && o.mods.none
  | .frnd o => o.ty.float5 && o.rm != some .rsr
  | .frcp o | .frsq o | .fsqrt o | .fexp2 o | .flog2 o | .fsin o | .fcos o | .ftanh o =>
    o.ty.float5 && o.mods.only false false
  | .cvt o => cvtPair o.dt o.st && o.rm != some .rsr && vEven o.dt.is64 o.d && o.a.pairOk o.st.is64
  | .cvtsr o => (o.dt == .f16 || o.dt == .bf16 || o.dt == .e4m3 || o.dt == .e5m2 || o.dt == .e2m1)
      && o.st == .f32 && o.rm == some .rne
  | .qenc o => o.dt.isSq && o.st == .f32
  | .qdec o => o.st.isSq && o.dt == .f32 && o.rm == some .rne
  | .pack2 o => o.dt == .f16x2 || o.dt == .bf16x2
  | .unpack2 o => (o.st == .f16x2 || o.st == .bf16x2) && o.dt == .f32 && o.rm == some .rne && vEven true o.d
  | .shfl o => (o.ty.storeTy) && vEven o.ty.is64 o.d && o.a.pairOk o.ty.is64 && o.b.notS && szLegal o.sz
  | .vote o => predDst o.p && szLegal o.sz
  | .ballot o => szLegal o.sz
  | .redux o => o.op.tyOk o.ty && szLegal o.sz && !o.exc
  | .scan o => o.op.tyOk o.ty && szLegal o.sz
  | .matchLanes o => o.ty.raw && o.a.pairOk o.ty.is64 && szLegal o.sz
  | .bcast o => o.ty.raw && vEven o.ty.is64 o.d && o.a.pairOk o.ty.is64 && szLegal o.sz
  | .shfl16 o => (o.ty.storeTy) && vEven o.ty.is64 o.d && o.a.pairOk o.ty.is64 && o.b.notS && o.sz == 0
  | .vote16 o => predDst o.p && o.sz == 0 && o.op != .uni
  | .ballot16 o => o.sz == 0
  | .ld o => o.ty.loadTy && vEven o.ty.is64 o.d && o.base.pairOk true
  | .ldl o => o.ty.loadTy && vEven o.ty.is64 o.d
  | .st o => o.ty.storeTy && o.data.pairOk o.ty.is64 && o.base.pairOk true
  | .stl o => o.ty.storeTy && o.data.pairOk o.ty.is64
  | .ldx o => (o.ty == .f32 || o.ty == .i32) && o.base.pairOk true
  | .stx o => (o.ty == .f32 || o.ty == .i32) && o.base.pairOk true
  | .accrd o => o.ty.raw && vEven o.ty.is64 o.d
  | .accwr o => o.ty.raw && o.data.pairOk o.ty.is64
  | .pref o => o.base.pairOk true
  | .cctlIv _ b _ => b.pairOk true
  | .atom o => o.op.tyOk o.ty && vEven o.ty.is64 o.d && o.base.pairOk true && o.arg.legal o.ty.is64 && o.arg.fits o.op
  | .atoml o => o.op.tyOk o.ty && vEven o.ty.is64 o.d && o.arg.legal o.ty.is64 && o.arg.fits o.op
  | .red o => o.op.redOk && o.op.tyOk o.ty && o.base.pairOk true && o.data.pairOk o.ty.is64
  | .bararrive o | .bartest o => !o.wm
  | .cpy o =>
    (match o.dir with
      | .gl => o.src.pairOk true
      | .lg => o.dst.pairOk true
      | .ll => true)
    && (match o.cnt with | .v _ => true | .imm i => i.toNat ≤ 32)
  | .tcpy o => s4 o.org && s4 o.dense
  | .cpywait _ _ m => sEven true m
  | .tagff _ _ m => sEven true m
  | .tdrain o => s4 o.desc && s4 o.org && s4 o.org2
  | .xld o => o.ty.loadTy && vEven o.ty.is64 o.d
  | .xst o => o.ty.storeTy && o.data.pairOk o.ty.is64
  | .xatom o => o.op.tyOk o.ty && xatomData o.op o.ty o.data
      && (if o.h.k.sett.isSome then vEven o.ty.is64 o.d else o.d == 0 && !o.wb.nowb && o.wb.ldst == 0)
  | .xsend _ _ _ d _ => s4 d
  | .fencef _ _ _ _ n => n != 0
  | .waymark _ d vg => sEven true d && d.toNat ≤ 58 && vg.toNat ≤ 32
  | .legrd _ d => sEven true d
  | .grow _ n | .shrink _ n => n != 0
  | .locq _ k _ a => sEven (k == .addr) a
  | _ => true

/-- Size 64, which row 5 of R230 traps (R226). -/
def Instr.size64 : Instr → Bool
  | .shfl o => o.sz == 6
  | .vote o => o.sz == 6
  | .ballot o => o.sz == 6
  | .redux o | .scan o => o.sz == 6
  | .matchLanes o => o.sz == 6
  | .bcast o => o.sz == 6
  | _ => false

/-- The instructions that write a V or S register and so may set a token (R219). -/
def Instr.writesReg : Instr → Bool
  | .iadd _ | .isub _ | .iadd3 _ | .imul _ | .imulhi _ | .imad _ | .imin _ | .imax _ | .iabs _ | .ineg _ => true
  | .and _ | .or _ | .xor _ | .not _ | .lop3 _ | .shl _ | .shr _ | .sar _ | .rotl _ | .funnel _ => true
  | .bfx _ | .bfi _ | .popc _ | .clz _ | .ctz _ | .brev _ | .permb _ | .sel _ | .mov _ | .movi _ | .movk _ => true
  | .sadd _ | .ssub _ | .smul _ | .sand _ | .sor _ | .sxor _ | .sshl _ | .sshr _ | .smov _ | .smovi _ | .scmp _ => true
  | .movsr _ | .fadd _ | .fsub _ | .fmul _ | .ffma _ | .fmin _ | .fmax _ | .fclass _ | .frnd _ => true
  | .frcp _ | .frsq _ | .fsqrt _ | .fexp2 _ | .flog2 _ | .fsin _ | .fcos _ | .ftanh _ => true
  | .cvt _ | .cvtsr _ | .qenc _ | .qdec _ | .pack2 _ | .unpack2 _ => true
  | .shfl _ | .ballot _ | .redux _ | .scan _ | .matchLanes _ | .bcast _ | .shfl16 _ | .ballot16 _ => true
  | .ld _ | .ldx _ | .ldl _ | .accrd _ | .atom _ | .atoml _ | .bararrive _ | .barwait _ | .bartest _ => true
  | .tagff _ _ _ | .tagrd _ _ _ | .tstat _ _ | .xld _ | .xatom _ | .slotrsv _ _ _ _ | .legrd _ _ => true
  | .locq _ _ _ _ | .launch _ _ _ _ | .ctlrd _ _ _ | .traprd _ _ _ => true
  | _ => false

/-- The slot control of an instruction, none for a step that is no instruction. -/
def Instr.ctl : Instr → Option Ctl
  | .nop k | .nextSeg k _ | .nextp k _ _ _ | .nextx k _ _ | .call k _ _ | .ret k _ | .exit k => some k
  | .waitTok h _ _ | .waitClk h _ _ | .trap h _ | .assert h _ _ | .bkpt h _ => some h.k
  | .iadd o | .isub o | .imul o | .imulhi o | .imin o | .imax o | .and o | .or o | .xor o | .shl o | .shr o
  | .sar o | .rotl o | .bfx o => some o.h.k
  | .iadd3 o | .imad o | .funnel o | .bfi o | .permb o => some o.h.k
  | .iabs o | .ineg o | .not o | .popc o | .clz o | .ctz o | .brev o => some o.h.k
  | .lop3 o => some o.h.k
  | .sel o => some o.h.k
  | .mov o => some o.h.k
  | .movi o | .movk o => some o.h.k
  | .icmp o => some o.h.k
  | .pset o => some o.h.k
  | .pmov o => some o.h.k
  | .sadd o | .ssub o | .smul o | .sand o | .sor o | .sxor o | .sshl o | .sshr o => some o.k
  | .smov o | .smovi o => some o.k
  | .scmp o => some o.k
  | .movsr o => some o.h.k
  | .fadd o | .fsub o | .fmul o | .fmin o | .fmax o => some o.h.k
  | .ffma o => some o.h.k
  | .fcmp o => some o.h.k
  | .fclass o | .frcp o | .frsq o | .fsqrt o | .fexp2 o | .flog2 o | .fsin o | .fcos o | .ftanh o => some o.h.k
  | .frnd o => some o.h.k
  | .cvt o | .cvtsr o | .qenc o | .qdec o | .unpack2 o => some o.h.k
  | .pack2 o => some o.h.k
  | .shfl o | .shfl16 o => some o.h.k
  | .vote o | .vote16 o => some o.h.k
  | .ballot o | .ballot16 o => some o.h.k
  | .redux o | .scan o => some o.h.k
  | .matchLanes o => some o.h.k
  | .bcast o => some o.h.k
  | .ld o | .ldl o => some o.h.k
  | .st o | .stl o => some o.h.k
  | .ldx o => some o.h.k
  | .stx o => some o.h.k
  | .pref o => some o.h.k
  | .cctlIv h _ _ | .cctlIvall h => some h.k
  | .accrd o => some o.h.k
  | .accwr o => some o.h.k
  | .atom o | .atoml o => some o.h.k
  | .red o => some o.h.k
  | .fence o => some o.h.k
  | .bridge o => some o.h.k
  | .barinit o => some o.h.k
  | .bararrive o | .barwait o | .bartest o => some o.h.k
  | .blksync o => some o.h.k
  | .cpy o => some o.h.k
  | .tcpy o => some o.h.k
  | .cpywait h _ _ | .tagff h _ _ | .tagrd h _ _ | .tcfg h _ _ | .tzero h _ _ | .tmma h _ _ | .tacc h _ _ _ _
  | .tstat h _ => some h.k
  | .tld o | .tst o => some o.h.k
  | .tdrain o => some o.h.k
  | .xld o => some o.h.k
  | .xst o => some o.h.k
  | .xatom o => some o.h.k
  | .xsend h _ _ _ _ | .cvopen h _ _ | .cvclose h _ | .fencef h _ _ _ _ | .slotrsv h _ _ _ | .slotrel h _
  | .slotrelFault h _ => some h.k
  | .chunk k _ => some k
  | .waymark k _ _ => some k
  | .legrd h _ | .irrev h => some h.k
  | .grow k _ | .shrink k _ => some k
  | .locq h _ _ _ => some h.k
  | .launch k _ _ _ | .prio k _ | .rfeRegion k | .rfeNext k => some k
  | .ctlrd h _ _ | .ctlwr h _ _ | .traprd h _ _ => some h.k
  | _ => none

/-- Row 4 of R230 on the typed instruction: a token only where a register is written (R219), and always in XLD
(R338). The LSRC rule is the decoder's. -/
def Instr.ctlLegal (i : Instr) : Bool :=
  match i.ctl with
  | none => true
  | some k =>
    (k.sett.isNone || i.writesReg) && (match i with | .xld _ => k.sett.isSome | _ => true)

/-- A well-formed instruction: rows 3, 4 and 5 of R230 find nothing. -/
def Instr.wf (i : Instr) : Bool := i.legal && i.ctlLegal && !i.size64

end Sys2Proof
end

