-- ==== Sys2Proof/Decode.lean ====
section
/-! DEFINITION. The decoder of the Voino native encoding, and the encoder after it. A word and its slot control
are split into the fields of R218 and R220 once; each format's reader turns them into a typed instruction; the
checks of R230 rows 2 to 5 follow in that order. A word that fails one becomes a named step that says which. -/

namespace Sys2Proof

/-! ## Fields (R218, R220) -/

/-- The fields of an instruction word and of its slot control. -/
structure Raw where
  major : BitVec 6
  minor : BitVec 6
  pneg : Bool
  pred : BitVec 3
  dst : BitVec 8
  src0 : BitVec 8
  src1 : BitVec 8
  src2 : BitVec 8
  nowb : Bool
  ldst : BitVec 2
  mod : BitVec 13
  lsrc : BitVec 3
  sett : Bool
  tidx : BitVec 3
  wait : BitVec 8
  yield : Bool
  stall : BitVec 4
  deriving DecidableEq, Repr

/-- Split a word and a slot control into their fields. -/
def Raw.split (c : BitVec 20) (w : Dword) : Raw where
  major := w.extractLsb' 58 6
  minor := w.extractLsb' 52 6
  pneg := w.getLsbD 51
  pred := w.extractLsb' 48 3
  dst := w.extractLsb' 40 8
  src0 := w.extractLsb' 32 8
  src1 := w.extractLsb' 24 8
  src2 := w.extractLsb' 16 8
  nowb := w.getLsbD 15
  ldst := w.extractLsb' 13 2
  mod := w.extractLsb' 0 13
  lsrc := c.extractLsb' 17 3
  sett := c.getLsbD 16
  tidx := c.extractLsb' 13 3
  wait := c.extractLsb' 5 8
  yield := c.getLsbD 4
  stall := c.extractLsb' 0 4

/-- The instruction word of the fields. -/
def Raw.word (r : Raw) : Dword :=
  r.major ++ (r.minor ++ (BitVec.ofBool r.pneg ++ (r.pred ++ (r.dst ++ (r.src0 ++ (r.src1 ++ (r.src2 ++
    (BitVec.ofBool r.nowb ++ (r.ldst ++ r.mod)))))))))

/-- The slot control of the fields. -/
def Raw.ctl (r : Raw) : BitVec 20 :=
  r.lsrc ++ (BitVec.ofBool r.sett ++ (r.tidx ++ (r.wait ++ (BitVec.ofBool r.yield ++ r.stall))))

/-- What a reader answers: the instruction, and which source fields it uses as V register reads (R219). -/
abbrev Parsed := Option (Instr × BitVec 3)

/-! ## Codes -/

/-- Type codes of R225. -/
def tyOf (c : BitVec 5) : Option Ty :=
  match c.toNat with
  | 0 => some .b8 | 1 => some .b16 | 2 => some .b32 | 3 => some .b64 | 4 => some .i8 | 5 => some .i16
  | 6 => some .i32 | 7 => some .i64 | 8 => some .n8 | 9 => some .n16 | 10 => some .n32 | 11 => some .n64
  | 12 => some .f32 | 13 => some .f16 | 14 => some .bf16 | 15 => some .e4m3 | 16 => some .e5m2
  | 17 => some .e2m1 | 18 => some .sq2 | 19 => some .sq4 | 20 => some .sq7 | 21 => some .f16x2
  | 22 => some .bf16x2
  | _ => none

/-- Domain codes of R69. -/
def domOf (c : BitVec 3) : Option Dom :=
  match c.toNat with
  | 0 => some .ub | 1 => some .rc | 2 => some .co | 3 => some .tso | 4 => some .sc
  | _ => none

/-- Scope codes of R71. -/
def scopeOf (c : BitVec 3) : Option Scope :=
  match c.toNat with
  | 0 => some .grp | 1 => some .blk | 2 => some .clu | 3 => some .dev | 4 => some .fab | 5 => some .sys
  | _ => none

/-- Order marks of R224. -/
def ordOf (c : BitVec 2) : Ord :=
  match c.toNat with
  | 0 => .none | 1 => .acq | 2 => .rel | _ => .ar

/-- Conditions of R255. -/
def condOf (c : BitVec 3) : Option Cond :=
  match c.toNat with
  | 0 => some .eq | 1 => some .ne | 2 => some .lt | 3 => some .le | 4 => some .gt | 5 => some .ge
  | _ => none

/-- Conditions of R266. -/
def fcondOf (c : BitVec 3) : FCond :=
  match c.toNat with
  | 0 => .eq | 1 => .ne | 2 => .lt | 3 => .le | 4 => .gt | 5 => .ge | 6 => .num | _ => .nan

/-- Combinations of R255. -/
def combOf (c : BitVec 2) : Option Comb :=
  match c.toNat with
  | 0 => some .none | 1 => some .pand | 2 => some .por
  | _ => none

/-- The RM field of format K (R224): 7 is the RND of MODE. -/
def rmOf (c : BitVec 3) : Option (Option Rnd) :=
  match c.toNat with
  | 0 => some (some .rne) | 1 => some (some .rtz) | 2 => some (some .rpi) | 3 => some (some .rmi)
  | 4 => some (some .rsr) | 7 => some none
  | _ => none

/-- Atomic operators of R229. -/
def aopOf (c : BitVec 3) : AOp :=
  match c.toNat with
  | 0 => .add | 1 => .min | 2 => .max | 3 => .and | 4 => .or | 5 => .xor | 6 => .exch | _ => .cas

/-- Operators of R283. -/
def ropOf (c : BitVec 4) : Option ROp :=
  match c.toNat with
  | 0 => some .add | 1 => some .min | 2 => some .max | 3 => some .and | 4 => some .or | 5 => some .xor
  | _ => none

/-- Operators of PSET (R256). -/
def psetOf (c : BitVec 2) : Option ROp :=
  match c.toNat with
  | 0 => some .and | 1 => some .or | 2 => some .xor
  | _ => none

/-- Shuffle modes of R281. -/
def shModeOf (c : BitVec 4) : Option ShMode :=
  match c.toNat with
  | 0 => some .idx | 1 => some .up | 2 => some .down | 3 => some .xor
  | _ => none

/-- Vote operators of R282. -/
def voteOf (c : BitVec 2) : Option VoteOp :=
  match c.toNat with
  | 0 => some .all | 1 => some .any | 2 => some .uni
  | _ => none

/-- Directions of R318. -/
def cpyDirOf (c : BitVec 2) : Option CpyDir :=
  match c.toNat with
  | 0 => some .gl | 1 => some .lg | 2 => some .ll
  | _ => none

/-- Special values of R260. -/
def srNameOf (c : BitVec 8) : Option SrName :=
  match c.toNat with
  | 0 => some .lane | 1 => some .group | 2 => some .blockx | 3 => some .blocky | 4 => some .blockz
  | 5 => some .stage | 6 => some .node | 7 => some .core | 8 => some .clock | 9 => some .leg
  | _ => none

/-- Kinds of LOCQ (R352). -/
def locKindOf (c : BitVec 2) : Option LocKind :=
  match c.toNat with
  | 0 => some .addr | 1 => some .core | 2 => some .ent
  | _ => none

/-- Control registers of R360. -/
def ctlRegOf (c : BitVec 8) : Option CtlReg :=
  match c.toNat with
  | 0 => some .mode | 1 => some .trapinfo | 2 => some .floor | 3 => some .legid
  | _ => none

/-! ## Readers of single fields -/

/-- A field that must be zero (R224). -/
def zero {n : Nat} (f : BitVec n) : Option Unit := if f = 0 then some () else none

/-- A flag that must be clear. -/
def off (b : Bool) : Option Unit := if b then none else some ()

/-- A flag that must be set. -/
def on (b : Bool) : Option Unit := if b then some () else none

/-- The low n bits of a field whose other bits must be zero (R222). -/
def narrow (n : Nat) (f : BitVec 8) : Option (BitVec n) :=
  if f.toNat < 2 ^ n then some (BitVec.ofNat n f.toNat) else none

/-- The LSRC bit of source field k. -/
def Raw.latched (r : Raw) (k : Nat) : Bool := r.lsrc.getLsbD k

/-- A V register source in field k: the register, or the latch its LSRC bit asks for (R222). -/
def Raw.v (r : Raw) (k : Nat) (f : BitVec 8) : Option VSrc :=
  if r.latched k then (narrow 2 f).map .latch else some (.reg f)

/-- The slot control without its LSRC bits. -/
def Raw.k (r : Raw) : Ctl where
  stall := r.stall
  yield := r.yield
  wait := r.wait
  sett := if r.sett then some r.tidx else none

/-- Guard and slot control. -/
def Raw.hd (r : Raw) : Hd := ⟨⟨r.pneg, r.pred⟩, r.k⟩

/-- The guard that R221 requires of what acts on a whole group. -/
def Raw.pt (r : Raw) : Option Ctl := if r.pneg = false ∧ r.pred = 7 then some r.k else none

/-- Latch fields of an instruction that writes a V register. -/
def Raw.wb (r : Raw) : Wb := ⟨r.nowb, r.ldst⟩

/-- Latch fields of an instruction that writes none are zero (R223). -/
def Raw.noWb (r : Raw) : Option Unit := if r.nowb = false ∧ r.ldst = 0 then some () else none

/-- The S register of a field. -/
def sreg (f : BitVec 8) : Option (BitVec 6) := narrow 6 f

/-- A predicate source with its negation. -/
def psrc (neg : Bool) (f : BitVec 8) : Option PSrc := (narrow 3 f).map (PSrc.mk neg)

/-! ## Format A and U fields -/

/-- MOD bit 12 of formats A, U and X. -/
def Raw.imm (r : Raw) : Bool := r.mod.getLsbD 12
/-- MOD [11:7] of formats A, U and X. -/
def Raw.ty (r : Raw) : Option Ty := tyOf (r.mod.extractLsb' 7 5)
/-- The type field is zero. -/
def Raw.noTy (r : Raw) : Option Unit := zero (r.mod.extractLsb' 7 5)
/-- MOD bit 6 of format A. -/
def Raw.s2 (r : Raw) : Bool := r.mod.getLsbD 6
/-- MOD bit 5 of format A. -/
def Raw.s1 (r : Raw) : Bool := r.mod.getLsbD 5
/-- MOD [4:0] of formats A and U. -/
def Raw.opm (r : Raw) : BitVec 5 := r.mod.extractLsb' 0 5

/-- Operand b of the binary shape (R234), with the source fields it reads. -/
def Raw.opB (r : Raw) : Option (Opnd × BitVec 3) :=
  if r.imm then do
    off r.s1; zero r.src1
    some (.imm r.src2, 0)
  else if r.s1 then do
    zero r.src2
    let n ← sreg r.src1
    some (.s n, 0)
  else do
    zero r.src2
    let x ← r.v 1 r.src1
    some (.v x, 2)

/-- Operand b of the ternary and LOP3 shapes: never the immediate. -/
def Raw.opB3 (r : Raw) : Option (Opnd × BitVec 3) :=
  if r.s1 then do
    let n ← sreg r.src1
    some (.s n, 0)
  else do
    let x ← r.v 1 r.src1
    some (.v x, 2)

/-- Operand c of the ternary shape. -/
def Raw.opC (r : Raw) : Option (Opnd × BitVec 3) :=
  if r.imm then do
    off r.s2
    some (.imm r.src2, 0)
  else if r.s2 then do
    let n ← sreg r.src2
    some (.s n, 0)
  else do
    let x ← r.v 2 r.src2
    some (.v x, 4)

/-- Unary shape with OPMOD[0] in `m`. -/
def Raw.un (r : Raw) (f : IUn → Instr) : Parsed := do
  let ty ← r.ty
  off r.imm; off r.s1; off r.s2; zero r.src1; zero r.src2; zero (r.opm.extractLsb' 1 4)
  let a ← r.v 0 r.src0
  some (f ⟨r.hd, r.wb, ty, r.dst, a, r.opm.getLsbD 0⟩, 1)

/-- Binary shape. -/
def Raw.bin (r : Raw) (f : IBin → Instr) : Parsed := do
  let ty ← r.ty
  off r.s2; zero (r.opm.extractLsb' 1 4)
  let a ← r.v 0 r.src0
  let (b, u) ← r.opB
  some (f ⟨r.hd, r.wb, ty, r.dst, a, b, r.opm.getLsbD 0⟩, 1 ||| u)

/-- Ternary shape. -/
def Raw.tern (r : Raw) (f : ITern → Instr) : Parsed := do
  let ty ← r.ty
  zero (r.opm.extractLsb' 1 4)
  let a ← r.v 0 r.src0
  let (b, u) ← r.opB3
  let (c, u') ← r.opC
  some (f ⟨r.hd, r.wb, ty, r.dst, a, b, c, r.opm.getLsbD 0⟩, 1 ||| u ||| u')

/-- Modifiers of R262. -/
def modsOf (o : BitVec 5) : FMods := ⟨o.getLsbD 0, o.getLsbD 1, o.getLsbD 2, o.getLsbD 3, o.getLsbD 4⟩

/-- Unary float shape. -/
def Raw.fun1 (r : Raw) (f : FUn → Instr) : Parsed := do
  let ty ← r.ty
  off r.imm; off r.s1; off r.s2; zero r.src1; zero r.src2
  let a ← r.v 0 r.src0
  some (f ⟨r.hd, r.wb, ty, r.dst, a, modsOf r.opm⟩, 1)

/-- Binary float shape. -/
def Raw.fbin (r : Raw) (f : FBin → Instr) : Parsed := do
  let ty ← r.ty
  off r.s2
  let a ← r.v 0 r.src0
  let (b, u) ← r.opB
  some (f ⟨r.hd, r.wb, ty, r.dst, a, b, modsOf r.opm⟩, 1 ||| u)

/-- Operand b of the uniform instructions (R259). -/
def Raw.opU (r : Raw) : Option SOp :=
  if r.imm then do
    zero r.src1
    some (.imm r.src2)
  else do
    zero r.src2
    let n ← sreg r.src1
    some (.s n)

/-- Uniform binary instruction with OPMOD[0] in `m`. -/
def Raw.sbin (r : Raw) (f : SBin → Instr) : Parsed := do
  let k ← r.pt
  r.noWb
  let ty ← r.ty
  off r.s1; off r.s2; zero (r.opm.extractLsb' 1 4)
  let d ← sreg r.dst
  let a ← sreg r.src0
  let b ← r.opU
  some (f ⟨k, ty, d, a, b, r.opm.getLsbD 0⟩, 0)

/-- Uniform move. -/
def Raw.smov (r : Raw) (f : SMov → Instr) : Parsed := do
  let k ← r.pt
  r.noWb
  let ty ← r.ty
  off r.s1; off r.s2; zero r.opm; zero r.src0
  let d ← sreg r.dst
  let b ← r.opU
  some (f ⟨k, ty, d, b⟩, 0)

/-! ## Majors 0x00 to 0x05 -/

/-- Major 0x00, format T (R237). -/
def Raw.major00 (r : Raw) : Parsed :=
  match r.minor.toNat with
  | 1 => do
    r.noWb; zero r.dst; zero r.src0; zero r.src2; zero r.mod
    let k ← r.pt
    some (.nextSeg k r.src1, 0)
  | 2 => do
    r.noWb; zero r.dst; zero r.mod
    let k ← r.pt
    let p ← narrow 3 r.src0
    some (.nextp k p r.src1 r.src2, 0)
  | 3 => do
    r.noWb; zero r.dst; zero r.src1; zero r.mod
    let k ← r.pt
    let s ← sreg r.src0
    some (.nextx k s r.src2, 0)
  | 4 => do
    r.noWb; zero r.dst; zero r.src0; zero r.mod
    let k ← r.pt
    some (.call k r.src1 r.src2, 0)
  | 5 => do
    r.noWb; zero r.dst; zero r.src0; zero r.src1; zero r.mod
    let k ← r.pt
    some (.ret k r.src2, 0)
  | 6 => do
    r.noWb; zero r.dst; zero r.src0; zero r.src1; zero r.src2; zero r.mod
    let k ← r.pt
    some (.exit k, 0)
  | 7 => do
    r.noWb; zero r.dst; zero r.src0; zero r.src1; zero (r.mod.extractLsb' 2 11)
    if r.mod.getLsbD 1 then some (.waitClk r.hd (r.mod.getLsbD 0) r.src2, 0)
    else some (.waitTok r.hd (r.mod.getLsbD 0) r.src2, 0)
  | 8 => do
    r.noWb; zero r.dst; zero r.src0; zero r.src1; zero r.mod
    some (.trap r.hd r.src2, 0)
  | 9 => do
    r.noWb; zero r.dst; zero r.src1; zero r.src2; zero (r.mod.extractLsb' 4 9)
    let s ← sreg r.src0
    some (.assert r.hd s ⟨r.mod.getLsbD 3, r.mod.extractLsb' 0 3⟩, 0)
  | 10 => do
    r.noWb; zero r.dst; zero r.src0; zero r.src1; zero r.mod
    some (.bkpt r.hd r.src2, 0)
  | _ => none

/-- Major 0x01 (R247). -/
def Raw.major01 (r : Raw) : Parsed :=
  match r.minor.toNat with
  | 0 => r.bin .iadd
  | 1 => r.bin .isub
  | 2 => r.tern .iadd3
  | 3 => r.bin .imul
  | 4 => r.bin .imulhi
  | 5 => r.tern .imad
  | 6 => r.bin .imin
  | 7 => r.bin .imax
  | 8 => r.un .iabs
  | 9 => r.un .ineg
  | _ => none

/-- Major 0x02 (R248). -/
def Raw.major02 (r : Raw) : Parsed :=
  match r.minor.toNat with
  | 0 => r.bin .and
  | 1 => r.bin .or
  | 2 => r.bin .xor
  | 3 => r.un .not
  | 4 => do
    let ty ← r.ty
    on r.imm; off r.s2; zero r.opm
    let a ← r.v 0 r.src0
    let (b, u) ← r.opB3
    some (.lop3 ⟨r.hd, r.wb, ty, r.dst, a, b, r.src2⟩, 1 ||| u)
  | 5 => r.bin .shl
  | 6 => r.bin .shr
  | 7 => r.bin .sar
  | 8 => r.bin .rotl
  | 9 => r.tern .funnel
  | _ => none

/-- MOVI and MOVK (R254). -/
def Raw.movImm (r : Raw) (k : BitVec 3) (f : MovImm → Instr) : Parsed := do
  let ty ← r.ty
  on r.imm; off r.s1; off r.s2; zero r.src0; zero r.src1; zero (r.opm.extractLsb' 3 2)
  some (f ⟨r.hd, r.wb, ty, r.dst, r.src2, k⟩, 0)

/-- Major 0x03 (R251). -/
def Raw.major03 (r : Raw) : Parsed :=
  match r.minor.toNat with
  | 0 => r.bin .bfx
  | 1 => r.tern .bfi
  | 2 => r.un .popc
  | 3 => r.un .clz
  | 4 => r.un .ctz
  | 5 => r.un .brev
  | 6 => r.tern .permb
  | 7 => do
    let ty ← r.ty
    off r.s2; off (r.opm.getLsbD 4)
    let a ← r.v 0 r.src0
    let (b, u) ← r.opB
    some (.sel ⟨r.hd, r.wb, ty, r.dst, a, b, ⟨r.opm.getLsbD 3, r.opm.extractLsb' 0 3⟩⟩, 1 ||| u)
  | 8 => do
    let ty ← r.ty
    off r.s2; off r.imm; zero r.opm; zero r.src0; zero r.src2
    let (b, u) ← r.opB3
    some (.mov ⟨r.hd, r.wb, ty, r.dst, b⟩, u)
  | 9 => r.movImm (r.opm.extractLsb' 0 3) .movi
  | 10 => r.movImm (r.opm.extractLsb' 0 3) .movk
  | _ => none

/-- Major 0x04 (R255 to R257). -/
def Raw.major04 (r : Raw) : Parsed :=
  match r.minor.toNat with
  | 0 => do
    r.noWb
    let ty ← r.ty
    off r.s2
    let c ← condOf (r.opm.extractLsb' 0 3)
    let m ← combOf (r.opm.extractLsb' 3 2)
    let p ← narrow 3 r.dst
    let a ← r.v 0 r.src0
    let (b, u) ← r.opB
    some (.icmp ⟨r.hd, ty, c, m, p, a, b⟩, 1 ||| u)
  | 1 => do
    r.noWb; r.noTy; zero r.src2; off r.imm; off r.s1; off r.s2; off (r.opm.getLsbD 4)
    let op ← psetOf (r.opm.extractLsb' 0 2)
    let p ← narrow 3 r.dst
    let a ← psrc (r.opm.getLsbD 2) r.src0
    let b ← psrc (r.opm.getLsbD 3) r.src1
    some (.pset ⟨r.hd, op, p, a, b⟩, 0)
  | 2 => do
    r.noWb; r.noTy; on r.imm; off r.s1; off r.s2; zero r.opm; zero r.src1
    let p ← narrow 3 r.dst
    let a ← r.v 0 r.src0
    some (.pmov ⟨r.hd, p, a, r.src2⟩, 1)
  | _ => none

/-- Major 0x05 (R259, R260). -/
def Raw.major05 (r : Raw) : Parsed :=
  match r.minor.toNat with
  | 0 => r.sbin .sadd
  | 1 => r.sbin .ssub
  | 2 => r.sbin .smul
  | 3 => r.sbin .sand
  | 4 => r.sbin .sor
  | 5 => r.sbin .sxor
  | 6 => r.sbin .sshl
  | 7 => r.sbin .sshr
  | 8 => r.smov .smov
  | 9 => r.smov .smovi
  | 10 => do
    let k ← r.pt
    r.noWb
    let ty ← r.ty
    off r.s1; off r.s2; zero (r.opm.extractLsb' 3 2)
    let c ← condOf (r.opm.extractLsb' 0 3)
    let d ← sreg r.dst
    let a ← sreg r.src0
    let b ← r.opU
    some (.scmp ⟨k, ty, c, d, a, b⟩, 0)
  | 11 => do
    let ty ← r.ty
    off r.imm; off r.s1; off r.s2; zero r.opm; zero r.src1; zero r.src2
    let n ← srNameOf r.src0
    on (ty == if n == .clock then .b64 else .b32)
    some (.movsr ⟨r.hd, r.wb, r.dst, n⟩, 0)
  | _ => none

/-! ## Majors 0x06 to 0x08 -/

/-- Major 0x06 (R264). -/
def Raw.major06 (r : Raw) : Parsed :=
  match r.minor.toNat with
  | 0 => r.fbin .fadd
  | 1 => r.fbin .fsub
  | 2 => r.fbin .fmul
  | 3 => do
    let ty ← r.ty
    let a ← r.v 0 r.src0
    let (b, u) ← r.opB3
    let (c, u') ← r.opC
    some (.ffma ⟨r.hd, r.wb, ty, r.dst, a, b, c, modsOf r.opm⟩, 1 ||| u ||| u')
  | 4 => r.fbin .fmin
  | 5 => r.fbin .fmax
  | 6 => do
    r.noWb
    let ty ← r.ty
    off r.s2
    let m ← combOf (r.opm.extractLsb' 3 2)
    let p ← narrow 3 r.dst
    let a ← r.v 0 r.src0
    let (b, u) ← r.opB
    some (.fcmp ⟨r.hd, ty, fcondOf (r.opm.extractLsb' 0 3), m, p, a, b⟩, 1 ||| u)
  | 7 => r.fun1 .fclass
  | 8 => do
    let ty ← r.ty
    off r.imm; off r.s1; off r.s2; zero r.src1; zero r.src2
    let m ← rmOf (r.opm.extractLsb' 2 3)
    let a ← r.v 0 r.src0
    some (.frnd ⟨r.hd, r.wb, ty, r.dst, a, m, r.opm.getLsbD 0, r.opm.getLsbD 1⟩, 1)
  | _ => none

/-- Major 0x07 (R269). -/
def Raw.major07 (r : Raw) : Parsed :=
  match r.minor.toNat with
  | 0 => r.fun1 .frcp
  | 1 => r.fun1 .frsq
  | 2 => r.fun1 .fsqrt
  | 3 => r.fun1 .fexp2
  | 4 => r.fun1 .flog2
  | 5 => r.fun1 .fsin
  | 6 => r.fun1 .fcos
  | 7 => r.fun1 .ftanh
  | _ => none

/-- Format K with one source (R271). -/
def Raw.cvt (r : Raw) (f : CvtOp → Instr) : Parsed := do
  let dt ← tyOf (r.mod.extractLsb' 8 5)
  let st ← tyOf (r.mod.extractLsb' 3 5)
  let m ← rmOf (r.mod.extractLsb' 0 3)
  zero r.src1; zero r.src2
  let a ← r.v 0 r.src0
  some (f ⟨r.hd, r.wb, dt, st, m, r.dst, a⟩, 1)

/-- Major 0x08 (R271 to R278). -/
def Raw.major08 (r : Raw) : Parsed :=
  match r.minor.toNat with
  | 0 => r.cvt .cvt
  | 1 => r.cvt .cvtsr
  | 2 => r.cvt .qenc
  | 3 => r.cvt .qdec
  | 4 => do
    let dt ← tyOf (r.mod.extractLsb' 8 5)
    let st ← tyOf (r.mod.extractLsb' 3 5)
    on (st == .f32)
    let m ← rmOf (r.mod.extractLsb' 0 3)
    zero r.src2
    let a ← r.v 0 r.src0
    let b ← r.v 1 r.src1
    some (.pack2 ⟨r.hd, r.wb, dt, m, r.dst, a, b⟩, 3)
  | 5 => r.cvt .unpack2
  | _ => none

/-! ## Majors 0x09 and 0x0A (format X) -/

/-- SGSZ. -/
def Raw.sz (r : Raw) : BitVec 3 := r.mod.extractLsb' 4 3
/-- XMODE. -/
def Raw.xm (r : Raw) : BitVec 4 := r.mod.extractLsb' 0 4

/-- SHFL and SHFL16 (R281). -/
def Raw.shfl (r : Raw) (f : ShflOp → Instr) : Parsed := do
  let ty ← r.ty
  let m ← shModeOf r.xm
  let a ← r.v 0 r.src0
  if r.imm then do
    zero r.src1
    some (f ⟨r.hd, r.wb, ty, m, r.sz, r.dst, a, .imm r.src2⟩, 1)
  else do
    zero r.src2
    let b ← r.v 1 r.src1
    some (f ⟨r.hd, r.wb, ty, m, r.sz, r.dst, a, .v b⟩, 3)

/-- VOTE and VOTE16 (R282). -/
def Raw.vote (r : Raw) (f : VoteArgs → Instr) : Parsed := do
  r.noWb; r.noTy; off r.imm; zero r.src1; zero r.src2; off (r.xm.getLsbD 3)
  let op ← voteOf (r.xm.extractLsb' 0 2)
  let p ← narrow 3 r.dst
  let a ← psrc (r.xm.getLsbD 2) r.src0
  some (f ⟨r.hd, op, a, r.sz, p⟩, 0)

/-- BALLOT and BALLOT16 (R282). -/
def Raw.ballot (r : Raw) (f : BallotOp → Instr) : Parsed := do
  let ty ← r.ty
  on (ty == .b32); off r.imm; zero r.src1; zero r.src2; off (r.xm.getLsbD 3); zero (r.xm.extractLsb' 0 2)
  let a ← psrc (r.xm.getLsbD 2) r.src0
  some (f ⟨r.hd, r.wb, a, r.sz, r.dst⟩, 0)

/-- REDUX and SCAN (R283); `opc` is the operator code and `e` the .EXC bit. -/
def Raw.redux (r : Raw) (opc : BitVec 4) (e : Bool) (f : ReduxOp → Instr) : Parsed := do
  let ty ← r.ty
  off r.imm; zero r.src1; zero r.src2
  let op ← ropOf opc
  let a ← r.v 0 r.src0
  some (f ⟨r.hd, r.wb, op, e, ty, r.sz, r.dst, a⟩, 1)

/-- Major 0x09. -/
def Raw.major09 (r : Raw) : Parsed :=
  match r.minor.toNat with
  | 0 => r.shfl .shfl
  | 1 => r.vote .vote
  | 2 => r.ballot .ballot
  | 3 => r.redux r.xm false .redux
  | 4 => r.redux ((r.xm.extractLsb' 0 3).setWidth 4) (r.xm.getLsbD 3) .scan
  | 5 => do
    let ty ← r.ty
    off r.imm; zero r.src1; zero r.src2; zero r.xm
    let a ← r.v 0 r.src0
    some (.matchLanes ⟨r.hd, r.wb, ty, r.sz, r.dst, a⟩, 1)
  | 6 => do
    let ty ← r.ty
    zero r.src1
    let a ← r.v 0 r.src0
    if r.imm then do
      zero r.xm
      some (.bcast ⟨r.hd, r.wb, ty, some r.src2, r.sz, r.dst, a⟩, 1)
    else do
      on (r.xm == 1); zero r.src2
      some (.bcast ⟨r.hd, r.wb, ty, none, r.sz, r.dst, a⟩, 1)
  | _ => none

/-- Major 0x0A (R285). -/
def Raw.major0A (r : Raw) : Parsed :=
  match r.minor.toNat with
  | 0 => r.shfl .shfl16
  | 1 => r.vote .vote16
  | 2 => r.ballot .ballot16
  | _ => none

/-! ## Majors 0x0B to 0x10 (formats M and O) -/

/-- DOM, SCOPE and ORD of formats M and N. -/
def Raw.acc (r : Raw) : Option Acc := do
  let d ← domOf (r.mod.extractLsb' 10 3)
  let s ← scopeOf (r.mod.extractLsb' 7 3)
  some ⟨d, s, ordOf (r.mod.extractLsb' 5 2)⟩

/-- DOM, SCOPE and ORD zero (R288). -/
def Raw.noAcc (r : Raw) : Option Unit := zero (r.mod.extractLsb' 5 8)

/-- TYPE of formats M and N. -/
def Raw.mty (r : Raw) : Option Ty := tyOf (r.mod.extractLsb' 0 5)

/-- A memory base in SRC0. -/
def Raw.base (r : Raw) (s : Bool) : Option (Base × BitVec 3) :=
  if s then do
    let n ← sreg r.src0
    some (.s n, 0)
  else do
    let x ← r.v 0 r.src0
    some (.v x, 1)

/-- LD and LDL. -/
def Raw.load (r : Raw) (s : Bool) (f : LdOp → Instr) : Parsed := do
  let ty ← r.mty
  let a ← r.acc
  zero r.src1
  let (b, u) ← r.base s
  some (f ⟨r.hd, r.wb, ty, a, r.dst, b, r.src2⟩, u)

/-- ST and STL. -/
def Raw.store (r : Raw) (s : Bool) (f : StOp → Instr) : Parsed := do
  r.noWb
  let ty ← r.mty
  let a ← r.acc
  zero r.dst
  let (b, u) ← r.base s
  let x ← r.v 1 r.src1
  some (f ⟨r.hd, ty, a, b, x, r.src2⟩, 2 ||| u)

/-- LDX (R293). -/
def Raw.ldxAt (r : Raw) (s : Bool) : Parsed := do
  let ty ← r.mty
  let a ← r.acc
  zero r.src2
  let (b, u) ← r.base s
  let x ← r.v 1 r.src1
  some (.ldx ⟨r.hd, r.wb, ty, a, r.dst, b, x⟩, 2 ||| u)

/-- STX (R294). -/
def Raw.stxAt (r : Raw) (s : Bool) : Parsed := do
  r.noWb
  let ty ← r.mty
  let a ← r.acc
  zero r.dst
  let (b, u) ← r.base s
  let x ← r.v 1 r.src1
  let i ← r.v 2 r.src2
  some (.stx ⟨r.hd, ty, a, b, x, i⟩, 6 ||| u)

/-- PREF (R296). -/
def Raw.prefAt (r : Raw) (s : Bool) : Parsed := do
  r.noWb; r.noAcc; zero r.dst; zero r.src1; zero (r.mod.extractLsb' 1 4)
  let (b, u) ← r.base s
  some (.pref ⟨r.hd, r.mod.getLsbD 0, b, r.src2⟩, u)

/-- Major 0x0B (R291 to R297). -/
def Raw.major0B (r : Raw) : Parsed :=
  match r.minor.toNat with
  | 0 => r.load false .ld
  | 1 => r.load true .ld
  | 2 => r.store false .st
  | 3 => r.store true .st
  | 4 => r.ldxAt false
  | 5 => r.ldxAt true
  | 6 => r.stxAt false
  | 7 => r.stxAt true
  | 8 => r.prefAt false
  | 9 => r.prefAt true
  | 10 => do
    r.noWb; r.noAcc; zero r.dst; zero r.src1; zero (r.mod.extractLsb' 1 4)
    if r.mod.getLsbD 0 then do
      zero r.src0; zero r.src2
      some (.cctlIvall r.hd, 0)
    else do
      let x ← r.v 0 r.src0
      some (.cctlIv r.hd x r.src2, 1)
  | _ => none

/-- ACCRD (R295). -/
def Raw.accrdAt (r : Raw) (s : Bool) : Parsed := do
  let ty ← r.mty
  r.noAcc; zero r.src1
  let (b, u) ← r.base s
  some (.accrd ⟨r.hd, r.wb, ty, r.dst, b, r.src2⟩, u)

/-- ACCWR (R295). -/
def Raw.accwrAt (r : Raw) (s : Bool) : Parsed := do
  r.noWb
  let ty ← r.mty
  r.noAcc; zero r.dst
  let (b, u) ← r.base s
  let x ← r.v 1 r.src1
  some (.accwr ⟨r.hd, ty, b, x, r.src2⟩, 2 ||| u)

/-- Major 0x0C (R291, R295). -/
def Raw.major0C (r : Raw) : Parsed :=
  match r.minor.toNat with
  | 0 => r.load false .ldl
  | 1 => r.load true .ldl
  | 2 => r.store false .stl
  | 3 => r.store true .stl
  | 4 => r.accrdAt false
  | 5 => r.accrdAt true
  | 6 => r.accwrAt false
  | 7 => r.accwrAt true
  | _ => none

/-- The operator of an atomic minor (R229); bits [5:4] are zero. -/
def Raw.aop (r : Raw) : Option AOp := do
  zero (r.minor.extractLsb' 4 2)
  some (aopOf (r.minor.extractLsb' 0 3))

/-- ATOM and ATOML (R298). -/
def Raw.atom (r : Raw) (f : AtomOp → Instr) : Parsed := do
  let op ← r.aop
  let ty ← r.mty
  let a ← r.acc
  let (b, u) ← r.base (r.minor.getLsbD 3)
  let x ← r.v 1 r.src1
  if op = .cas then do
    let n ← r.v 2 r.src2
    some (f ⟨r.hd, r.wb, op, ty, a, r.dst, b, .cas x n⟩, 6 ||| u)
  else some (f ⟨r.hd, r.wb, op, ty, a, r.dst, b, .one x r.src2⟩, 2 ||| u)

/-- RED (R298). -/
def Raw.red (r : Raw) : Parsed := do
  let op ← r.aop
  r.noWb
  let ty ← r.mty
  let a ← r.acc
  zero r.dst
  let (b, u) ← r.base (r.minor.getLsbD 3)
  let x ← r.v 1 r.src1
  some (.red ⟨r.hd, op, ty, a, b, x, r.src2⟩, 2 ||| u)

/-- The option field of the barrier minors (R305): SB and WM. -/
def Raw.barOpt (r : Raw) : Option (Bool × Bool) := do
  zero (r.mod.extractLsb' 2 3)
  some (r.mod.getLsbD 1, r.mod.getLsbD 0)

/-- BARARRIVE, BARWAIT and BARTEST (R309 to R311). -/
def Raw.bar (r : Raw) (f : BarOp → Instr) : Parsed := do
  let (sb, wm) ← r.barOpt
  let a ← r.acc
  let (b, u) ← r.base sb
  let x ← r.v 1 r.src1
  some (f ⟨r.hd, r.wb, a, wm, r.dst, b, x, r.src2⟩, 2 ||| u)

/-- Major 0x10 (R303, R305). -/
def Raw.major10 (r : Raw) : Parsed :=
  match r.minor.toNat with
  | 0 => do
    r.noWb; zero r.dst; zero r.src0; zero r.src1; zero r.src2; zero (r.mod.extractLsb' 0 3)
    zero (r.mod.extractLsb' 4 3)
    let s ← scopeOf (r.mod.extractLsb' 7 3)
    if r.mod.getLsbD 3 then do
      zero (r.mod.extractLsb' 10 3)
      some (.fence ⟨r.hd, none, s⟩, 0)
    else do
      let d ← domOf (r.mod.extractLsb' 10 3)
      some (.fence ⟨r.hd, some d, s⟩, 0)
  | 1 => do
    r.noWb; zero r.dst; zero r.src0; zero r.src1; zero r.src2; zero (r.mod.extractLsb' 0 4)
    let s ← scopeOf (r.mod.extractLsb' 7 3)
    let x ← domOf (r.mod.extractLsb' 10 3)
    let y ← domOf (r.mod.extractLsb' 4 3)
    some (.bridge ⟨r.hd, x, y, s⟩, 0)
  | 2 => do
    let (sb, wm) ← r.barOpt
    off wm; r.noWb; zero r.dst
    let a ← r.acc
    let (b, u) ← r.base sb
    let x ← r.v 1 r.src1
    some (.barinit ⟨r.hd, a, b, x, r.src2⟩, 2 ||| u)
  | 3 => r.bar .bararrive
  | 4 => r.bar .barwait
  | 5 => r.bar .bartest
  | 6 => do
    let (sb, wm) ← r.barOpt
    off sb; r.noWb; zero r.dst; zero r.src0; zero r.src1; zero r.src2
    let a ← r.acc
    some (.blksync ⟨r.hd, a, wm⟩, 0)
  | _ => none

/-! ## Majors 0x11 to 0x17 (formats C, N and U) -/

/-- DOM, SCOPE and flags of format C. -/
def Raw.cacc (r : Raw) : Option CAcc := do
  let d ← domOf (r.mod.extractLsb' 10 3)
  let s ← scopeOf (r.mod.extractLsb' 7 3)
  some ⟨d, s, r.mod.getLsbD 6, r.mod.getLsbD 5⟩

/-- COPT. -/
def Raw.copt (r : Raw) : BitVec 5 := r.mod.extractLsb' 0 5

/-- The tag of a command in DST. -/
def Raw.tag (r : Raw) : Option (BitVec 6) := narrow 6 r.dst

/-- CPY (R318). -/
def Raw.cpyAt (r : Raw) : Parsed := do
  r.noWb
  let a ← r.cacc
  let g ← r.tag
  let dir ← cpyDirOf (r.copt.extractLsb' 3 2)
  let x ← r.v 0 r.src0
  let y ← r.v 1 r.src1
  if r.copt.getLsbD 2 then
    some (.cpy ⟨r.hd, a, dir, r.copt.extractLsb' 0 2, g, x, y, .imm r.src2⟩, 3)
  else do
    let z ← r.v 2 r.src2
    some (.cpy ⟨r.hd, a, dir, r.copt.extractLsb' 0 2, g, x, y, .v z⟩, 7)

/-- Major 0x11 (R315). -/
def Raw.major11 (r : Raw) : Parsed :=
  match r.minor.toNat with
  | 0 => r.cpyAt
  | 1 => do
    r.noWb; zero (r.copt.extractLsb' 0 4)
    let a ← r.cacc
    let g ← r.tag
    let x ← sreg r.src0
    let y ← sreg r.src1
    let z ← sreg r.src2
    some (.tcpy ⟨r.hd, a, r.copt.getLsbD 4, g, x, y, z⟩, 0)
  | 2 => do
    r.noWb; r.noAcc; zero (r.copt.extractLsb' 1 4); zero r.dst; zero r.src1; zero r.src2
    let m ← sreg r.src0
    some (.cpywait r.hd (r.copt.getLsbD 0) m, 0)
  | 3 => do
    r.noWb; zero r.mod; zero r.src1; zero r.src2
    let d ← sreg r.dst
    let m ← sreg r.src0
    some (.tagff r.hd d m, 0)
  | 4 => do
    r.noWb; zero r.mod; zero r.src0; zero r.src1
    let d ← sreg r.dst
    let g ← narrow 6 r.src2
    some (.tagrd r.hd d g, 0)
  | _ => none

/-- TLD and TST (R329). -/
def Raw.tileMv (r : Raw) (f : TileMv → Instr) : Parsed := do
  r.noWb; zero r.copt; zero r.src1
  let a ← r.cacc
  let g ← r.tag
  let x ← sreg r.src0
  let t ← narrow 3 r.src2
  some (f ⟨r.hd, a, g, t, x⟩, 0)

/-- Major 0x12 (R315). -/
def Raw.major12 (r : Raw) : Parsed :=
  match r.minor.toNat with
  | 0 => do
    r.noWb; zero r.mod; zero r.src1; zero r.src2
    let t ← narrow 3 r.dst
    let v ← sreg r.src0
    some (.tcfg r.hd t v, 0)
  | 1 => r.tileMv .tld
  | 2 => r.tileMv .tst
  | 3 => do
    r.noWb; zero r.mod; zero r.src0; zero r.src1
    let g ← r.tag
    let t ← narrow 3 r.src2
    some (.tzero r.hd g t, 0)
  | 4 => do
    r.noWb; zero r.mod; zero r.src1; zero r.src2
    let g ← r.tag
    let a ← sreg r.src0
    some (.tmma r.hd g a, 0)
  | 5 => do
    r.noWb; zero (r.copt.extractLsb' 1 4)
    let a ← r.cacc
    let g ← r.tag
    let x ← sreg r.src0
    let y ← sreg r.src1
    let z ← sreg r.src2
    some (.tdrain ⟨r.hd, a, r.copt.getLsbD 0, g, x, y, z⟩, 0)
  | 6 => do
    r.noWb; r.noAcc; zero (r.copt.extractLsb' 1 4); zero r.src1
    let g ← r.tag
    let x ← sreg r.src0
    let t ← narrow 3 r.src2
    some (.tacc r.hd (r.copt.getLsbD 0) g t x, 0)
  | 7 => do
    r.noWb; zero r.mod; zero r.src0; zero r.src1; zero r.src2
    let d ← sreg r.dst
    some (.tstat r.hd d, 0)
  | _ => none

/-- The endpoint in SRC0 of format N (R337). -/
def Raw.endp (r : Raw) (convoy : Bool) : Option Endp :=
  if convoy then (narrow 4 r.src0).map .convoy else some (.entry r.src0)

/-- XLD (R337). -/
def Raw.xldAt (r : Raw) (cv : Bool) : Parsed := do
  let ty ← r.mty
  let a ← r.acc
  zero r.src2
  let e ← r.endp cv
  let o ← r.v 1 r.src1
  some (.xld ⟨r.hd, r.wb, ty, a, r.dst, e, o⟩, 2)

/-- XST (R337). -/
def Raw.xstAt (r : Raw) (cv : Bool) : Parsed := do
  r.noWb
  let ty ← r.mty
  let a ← r.acc
  zero r.dst
  let e ← r.endp cv
  let o ← r.v 1 r.src1
  let x ← r.v 2 r.src2
  some (.xst ⟨r.hd, ty, a, e, o, x⟩, 6)

/-- Major 0x13 (R337, R341). -/
def Raw.major13 (r : Raw) : Parsed :=
  match r.minor.toNat with
  | 0 => r.xldAt false
  | 1 => r.xldAt true
  | 2 => r.xstAt false
  | 3 => r.xstAt true
  | 4 => do
    r.noWb; zero r.copt; zero r.src2
    let a ← r.cacc
    let g ← r.tag
    let x ← sreg r.src0
    let b ← sreg r.src1
    some (.xsend r.hd a g x b, 0)
  | 5 => do
    r.noWb; zero r.mod; zero r.src1; zero r.src2
    let c ← narrow 4 r.dst
    let e ← sreg r.src0
    some (.cvopen r.hd c e, 0)
  | 6 => do
    r.noWb; zero r.mod; zero r.src0; zero r.src1; zero r.src2
    let c ← narrow 4 r.dst
    some (.cvclose r.hd c, 0)
  | 7 => do
    r.noWb; zero (r.mod.extractLsb' 0 7); zero r.src1
    let d ← domOf (r.mod.extractLsb' 10 3)
    let s ← scopeOf (r.mod.extractLsb' 7 3)
    on (s == .fab)
    let c ← narrow 4 r.dst
    let b ← sreg r.src0
    some (.fencef r.hd d c b r.src2, 0)
  | 8 => do
    r.noWb; zero r.mod; zero r.src2
    let d ← sreg r.dst
    let e ← sreg r.src0
    let b ← sreg r.src1
    some (.slotrsv r.hd d e b, 0)
  | 9 => do
    r.noWb; r.noAcc; zero r.dst; zero r.src1; zero r.src2; zero (r.copt.extractLsb' 1 4)
    let j ← sreg r.src0
    if r.copt.getLsbD 0 then some (.slotrelFault r.hd j, 0) else some (.slotrel r.hd j, 0)
  | 10 => do
    r.noWb; zero r.mod; zero r.dst; zero r.src1; zero r.src2
    let k ← r.pt
    let c ← sreg r.src0
    some (.chunk k c, 0)
  | _ => none

/-- Major 0x14, XATOM (R337): returning exactly when the slot sets a token. -/
def Raw.major14 (r : Raw) : Parsed := do
  let op ← r.aop
  let ty ← r.mty
  let a ← r.acc
  let e ← r.endp (r.minor.getLsbD 3)
  let o ← r.v 1 r.src1
  let x ← r.v 2 r.src2
  some (.xatom ⟨r.hd, r.wb, op, ty, a, r.dst, e, o, x⟩, 6)

/-- Major 0x15 (R341). -/
def Raw.major15 (r : Raw) : Parsed :=
  match r.minor.toNat with
  | 0 => do
    r.noWb; zero r.mod; zero r.dst; zero r.src1
    let k ← r.pt
    let d ← sreg r.src0
    let g ← narrow 6 r.src2
    some (.waymark k d g, 0)
  | 1 => do
    r.noWb; zero r.mod; zero r.src0; zero r.src1; zero r.src2
    let d ← sreg r.dst
    some (.legrd r.hd d, 0)
  | 2 => do
    r.noWb; zero r.mod; zero r.dst; zero r.src0; zero r.src1; zero r.src2
    some (.irrev r.hd, 0)
  | _ => none

/-- GROW and SHRINK (R351). -/
def Raw.growAt (r : Raw) (f : Ctl → BitVec 5 → Instr) : Parsed := do
  r.noWb; zero r.mod; zero r.dst; zero r.src0; zero r.src1
  let k ← r.pt
  let n ← narrow 5 r.src2
  some (f k n, 0)

/-- Major 0x16 (R341). -/
def Raw.major16 (r : Raw) : Parsed :=
  match r.minor.toNat with
  | 0 => r.growAt .grow
  | 1 => r.growAt .shrink
  | 2 => do
    r.noWb; zero (r.mod.extractLsb' 2 11); zero r.src1; zero r.src2
    let k ← locKindOf (r.mod.extractLsb' 0 2)
    let d ← sreg r.dst
    let a ← sreg r.src0
    some (.locq r.hd k d a, 0)
  | 3 => do
    r.noWb; zero r.mod; zero r.src2
    let k ← r.pt
    let d ← sreg r.dst
    let x ← sreg r.src0
    let q ← sreg r.src1
    some (.launch k d x q, 0)
  | 4 => do
    r.noWb; zero r.mod; zero r.dst; zero r.src1; zero r.src2
    let k ← r.pt
    let p ← sreg r.src0
    some (.prio k p, 0)
  | _ => none

/-- Major 0x17 (R359). -/
def Raw.major17 (r : Raw) : Parsed :=
  match r.minor.toNat with
  | 0 => do
    r.noWb; zero (r.mod.extractLsb' 1 12); zero r.dst; zero r.src0; zero r.src1; zero r.src2
    let k ← r.pt
    if r.mod.getLsbD 0 then some (.rfeNext k, 0) else some (.rfeRegion k, 0)
  | 1 => do
    r.noWb; zero r.src1; zero r.src2; on (r.mod == 0x100)
    let d ← sreg r.dst
    let c ← ctlRegOf r.src0
    some (.ctlrd r.hd d c, 0)
  | 2 => do
    r.noWb; zero r.dst; zero r.src2; on (r.mod == 0x100)
    let c ← ctlRegOf r.src0
    let s ← sreg r.src1
    some (.ctlwr r.hd c s, 0)
  | 3 => do
    r.noWb; zero r.src0; zero r.src1; on (r.mod == 0x1100)
    let d ← sreg r.dst
    let k ← narrow 4 r.src2
    some (.traprd r.hd d k, 0)
  | _ => none

/-! ## The decoder (R230) -/

/-- The map of R228, without NOP; `legacy` exchanges majors 0x09 and 0x0A (R44). -/
def Raw.parse (legacy : Bool) (r : Raw) : Parsed :=
  match r.major.toNat with
  | 0x00 => r.major00
  | 0x01 => r.major01
  | 0x02 => r.major02
  | 0x03 => r.major03
  | 0x04 => r.major04
  | 0x05 => r.major05
  | 0x06 => r.major06
  | 0x07 => r.major07
  | 0x08 => r.major08
  | 0x09 => if legacy then none else r.major09
  | 0x0A => if legacy then r.major0A else none
  | 0x0B => r.major0B
  | 0x0C => r.major0C
  | 0x0D => r.atom .atom
  | 0x0E => r.atom .atoml
  | 0x0F => r.red
  | 0x10 => r.major10
  | 0x11 => r.major11
  | 0x12 => r.major12
  | 0x13 => r.major13
  | 0x14 => r.major14
  | 0x15 => r.major15
  | 0x16 => r.major16
  | 0x17 => r.major17
  | _ => none

/-- Majors 0x18 to 0x37 (R227). -/
def Raw.extension (r : Raw) : Bool := 0x18 ≤ r.major.toNat && r.major.toNat ≤ 0x37

/-- Row 4 of R230 on the fields: TIDX without SETT, and LSRC bits outside the V register reads `u` (R219). -/
def Raw.ctlOk (r : Raw) (u : BitVec 3) : Bool := (r.sett || r.tidx == 0) && r.lsrc &&& ~~~u == 0

/-- NOP, by MAJOR and MINOR alone (R230). -/
def Raw.isNop (r : Raw) : Bool := r.major == 0 && r.minor == 0

/-- Rows 2 to 5 of R230 in order. -/
def Raw.decode (legacy : Bool) (r : Raw) : Instr :=
  if r.isNop then
    if !r.sett && r.ctlOk 0 then .nop r.k else .illegalWord r.ctl r.word .slotControl
  else if r.extension then .extensionWord r.ctl r.word
  else
    match r.parse legacy with
    | none => .illegalWord r.ctl r.word .word
    | some (i, u) =>
      if !i.legal then .illegalWord r.ctl r.word .word
      else if !(r.ctlOk u && i.ctlLegal) then .illegalWord r.ctl r.word .slotControl
      else if i.size64 then .extensionWord r.ctl r.word
      else i

/-- What the word `w` with slot control `c` is. -/
def decodeSlot (legacy : Bool) (c : BitVec 20) (w : Dword) : Instr := (Raw.split c w).decode legacy

/-- Terminators (R238, R358). -/
def Instr.terminator : Instr → Bool
  | .nextSeg _ _ | .nextp _ _ _ _ | .nextx _ _ _ | .call _ _ _ | .ret _ _ | .exit _
  | .rfeRegion _ | .rfeNext _ => true
  | _ => false

/-- A word that holds a terminator, whatever its other bits (R228): for the checks of row 1 of R230. -/
def wordTerminator (w : Dword) : Bool :=
  let m := (w.extractLsb' 58 6).toNat
  let n := (w.extractLsb' 52 6).toNat
  (m == 0 && (1 ≤ n && n ≤ 6)) || (m == 0x17 && n == 0)

/-- NOP by MAJOR and MINOR. -/
def wordNop (w : Dword) : Bool := w.extractLsb' 52 12 == 0

/-- GROW, SHRINK or WAYMARK by MAJOR and MINOR. -/
def wordLast (w : Dword) : Bool :=
  let m := (w.extractLsb' 58 6).toNat
  let n := (w.extractLsb' 52 6).toNat
  (m == 0x16 && (n == 0 || n == 1)) || (m == 0x15 && n == 0)

/-- A bundle as fetched: the control word and three instruction words (R215). -/
structure Bundle where
  c : Dword
  w0 : Dword
  w1 : Dword
  w2 : Dword
  deriving DecidableEq, Repr

/-- The instruction word of slot k. -/
def Bundle.word (b : Bundle) (k : Nat) : Dword :=
  match k with
  | 0 => b.w0
  | 1 => b.w1
  | _ => b.w2

/-- The slot control of slot k (R217). -/
def Bundle.ctl (b : Bundle) (k : Nat) : BitVec 20 := b.c.extractLsb' (20 * k) 20

/-- SEGENT (R217). -/
def Bundle.segEntry (b : Bundle) : Bool := b.c.getLsbD 63

/-- A region entry: REGENT, or any segment entry (R217, R39). -/
def Bundle.regionEntry (b : Bundle) : Bool := b.c.getLsbD 62 || b.c.getLsbD 63

/-- A bundle that holds a terminator is its segment's last. -/
def Bundle.hasTerminator (b : Bundle) : Bool :=
  wordTerminator b.w0 || wordTerminator b.w1 || wordTerminator b.w2

/-- Row 1 of R230 as far as the bundle's own words decide it. -/
def Bundle.ok (b : Bundle) : Bool :=
  b.c.extractLsb' 60 2 == 0
    && (!wordTerminator b.w0 || (wordNop b.w1 && wordNop b.w2))
    && (!wordTerminator b.w1 || wordNop b.w2)
    && (b.hasTerminator || !(wordLast b.w0 || wordLast b.w1 || wordLast b.w2))

/-! ## The encoder: R218, R220, R224, R225 and the field tables, from the instruction to its words -/

/-- Type codes of R225. -/
def Ty.code : Ty → BitVec 5
  | .b8 => 0 | .b16 => 1 | .b32 => 2 | .b64 => 3 | .i8 => 4 | .i16 => 5 | .i32 => 6 | .i64 => 7
  | .n8 => 8 | .n16 => 9 | .n32 => 10 | .n64 => 11 | .f32 => 12 | .f16 => 13 | .bf16 => 14 | .e4m3 => 15
  | .e5m2 => 16 | .e2m1 => 17 | .sq2 => 18 | .sq4 => 19 | .sq7 => 20 | .f16x2 => 21 | .bf16x2 => 22

/-- Domain codes of R69, the strength ranks. -/
def Dom.code : Dom → BitVec 3
  | .ub => 0 | .rc => 1 | .co => 2 | .tso => 3 | .sc => 4

/-- Scope codes of R71. -/
def Scope.code : Scope → BitVec 3
  | .grp => 0 | .blk => 1 | .clu => 2 | .dev => 3 | .fab => 4 | .sys => 5

/-- ORD codes of R224. -/
def Ord.code : Ord → BitVec 2
  | .none => 0 | .acq => 1 | .rel => 2 | .ar => 3

def Cond.code : Cond → BitVec 3
  | .eq => 0 | .ne => 1 | .lt => 2 | .le => 3 | .gt => 4 | .ge => 5

def FCond.code : FCond → BitVec 3
  | .eq => 0 | .ne => 1 | .lt => 2 | .le => 3 | .gt => 4 | .ge => 5 | .num => 6 | .nan => 7

def Comb.code : Comb → BitVec 2
  | .none => 0 | .pand => 1 | .por => 2

/-- RM codes of R271: none is 7. -/
def rmCode : Option Rnd → BitVec 3
  | some .rne => 0 | some .rtz => 1 | some .rpi => 2 | some .rmi => 3 | some .rsr => 4 | none => 7

def AOp.code : AOp → BitVec 3
  | .add => 0 | .min => 1 | .max => 2 | .and => 3 | .or => 4 | .xor => 5 | .exch => 6 | .cas => 7

def ROp.code : ROp → BitVec 4
  | .add => 0 | .min => 1 | .max => 2 | .and => 3 | .or => 4 | .xor => 5

/-- Operator codes of PSET (R256). -/
def ROp.psetCode : ROp → BitVec 2
  | .and => 0 | .or => 1 | .xor => 2 | _ => 3

def ShMode.code : ShMode → BitVec 4
  | .idx => 0 | .up => 1 | .down => 2 | .xor => 3

def VoteOp.code : VoteOp → BitVec 2
  | .all => 0 | .any => 1 | .uni => 2

def CpyDir.code : CpyDir → BitVec 2
  | .gl => 0 | .lg => 1 | .ll => 2

def SrName.code : SrName → BitVec 8
  | .lane => 0 | .group => 1 | .blockx => 2 | .blocky => 3 | .blockz => 4 | .stage => 5 | .node => 6
  | .core => 7 | .clock => 8 | .leg => 9

def LocKind.code : LocKind → BitVec 2
  | .addr => 0 | .core => 1 | .ent => 2

def CtlReg.code : CtlReg → BitVec 8
  | .mode => 0 | .trapinfo => 1 | .floor => 2 | .legid => 3

/-- A flag as one bit. -/
abbrev bit (b : Bool) : BitVec 1 := BitVec.ofBool b

/-- The fields of slot control `k`, with no latch sources, and a word of the given opcode and guard. -/
def Raw.ofCtl (k : Ctl) (g : Guard) (major minor : BitVec 6) : Raw where
  major := major
  minor := minor
  pneg := g.neg
  pred := g.pred
  dst := 0
  src0 := 0
  src1 := 0
  src2 := 0
  nowb := false
  ldst := 0
  mod := 0
  lsrc := 0
  sett := k.sett.isSome
  tidx := k.sett.getD 0
  wait := k.wait
  yield := k.yield
  stall := k.stall

/-- The same for an instruction whose guard acts. -/
def Raw.ofHd (h : Hd) (major minor : BitVec 6) : Raw := Raw.ofCtl h.k h.g major minor

/-- The same for an instruction that acts on the whole group (R221). -/
def Raw.ofPt (k : Ctl) (major minor : BitVec 6) : Raw := Raw.ofCtl k ⟨false, 7⟩ major minor

/-- With the latch fields of a V result. -/
def Raw.withWb (r : Raw) (w : Wb) : Raw := { r with nowb := w.nowb, ldst := w.ldst }

/-- The field of a V source. -/
def VSrc.field : VSrc → BitVec 8
  | .reg n => n
  | .latch l => l.setWidth 8

/-- Its LSRC bit. -/
def VSrc.isLatch : VSrc → Bool
  | .reg _ => false
  | .latch _ => true

/-- The field of an operand. -/
def Opnd.field : Opnd → BitVec 8
  | .v x => x.field
  | .s n => n.setWidth 8
  | .imm i => i

/-- Its LSRC bit. -/
def Opnd.isLatch : Opnd → Bool
  | .v x => x.isLatch
  | _ => false

def Opnd.isImm : Opnd → Bool
  | .imm _ => true
  | _ => false

def Opnd.isS : Opnd → Bool
  | .s _ => true
  | _ => false

def SOp.field : SOp → BitVec 8
  | .s n => n.setWidth 8
  | .imm i => i

def SOp.isImm : SOp → Bool
  | .imm _ => true
  | _ => false

def Base.field : Base → BitVec 8
  | .v x => x.field
  | .s n => n.setWidth 8

def Base.isLatch : Base → Bool
  | .v x => x.isLatch
  | .s _ => false

def Base.isS : Base → Bool
  | .s _ => true
  | .v _ => false

/-- MOD of formats A and U (R224). -/
def modA (imm : Bool) (ty : BitVec 5) (s2 s1 : Bool) (opm : BitVec 5) : BitVec 13 :=
  bit imm ++ (ty ++ (bit s2 ++ (bit s1 ++ opm)))

/-- MOD of format K. -/
def modK (dt st : Ty) (rm : Option Rnd) : BitVec 13 := dt.code ++ (st.code ++ rmCode rm)

/-- MOD of format X. -/
def modX (imm : Bool) (ty : BitVec 5) (sz : BitVec 3) (xm : BitVec 4) : BitVec 13 :=
  bit imm ++ (ty ++ (sz ++ xm))

/-- MOD of formats M and N. -/
def modM (a : Acc) (low : BitVec 5) : BitVec 13 := a.dom.code ++ (a.scope.code ++ (a.ord.code ++ low))

/-- MOD of format C. -/
def modC (a : CAcc) (opt : BitVec 5) : BitVec 13 :=
  a.dom.code ++ (a.scope.code ++ (bit a.acqf ++ (bit a.relf ++ opt)))

/-- OPMOD with only bit 0. -/
def opm0 (m : Bool) : BitVec 5 := (0 : BitVec 4) ++ bit m

def PSrc.opm (p : PSrc) : BitVec 4 := bit p.neg ++ p.p

def FMods.code (m : FMods) : BitVec 5 :=
  bit m.negC ++ (bit m.absB ++ (bit m.negB ++ (bit m.absA ++ bit m.negA)))

/-- LSRC of the three source fields. -/
def lsrc (a b c : Bool) : BitVec 3 := bit c ++ (bit b ++ bit a)

/-- The fields of the binary shape: b in SRC1, or the immediate in SRC2. -/
def Raw.withB (r : Raw) (b : Opnd) : Raw :=
  match b with
  | .imm i => { r with src2 := i }
  | o => { r with src1 := o.field }

def IUn.enc (o : IUn) (major minor : BitVec 6) : Raw :=
  { (Raw.ofHd o.h major minor).withWb o.wb with
    dst := o.d, src0 := o.a.field, mod := modA false o.ty.code false false (opm0 o.m), lsrc := lsrc o.a.isLatch false false }

def IBin.enc (o : IBin) (major minor : BitVec 6) : Raw :=
  { ((Raw.ofHd o.h major minor).withWb o.wb).withB o.b with
    dst := o.d, src0 := o.a.field, mod := modA o.b.isImm o.ty.code false o.b.isS (opm0 o.m)
    lsrc := lsrc o.a.isLatch o.b.isLatch false }

def ITern.enc (o : ITern) (major minor : BitVec 6) : Raw :=
  { (Raw.ofHd o.h major minor).withWb o.wb with
    dst := o.d, src0 := o.a.field, src1 := o.b.field, src2 := o.c.field
    mod := modA o.c.isImm o.ty.code o.c.isS o.b.isS (opm0 o.m)
    lsrc := lsrc o.a.isLatch o.b.isLatch o.c.isLatch }

def FUn.enc (o : FUn) (major minor : BitVec 6) : Raw :=
  { (Raw.ofHd o.h major minor).withWb o.wb with
    dst := o.d, src0 := o.a.field, mod := modA false o.ty.code false false o.mods.code
    lsrc := lsrc o.a.isLatch false false }

def FBin.enc (o : FBin) (major minor : BitVec 6) : Raw :=
  { ((Raw.ofHd o.h major minor).withWb o.wb).withB o.b with
    dst := o.d, src0 := o.a.field, mod := modA o.b.isImm o.ty.code false o.b.isS o.mods.code
    lsrc := lsrc o.a.isLatch o.b.isLatch false }

def FTern.enc (o : FTern) (major minor : BitVec 6) : Raw :=
  { (Raw.ofHd o.h major minor).withWb o.wb with
    dst := o.d, src0 := o.a.field, src1 := o.b.field, src2 := o.c.field
    mod := modA o.c.isImm o.ty.code o.c.isS o.b.isS o.mods.code
    lsrc := lsrc o.a.isLatch o.b.isLatch o.c.isLatch }

def SBin.enc (o : SBin) (minor : BitVec 6) : Raw :=
  let r := Raw.ofPt o.k 5 minor
  let r := { r with dst := o.d.setWidth 8, src0 := o.a.setWidth 8, mod := modA o.b.isImm o.ty.code false false (opm0 o.m) }
  match o.b with
  | .imm i => { r with src2 := i }
  | .s n => { r with src1 := n.setWidth 8 }

def SMov.enc (o : SMov) (minor : BitVec 6) : Raw :=
  let r := Raw.ofPt o.k 5 minor
  let r := { r with dst := o.d.setWidth 8, mod := modA o.b.isImm o.ty.code false false 0 }
  match o.b with
  | .imm i => { r with src2 := i }
  | .s n => { r with src1 := n.setWidth 8 }

def CvtOp.enc (o : CvtOp) (minor : BitVec 6) : Raw :=
  { (Raw.ofHd o.h 8 minor).withWb o.wb with
    dst := o.d, src0 := o.a.field, mod := modK o.dt o.st o.rm, lsrc := lsrc o.a.isLatch false false }

def ShflOp.enc (o : ShflOp) (major : BitVec 6) : Raw :=
  { ((Raw.ofHd o.h major 0).withWb o.wb).withB o.b with
    dst := o.d, src0 := o.a.field, mod := modX o.b.isImm o.ty.code o.sz o.mode.code
    lsrc := lsrc o.a.isLatch o.b.isLatch false }

def VoteArgs.enc (o : VoteArgs) (major : BitVec 6) : Raw :=
  { Raw.ofHd o.h major 1 with
    dst := o.p.setWidth 8, src0 := o.a.p.setWidth 8
    mod := modX false 0 o.sz ((0 : BitVec 1) ++ (bit o.a.neg ++ o.op.code)) }

def BallotOp.enc (o : BallotOp) (major : BitVec 6) : Raw :=
  { (Raw.ofHd o.h major 2).withWb o.wb with
    dst := o.d, src0 := o.a.p.setWidth 8
    mod := modX false 2 o.sz ((0 : BitVec 1) ++ (bit o.a.neg ++ (0 : BitVec 2))) }

def ReduxOp.enc (o : ReduxOp) (minor : BitVec 6) : Raw :=
  { (Raw.ofHd o.h 9 minor).withWb o.wb with
    dst := o.d, src0 := o.a.field, mod := modX false o.ty.code o.sz (bit o.exc ++ o.op.code.setWidth 3)
    lsrc := lsrc o.a.isLatch false false }

/-- A minor of majors 0x0B and 0x0C: even for a V base, odd for an S base (R228). -/
def sMinor (even : BitVec 6) (b : Base) : BitVec 6 := if b.isS then even + 1 else even

def LdOp.enc (o : LdOp) (major even : BitVec 6) : Raw :=
  { (Raw.ofHd o.h major (sMinor even o.base)).withWb o.wb with
    dst := o.d, src0 := o.base.field, src2 := o.imm, mod := modM o.acc o.ty.code
    lsrc := lsrc o.base.isLatch false false }

def StOp.enc (o : StOp) (major even : BitVec 6) : Raw :=
  { Raw.ofHd o.h major (sMinor even o.base) with
    src0 := o.base.field, src1 := o.data.field, src2 := o.imm, mod := modM o.acc o.ty.code
    lsrc := lsrc o.base.isLatch o.data.isLatch false }

/-- The minor of R229. -/
def aMinor (b3 : Bool) (op : AOp) : BitVec 6 := (0 : BitVec 2) ++ (bit b3 ++ op.code)

def AtomOp.enc (o : AtomOp) (major : BitVec 6) : Raw :=
  let r := { (Raw.ofHd o.h major (aMinor o.base.isS o.op)).withWb o.wb with
    dst := o.d, src0 := o.base.field, mod := modM o.acc o.ty.code }
  match o.arg with
  | .one b i => { r with src1 := b.field, src2 := i, lsrc := lsrc o.base.isLatch b.isLatch false }
  | .cas c n => { r with src1 := c.field, src2 := n.field, lsrc := lsrc o.base.isLatch c.isLatch n.isLatch }

/-- The option field of R305. -/
def barOpt (b : Base) (wm : Bool) : BitVec 5 := (0 : BitVec 3) ++ (bit b.isS ++ bit wm)

def BarOp.enc (o : BarOp) (minor : BitVec 6) : Raw :=
  { (Raw.ofHd o.h 0x10 minor).withWb o.wb with
    dst := o.d, src0 := o.base.field, src1 := o.data.field, src2 := o.imm
    mod := modM o.acc (barOpt o.base o.wm), lsrc := lsrc o.base.isLatch o.data.isLatch false }

/-- A word of majors 0x11 to 0x16 whose fields are tags, tiles, convoys, S registers and numbers. -/
def encC (h : Hd) (major minor : BitVec 6) (d a b c : BitVec 8) (m : BitVec 13) : Raw :=
  { Raw.ofHd h major minor with dst := d, src0 := a, src1 := b, src2 := c, mod := m }

/-- The same with the guard PT. -/
def encP (k : Ctl) (major minor : BitVec 6) (d a b c : BitVec 8) (m : BitVec 13) : Raw :=
  { Raw.ofPt k major minor with dst := d, src0 := a, src1 := b, src2 := c, mod := m }

/-- A 6-, 4- or 3-bit register number as a field. -/
abbrev fld {n : Nat} (x : BitVec n) : BitVec 8 := x.setWidth 8

def Endp.field : Endp → BitVec 8
  | .entry m => m
  | .convoy c => fld c

def Endp.isConvoy : Endp → Bool
  | .entry _ => false
  | .convoy _ => true

/-- The fields of an instruction; none for a step that is no instruction. -/
def Instr.raw : Instr → Option Raw
  | .nop k => some (Raw.ofPt k 0 0)
  | .nextSeg k s => some (encP k 0 1 0 0 s 0 0)
  | .nextp k p t f => some (encP k 0 2 0 (fld p) t f 0)
  | .nextx k s i => some (encP k 0 3 0 (fld s) 0 i 0)
  | .call k a b => some (encP k 0 4 0 0 a b 0)
  | .ret k i => some (encP k 0 5 0 0 0 i 0)
  | .exit k => some (encP k 0 6 0 0 0 0 0)
  | .waitTok h wm m => some (encC h 0 7 0 0 0 m ((0 : BitVec 12) ++ bit wm))
  | .waitClk h wm n => some (encC h 0 7 0 0 0 n ((1 : BitVec 12) ++ bit wm))
  | .trap h c => some (encC h 0 8 0 0 0 c 0)
  | .assert h s p => some (encC h 0 9 0 (fld s) 0 0 ((0 : BitVec 9) ++ p.opm))
  | .bkpt h c => some (encC h 0 10 0 0 0 c 0)
  | .iadd o => some (o.enc 1 0)
  | .isub o => some (o.enc 1 1)
  | .iadd3 o => some (o.enc 1 2)
  | .imul o => some (o.enc 1 3)
  | .imulhi o => some (o.enc 1 4)
  | .imad o => some (o.enc 1 5)
  | .imin o => some (o.enc 1 6)
  | .imax o => some (o.enc 1 7)
  | .iabs o => some (o.enc 1 8)
  | .ineg o => some (o.enc 1 9)
  | .and o => some (o.enc 2 0)
  | .or o => some (o.enc 2 1)
  | .xor o => some (o.enc 2 2)
  | .not o => some (o.enc 2 3)
  | .lop3 o => some { (Raw.ofHd o.h 2 4).withWb o.wb with
      dst := o.d, src0 := o.a.field, src1 := o.b.field, src2 := o.table
      mod := modA true o.ty.code false o.b.isS 0, lsrc := lsrc o.a.isLatch o.b.isLatch false }
  | .shl o => some (o.enc 2 5)
  | .shr o => some (o.enc 2 6)
  | .sar o => some (o.enc 2 7)
  | .rotl o => some (o.enc 2 8)
  | .funnel o => some (o.enc 2 9)
  | .bfx o => some (o.enc 3 0)
  | .bfi o => some (o.enc 3 1)
  | .popc o => some (o.enc 3 2)
  | .clz o => some (o.enc 3 3)
  | .ctz o => some (o.enc 3 4)
  | .brev o => some (o.enc 3 5)
  | .permb o => some (o.enc 3 6)
  | .sel o => some { ((Raw.ofHd o.h 3 7).withWb o.wb).withB o.b with
      dst := o.d, src0 := o.a.field, mod := modA o.b.isImm o.ty.code false o.b.isS ((0 : BitVec 1) ++ o.p.opm)
      lsrc := lsrc o.a.isLatch o.b.isLatch false }
  | .mov o => some { (Raw.ofHd o.h 3 8).withWb o.wb with
      dst := o.d, src1 := o.b.field, mod := modA false o.ty.code false o.b.isS 0
      lsrc := lsrc false o.b.isLatch false }
  | .movi o => some { (Raw.ofHd o.h 3 9).withWb o.wb with
      dst := o.d, src2 := o.imm, mod := modA true o.ty.code false false 0 }
  | .movk o => some { (Raw.ofHd o.h 3 10).withWb o.wb with
      dst := o.d, src2 := o.imm, mod := modA true o.ty.code false false (o.k.setWidth 5) }
  | .icmp o => some { (Raw.ofHd o.h 4 0).withB o.b with
      dst := fld o.p, src0 := o.a.field
      mod := modA o.b.isImm o.ty.code false o.b.isS (o.comb.code ++ o.cond.code)
      lsrc := lsrc o.a.isLatch o.b.isLatch false }
  | .pset o => some (encC o.h 4 1 (fld o.p) (fld o.a.p) (fld o.b.p) 0
      (modA false 0 false false ((0 : BitVec 1) ++ (bit o.b.neg ++ (bit o.a.neg ++ o.op.psetCode)))))
  | .pmov o => some { Raw.ofHd o.h 4 2 with
      dst := fld o.p, src0 := o.a.field, src2 := o.bit, mod := modA true 0 false false 0
      lsrc := lsrc o.a.isLatch false false }
  | .sadd o => some (o.enc 0)
  | .ssub o => some (o.enc 1)
  | .smul o => some (o.enc 2)
  | .sand o => some (o.enc 3)
  | .sor o => some (o.enc 4)
  | .sxor o => some (o.enc 5)
  | .sshl o => some (o.enc 6)
  | .sshr o => some (o.enc 7)
  | .smov o => some (o.enc 8)
  | .smovi o => some (o.enc 9)
  | .scmp o => some (match o.b with
    | .imm i => encP o.k 5 10 (fld o.d) (fld o.a) 0 i (modA true o.ty.code false false ((0 : BitVec 2) ++ o.cond.code))
    | .s n => encP o.k 5 10 (fld o.d) (fld o.a) (fld n) 0 (modA false o.ty.code false false ((0 : BitVec 2) ++ o.cond.code)))
  | .movsr o => some { (Raw.ofHd o.h 5 11).withWb o.wb with
      dst := o.d, src0 := o.name.code
      mod := modA false (if o.name = .clock then 3 else 2) false false 0 }
  | .fadd o => some (o.enc 6 0)
  | .fsub o => some (o.enc 6 1)
  | .fmul o => some (o.enc 6 2)
  | .ffma o => some (o.enc 6 3)
  | .fmin o => some (o.enc 6 4)
  | .fmax o => some (o.enc 6 5)
  | .fcmp o => some { (Raw.ofHd o.h 6 6).withB o.b with
      dst := fld o.p, src0 := o.a.field
      mod := modA o.b.isImm o.ty.code false o.b.isS (o.comb.code ++ o.cond.code)
      lsrc := lsrc o.a.isLatch o.b.isLatch false }
  | .fclass o => some (o.enc 6 7)
  | .frnd o => some { (Raw.ofHd o.h 6 8).withWb o.wb with
      dst := o.d, src0 := o.a.field
      mod := modA false o.ty.code false false (rmCode o.rm ++ (bit o.absA ++ bit o.negA))
      lsrc := lsrc o.a.isLatch false false }
  | .frcp o => some (o.enc 7 0)
  | .frsq o => some (o.enc 7 1)
  | .fsqrt o => some (o.enc 7 2)
  | .fexp2 o => some (o.enc 7 3)
  | .flog2 o => some (o.enc 7 4)
  | .fsin o => some (o.enc 7 5)
  | .fcos o => some (o.enc 7 6)
  | .ftanh o => some (o.enc 7 7)
  | .cvt o => some (o.enc 0)
  | .cvtsr o => some (o.enc 1)
  | .qenc o => some (o.enc 2)
  | .qdec o => some (o.enc 3)
  | .pack2 o => some { (Raw.ofHd o.h 8 4).withWb o.wb with
      dst := o.d, src0 := o.a.field, src1 := o.b.field, mod := modK o.dt .f32 o.rm
      lsrc := lsrc o.a.isLatch o.b.isLatch false }
  | .unpack2 o => some (o.enc 5)
  | .shfl o => some (o.enc 9)
  | .vote o => some (o.enc 9)
  | .ballot o => some (o.enc 9)
  | .redux o => some (o.enc 3)
  | .scan o => some (o.enc 4)
  | .matchLanes o => some { (Raw.ofHd o.h 9 5).withWb o.wb with
      dst := o.d, src0 := o.a.field, mod := modX false o.ty.code o.sz 0, lsrc := lsrc o.a.isLatch false false }
  | .bcast o => some { (Raw.ofHd o.h 9 6).withWb o.wb with
      dst := o.d, src0 := o.a.field, src2 := o.k.getD 0
      mod := modX o.k.isSome o.ty.code o.sz (if o.k.isSome then 0 else 1)
      lsrc := lsrc o.a.isLatch false false }
  | .shfl16 o => some (o.enc 10)
  | .vote16 o => some (o.enc 10)
  | .ballot16 o => some (o.enc 10)
  | .ld o => some (o.enc 0x0B 0)
  | .st o => some (o.enc 0x0B 2)
  | .ldx o => some { (Raw.ofHd o.h 0x0B (sMinor 4 o.base)).withWb o.wb with
      dst := o.d, src0 := o.base.field, src1 := o.idx.field, mod := modM o.acc o.ty.code
      lsrc := lsrc o.base.isLatch o.idx.isLatch false }
  | .stx o => some { Raw.ofHd o.h 0x0B (sMinor 6 o.base) with
      src0 := o.base.field, src1 := o.data.field, src2 := o.idx.field, mod := modM o.acc o.ty.code
      lsrc := lsrc o.base.isLatch o.data.isLatch o.idx.isLatch }
  | .pref o => some { Raw.ofHd o.h 0x0B (sMinor 8 o.base) with
      src0 := o.base.field, src2 := o.imm, mod := (0 : BitVec 12) ++ bit o.llc
      lsrc := lsrc o.base.isLatch false false }
  | .cctlIv h b i => some { Raw.ofHd h 0x0B 10 with
      src0 := b.field, src2 := i, lsrc := lsrc b.isLatch false false }
  | .cctlIvall h => some (encC h 0x0B 10 0 0 0 0 1)
  | .ldl o => some (o.enc 0x0C 0)
  | .stl o => some (o.enc 0x0C 2)
  | .accrd o => some { (Raw.ofHd o.h 0x0C (sMinor 4 o.base)).withWb o.wb with
      dst := o.d, src0 := o.base.field, src2 := o.imm, mod := (0 : BitVec 8) ++ o.ty.code
      lsrc := lsrc o.base.isLatch false false }
  | .accwr o => some { Raw.ofHd o.h 0x0C (sMinor 6 o.base) with
      src0 := o.base.field, src1 := o.data.field, src2 := o.imm, mod := (0 : BitVec 8) ++ o.ty.code
      lsrc := lsrc o.base.isLatch o.data.isLatch false }
  | .atom o => some (o.enc 0x0D)
  | .atoml o => some (o.enc 0x0E)
  | .red o => some { Raw.ofHd o.h 0x0F (aMinor o.base.isS o.op) with
      src0 := o.base.field, src1 := o.data.field, src2 := o.imm, mod := modM o.acc o.ty.code
      lsrc := lsrc o.base.isLatch o.data.isLatch false }
  | .fence o => some (encC o.h 0x10 0 0 0 0 0 (match o.dom with
    | some d => d.code ++ (o.scope.code ++ (0 : BitVec 7))
    | none => (0 : BitVec 3) ++ (o.scope.code ++ (8 : BitVec 7))))
  | .bridge o => some (encC o.h 0x10 1 0 0 0 0 (o.x.code ++ (o.scope.code ++ (o.y.code ++ (0 : BitVec 4)))))
  | .barinit o => some { Raw.ofHd o.h 0x10 2 with
      src0 := o.base.field, src1 := o.data.field, src2 := o.imm, mod := modM o.acc (barOpt o.base false)
      lsrc := lsrc o.base.isLatch o.data.isLatch false }
  | .bararrive o => some (o.enc 3)
  | .barwait o => some (o.enc 4)
  | .bartest o => some (o.enc 5)
  | .blksync o => some (encC o.h 0x10 6 0 0 0 0 (modM o.acc ((0 : BitVec 4) ++ bit o.wm)))
  | .cpy o =>
    let r := { Raw.ofHd o.h 0x11 0 with dst := fld o.tag, src0 := o.src.field, src1 := o.dst.field }
    some (match o.cnt with
      | .imm i => { r with src2 := i, mod := modC o.acc (o.dir.code ++ (bit true ++ o.sz))
                           lsrc := lsrc o.src.isLatch o.dst.isLatch false }
      | .v x => { r with src2 := x.field, mod := modC o.acc (o.dir.code ++ (bit false ++ o.sz))
                         lsrc := lsrc o.src.isLatch o.dst.isLatch x.isLatch })
  | .tcpy o => some (encC o.h 0x11 1 (fld o.tag) (fld o.rcd) (fld o.org) (fld o.dense)
      (modC o.acc (bit o.fo ++ (0 : BitVec 4))))
  | .cpywait h any m => some (encC h 0x11 2 0 (fld m) 0 0 ((0 : BitVec 12) ++ bit any))
  | .tagff h d m => some (encC h 0x11 3 (fld d) (fld m) 0 0 0)
  | .tagrd h d g => some (encC h 0x11 4 (fld d) 0 0 (fld g) 0)
  | .tcfg h t v => some (encC h 0x12 0 (fld t) (fld v) 0 0 0)
  | .tld o => some (encC o.h 0x12 1 (fld o.tag) (fld o.addr) 0 (fld o.tile) (modC o.acc 0))
  | .tst o => some (encC o.h 0x12 2 (fld o.tag) (fld o.addr) 0 (fld o.tile) (modC o.acc 0))
  | .tzero h g t => some (encC h 0x12 3 (fld g) 0 0 (fld t) 0)
  | .tmma h g a => some (encC h 0x12 4 (fld g) (fld a) 0 0 0)
  | .tdrain o => some (encC o.h 0x12 5 (fld o.tag) (fld o.desc) (fld o.org) (fld o.org2) (modC o.acc (opm0 o.clr)))
  | .tacc h add g t b => some (encC h 0x12 6 (fld g) (fld b) 0 (fld t) ((0 : BitVec 12) ++ bit add))
  | .tstat h d => some (encC h 0x12 7 (fld d) 0 0 0 0)
  | .xld o => some { (Raw.ofHd o.h 0x13 (if o.ep.isConvoy then 1 else 0)).withWb o.wb with
      dst := o.d, src0 := o.ep.field, src1 := o.off.field, mod := modM o.acc o.ty.code
      lsrc := lsrc false o.off.isLatch false }
  | .xst o => some { Raw.ofHd o.h 0x13 (if o.ep.isConvoy then 3 else 2) with
      src0 := o.ep.field, src1 := o.off.field, src2 := o.data.field, mod := modM o.acc o.ty.code
      lsrc := lsrc false o.off.isLatch o.data.isLatch }
  | .xatom o => some { (Raw.ofHd o.h 0x14 (aMinor o.ep.isConvoy o.op)).withWb o.wb with
      dst := o.d, src0 := o.ep.field, src1 := o.off.field, src2 := o.data.field, mod := modM o.acc o.ty.code
      lsrc := lsrc false o.off.isLatch o.data.isLatch }
  | .xsend h a g d b => some (encC h 0x13 4 (fld g) (fld d) (fld b) 0 (modC a 0))
  | .cvopen h c e => some (encC h 0x13 5 (fld c) (fld e) 0 0 0)
  | .cvclose h c => some (encC h 0x13 6 (fld c) 0 0 0 0)
  | .fencef h d c b n => some (encC h 0x13 7 (fld c) (fld b) 0 n (d.code ++ (Scope.fab.code ++ (0 : BitVec 7))))
  | .slotrsv h d e b => some (encC h 0x13 8 (fld d) (fld e) (fld b) 0 0)
  | .slotrel h j => some (encC h 0x13 9 0 (fld j) 0 0 0)
  | .slotrelFault h j => some (encC h 0x13 9 0 (fld j) 0 0 1)
  | .chunk k c => some (encP k 0x13 10 0 (fld c) 0 0 0)
  | .waymark k d vg => some (encP k 0x15 0 0 (fld d) 0 (fld vg) 0)
  | .legrd h d => some (encC h 0x15 1 (fld d) 0 0 0 0)
  | .irrev h => some (encC h 0x15 2 0 0 0 0 0)
  | .grow k n => some (encP k 0x16 0 0 0 0 (fld n) 0)
  | .shrink k n => some (encP k 0x16 1 0 0 0 (fld n) 0)
  | .locq h kind d a => some (encC h 0x16 2 (fld d) (fld a) 0 0 ((0 : BitVec 11) ++ kind.code))
  | .launch k d r q => some (encP k 0x16 3 (fld d) (fld r) (fld q) 0 0)
  | .prio k p => some (encP k 0x16 4 0 (fld p) 0 0 0)
  | .rfeRegion k => some (encP k 0x17 0 0 0 0 0 0)
  | .rfeNext k => some (encP k 0x17 0 0 0 0 0 1)
  | .ctlrd h d c => some (encC h 0x17 1 (fld d) c.code 0 0 0x100)
  | .ctlwr h c s => some (encC h 0x17 2 0 c.code (fld s) 0 0x100)
  | .traprd h d k => some (encC h 0x17 3 (fld d) 0 0 (fld k) 0x1100)
  | _ => none

/-- The slot control and word of a native instruction; none for a step that is no instruction. -/
def encode (i : Instr) : Option (BitVec 20 × Dword) := i.raw.map fun r => (r.ctl, r.word)

/-- The decoder on a word of the opcode table's numbering: one 64-bit instruction word, in a slot whose control is
zero; a word that only lacks a token there (XLD, R338) is read with SETT set, and one of major 0x0A in legacy mode. -/
def decodeTableWord (nbits w : Nat) : Option Instr :=
  if nbits > 64 then none
  else
    let d := BitVec.ofNat 64 w
    let legacy := d.extractLsb' 58 6 == 0x0A
    match decodeSlot legacy 0 d with
    | .illegalWord _ _ .slotControl =>
      match decodeSlot legacy 0x10000 d with
      | .illegalWord _ _ _ => none
      | i => some i
    | .illegalWord _ _ _ => none
    | i => some i

end Sys2Proof
end

