-- ==== Sys2Proof/Config.lean ====
section
/-! DEFINITION. What the specification leaves open, as constants without a body: nothing in Lean can evaluate them
or prove a value of them. Each is named in notes/assumptions. -/

namespace Sys2Proof

/-- Free bytes (log 3): reads of peer MMIO (R456), contents that are lost (R37). -/
opaque Config.freeByte : Nat → Byte

/-- Free words (log 3): V registers released by SHRINK (R37). -/
opaque Config.freeWord : Nat → Word

/-- Free 64-bit values (log 3). -/
opaque Config.freeDword : Nat → Dword

/-- Seeds of the stochastic generators (R118, log 9): per core, partition and draw number. -/
opaque Config.seed : Nat → Nat → Nat → Word

/-- How far a core's CLOCK is ahead of the package aclk count (R17, log 4). -/
opaque Config.clockOffset : Nat → Nat

/-- The home slice of a line among the 32 slices of its base die (R67, log 12). -/
opaque Config.sliceHash : Nat → BitVec 5

/-- Candidate results of the special functions (R269, log 10), by minor and FP32 input: kept only inside the bound. -/
opaque Config.special : Nat → Word → Word

/-- SHA-512 (R420, R430, R433, log 11). -/
opaque Config.sha512 : List Byte → List Byte

/-- Ed25519 signatures of the identity key (first) and the translation key over a message (R428, log 11). -/
opaque Config.signIdentity : List Byte → List Byte
opaque Config.signTranslation : List Byte → List Byte

/-- What an image holds, where its size fits (R420, log 11): its FWSVN, public key, signature and body. The header's layout is
not given. -/
opaque Config.imageParts : List Byte → Option (Nat × List Byte × List Byte × List Byte)

/-- Ed25519 verification of an image: public key, signature, message (R420, log 11). -/
opaque Config.verify : List Byte → List Byte → List Byte → Bool

/-- The digest of the public key fused at manufacture (R420, log 11). -/
opaque Config.fusedKeyDigest : List Byte

/-- The identity public key, the translation public key and the endorsement certificate (R416, R428, log 11). -/
opaque Config.identityKey : List Byte
opaque Config.translationKey : List Byte
opaque Config.certificate : List Byte

/-- The flits of a packet, each as its header and its text (R476, log 95): the layout of a flit is not given. -/
opaque Config.flits : Packet → List (List Byte × List Byte)

/-- The flits of a message that is no packet, by a free count (R476, log 110). -/
opaque Config.msgFlits : Nat → List (List Byte × List Byte)

/-- AES-256-GCM (R476, log 95): key, IV, additional data and plain text to cipher text and tag. -/
opaque Config.aesGcm : BitVec 256 → BitVec 96 → List Byte → List Byte → List Byte × BitVec 128

end Sys2Proof
end

