-- ==== Sys2Proof/Machine/State.lean ====
section
/-! DEFINITION. The state of the machine: one package, its fabric side and what it has sent out, as plain data. -/

namespace Sys2Proof.Machine

/-! ## Traps (R355, R357) -/

/-- The trap record of R357; bits [216] and [197:192] are reserved and zero. -/
structure TrapRec where
  addr : Dword := 0
  iword : Dword := 0
  leg : Word := 0
  block : Word := 0
  node : Word := 0
  lanes : LaneMask := 0
  slotctl : BitVec 20 := 0
  tag : BitVec 6 := 0
  group : BitVec 5 := 0
  lane : BitVec 5 := 0
  iret : Bool := false
  eng : Bool := false
  hm : Bool := false
  code : BitVec 8 := 0
  sub : BitVec 4 := 0
  cause : BitVec 6 := 0
  pc : Dword := 0
  region : Dword := 0
  clock : Dword := 0
  deriving DecidableEq, Repr

/-! ## Kernels (R406 to R408) -/

/-- A constant-table entry (R408): register and value, or argument number. -/
structure KConst where
  reg : BitVec 6
  arg : Option Nat
  value : Word
  deriving DecidableEq, Repr

/-- The kernel header fields (R406) with its address. -/
structure Kernel where
  addr : Nat := 0
  consts : List KConst := []
  codeSize : Nat := 0
  codeOff : Nat := 0
  segOff : Nat := 0
  nseg : Nat := 0
  /-- serai: offset, slot size and slot count -/
  serai : Option (Nat × Nat × Nat) := none
  wmgrp : Nat := 0
  wmsize : Nat := 0
  stackw : Nat := 0
  locKiB : Nat := 0
  stages : Nat := 1
  acc : Nat := 0
  tiles : Nat := 0
  regs : Nat := 1
  mode : Word := 0
  extuse : Bool := false
  fused : Bool := false
  legacy : Bool := false
  deriving DecidableEq, Repr

/-- Handler mode of a group (R356): the record handled, the FLOOR register (R362), the lanes that are in the
handler, and a number below those of the handler's remote operations (R502). -/
structure TrapCtx where
  record : TrapRec
  floor : Word
  /-- the handler entered (R468) -/
  kern : Kernel
  lanes : LaneMask
  opBase : Nat
  deriving DecidableEq, Repr

/-! ## What orders accesses (R71, R79 to R84, log 14) -/

/-- Who makes an access: for scopes, faults and records. -/
structure Agent where
  core : Nat
  slot : Nat
  gen : Word
  grp : Nat
  lane : Nat
  ctx : Nat
  deriving DecidableEq, Repr

/-- What the last edge of a chain is: preserved program order, whose scope the next event narrows; a fence or bridge; or
another synchronisation (R84). -/
inductive Edge where
  | ppo | fence | sync
  deriving DecidableEq, Repr

/-- Store number `id` is before an event, along a chain of edges whose scope instances are those of `via` (R84); `causal`
says that it is a chain of CO accesses alone (R89). -/
structure Before where
  id : Nat
  via : List (Agent × Scope) := []
  edge : Edge := .sync
  causal : Bool := false
  deriving DecidableEq, Repr

/-- An event of a thread, of domain `dom` at scope `scope`, and a store at or before it: its coherence point, or one that
is before it in hb (R84, R85). -/
structure Past where
  dom : Dom
  scope : Scope
  b : Before
  deriving DecidableEq, Repr

/-- Stores that fences of another thread put before a store that this one has read, in domain `dom` (R82). -/
structure Seen where
  dom : Dom
  who : Agent
  els : List Before
  deriving DecidableEq, Repr

/-- A release that a reader of a store synchronises with (R81): who made it, and the stores before it. -/
structure Rel where
  id : Nat
  who : Agent
  dom : Dom
  scope : Scope
  before : List Before
  deriving DecidableEq, Repr

/-! ## Threads, issue groups, groups (R12, R13, R29) -/

/-- A thread: present and exited flags, predicates, return stack (R239), region entry (R39), latches (R223, none is
invalid), and what orders its accesses: per domain the stores before all its later accesses (R80 to R82), its events so far,
what fenced stores it has read, and its own stores whose bytes its loads have had before the home (R76, R95). -/
structure Thread where
  present : Bool := false
  exited : Bool := false
  preds : BitVec 7 := 0
  stack : List (BitVec 12) := []
  region : Dword := 0
  latches : List (Option Dword) := [none, none, none, none]
  ahead : List (Dom × Before) := []
  past : List Past := []
  seen : List Seen := []
  fed : List Nat := []
  deriving DecidableEq, Repr

/-- The block and address a lane waits on in BARWAIT: local offset and phase token. -/
structure BarLane where
  lane : Nat
  off : Nat
  phase : Bool
  deriving DecidableEq, Repr

/-- Why an issue group does not issue. -/
inductive Wait where
  /-- runnable -/
  | none
  /-- WAIT.TOK on the tokens of a mask (R242); `wm` as in R243 -/
  | tok (mask : BitVec 8) (wm : Bool)
  /-- the WAIT of a slot control (R390) -/
  | slot (mask : BitVec 8)
  /-- until an aclk count (R242) -/
  | clk (till : Nat) (wm : Bool)
  /-- BARWAIT (R310), with its operands as read at issue -/
  | bar (lanes : List BarLane) (o : BarOp)
  /-- CPYWAIT (R325) -/
  | cpy (mask : Dword) (any : Bool) (lanes : LaneMask)
  /-- BLKSYNC (R312) -/
  | sync (wm : Bool)
  /-- held at GROW or SHRINK of n granules (R38) -/
  | grow (up : Bool) (n : Nat)
  /-- held at WAYMARK (R184): `parked` once it counts as a seal point -/
  | way (d : BitVec 6) (vg : Nat) (parked : Bool)
  /-- custody hold at a region entry (R156) -/
  | custody
  /-- held at a CHUNK (R347) -/
  | chunk
  deriving DecidableEq, Repr

/-- An issue group (R29): the threads of one group that issue together. -/
structure IGroup where
  id : Nat
  mask : LaneMask
  pc : Dword
  wait : Wait := .none
  /-- order of joining the runnable ones (R384) -/
  since : Nat := 0
  /-- allotment its instructions may name, in granules (R36, R37) -/
  allot : Nat
  /-- its threads are in handler mode (R356) -/
  handler : Bool := false
  /-- reached its bundle by a terminator, RFE or restart (R27) -/
  jumped : Bool := true
  /-- the region entry of its bundle has been passed (R39, R156) -/
  entered : Bool := false
  /-- the wait of the slot about to issue has been passed (R390) -/
  waited : Bool := false
  /-- a trap to deliver before its next instruction (R195, R347) -/
  trap : Option TrapRec := none
  /-- what the completed bank requests of the LDL or ATOML at its PC have answered (R53): by bank word and lane for LDL, by lane
  for ATOML -/
  got : KMap Dword := []
  deriving DecidableEq, Repr

/-- A register-writing result whose token is pending (R219); `remote` results wait for a reply. -/
structure Result where
  id : Nat
  tok : Option (BitVec 3)
  remote : Bool := false
  deriving DecidableEq, Repr

/-- Where a remote result goes. -/
inductive RDest where
  /-- XLD and returning XATOM, with the lanes whose latch it still writes (R28, R223) -/
  | v (d : BitVec 8) (wb : Wb) (ty : Ty) (latch : LaneMask)
  /-- SLOTRSV and LAUNCH -/
  | s (d : BitVec 6)
  | nothing
  deriving DecidableEq, Repr

/-- A remote operation of a group (R155, R156, R164, R345). -/
structure RemOp where
  id : Nat
  /-- packets not yet answered, with the lanes each serves -/
  pkts : List (Nat × LaneMask)
  dest : RDest
  result : Nat
  dom : Dom
  scope : Scope
  acquire : Bool
  /-- holds its group at region entries: a store or atomic outside UB, or FENCEF (R156) -/
  custody : Bool
  /-- lanes whose guard held, and the threads of the issue group that issued it (R399) -/
  lanes : LaneMask
  threads : LaneMask
  /-- the trap record of its issue, for its lowest lane (R164) -/
  issue : TrapRec
  /-- values by lane received so far -/
  got : KMap Dword := []
  /-- a trap has abandoned it: its reply is discarded, its custody is not (R40) -/
  abandoned : Bool := false
  deriving DecidableEq, Repr

/-- A negative reply to deliver (R164, R502); `irrev` where the target was irrevocable (R199). -/
structure NegReply where
  sub : BitVec 4
  /-- tokens whose first wait delivers it -/
  tok : Option (BitVec 3)
  irrev : Bool := false
  /-- the threads of the issue group that issued the operation, and the lanes refused whose threads have not taken it (R399) -/
  threads : LaneMask
  refused : LaneMask
  /-- the record of its issue -/
  issue : TrapRec
  op : Nat
  deriving DecidableEq, Repr

/-- Where a group is. -/
inductive GPlace where
  | resident
  /-- asked at a time to stop at its next segment end (R43) -/
  | stopping (since : Nat)
  /-- stopped and saved in the image at an address, alone (R445) -/
  | evicted (image : Nat)
  /-- released (R240) -/
  | released
  deriving DecidableEq, Repr

/-- A group (R13). -/
structure Group where
  idx : Nat
  part : Nat
  threads : List Thread
  igs : List IGroup
  /-- granules it owns (R35) -/
  allot : Nat
  v : KMap Word := []
  s : KMap Word := []
  mode : Word
  results : List Result := []
  ops : List RemOp := []
  negs : List NegReply := []
  trap : Option TrapCtx := none
  place : GPlace := .resident
  nextId : Nat := 0
  deriving DecidableEq, Repr

/-! ## Work (R409, R437, R438) -/

/-- A tile operand (R19). -/
structure TileOpnd where
  prod : Nat
  same : Bool
  m : List Int
  b : List Int
  e : List Nat
  deriving DecidableEq, Repr

/-- A node (R18, R438) with its kernel and launch record. -/
structure Node where
  kern : Kernel
  /-- address of its launch record -/
  lrec : Nat := 0
  wmbase : Nat
  threads : Nat
  args : List Word
  gx : Nat
  gy : Nat
  gz : Nat
  stages : Nat
  edges : List Nat
  tiles : List TileOpnd
  deriving DecidableEq, Repr

/-- A block-task: node, linear block index, stage (R16). -/
structure Task where
  node : Nat
  lin : Nat
  stage : Nat
  deriving DecidableEq, Repr

/-- An admitted itinerary (R18 to R20, R437 to R440). -/
structure Itin where
  id : Nat
  ctx : Nat
  queue : Nat
  /-- submitted by LAUNCH (R353) -/
  launched : Bool
  addr : Nat
  crec : Nat
  prio : Nat
  hold : Bool
  holdbuf : Nat
  released : Bool
  heldPosted : Bool
  nodes : List Node
  /-- retired block-tasks, with the time of each (R22, R442) -/
  retired : List (Task × Nat)
  placed : List Task
  /-- eligible logical cores (R441) -/
  cores : List Nat
  /-- block-tasks taken over by another die (R443) -/
  stolen : List (Task × Nat)
  /-- time of admission -/
  admittedAt : Nat
  leg : Word
  deriving DecidableEq, Repr

/-! ## Engine commands (R127 to R151, R317) -/

/-- A shape record (R131). -/
structure Shape where
  ord : Bool
  coll : Bool
  nofill : Bool
  geom : Bool
  fmt : Nat
  toTensor : Bool
  dtile : Bool
  dspace : Nat
  tspace : Nat
  scale : Word
  box : List Nat
  ext : List Nat
  stride : List Int
  tbase : Nat
  deriving DecidableEq, Repr

/-- A collective extension (R172). -/
structure Coll where
  rmask : Dword
  cmask : Dword
  seqbase : Word
  roff : Int
  mbase : Nat
  rank : Nat
  nranks : Nat
  rdim : Nat
  rop : Nat
  deriving DecidableEq, Repr

/-- A tile's configuration (R141). -/
structure TileCfg where
  fmt : Nat
  rows : Nat
  rowb : Nat
  deriving DecidableEq, Repr

/-- A matrix multiply (R331, R332) with the tile configurations checked at issue and the next sub-block. -/
structure Mma where
  z : Bool
  ta : Nat
  tb : Nat
  ca : TileCfg
  cb : TileCfg
  abase : Nat
  next : Nat
  desc : Word
  deriving DecidableEq, Repr

/-- One lane of a CPY (R319). -/
structure CpyLane where
  lane : Nat
  src : Nat
  dst : Nat
  cnt : Nat
  deriving DecidableEq, Repr

/-- A barrier word credited by a command (R320, R321, R342): its local offset. -/
abbrev BarRef := Option Nat

/-- Where the dense side of a TCPY lies (R320). -/
inductive Dense where
  | tile (t : Nat) (c : TileCfg)
  | at (base : Nat)
  deriving DecidableEq, Repr

/-- What a command does. -/
inductive CmdOp where
  | cpy (dir : CpyDir) (n : Nat) (lanes : List CpyLane)
  | tcpy (sh : Shape) (org : List Int) (dense : Dense) (coll : Option Coll) (bar : BarRef) (fo : Option Mma)
  | tld (t : Nat) (c : TileCfg) (a : Nat)
  | tst (t : Nat) (c : TileCfg) (a : Nat)
  | tzero (t : Nat)
  | tmma (m : Mma)
  | tdrain (sh : Shape) (org : List Int) (sh2 : Option Shape) (org2 : List Int) (abase : Nat) (bar : BarRef)
      (clr : Bool)
  | tacc (t : Nat) (c : TileCfg) (base : Nat) (add : Bool)
  | xsend (src len dst : Nat) (bar : BarRef)
  deriving DecidableEq, Repr

/-- How far a command is. -/
inductive CmdState where
  | queued
  /-- its data has moved; its packets, or its follow-on, are not done -/
  | landed
  /-- its follow-on multiply runs or waits (R148) -/
  | follow
  deriving DecidableEq, Repr

/-- A manifest entry (R152), as its 256 bits. -/
abbrev Entry := BitVec 256

/-- A command that has issued (R317). -/
structure Cmd where
  id : Nat
  tag : Nat
  grp : Nat
  lanes : LaneMask
  pc : Dword
  iword : Dword
  slotctl : BitVec 20
  leg : Word
  mode : Word
  acc : CAcc
  op : CmdOp
  state : CmdState := .queued
  /-- its first page has been translated for the geometry of its tensor side (R133) -/
  begun : Bool := false
  /-- units of its work that are done, in any order (R92) -/
  did : List Nat := []
  /-- the number of all its stores -/
  store : Nat := 0
  /-- credit of the tag at first-hop custody has happened (R139, R157) -/
  credited : Bool := false
  /-- manifest entries: the endpoint named, or none -/
  entry : Option Nat := none
  /-- its own entry, or those of a collective's ranks, as their checks at issue found them (R466) -/
  mans : KMap Entry := []
  convoy : Option Nat := none
  /-- item number on its convoy (R160) -/
  item : Nat := 0
  /-- packets not yet past the first hop, and packets not yet acknowledged -/
  atSource : List Nat := []
  unacked : List Nat := []
  /-- stores that its reads wait for (R93) -/
  after : List Nat := []
  /-- partition of the issuing group, elements converted so far, and the generator for them (R118) -/
  part : Nat := 0
  conv : Nat := 0
  gen : Word := 0
  /-- rows of a remote source asked for, and its bytes received so far, by target offset -/
  asked : Nat := 0
  got : KMap Byte := []
  /-- what waits to be sent to a remote target: dense offset, target offset, bytes with masks; and the next packet -/
  buf : List (Nat × Nat × List (Byte × Byte)) := []
  pk : Nat := 0
  deriving DecidableEq, Repr

/-- A copy tag (R128) with the record of its fault (R140). -/
structure Tag where
  count : Nat := 0
  fault : Bool := false
  record : TrapRec := {}
  floor : Word := 0
  deriving DecidableEq, Repr

/-- A convoy of a block (R159, R160). -/
structure Convoy where
  entry : Option (BitVec 8) := none
  items : Nat := 0
  deriving DecidableEq, Repr

/-- An arrival at the block barrier (R312): thread, domain, scope. -/
structure Arrival where
  thread : Nat
  dom : Dom
  scope : Scope
  deriving DecidableEq, Repr

/-! ## Blocks (R14) -/

/-- A block resident in a slot. -/
structure Block where
  ctx : Nat
  itin : Nat
  task : Task
  nodeRec : Node
  bx : Nat
  by_ : Nat
  bz : Nat
  prio : Nat
  submitPrio : Nat
  gen : Word
  /-- core, slot and generation by which it was known before it moved (R193, R445, R447) -/
  names : List (Nat × Nat × Word) := []
  /-- held before its first issue (R440) -/
  held : Bool := false
  /-- arrival order on the package, the node age of R442 -/
  born : Nat
  /-- time of placement less time evicted, for the watchdog (R470) -/
  since : Nat
  groups : List Group
  mem : Memory := []
  acc : KMap Word := []
  /-- tile bytes at 32768 * tile + offset -/
  tiles : KMap Byte := []
  tcfg : List Word := [0, 0, 0, 0, 0, 0, 0, 0]
  tags : KMap Tag := []
  convoys : KMap Convoy := []
  barrier : List Arrival := []
  cmds : List Cmd := []
  nextCmd : Nat := 0
  /-- latest CHUNK declaration (R176) and the halt chunk in force -/
  chunk : Option Word := none
  halt : Option Word := none
  /-- a whole-block eviction is wanted (R444) or the seal's (R185) -/
  leaving : Bool := false
  /-- saved for the pending seal (R186): 0 no, 1 waymark area, 2 save image -/
  sealed : Nat := 0
  sealImage : Nat := 0
  deriving DecidableEq, Repr

/-! ## Memory system of a core (R55, R65, R73) -/

/-- Where a global or host access lands (R456). -/
inductive Tgt where
  | dev (pa : Nat)
  | host (a : Nat)
  | mmio (a : Nat)
  deriving DecidableEq, Repr

/-- Where a queued store lands. -/
inductive Place where
  | glob (t : Tgt)
  | loc (slot : Nat) (off : Nat)
  deriving DecidableEq, Repr

/-- What a queued store does: bytes with masks, or a RED of its lanes' contributions in ascending lane order (R64). -/
inductive Work where
  | bytes (bs : List (Byte × Byte))
  | red (op : AOp) (ty : Ty) (xs : List Dword)
  deriving DecidableEq, Repr

/-- An entry of a store queue (R73). -/
structure Store where
  id : Nat
  who : Agent
  dom : Dom
  scope : Scope
  rel : Bool
  place : Place
  work : Work
  /-- stores that must be performed first: fences (R80), causal tags (R73) -/
  after : List Nat
  /-- lanes that make it, of which `who` is the lowest -/
  lanes : LaneMask
  /-- what its release puts before it, and what fences have, by lane (R81, R82) -/
  rels : List Rel := []
  els : List (Agent × List Before) := []
  irrev : Bool
  leg : Word
  pc : Dword
  node : Word
  block : Word
  /-- the bank request that it is part of; 0 for none (R53) -/
  req : Nat := 0
  /-- the context of a packet's target, whose translation it uses; none for its own (R461, R466) -/
  tctx : Option Nat := none
  deriving DecidableEq, Repr

/-- An invalidation sent to a core (R73, R501) for store number `store`: on its way, or arrived and held by the filters that have
not applied it. -/
structure Inval where
  id : Nat
  store : Nat
  sector : Nat
  src : Agent
  /-- aclk of arrival -/
  arrived : Option Nat
  /-- domains whose filter has applied it since -/
  applied : List Dom
  /-- as its store's -/
  tctx : Option Nat := none
  deriving DecidableEq, Repr

/-- The last store to a run of bytes, while what it orders may still matter (R81, R82, R85): its place (of local memory, that of
core `core`), the releases that a reader synchronises with, and what fences put before it. -/
structure Mark where
  place : Place
  core : Nat
  len : Nat
  id : Nat
  rels : List Rel
  els : List (Agent × List Before)
  deriving DecidableEq, Repr

/-- A sector in an L1: the number of its filling, its bytes, and the marks of the stores that wrote them. -/
structure Sector where
  stamp : Nat
  bytes : List Byte
  marks : List Mark
  deriving DecidableEq, Repr

/-- The L1 of one physical core (R55, R56): 128 KiB in 256-byte lines of 64-byte sectors, and the invalidations sent to it. -/
structure L1 where
  sectors : KMap Sector := []
  invs : List Inval := []
  deriving DecidableEq, Repr

/-- A translation that is held (R65): a leaf with its attributes. -/
structure Xlate where
  ctx : Nat
  va : Nat
  size : Nat
  pa : Nat
  tgt : Nat
  fmt : Nat
  geom : Bool
  floor : Nat
  ext : Bool
  cp : Nat
  r : Bool
  w : Bool
  deriving DecidableEq, Repr

/-- A cached non-leaf entry (R461): the table of level `lvl` for a region of a context. -/
structure Upper where
  ctx : Nat
  va : Nat
  size : Nat
  lvl : Nat
  table : Nat
  deriving DecidableEq, Repr

/-- State of an absent-block table entry (R447). -/
inductive AbsentState where
  | absent
  | moved (slot : Nat)
  deriving DecidableEq, Repr

/-- An absent-block table entry (R447). -/
structure Absent where
  slot : Nat
  gen : Word
  ctx : Nat
  image : Nat
  state : AbsentState
  deriving DecidableEq, Repr

/-- A composite issue (R30, R384): the block, the PC of the slot that its constituents issue, the constituents by group and issue
group with the first one, whether one of them has met a scheduling point, and the generator state drawn for the slot (R274). -/
structure Comp where
  slot : Nat
  gen : Word
  pc : Dword
  lead : Nat × Nat
  igs : List (Nat × Nat)
  broken : Bool := false
  /-- a YIELD of the slot has switched and been counted (R393) -/
  yielded : Bool := false
  drawn : Option Word := none
  deriving DecidableEq, Repr

/-- A partition (R3, R117, R384). -/
structure Part where
  /-- slot, group and issue group now issuing -/
  cur : Option (Nat × Nat × Nat) := none
  gen : Word := 0
  genCtx : Option Nat := none
  comp : Option Comp := none
  /-- the last-page register of each lane (R65) -/
  last : KMap Xlate := []
  deriving DecidableEq, Repr

/-- A core (R3). -/
structure Core where
  slots : KMap Block := []
  /-- generation of each slot that has been bound or reset since boot (R467) -/
  gens : KMap Word := []
  stores : List Store := []
  /-- the core TLB (R65) -/
  tlb : List Xlate := []
  /-- entry bundles that the instruction cache holds, latest first: physical addresses (R396) -/
  icache : List Nat := []
  absent : List Absent := []
  fused : Bool := false
  parts : List Part := [{}, {}, {}, {}]
  /-- sub-blocks completed per context, and records lost (R124, R126) -/
  telCount : KMap Nat := []
  telLost : Nat := 0
  /-- power-gated or faulted (R163) -/
  off : Bool := false
  deriving DecidableEq, Repr

/-! ## Contexts (R435, R441, R452) -/

inductive CtxState where
  | free | live | stopped | ending | ended
  deriving DecidableEq, Repr

/-- A queue (R435). -/
structure Queue where
  base : BitVec 58 := 0
  err : Bool := false
  en : Bool := false
  host : Bool := false
  log2n : BitVec 5 := 4
  tail : Word := 0
  head : Word := 0
  deriving DecidableEq, Repr

/-- A record for the host that waits for a cut (R201): a completion record with its address, or an event. -/
inductive HostRec where
  | completion (crec : Nat) (itin : Nat) (clock : Dword) (node : Nat) (reason status : Nat)
  | event (kind : Nat) (arg : Word) (addr : Dword) (clock : Dword)
  deriving DecidableEq, Repr

/-- A context. -/
structure Ctx where
  state : CtxState := .free
  cause : BitVec 8 := 0
  manerr : Bool := false
  herr : Bool := false
  pasid : BitVec 20 := 0
  halttrap : Bool := false
  rbnote : Bool := false
  bkpten : Bool := false
  hseg : BitVec 12 := 0
  handler : BitVec 57 := 0
  /-- the handler's header as read at its install (R468) -/
  hkern : Kernel := {}
  ptroot : BitVec 33 := 0
  wdog : Word := 10000
  telbase : BitVec 59 := 0
  telTail : BitVec 16 := 0
  telHead : BitVec 16 := 0
  telLog2n : BitVec 5 := 0
  manlen : BitVec 9 := 0
  invva : BitVec 36 := 0
  /-- INVVA as the running invalidation took it (R460) -/
  invAt : BitVec 36 := 0
  invBusy : Bool := false
  invErr : Bool := false
  invSeq : BitVec 16 := 0
  invSize : BitVec 2 := 0
  invKind : BitVec 2 := 0
  fault : TrapRec := {}
  ingress : KMap Dword := []
  queues : KMap Queue := []
  maxprio : BitVec 8 := 255
  agek : BitVec 5 := 31
  steal : Bool := true
  dset : BitVec 57 := 0
  savebase : BitVec 48 := 0
  saveunits : Word := 0
  evbase : BitVec 59 := 0
  evDropped : BitVec 16 := 0
  evTail : BitVec 16 := 0
  evHead : BitVec 16 := 0
  evLog2n : BitVec 5 := 6
  manifest : KMap Entry := []
  staged : KMap (BitVec 192) := []
  /-- bytes outstanding per entry (R154) -/
  sent : KMap Nat := []
  /-- recovery domain (R482) -/
  domain : Option Nat := none
  /-- records for the host that wait for a cut (R201) -/
  waiting : List HostRec := []
  deriving DecidableEq, Repr

/-! ## Fabric (R156, R473 to R480) -/

inductive PortState where
  | down | up | held | retired
  deriving DecidableEq, Repr

/-- A key of a port direction: index and bits (R477). -/
structure Key where
  idx : BitVec 8
  bits : BitVec 256
  deriving DecidableEq, Repr

/-- One direction of a port. -/
structure PortDir where
  cur : Option Key := none
  next : Option Key := none
  /-- flit counter (R476, R477) -/
  ctr : Nat := 0
  deriving DecidableEq, Repr

/-- A Dvored Link port (R479). -/
structure Port where
  state : PortState := .down
  rcause : BitVec 3 := 0
  keylow : Bool := false
  tx : PortDir := {}
  rx : PortDir := {}
  /-- times of recently dropped flits (R475) -/
  drops : List Nat := []
  heldAt : Nat := 0
  deriving DecidableEq, Repr

/-- Where a packet of this package is. -/
inductive PktAt where
  | source
  /-- in custody of the gateway of a base die -/
  | gateway (base : Nat)
  /-- sent on a port, custody still held until the next hop answers -/
  | link (base port : Nat)
  /-- at the target's door on this package -/
  | target
  /-- in custody beyond this package -/
  | away
  /-- answered or dropped -/
  | gone
  deriving DecidableEq, Repr

/-- The answer a target has given. -/
inductive Answer where
  | ack
  | neg (r : Refused)
  | data (r : Reply)
  deriving DecidableEq, Repr

/-- A packet in flight with its custody state. -/
structure Flight where
  p : Packet
  at_ : PktAt
  resends : Nat := 0
  /-- wall-clock time of its last sending (R474) -/
  sentAt : Nat := 0
  /-- the route, 0 or 1, and the port of its last sending (R473, R474) -/
  route : Nat := 0
  port : Nat := 0
  answer : Option Answer := none
  /-- the command that sent it -/
  cmd : Option Nat := none
  /-- the group's remote operation it belongs to -/
  op : Option Nat := none
  /-- put into an outbound hold (R156, R198) and released from it -/
  irrevHeld : Bool := false
  /-- of a remote acquire, which completes with its reply alone (R155) -/
  acquire : Bool := false
  /-- came from another package -/
  inbound : Bool := false
  /-- who makes its accesses, the releases and the fences of its store, and the marks of stores that it has read -/
  who : Agent
  rels : List Rel := []
  els : List (Agent × List Before) := []
  marks : List Mark := []
  /-- the trap record of its issue (R164) -/
  issue : TrapRec := {}
  deriving DecidableEq, Repr

/-- A protected flit (R476): the index of its key, its IV, its header, which is the additional data, the text enciphered and the
16-byte tag. -/
structure Flit where
  key : BitVec 8
  iv : BitVec 96
  header : List Byte
  text : List Byte
  tag : BitVec 128
  deriving DecidableEq, Repr

/-- What the package has sent to the fabric. -/
inductive FabMsg where
  /-- a packet on a port, towards the package `via` where its route names one (R473), with its flits where they are protected -/
  | packet (port : Nat) (via : Option (BitVec 12)) (p : Packet) (flits : List Flit)
  /-- a gateway has accepted a packet that came on a port, and takes custody of it (R474) -/
  | hopAck (port : Nat) (p : Packet)
  /-- the flits of a message that is no packet, on a port, towards the package `via` where its route names one (R476, log 110) -/
  | flits (port : Nat) (via : Option (BitVec 12)) (xs : List Flit)
  | answer (p : Packet) (a : Answer)
  | errorNotice (p : Packet)
  /-- the barrier word that a failed command names has its fault bit set (R139) -/
  | wordFault (pkg : BitVec 12) (core slot : Nat) (gen : Word) (off : Nat)
  | prep (dom : Nat) (leg : Word)
  | ready (dom : Nat) (leg : Word)
  | commit (dom : Nat) (leg : Word)
  | witnessAck (dom : Nat) (leg : Word)
  | applyAck (dom : Nat) (leg : Word)
  | sealReq (dom : Nat)
  /-- every block of this member is at a seal point (R183) -/
  | atSeal (dom : Nat) (leg : Word)
  /-- the last argument of these two: an injection began the rollback (R497) -/
  | abort (dom : Nat) (overflow : Option Nat) (injected : Bool)
  | stop (dom : Nat) (leg : Word) (overflow : Option Nat) (injected : Bool)
  | done (dom : Nat)
  | resume (dom : Nat) (leg : Word)
  | chunkReport (ctx : Nat) (chunks : List Word)
  /-- every member of this package is held at a caravan halt (R176) -/
  | membersHeld (ctx : Nat) (members : List Dword)
  | pause (ctx : Nat) (pkg : BitVec 12) (members : List Dword)
  | unpause (ctx : Nat) (pkg : BitVec 12) (members : List Dword)
  | domcreate (dom : Nat) (x : DomArgs)
  /-- blocks that a rollback has placed elsewhere, for the manifest entries of the other members (R193) -/
  | moved (dom : Nat) (xs : List MovedBlock)
  deriving DecidableEq, Repr

/-- A route word (R473). -/
abbrev Route := Dword

/-- A collective window (R175): recovery domain of its source, source, convoy, home agent, highest sequence and the sequences
marked. -/
structure Window where
  dom : Option Nat
  pkg : BitVec 12
  core : Nat
  slot : Nat
  gen : Word
  convoy : Nat
  home : Nat
  high : Word
  marks : List Word
  deriving DecidableEq, Repr

/-! ## Recovery (R177 to R201, R481 to R487) -/

/-- An undo-log entry (R180). -/
structure LogEnt where
  /-- the domain whose log it stands in -/
  dom : Nat
  home : Nat
  pa : Nat
  old : List Byte
  leg : Word
  ctx : Nat
  deriving DecidableEq, Repr

/-- A held irrevocable store (R198). -/
structure Held where
  die : Nat
  dom : Nat
  leg : Word
  core : Nat
  /-- a store of a core or an engine, or the packet with this number -/
  what : Store ⊕ Nat
  size : Nat
  deriving DecidableEq, Repr

/-- The seal protocol of a domain on this package (R484). -/
inductive SealPhase where
  | idle
  | requested
  /-- PREP received, waiting for seal points -/
  | prep
  | drain
  | saved
  /-- COMMIT known to this member -/
  | committed
  deriving DecidableEq, Repr

/-- What a block-task was at the last cut (R193). -/
inductive CutKind where
  | retired
  | waymark
  | image (a : Nat)
  deriving DecidableEq, Repr

/-- A block-task at the last cut, with the core, slot and block it had. -/
structure CutTask where
  itin : Nat
  task : Task
  kind : CutKind
  core : Nat
  slot : Nat
  blk : Option Block
  deriving DecidableEq, Repr

/-- A word that ordered reductions reach, with the ranks merged in the current round (R123, R173). -/
structure OrdWord where
  pa : Nat
  ranks : List Nat
  deriving DecidableEq, Repr

/-- A recovery domain as this package sees it. -/
structure Domain where
  num : Nat
  members : List (BitVec 12)
  /-- members that have been lost (R485) -/
  lost : List (BitVec 12)
  leg : Word
  interval : Nat
  waitLimit : Nat
  capacity : Nat
  /-- the granules that its logs reserve, as runs: first one and count (R481) -/
  logAt : List (Nat × Nat) := []
  phase : SealPhase
  /-- coordinator's books: members READY, members that acknowledged COMMIT -/
  ready : List (BitVec 12)
  acked : List (BitVec 12)
  /-- seals are held back until every member has applied the last one -/
  applying : Bool
  /-- the leg that the last cut known here has ended; 0 for none (R484, R485) -/
  lastCut : Word := 0
  /-- when the pending seal began here, and when each member was last heard in it (R484) -/
  sealAt : Nat := 0
  heard : List (BitVec 12 × Nat) := []
  /-- a request that waits -/
  wanted : Bool
  /-- the other members know that this one is at seal points -/
  told : Bool := false
  /-- time of the last cut or creation, and of the pending request -/
  since : Nat
  reqAt : Nat
  /-- stopped by a rollback; members that reported DONE -/
  stopped : Bool
  doneBy : List (BitVec 12)
  /-- the leg that STOP named; 0 until it arrives -/
  rolling : Word
  /-- leg overflow: the rollback ends the contexts (R197), with the RAS detail -/
  overflow : Option Nat
  injected : Bool
  /-- sectors that an uncorrectable error has struck since the rollback began, each with an entry in the log of the leg that this member took
  for the one to undo (R487) -/
  struck : List Nat := []
  cut : List CutTask
  cutWindows : List Window
  cutOrdered : List OrdWord
  cutItins : List Itin
  deriving DecidableEq, Repr

/-- A DOMCREATE that waits for its partners (R481). -/
structure DomPending where
  num : Nat
  args : DomArgs
  since : Nat
  deriving DecidableEq, Repr

/-- A store of commutative updates at a word (R98). -/
structure CuWord where
  pa : Nat
  op : AOp
  ty : Ty
  parts : List Dword
  deriving DecidableEq, Repr

/-- A home-agent write held for log space (R196). -/
structure HomeHeld where
  dom : Nat
  store : Store
  deriving DecidableEq, Repr

/-- One granule of the access tables (R462): owner byte and share mask. -/
structure Granule where
  v : Bool
  sh : Bool
  owner : BitVec 6
  share : Dword
  deriving DecidableEq, Repr

/-- A block evicted whole, or groups evicted alone (R444, R445). -/
structure Saved where
  core : Nat
  slot : Nat
  gen : Word
  ctx : Nat
  image : Nat
  whole : Bool
  groups : List Nat
  /-- what the image does not hold -/
  blk : Block
  at_ : Nat
  /-- returns to its own slot with its own generation while its core is live (R193) -/
  fixed : Bool := false
  deriving DecidableEq, Repr

/-- A caravan halt of a context (R176, R448). -/
structure Halt where
  ctx : Nat
  members : List Dword
  /-- halt chunk, once every member has reported -/
  chunk : Option Word
  /-- received and waiting for a cut (R187) -/
  waiting : Bool
  /-- the largest declarations that the other packages with members have reported (R176) -/
  heard : List (BitVec 12 × Word) := []
  complete : Bool
  /-- its members' contexts are switched and HALTED waits for the last of them to be saved (R448) -/
  saving : Bool := false
  /-- the other packages know that this one's members are held -/
  told : Bool := false
  deriving DecidableEq, Repr

/-- An armed injection (R488). -/
structure Inject where
  kind : Nat
  dom : Nat
  target : Nat
  fireAt : Nat
  deriving DecidableEq, Repr

/-! ## Package (R416 to R434, R489 to R498) -/

inductive BootState where
  | rom | verify | init | enum | ready | failed
  deriving DecidableEq, Repr

/-- An image slot of the SPI NOR (R420). -/
structure ImgSlot where
  image : List Byte := []
  svn : Nat := 0
  keyOk : Bool := false
  sigOk : Bool := false
  deriving DecidableEq, Repr

/-- A translation-cache entry (R433). -/
structure CacheEnt where
  digest : List Byte
  svn : Nat
  addr : Nat
  size : Nat
  sig : List Byte
  deriving DecidableEq, Repr

/-- Registers, fuses and firmware state of the package. -/
structure Sys where
  powered : Bool := true
  grade : Nat := 0
  stackGib : Nat := 64
  /-- physical numbers of the cores that are fused off: distinct, below 768 (R425) -/
  fusedOff : List Nat := []
  fuseSvn : Nat := 0
  debug : Bool := false
  bootCount : Word := 0
  stepping : BitVec 8 := 0
  /-- the eight system controllers, by base die (R419) -/
  ctrls : List BootState := [.rom, .rom, .rom, .rom, .rom, .rom, .rom, .rom]
  /-- the controllers that have reached INIT since power-up, which answer on I3C (R421) -/
  i3cUp : List (BitVec 3) := []
  fdie : BitVec 4 := 0
  failCause : BitVec 8 := 0
  slotB : Bool := false
  fwsvn : Nat := 0
  imgA : ImgSlot := { keyOk := true, sigOk := true }
  imgB : ImgSlot := {}
  retireList : List Nat := []
  retired : List Nat := []
  fabcfg : Bool := false
  pkg : BitVec 12 := 0
  encreq : Bool := false
  cto : Nat := 20
  retry : Nat := 4
  ksto : Nat := 10
  win2base : BitVec 28 := 0
  rasbase : BitVec 59 := 0
  rasDropped : BitVec 16 := 0
  rasTail : BitVec 16 := 0
  rasHead : BitVec 16 := 0
  rasLog2n : BitVec 5 := 8
  ras : List (BitVec 256) := []
  pwrlim : BitVec 16 := 1500
  power : BitVec 16 := 0
  aclkMhz : BitVec 16 := 1050
  report : List Byte := []
  i3c : List Byte := []
  /-- nonces of I3C requests that wait behind a mailbox command (R431) -/
  attestWait : List (List Byte) := []
  args : List Dword := [0, 0, 0, 0, 0, 0, 0, 0]
  /-- arguments of the command that runs (R429) -/
  latched : List Dword := [0, 0, 0, 0, 0, 0, 0, 0]
  /-- CMD -/
  cmd : Word := 0
  busy : Bool := false
  overrun : Bool := false
  result : BitVec 8 := 0
  tcache : List CacheEnt := []
  counters : KMap Dword := []
  /-- the last value a host read returned -/
  readback : List Byte := []
  deriving DecidableEq, Repr

/-- The lowest of the controllers' states, or FAILED (R419). -/
def Sys.boot (y : Sys) : BootState :=
  if y.ctrls.contains .failed then .failed
  else if y.ctrls.contains .rom then .rom
  else if y.ctrls.contains .verify then .verify
  else if y.ctrls.contains .init then .init
  else if y.ctrls.contains .enum then .enum
  else .ready

/-! ## The machine -/

/-- One entry of the agenda (log 1): an event of the machine or its surroundings, an issue of a partition, an L1
giving up a sector, a translation given up, choices, or time passing. -/
inductive Turn where
  | event (i : Instr)
  /-- partition `part` of core `core` issues its next slot; `switch` lets a YIELD of it switch (R384) -/
  | issue (core part : Nat) (switch : Bool)
  /-- the L1 at a physical position gives up a sector -/
  | l1Drop (pos sector : Nat)
  /-- a core gives up the k-th of its translations, a die one of its own, a lane its last page, or the walkers one (R65) -/
  | tlbDrop (core k : Nat)
  | dieDrop (die k : Nat)
  | pageDrop (core part lane : Nat)
  | upperDrop (k : Nat)
  /-- bank requests that complete first from now on (R53), and which runnable groups may join a composite issue (R30) -/
  | choose (pick joint : LaneMask)
  /-- n aclk pass -/
  | clock (n : Nat)
  deriving DecidableEq, Repr

/-- The state of the machine. -/
structure State where
  sys : Sys := {}
  /-- package aclk count (R17, R449) -/
  clock : Nat := 0
  /-- wall-clock time since power-up, in units of Machine/Bits.lean (R490) -/
  time : Nat := 0
  mem : Memory := []
  /-- host memory: PASID * 2^64 + address, untranslated from 2^84 -/
  hmem : Memory := []
  /-- writes to peer MMIO, in order -/
  mmioOut : List (Nat × List (Byte × Byte)) := []
  granules : KMap Granule := []
  poison : List Nat := []
  cu : List CuWord := []
  homeHeld : List HomeHeld := []
  windows : List Window := []
  ordered : List OrdWord := []
  ctxs : KMap Ctx := []
  itins : List Itin := []
  cores : KMap Core := []
  /-- L1s by physical position (R56, R425) -/
  l1s : KMap L1 := []
  /-- die TLBs by compute die, and the non-leaf entries cached (R65, R461) -/
  dieTlb : KMap (List Xlate) := []
  upper : List Upper := []
  /-- the last stores of bytes, where their order matters still -/
  marks : List Mark := []
  saved : List Saved := []
  halts : List Halt := []
  domains : List Domain := []
  domPending : Option DomPending := none
  logs : List LogEnt := []
  holds : List Held := []
  injects : List Inject := []
  ports : KMap Port := []
  routes : KMap Route := []
  flights : List Flight := []
  /-- sequences accepted, by receiving gateway, source package and its gateway (R474) -/
  accepted : List (Nat × BitVec 12 × Nat × List Nat) := []
  /-- packets of other packages that this one has delivered: source package and number there (R100) -/
  delivered : List (BitVec 12 × Nat) := []
  /-- next sequence number of each gateway -/
  seqs : KMap Nat := []
  out : List FabMsg := []
  agenda : List Turn := []
  /-- the partition whose issue group an instruction acts on (log 1) -/
  focus : Nat × Nat := (0, 0)
  /-- the YIELD choice of the turn -/
  switch : Bool := false
  /-- bank requests that complete in this turn (R53), and the choice of composite issue (R30) -/
  pick : LaneMask := 0xFFFFFFFF
  joint : LaneMask := 0
  /-- free values used so far (log 3) -/
  freeCtr : Nat := 0
  /-- numbers of stores, packets, commands, issue groups -/
  nextId : Nat := 0
  deriving DecidableEq, Repr

/-- Why a step stops with a fault. All of them are safe: a run that stops proves nothing false. -/
inductive Fault where
  /-- exec was given an instruction while no issue group is in focus; no step does so. Safe. -/
  | noIssueGroup
  /-- the agenda names an instruction of a program as an event; an ill-formed agenda (log 1). Safe. -/
  | notAnEvent
  deriving DecidableEq, Repr

/-- Why a step is refused. -/
inductive Refusal where
  /-- The instruction has no meaning yet. Raised by exec's arms only. Safe. -/
  | notModelled (mnemonic : String)
  deriving DecidableEq, Repr

/-- The machine right after power-up: SYSSTAT reads ROM (R419), every register at its reset value; the values that
the specification does not give are those of notes/assumptions 3, 5 and 6. -/
def State.reset : State := {}

end Sys2Proof.Machine
end

