-- ==== Sys2Proof/Machine/Xlate.lean ====
section
/-! DEFINITION. Accessors of the state's parts, the physical map (R1, R433, R462), commutative updates (R98) and translation
(R65, R455 to R458). -/

namespace Sys2Proof.Machine

/-! ## Parts of the state -/

/-- Context c. -/
def State.ctx (s : State) (c : Nat) : Ctx := KMap.get {} s.ctxs c

/-- Replace context c. -/
def State.setCtx (s : State) (c : Nat) (x : Ctx) : State := { s with ctxs := KMap.put s.ctxs c x }

/-- Change context c. -/
def State.modCtx (s : State) (c : Nat) (f : Ctx → Ctx) : State := s.setCtx c (f (s.ctx c))

/-- Core n. -/
def State.core (s : State) (n : Nat) : Core := KMap.get {} s.cores n

/-- Replace core n. -/
def State.setCore (s : State) (n : Nat) (x : Core) : State := { s with cores := KMap.put s.cores n x }

/-- Change core n. -/
def State.modCore (s : State) (n : Nat) (f : Core → Core) : State := s.setCore n (f (s.core n))

/-- The block in a slot of a core. -/
def State.block (s : State) (core slot : Nat) : Option Block := KMap.find (s.core core).slots slot

/-- Replace the block in a slot. -/
def State.setBlock (s : State) (core slot : Nat) (b : Block) : State :=
  s.modCore core (fun c => { c with slots := KMap.put c.slots slot b })

/-- Change the block in a slot, where there is one. -/
def State.modBlock (s : State) (core slot : Nat) (f : Block → Block) : State :=
  match s.block core slot with
  | some b => s.setBlock core slot (f b)
  | none => s

/-- A group that stands for none. -/
def Group.empty : Group := { idx := 0, part := 0, threads := [], igs := [], allot := 0, mode := 0 }

/-- Group g of a block. -/
def Block.group (b : Block) (g : Nat) : Group := listGet Group.empty b.groups g

/-- Change group g of a block. -/
def Block.modGroup (b : Block) (g : Nat) (f : Group → Group) : Block := { b with groups := listMod b.groups g f }

/-- Change group g of the block in a slot. -/
def State.modGroup (s : State) (core slot g : Nat) (f : Group → Group) : State :=
  s.modBlock core slot (fun b => b.modGroup g f)

/-- Domain number d. -/
def State.domain? (s : State) (d : Nat) : Option Domain := s.domains.find? (fun x => x.num == d)

/-- Change domain d. -/
def State.modDomain (s : State) (d : Nat) (f : Domain → Domain) : State :=
  { s with domains := s.domains.map (fun x => if x.num == d then f x else x) }

/-- The recovery domain of a context (R177). -/
def State.domOf (s : State) (c : Nat) : Option Domain :=
  match (s.ctx c).domain with
  | some d => s.domain? d
  | none => none

/-- The current leg of a context, 0 outside every domain (R17). -/
def State.legOf (s : State) (c : Nat) : Word :=
  match s.domOf c with
  | some d => d.leg
  | none => 0

/-- A seal is pending from its request until its cut or its abandonment (R181): a request after the cut is for another seal (R484). -/
def Domain.pending (d : Domain) : Bool := d.wanted || !(d.phase == .idle || d.phase == .committed)

/-- A seal of the context's domain is pending. -/
def State.sealPending (s : State) (c : Nat) : Bool :=
  match s.domOf c with
  | some d => d.pending
  | none => false

/-- The drain has begun and the cut is not applied (R183). -/
def State.draining (s : State) (c : Nat) : Bool :=
  match s.domOf c with
  | some d => d.phase == .drain || d.phase == .saved || d.phase == .committed
  | none => false

/-- A fresh number. -/
def State.fresh (s : State) : Nat × State := (s.nextId, { s with nextId := s.nextId + 1 })

/-- Add to a counter of R494, modulo 2^64. -/
def State.bump (s : State) (off n : Nat) : State :=
  { s with sys := { s.sys with
      counters := KMap.put s.sys.counters off (KMap.get 0 s.sys.counters off + BitVec.ofNat 64 n) } }

/-! ## Numbering of cores and dies (R1, R422 to R427) -/

/-- The live physical cores in order: 768 less those fused off. -/
def Sys.liveCores (y : Sys) : List Nat := (List.range 768).filter (fun p => !y.fusedOff.contains p)

/-- LIVECORES. -/
def Sys.liveCount (y : Sys) : Nat := 768 - y.fusedOff.length

/-- The least position p that has n live cores below it, sought upward from a position below it. -/
def Sys.physFrom (y : Sys) (n : Nat) : Nat → Nat → Nat
  | 0, p => p
  | fuel + 1, p => let q := n + y.fusedOff.countP (· ≤ p); if q = p then p else y.physFrom n fuel q

/-- The physical position of a logical core: 96 BASE + 24 CDIE + 4 CLU + CORE (R494). -/
def Sys.physCore (y : Sys) (n : Nat) : Nat := min 768 (y.physFrom n y.fusedOff.length n)

/-- The compute die of a logical core. -/
def Sys.dieOfCore (y : Sys) (n : Nat) : Nat := y.physCore n / 24

/-- The cluster of a logical core, numbered over the package. -/
def Sys.clusterOf (y : Sys) (n : Nat) : Nat := y.physCore n / 4

/-- Latency class between compute dies (R427). -/
def dieClass (a b : Nat) : Nat := if a = b then 0 else if a / 4 = b / 4 then 1 else 2

/-- Live cores that the grade requires: 24, 22 or 20 on each of 32 dies (R1). -/
def Sys.gradeCores (y : Sys) : Nat := match y.grade with | 0 => 24 | 1 => 22 | _ => 20

/-- Package power limit of the grade in units of 10 W (R1). -/
def Sys.gradeLimit (y : Sys) : Nat := match y.grade with | 0 => 1500 | 1 => 1400 | _ => 1250

/-! ## Physical memory (R1, R433, R457) -/

/-- The stack of a physical address, its logical home agent. -/
def homeOf (pa : Nat) : Nat := pa / 2 ^ 36

/-- An address within the installed capacity of its stack. -/
def Sys.installed (y : Sys) (pa : Nat) : Bool :=
  decide (homeOf pa < 32) && decide (pa % 2 ^ 36 < y.stackGib * 2 ^ 30)

/-- The translation cache: the highest 256 MiB of stack 0 (R433). -/
def Sys.cacheBase (y : Sys) : Nat := y.stackGib * 2 ^ 30 - 2 ^ 28

/-- An address of the translation cache. -/
def Sys.inCache (y : Sys) (pa : Nat) : Bool := decide (y.cacheBase ≤ pa) && decide (pa < y.cacheBase + 2 ^ 28)

/-- The granule of an address. -/
def granuleOf (pa : Nat) : Nat := pa / 2 ^ 21

/-- An address of an undo log (R481). -/
def State.inLog (s : State) (pa : Nat) : Bool :=
  s.domains.any (fun d => d.logAt.any (fun r => decide (r.1 ≤ granuleOf pa) && decide (granuleOf pa < r.1 + r.2)))

/-- The access-table entry of a granule (R462). -/
def State.granule (s : State) (g : Nat) : Granule :=
  KMap.get { v := false, sh := false, owner := 0, share := 0 } s.granules g

/-- A granule admits a context. -/
def Granule.admits (g : Granule) (c : Nat) : Bool :=
  g.v && (g.owner.toNat == c || (g.sh && g.share.getLsbD c))

/-- A home agent admits a context to an address. -/
def State.homeAdmits (s : State) (c pa : Nat) : Bool := (s.granule (granuleOf pa)).admits c

/-! ## Commutative updates (R98, R301) -/

/-- Bytes of an operator's word. -/
def cuSize (ty : Ty) : Nat := sizeOf ty

/-- The value of a word with contributions folded in from the left: the memory value first, then the contributions in the
order of their arrival at the home. R98 leaves the shape of the merge tree open; this is the model's choice where no
HOME_AGENT_WRITE has merged contributions with each other before (log 56). -/
def CuWord.fold (w : CuWord) (o : Dword) : Dword := w.parts.foldl (opApply w.op w.ty) o

/-- The home agent of an address counts n merges (R494). -/
def State.bumpMerges (s : State) (pa n : Nat) : State := s.bump (0x3C0000 + 0x100 * homeOf pa + 16) n

/-- Merge one word's contributions into memory. -/
def State.mergeWord (s : State) (w : CuWord) : State :=
  let n := cuSize w.ty
  let o := dw (leNat (Memory.readN s.mem w.pa n))
  ({ s with mem := Memory.writeN s.mem w.pa (leBytes n (w.fold o).toNat) }).bumpMerges w.pa w.parts.length

/-- The home agent merges a line's partial results before it serves an access of it. -/
def State.mergeLine (s : State) (pa n : Nat) : State :=
  let hit := fun (w : CuWord) => decide (pa / 256 ≤ w.pa / 256) && decide (w.pa / 256 ≤ (pa + n - 1) / 256)
  let s' := (s.cu.filter hit).foldl State.mergeWord s
  { s' with cu := s.cu.filter (fun w => !hit w) }

/-- Bytes that the device itself reads: it sees every commutative update that has been performed (R98). -/
def State.firmRead (s : State) (pa n : Nat) : List Byte := Memory.readN (s.mergeLine pa n).mem pa n

/-! ## Translation (R455 to R458) -/

/-- What a walk finds. -/
inductive Walked where
  | leaf (x : Xlate)
  | absent
  /-- a covered granule refuses the context (R462) -/
  | refused
  deriving DecidableEq, Repr

/-- log2 of the leaf size of a level (R455). -/
def levelShift (lvl : Nat) : Nat := match lvl with | 0 => 16 | 1 => 21 | 2 => 29 | _ => 36

/-- log2 of the table size and alignment of a level. -/
def tableShift (lvl : Nat) : Nat := match lvl with | 0 => 8 | 1 => 11 | 2 => 10 | _ => 19

/-- The index of a level. -/
def levelIndex (lvl va : Nat) : Nat :=
  match lvl with
  | 0 => field va 16 5
  | 1 => field va 21 8
  | 2 => field va 29 7
  | _ => field va 36 16

/-- Fields that only leaves carry: FMT, GEOM, FLOOR, EXT. -/
def pteLeafOnly (e : Nat) : Bool := field e 55 9 != 0

/-- Reserved fields and values of an entry with V = 1 (R456, R57). -/
def pteReserved (e : Nat) : Bool :=
  bitAt e 52 || field e 2 2 != 0 || field e 53 2 == 3 || field e 6 2 == 3

/-- TGT 2 holds CP other than 2, or a non-zero FMT (R457). -/
def ptePeerBad (e : Nat) : Bool := field e 6 2 == 2 && (field e 53 2 != 2 || field e 60 4 != 0)

/-- The leaf an entry holds. -/
def pteLeaf (c lvl va e : Nat) : Xlate where
  ctx := c
  va := va / 2 ^ levelShift lvl * 2 ^ levelShift lvl
  size := 2 ^ levelShift lvl
  pa := field e 8 44 * 2 ^ 8
  tgt := field e 6 2
  fmt := field e 60 4
  geom := bitAt e 59
  floor := field e 56 3
  ext := bitAt e 55
  cp := field e 53 2
  r := bitAt e 4
  w := bitAt e 5

/-- The granules of device memory that a leaf covers, and how many of them have V set or let the context in. -/
def State.covers (s : State) (x : Xlate) (p : Granule → Bool) : Bool :=
  let lo := granuleOf x.pa
  let n := ceilDiv x.size (2 ^ 21)
  (s.granules.countP (fun g => decide (lo ≤ g.1) && decide (g.1 < lo + n) && p g.2)) == n

/-- A leaf is malformed (R457). -/
def State.leafBad (s : State) (x : Xlate) : Bool :=
  x.pa % x.size != 0 || decide (10 < x.fmt) || decide (4 < x.floor)
    || (x.tgt == 0 && (!s.sys.installed x.pa || !s.sys.installed (x.pa + x.size - 1) || homeOf x.pa != homeOf (x.pa + x.size - 1)
          || !s.covers x (fun g => g.v)))
    || (x.ext && x.tgt != 0)

/-- An entry as the walker reads it: coherently, as a .SYS load (R455). -/
def State.pteAt (s : State) (a : Nat) : Nat := leNat (s.firmRead a 8)

/-- The next table of a well-formed non-leaf entry of level `lvl` + 1 (R457). -/
def State.pteNext (s : State) (lvl e : Nat) : Option Nat :=
  let t := field e 8 44 * 2 ^ 8
  if pteLeafOnly e || t % 2 ^ tableShift lvl != 0 || !s.sys.installed t then none else some t

/-- Walk from the table at `table`, level `lvl` at most. -/
def State.walkFrom (s : State) (c va : Nat) : Nat → Nat → Walked
  | lvl, table =>
    let e := s.pteAt (table + 8 * levelIndex lvl va)
    if !bitAt e 0 || pteReserved e || ptePeerBad e then .absent
    else if bitAt e 1 then
      let x := pteLeaf c lvl va e
      if s.leafBad x then .absent
      else if x.tgt == 0 && !s.covers x (fun g => g.admits c) then .refused
      else .leaf x
    else
      match lvl with
      | 0 => .absent
      | lvl' + 1 =>
        match s.pteNext lvl' e with
        | some t => State.walkFrom s c va lvl' t
        | none => .absent

/-- The top table of a context. -/
def State.root (s : State) (c : Nat) : Nat := (s.ctx c).ptroot.toNat * 2 ^ 19

/-- Walk the page-table tree of a context from its top. -/
def State.walk (s : State) (c va : Nat) : Walked :=
  if s.sys.installed (s.root c) then s.walkFrom c va 3 (s.root c) else .absent

/-- A cached non-leaf entry covers an address. -/
def Upper.hits (u : Upper) (c va : Nat) : Bool := u.ctx == c && decide (u.va ≤ va) && decide (va < u.va + u.size)

/-- Walk as the walkers do: from the cached non-leaf entry of the lowest level, where there is one (R461). -/
def State.walkCached (s : State) (c va : Nat) : Walked :=
  let us := s.upper.filter (fun u => u.hits c va)
  match [0, 1, 2].findSome? (fun l => us.find? (fun u => u.lvl == l)) with
  | some u => s.walkFrom c va u.lvl u.table
  | none => s.walk c va

/-- The non-leaf entries on the way to a leaf. -/
def State.uppers (s : State) (c va : Nat) : Nat → Nat → List Upper
  | 0, _ => []
  | lvl + 1, table =>
    let e := s.pteAt (table + 8 * levelIndex (lvl + 1) va)
    if !bitAt e 0 || pteReserved e || ptePeerBad e || bitAt e 1 then []
    else
      match s.pteNext lvl e with
      | some t =>
        let n := 2 ^ levelShift (lvl + 1)
        { ctx := c, va := va / n * n, size := n, lvl := lvl, table := t } :: State.uppers s c va lvl t
      | none => []

/-- The entries of a table that memory lists. -/
def State.listedPtes (s : State) (table n : Nat) : List Nat :=
  ((s.mem.filter (fun x => decide (table ≤ x.1) && decide (x.1 < table + n))).map (fun x => x.1 / 8 * 8)).dedup

/-- The tables of a tree with their sizes. -/
def State.tablesFrom (s : State) : Nat → Nat → List (Nat × Nat)
  | 0, table => [(table, 2 ^ tableShift 0)]
  | lvl + 1, table =>
    (table, 2 ^ tableShift (lvl + 1)) :: (s.listedPtes table (2 ^ tableShift (lvl + 1))).flatMap (fun a =>
      let e := s.pteAt a
      if !bitAt e 0 || bitAt e 1 then []
      else match s.pteNext lvl e with
        | some t => State.tablesFrom s lvl t
        | none => [])

/-- A sector of a context's page tables: it belongs to no leg (R455). -/
def State.inTables (s : State) (sector : Nat) : Bool :=
  s.ctxs.any (fun x => x.2.state != .free && (s.tablesFrom 3 (s.root x.1)).any (fun t =>
    decide (t.1 < sector + 64) && decide (sector < t.1 + t.2)))

/-- A translation covers an address of a context. -/
def Xlate.hits (x : Xlate) (c va : Nat) : Bool := x.ctx == c && decide (x.va ≤ va) && decide (va < x.va + x.size)

/-- A core's compute die has a TLB (R65). -/
def State.dieTlbOf (s : State) (core : Nat) : List Xlate := KMap.get [] s.dieTlb (s.sys.dieOfCore core)

/-- Translate through the core TLB, then the die TLB, then the page walker (R65). -/
def State.lookup (s : State) (core c va : Nat) : Walked :=
  match (s.core core).tlb.find? (fun x => x.hits c va) with
  | some x => .leaf x
  | none =>
    match (s.dieTlbOf core).find? (fun x => x.hits c va) with
    | some x => .leaf x
    | none => s.walkCached c va

/-- Translate through a lane's last-page register first (R65). -/
def State.lookupLast (s : State) (last : Option Xlate) (core c va : Nat) : Walked :=
  match last with
  | some x => if x.hits c va then .leaf x else s.lookup core c va
  | none => s.lookup core c va

/-- A walk for a core is counted: WALKS of its die (R494). -/
def State.countWalk (s : State) (core : Nat) : State := s.bump (0x300000 + 0x1000 * s.sys.dieOfCore core + 56) 1

/-- Keep a translation, and what a walk to it has found, in the core TLB, the die TLB and the walkers (R65, R461); WALKS counts the walk. -/
def State.fill (s : State) (core : Nat) (x : Xlate) : State :=
  let die := s.sys.dieOfCore core
  let s := if (s.core core).tlb.contains x || (s.dieTlbOf core).contains x then s
    else { s with upper := s.upper ++ ((s.uppers x.ctx x.va 3 (s.root x.ctx)).filter (fun u => !s.upper.contains u)) }.countWalk core
  let s := if (s.dieTlbOf core).contains x then s
    else { s with dieTlb := KMap.put s.dieTlb die (x :: s.dieTlbOf core) }
  s.modCore core (fun k => if k.tlb.contains x then k else { k with tlb := x :: k.tlb })

/-- A core translates an address: its TLBs take what a walk has found; one that finds no page is counted too. -/
def State.touchCore (s : State) (core c va : Nat) : State :=
  if 2 ^ 52 ≤ va then s
  else match s.lookup core c va with
    | .leaf x => s.fill core x
    | _ => s.countWalk core

/-- A lane's last-page register. -/
def State.lastPage (s : State) (core part lane : Nat) : Option Xlate := KMap.find (listGet {} (s.core core).parts part).last lane

/-- Refill a lane's last-page register (R65). -/
def State.setLast (s : State) (core part lane : Nat) (x : Xlate) : State :=
  s.modCore core (fun k => { k with parts := listMod k.parts part (fun p => { p with last := KMap.put p.last lane x }) })

/-! ## Traffic between dies (R427, R473, R494, R495) -/

/-- A port of the package carries traffic. -/
def State.portUp (s : State) (p : Nat) : Bool := (KMap.get {} s.ports p).state == .up

/-- The two halves of a package's route word, route 0 first. -/
def State.routeHalves (s : State) (pkg : Nat) : List Nat :=
  let r := (KMap.get (0 : Route) s.routes pkg).toNat
  [field r 0 32, field r 32 32]

/-- The route in use to a package (R473): route 0 while its port is up, otherwise route 1. -/
def State.routeInUse (s : State) (pkg : Nat) : Option Nat :=
  (s.routeHalves pkg).find? (fun h => bitAt h 31 && s.portUp (field h 0 4))

/-- The latency class of another package: 3 or 4 by the route in use; without one it is free between the two (log 16). -/
def State.farClass (s : State) (pkg : Nat) : Nat :=
  match s.routeInUse pkg with
  | some h => if bitAt h 30 then 4 else 3
  | none => if (Config.freeWord s.freeCtr).getLsbD 0 then 4 else 3

/-- The compute die under which the home slice of a device address lies: eight of the 32 slices of its base die lie under
each (R67, log 12). -/
def sliceDie (pa : Nat) : Nat := homeOf pa / 4 * 4 + (Config.sliceHash (pa / 256)).toNat / 8

/-- TX_CLASSk of the compute die of a core. -/
def State.bumpTx (s : State) (core cls n : Nat) : State := s.bump (0x300000 + 0x1000 * s.sys.dieOfCore core + 8 * cls) n

/-- RX_OTHER of a compute die, for bytes from another. -/
def State.bumpRx (s : State) (src die n : Nat) : State := s.bump (0x300000 + 0x1000 * die + 40) (if src = die then 0 else n)

/-- The number that stands for what is no compute die: host space, peer MMIO, another package. -/
def noDie : Nat := 32

/-- Where a byte of a page lies. -/
def Xlate.target (x : Xlate) (pasid va : Nat) : Tgt :=
  let a := x.pa + (va - x.va)
  match x.tgt with
  | 0 => .dev a
  | 1 => .host (pasid * 2 ^ 64 + a)
  | _ => .mmio a

/-- The compute die under which a target's home slice lies. -/
def Tgt.die (t : Tgt) : Nat := match t with | .dev a => sliceDie a | _ => noDie

/-- An access of n bytes from a core to a target is issued: its class is that of the home slice, and 4 for host space and peer MMIO
(R68, R495). -/
def State.txTo (s : State) (core : Nat) (t : Tgt) (n : Nat) : State :=
  s.bumpTx core (match t with | .dev a => dieClass (s.sys.dieOfCore core) (sliceDie a) | _ => 4) n

/-- Bytes of a core arrive at the home slice of a target, and bytes of a target at a core (R495). -/
def State.rxHome (s : State) (core : Nat) (t : Tgt) (n : Nat) : State :=
  match t with
  | .dev a => s.bumpRx (s.sys.dieOfCore core) (sliceDie a) n
  | _ => s
def State.rxCore (s : State) (core : Nat) (t : Tgt) (n : Nat) : State := s.bumpRx t.die (s.sys.dieOfCore core) n

/-- One page's share of an access, within one granule (R462): the page, its virtual address and its length. -/
structure Piece where
  x : Xlate
  va : Nat
  n : Nat
  deriving DecidableEq, Repr

/-- Why an access is refused before it happens. -/
inductive Refuse where
  /-- permission (cause 8) -/
  | permission (a : Nat)
  /-- floor violation (cause 7): the page's FLOOR -/
  | floor (a f : Nat)
  /-- non-present page (cause 9) -/
  | absent (a : Nat)
  deriving DecidableEq, Repr

/-- The rights an access needs (R458). -/
structure Need where
  r : Bool
  w : Bool
  /-- rank of its domain (R59); none where FLOOR does not apply -/
  rank : Option Nat
  deriving DecidableEq, Repr

/-- Check a page for an access (R458, R59). -/
def Xlate.check (x : Xlate) (va : Nat) (n : Need) : Option Refuse :=
  if (n.r && !x.r) || (n.w && !x.w) then some (.permission va)
  else
    match n.rank with
    | some k => if k < x.floor then some (.floor va x.floor) else none
    | none => none

/-- Split [va, va + n) by pages and granules and check each part against its own page (R289), as the last-page register `last` and the TLBs give
them. `fuel` bounds the number of pages. -/
def State.piecesF (s : State) (last : Option Xlate) (core c : Nat) (need : Need) : Nat → Nat → Nat → Except Refuse (List Piece)
  | 0, _, _ => .ok []
  | fuel + 1, va, n =>
    if n = 0 then .ok []
    else if 2 ^ 52 ≤ va then .error (.permission va)
    else
      match s.lookupLast last core c va with
      | .absent => .error (.absent va)
      | .refused => .error (.permission va)
      | .leaf x =>
        match x.check va need with
        | some r => .error r
        | none =>
          let m := min n (min (x.va + x.size - va) (2 ^ 21 - (x.pa + (va - x.va)) % 2 ^ 21))
          match State.piecesF s last core c need fuel (va + m) (n - m) with
          | .error r => .error r
          | .ok ps => .ok (⟨x, va, m⟩ :: ps)

/-- The pages of an access of n bytes, each checked. Pages are at least 64 KiB, and a granule ends where a page could. -/
def State.pieces (s : State) (core c : Nat) (need : Need) (va n : Nat) : Except Refuse (List Piece) :=
  s.piecesF none core c need (n / 2 ^ 16 + 2) va n

/-- The pages of an access of a lane of a partition (R65). -/
def State.lanePieces (s : State) (core part lane c : Nat) (need : Need) (va n : Nat) : Except Refuse (List Piece) :=
  s.piecesF (s.lastPage core part lane) core c need (n / 2 ^ 16 + 2) va n

/-- Keep the translations of pieces in a core. -/
def State.fillAll (s : State) (core : Nat) (ps : List Piece) : State := ps.foldl (fun s p => s.fill core p.x) s

/-- A lane translates an address: where its last-page register misses, the TLBs and the register take what the walk has found, whatever
the checks of the access find then (R65). -/
def State.touchAt (s : State) (core part lane c va : Nat) : State :=
  match s.lastPage core part lane with
  | some x => if x.hits c va then s else go
  | none => go
where
  /-- Past the register. -/
  go : State :=
    if 2 ^ 52 ≤ va then s
    else match s.lookup core c va with
      | .leaf x => (s.fill core x).setLast core part lane x
      | _ => s.countWalk core

/-- A core translates n bytes, which lie on two pages at most, for an engine of its own. -/
def State.touchEng (s : State) (core c va n : Nat) : State :=
  if n = 0 then s
  else
    let t := s.touchCore core c va
    match s.lookup core c va with
    | .leaf x => if va + n ≤ x.va + x.size then t else t.touchCore core c (va + n - 1)
    | _ => t

/-- A lane translates n bytes, which lie on two pages at most. -/
def State.touch (s : State) (core part lane c va n : Nat) : State :=
  if n = 0 then s else (s.touchAt core part lane c va).touchAt core part lane c (va + n - 1)

end Sys2Proof.Machine
end

