-- ==== Sys2Proof/Machine/Home.lean ====
section
/-! DEFINITION. The home agents and what they lean on: RAS records (R496), seal requests (R181), the end of a
context (R454), commutative updates (R98), the L1s and the invalidations that reach them (R55, R56, R73, R91), undo
logs (R179, R196), outbound holds (R198). -/

namespace Sys2Proof.Machine

/-! ## RAS (R496, R497) -/

/-- What a RAS record says. -/
structure Ras where
  kind : Nat
  sev : Nat
  detail : Nat := 0
  ukind : Nat := 0
  unit : Nat := 0
  dom : Option Nat := none
  ctx : Option Nat := none
  leg : Word := 0
  addr : Nat := 0

/-- Bits of a field placed at an offset. -/
def at' (lo n x : Nat) : Nat := (x % 2 ^ n) * 2 ^ lo

/-- The 256 bits of a RAS record. -/
def Ras.bits (r : Ras) (clock : Nat) : BitVec 256 :=
  BitVec.ofNat 256 (at' 192 64 r.addr + at' 128 64 clock + at' 96 32 r.leg.toNat + at' 86 10 (r.dom.getD 0)
    + at' 80 6 (r.ctx.getD 0) + (if r.dom.isSome then 2 ^ 79 else 0) + (if r.ctx.isSome then 2 ^ 78 else 0)
    + at' 56 8 r.ukind + at' 40 16 r.unit + at' 32 8 r.detail + at' 8 8 r.sev + at' 0 8 r.kind)

/-- The start of untranslated host memory in hmem. -/
def hostRaw : Nat := 2 ^ 84

/-- A 16-bit count that saturates. -/
def satInc (x : BitVec 16) : BitVec 16 := if x == 0xFFFF then x else x + 1

/-- A ring of 2^k slots is full: TAIL - HEAD equals 2^k, or as much as its 16 bits can tell where k is 16 (log 57). -/
def ringFull (tail head : BitVec 16) (k : Nat) : Bool := decide (min (2 ^ k) (2 ^ 16 - 1) ≤ (tail - head).toNat)

/-- Append a record: kept for I3C, and written to the ring where it is on and not full (R489, R496). -/
def State.postRas (s : State) (r : Ras) : State :=
  let b := r.bits s.clock
  let y := s.sys
  let y := { y with ras := (y.ras ++ [b]).drop (y.ras.length - 15) }
  if y.rasbase == 0 then { s with sys := y }
  else if ringFull y.rasTail y.rasHead y.rasLog2n.toNat then { s with sys := { y with rasDropped := satInc y.rasDropped } }
  else
    { s with
      sys := { y with rasTail := y.rasTail + 1 }
      hmem := Memory.writeN s.hmem (hostRaw + y.rasbase.toNat * 32 + 32 * (y.rasTail.toNat % 2 ^ y.rasLog2n.toNat))
        (leBytes 32 b.toNat) }

/-! ## Seal requests and the end of a context -/

/-- Request a seal (R181, R484): every request goes to the coordinator. It joins a pending seal, and is discarded during a rollback (R486). -/
def State.requestSeal (s : State) (d : Nat) : State :=
  match s.domain? d with
  | none => s
  | some x =>
    if x.stopped then s
    else { (if x.pending then s else s.modDomain d (fun x => { x with wanted := true, reqAt := s.time })) with out := s.out ++ [.sealReq d] }

/-- CLOCK of a core (R17, log 4). -/
def State.coreClock (s : State) (core : Nat) : Dword := dw (s.clock + Config.clockOffset core)

/-- A cause that ends the context moves it to ENDING (R454); a trap record becomes the fault record (R355). -/
def State.endCtx (s : State) (c : Nat) (cause : Nat) (r : Option TrapRec) : State :=
  let x := s.ctx c
  if x.state = .live || x.state = .stopped then
    s.setCtx c { x with
      state := .ending
      cause := BitVec.ofNat 8 cause
      fault := r.getD x.fault }
  else s

/-- A rollback begins on this package (R191, R486): the domain stops and the coordinator is told. It counts as injected while every cause of it
is an injection (R497). -/
def State.abortDomain (s : State) (d : Nat) (overflow : Option Nat) (injected : Bool) : State :=
  match s.domain? d with
  | none => s
  | some x =>
    let x' := { x with
      stopped := true
      overflow := match x.overflow with | some k => some k | none => overflow
      injected := injected && (!x.stopped || x.injected)
      wanted := false
      phase := if x.phase = .committed then .committed else .idle
      rolling := 0
      doneBy := [] }
    { (s.modDomain d (fun _ => x')) with out := s.out ++ [.abort d x'.overflow x'.injected] }

/-! ## Commutative updates at a home (R98, R301) -/

/-- A contribution reaches its home: it joins the others of its word. -/
def State.addRed (s : State) (pa : Nat) (op : AOp) (ty : Ty) (x : Dword) : State :=
  let other := s.cu.any (fun w => w.pa / 256 == pa / 256 && !(w.op == op && w.ty == ty))
  let s := if other then s.mergeLine pa 1 else s
  if s.cu.any (fun w => w.pa == pa) then
    { s with cu := s.cu.map (fun w => if w.pa = pa then { w with parts := w.parts ++ [x] } else w) }
  else { s with cu := s.cu ++ [{ pa := pa, op := op, ty := ty, parts := [x] }] }

/-- The contributions of a RED's lanes reach their home at once, in lane order (R64). -/
def State.addReds (s : State) (pa : Nat) (op : AOp) (ty : Ty) (xs : List Dword) : State :=
  xs.foldl (fun s x => s.addRed pa op ty x) s

/-! ## Undo logs (R179, R180, R196, R197) -/

/-- What a home agent answers to a write that may need a log entry. -/
inductive Logged where
  | ok (s : State)
  /-- held until the domain's seal is pending -/
  | wait (s : State)
  /-- the reserve is full: leg overflow -/
  | over (s : State)

/-- The entries that a domain holds in the log of a home agent. -/
def State.logCount (s : State) (home d : Nat) : Nat := s.logs.countP (fun e => e.home == home && e.dom == d)

/-- The counter LOG_NOW of a home agent: the entries of every domain there (R494). -/
def State.logNow (s : State) (home : Nat) : Nat := s.logs.countP (fun e => e.home == home)

/-- In whose name a store is logged and held: its recovery domain, the context that makes it and the leg whose tag it carries (R179, R180). -/
structure Maker where
  dom : Option Nat
  ctx : Nat
  leg : Word

/-- A context of this package as a maker. -/
def State.maker (s : State) (c : Nat) : Maker := ⟨(s.ctx c).domain, c, s.legOf c⟩

/-- The entries that fit in a log of C MiB: 128 bytes each. -/
def logCap (c : Nat) : Nat := c * 8192

/-- Log a sector before the first write of the leg whose tag the write carries (R179): that of a packet may be ahead of a member that has not
applied the cut. Page tables are never logged (R455). -/
def State.logSector (s : State) (c : Nat) (leg : Word) (d : Domain) (sector : Nat) : Logged :=
  let logged := s.logs.any (fun e => e.pa == sector && e.leg == leg && e.dom == d.num)
  if logged || s.inTables sector then .ok s
  else
    let h := homeOf sector
    let n := s.logCount h d.num
    let cap := logCap d.capacity
    if n < cap * 15 / 16 || (d.pending && decide (n < cap)) then
      let s := { s with logs := s.logs ++
        [{ dom := d.num, home := h, pa := sector, old := Memory.readN s.mem sector 64, leg := leg, ctx := c }] }
      let off := 0x3C0000 + 0x100 * h + 8
      let peak := (KMap.get 0 s.sys.counters off).toNat
      let s := if peak < s.logNow h then s.bump off (s.logNow h - peak) else s
      if n + 1 = cap * 3 / 4 then
        .ok ((s.requestSeal d.num).postRas { kind := 6, sev := 0, ukind := 5, unit := h, dom := some d.num, leg := d.leg })
      else .ok s
    else if d.pending then .over s
    else .wait (s.requestSeal d.num)

/-- Log the sectors of a list. -/
def State.logSectors (s : State) (c : Nat) (leg : Word) (d : Nat) : List Nat → Logged
  | [] => .ok s
  | x :: t =>
    match s.domain? d with
    | none => .ok s
    | some dm =>
      match s.logSector c leg dm x with
      | .ok s => State.logSectors s c leg d t
      | r => r

/-- The sectors of [pa, pa + n). -/
def sectorsOf (pa n : Nat) : List Nat := (List.range ((pa + n - 1) / 64 - pa / 64 + 1)).map (fun i => (pa / 64 + i) * 64)

/-- The log entries that a write needs. -/
def State.logFor (s : State) (m : Maker) (pa n : Nat) : Logged :=
  match m.dom with
  | none => .ok s
  | some d => if n = 0 then .ok s else s.logSectors m.ctx m.leg d (sectorsOf pa n)

/-- The log entries that a write of a context needs. -/
def State.logWrite (s : State) (c pa n : Nat) : Logged := s.logFor (s.maker c) pa n

/-- What an overflow does (R197): the domain rolls back and its contexts end. -/
def State.overflowFor (s : State) (m : Maker) (detail : Nat) : State :=
  match m.dom with
  | none => s
  | some d => s.abortDomain d (some detail) false

/-- An overflow that a write of a context meets. -/
def State.legOverflow (s : State) (c : Nat) (detail : Nat) : State := s.overflowFor (s.maker c) detail

/-! ## Sectors and invalidations (R55, R73, R91, R501) -/

/-- The L1 key of a target: its 64-byte sector; MMIO has none. -/
def sectorKey (t : Tgt) : Option Nat :=
  match t with
  | .dev a => some (a / 64)
  | .host a => some ((2 ^ 80 + a) / 64)
  | .mmio _ => none

/-- A target n bytes further. -/
def Tgt.plus (t : Tgt) (n : Nat) : Tgt :=
  match t with
  | .dev a => .dev (a + n)
  | .host a => .host (a + n)
  | .mmio a => .mmio (a + n)

/-- The sector keys that n bytes touch. -/
def sectorKeys (t : Tgt) (n : Nat) : List Nat :=
  match sectorKey t, sectorKey (t.plus (n - 1)) with
  | some a, some b => (List.range (b - a + 1)).map (a + ·)
  | _, _ => []

/-- The target of a sector. -/
def keyTgt (k : Nat) : Tgt := if k < 2 ^ 74 then .dev (k * 64) else .host (k * 64 - 2 ^ 80)

/-- The L1 of a physical core. -/
def State.l1 (s : State) (pos : Nat) : L1 := KMap.get {} s.l1s pos

/-- Change the L1 of a physical core. -/
def State.modL1 (s : State) (pos : Nat) (f : L1 → L1) : State := { s with l1s := KMap.put s.l1s pos (f (s.l1 pos)) }

/-- The L1 that holds a sector for a core: its own, or under fusion that of its cluster's core (a >> 8) mod 4, counted over
the four physical cores of the cluster, whether or not one is fused off (R56, R425). -/
def State.l1Pos (s : State) (core key : Nat) : Nat :=
  let p := s.sys.physCore core
  if (s.core core).fused then p / 4 * 4 + key / 4 % 4 else p

/-- The sector that a core's L1 holds. -/
def State.held? (s : State) (core key : Nat) : Option Sector := KMap.find (s.l1 (s.l1Pos core key)).sectors key

/-- The filter of a domain applies the arrived invalidations that `p` names; one that no filter holds any longer goes. -/
def L1.apply (k : L1) (d : Dom) (p : Inval → Bool) : L1 :=
  let invs := k.invs.map (fun (i : Inval) =>
    if p i && i.arrived.isSome && !i.applied.contains d then { i with applied := d :: i.applied } else i)
  { k with invs := invs.filter (fun i => i.arrived.isNone || decide (i.applied.length < 5)) }

/-- Invalidations that `p` names reach an L1: the SC and TSO filters apply them at once, and their sectors leave the L1
for every domain unless they were filled later (R73, R501). -/
def L1.arrive (k : L1) (now : Nat) (p : Inval → Bool) : L1 :=
  let hit := fun (i : Inval) => p i && i.arrived.isNone
  { k with
    invs := k.invs.map (fun (i : Inval) => if hit i then { i with arrived := some now, applied := [.sc, .tso] } else i)
    sectors := k.sectors.filter (fun e => !k.invs.any (fun i => hit i && i.sector == e.1 && decide (e.2.stamp < i.id))) }

/-- The filters apply what arrived 4,096 aclk ago or earlier (R91). -/
def L1.expire (k : L1) (now : Nat) : L1 :=
  { k with invs := k.invs.filter (fun i => match i.arrived with | some t => decide (now < t + 4096) | none => true) }

/-- Invalidations that `p` names reach the L1 of a core. -/
def State.arriveAt (s : State) (pos : Nat) (p : Inval → Bool) : State := s.modL1 pos (fun k => k.arrive s.clock p)

/-- Invalidations that `p` names have reached every core. -/
def State.arriveAll (s : State) (p : Inval → Bool) : State :=
  { s with l1s := s.l1s.map (fun (n, k) => (n, k.arrive s.clock p)) }

/-- The invalidations of some stores have reached every core: they are performed for every agent (R73). -/
def State.settle (s : State) (ids : List Nat) : State := s.arriveAll (fun i => ids.contains i.store)

/-- Sectors leave every L1, as for a write that the device or the host makes for every agent at once. -/
def State.dropKeys (s : State) (keys : List Nat) : State :=
  { s with l1s := s.l1s.map (fun (n, k) => (n, { k with sectors := k.sectors.filter (fun e => !keys.contains e.1) })) }

/-! ## Reads and writes at the home -/

/-- Write bytes where a target says, at its home. -/
def State.rawWrite (s : State) (t : Tgt) (bs : List (Byte × Byte)) : State :=
  match t with
  | .dev pa => let s := s.mergeLine pa bs.length; { s with mem := Memory.writeMasked s.mem pa bs }
  | .host a => { s with hmem := Memory.writeMasked s.hmem a bs }
  | .mmio a => { s with mmioOut := s.mmioOut ++ [(a, bs)] }

/-- Free bytes (log 3). -/
def State.freeBytes (s : State) (n : Nat) : List Byte × State :=
  ((List.range n).map (fun i => Config.freeByte (s.freeCtr + i)), { s with freeCtr := s.freeCtr + n })

/-- Bytes laid over another run: each byte of `bs` at `b`, inside [a, a + old.length). -/
def overlay (a : Nat) (old : List Byte) (b : Nat) (bs : List (Byte × Byte)) : List Byte :=
  (List.range old.length).map (fun i =>
    let x := listGet 0 old i
    if b ≤ a + i && a + i < b + bs.length then
      let (v, k) := listGet (0, 0) bs (a + i - b)
      (v &&& k) ||| (x &&& ~~~k)
    else x)

/-- A store's bytes laid over a run of a target. -/
def overlayTgt (t : Tgt) (old : List Byte) (u : Tgt) (bs : List (Byte × Byte)) : List Byte :=
  match t, u with
  | .dev a, .dev b => overlay a old b bs
  | .host a, .host b => overlay a old b bs
  | .mmio a, .mmio b => overlay a old b bs
  | _, _ => old

/-- Held stores of a domain that its reads see (R198), oldest first. -/
def State.heldFor (s : State) (dom : Option Nat) (t : Tgt) (old : List Byte) : List Byte :=
  match dom with
  | none => old
  | some d =>
    s.holds.foldl (fun old h =>
      match h.what with
      | .inl st =>
        if h.dom = d then
          match st.place, st.work with
          | .glob u, .bytes bs => overlayTgt t old u bs
          | _, _ => old
        else old
      | .inr _ => old) old

/-- Held stores of the context's domain that a read sees (R198). -/
def State.heldOver (s : State) (c : Nat) (t : Tgt) (old : List Byte) : List Byte := s.heldFor (s.ctx c).domain t old

/-- Read n bytes as the accesses of a domain read them at their home. -/
def State.readFor (s : State) (dom : Option Nat) (t : Tgt) (n : Nat) : List Byte × State :=
  match t with
  | .dev pa => let s := s.mergeLine pa n; (s.heldFor dom t (Memory.readN s.mem pa n), s)
  | .host a => (s.heldFor dom t (Memory.readN s.hmem a n), s)
  | .mmio _ => let (bs, s) := s.freeBytes n; (s.heldFor dom t bs, s)

/-- Read n bytes as a context reads them at their home. -/
def State.homeRead (s : State) (c : Nat) (t : Tgt) (n : Nat) : List Byte × State := s.readFor (s.ctx c).domain t n

/-- Read at the home for a core: its own L1 keeps no older copy of what it has read past it (R85). -/
def State.coreRead (s : State) (core c : Nat) (t : Tgt) (n : Nat) : List Byte × State :=
  let s := (sectorKeys t n).foldl (fun s key => s.arriveAt (s.l1Pos core key) (fun i => i.sector == key)) s
  s.homeRead c t n

/-- A write that the home admits and whose log has room. -/
def State.writeFor (s : State) (m : Maker) (t : Tgt) (bs : List (Byte × Byte)) : Logged :=
  match t with
  | .dev pa =>
    match s.logFor m pa bs.length with
    | .ok s => .ok (s.rawWrite t bs)
    | r => r
  | _ => .ok (s.rawWrite t bs)

/-- A write of a context that the home admits and whose log has room. -/
def State.homeWrite (s : State) (c : Nat) (t : Tgt) (bs : List (Byte × Byte)) : Logged := s.writeFor (s.maker c) t bs

/-- Whole bytes, with every bit written. -/
def whole (bs : List Byte) : List (Byte × Byte) := bs.map (fun b => (b, 0xFF))

/-! ## Outbound holds (R198) -/

/-- A store of a context to this page is irrevocable. -/
def State.irrevPage (s : State) (c : Nat) (x : Xlate) : Bool := (s.ctx c).domain.isSome && (x.tgt != 0 || x.ext)

/-- Bytes that a held store takes: 128 for each 64-byte sector. -/
def holdSize (t : Tgt) (n : Nat) : Nat :=
  match t with
  | .dev a | .host a | .mmio a => 128 * ((a + n - 1) / 64 - a / 64 + 1)

/-- Bytes held on a base die. -/
def State.holdUsed (s : State) (die : Nat) : Nat := sumOf (fun h => if h.die = die then h.size else 0) s.holds

/-- A seal is pending for a domain number. -/
def State.domPendingSeal (s : State) (d : Nat) : Bool := match s.domain? d with | some x => x.pending | none => false

/-- Put an irrevocable store into the hold of a base die. -/
def State.hold (s : State) (die d core : Nat) (leg : Word) (what : Store ⊕ Nat) (size : Nat) : Logged :=
  let used := s.holdUsed die
  let cap := 4 * 2 ^ 20
  let ordinary := cap - 256 * 1024
  if used + size ≤ ordinary || (s.domPendingSeal d && decide (used + size ≤ cap)) then
    let s := { s with holds := s.holds ++ [{ die := die, dom := d, leg := leg, core := core, what := what, size := size }] }
    if 3 * 2 ^ 20 ≤ used + size && used < 3 * 2 ^ 20 then
      .ok (((s.holds.filter (fun h => h.die == die)).map (·.dom)).dedup.foldl State.requestSeal s)
    else .ok s
  else if s.domPendingSeal d then .over s
  else .wait (s.requestSeal d)

/-- The base die whose hold takes a store (R198): the host link's, or that of the line's home. -/
def holdDie (t : Tgt) : Nat := match t with | .dev pa => homeOf pa / 4 | _ => 0

/-! ## A context's memory as the device reads and writes it for its own records -/

/-- The page of a context's virtual address, by a walk; bits [63:52] must be zero (R48). -/
def State.vPage (s : State) (c va : Nat) : Option Xlate :=
  if 2 ^ 52 ≤ va then none
  else match s.walkCached c va with
    | .leaf x => some x
    | _ => none

/-- Where a page that grants a right puts an address. -/
def State.vTargetOf (s : State) (c va : Nat) (ok : Xlate → Bool) : Option Tgt :=
  match s.vPage c va with
  | some x => if ok x then some (x.target (s.ctx c).pasid.toNat va) else none
  | none => none

/-- The target of a context's virtual address. -/
def State.vTarget (s : State) (c va : Nat) : Option Tgt := s.vTargetOf c va (fun _ => true)

/-- Read n bytes at a virtual address of a context; none where a page is absent, refused or without R (R458). -/
def State.vRead (s : State) (c va : Nat) : Nat → Option (List Byte)
  | 0 => some []
  | n + 1 =>
    match s.vTargetOf c va (·.r) with
    | some t => ((State.vRead s c (va + 1) n).map fun l => ((s.homeRead c t 1).1 ++ l))
    | none => none

/-- Write bytes at a virtual address of a context for every agent at once, unlogged; nothing where a page is absent or has not
W (R458). -/
def State.vWrite (s : State) (c va : Nat) : List Byte → State
  | [] => s
  | b :: bs =>
    match s.vTargetOf c va (·.w) with
    | some t => ((s.rawWrite t [(b, 0xFF)]).dropKeys (sectorKeys t 1)).vWrite c (va + 1) bs
    | none => State.vWrite s c (va + 1) bs

/-- The agent of what the device writes for a context. -/
def deviceAgent (c : Nat) : Agent := ⟨4096, 0, 0, 0, 37, c⟩

/-- A store that the device makes for a context, in UB at .SYS. -/
def State.deviceStore (s : State) (c id : Nat) (t : Tgt) (bs : List (Byte × Byte)) (irrev : Bool) : Store :=
  { id := id, who := deviceAgent c, dom := .ub, scope := .sys, rel := false, place := .glob t, work := .bytes bs, after := [],
    lanes := 1, irrev := irrev, leg := s.legOf c, pc := 0, node := 0, block := 0 }

/-- Write bytes of one sector of a context's image, area or record: logged, held at its home for log space, or put into an
outbound hold where the page makes it irrevocable; one that must wait for the hold waits likewise (R186, R196, R198, R201). -/
def State.devicePut (s : State) (c : Nat) (x : Xlate) (t : Tgt) (bs : List (Byte × Byte)) : State :=
  let (id, s) := s.fresh
  let keys := sectorKeys t bs.length
  let irrev := s.irrevPage c x
  let e := s.deviceStore c id t bs irrev
  let wait := fun (s : State) => match (s.ctx c).domain with
    | some d => { s with homeHeld := s.homeHeld ++ [{ dom := d, store := e }] }
    | none => s
  match irrev, (s.ctx c).domain with
  | true, some d =>
    match s.hold (holdDie t) d 4096 e.leg (.inl e) (holdSize t bs.length) with
    | .ok s => s.dropKeys keys
    | .wait s => wait s
    | .over s => s.legOverflow c 1
  | _, _ =>
    match s.homeWrite c t bs with
    | .ok s => s.dropKeys keys
    | .wait s => wait s
    | .over s => s.legOverflow c 0

/-- Bytes by the sectors that they lie in: address and bytes of each; `fuel` bounds their number. -/
def bySector : Nat → Nat → List Byte → List (Nat × List Byte)
  | 0, _, _ => []
  | _, _, [] => []
  | fuel + 1, va, bs => let n := 64 - va % 64; (va, bs.take n) :: bySector fuel (va + n) (bs.drop n)

/-- Write bytes of a context's own image, area or record (R186). The spec gives such an access no domain, and so no rank for the page's FLOOR
(R59): what the device reads, fetches and writes for itself is held to R and W alone (DESIGN CHOICE, log 99). -/
def State.vWriteLogged (s : State) (c va : Nat) (bs : List Byte) : State :=
  (bySector (bs.length / 64 + 2) va bs).foldl (fun s y =>
    match s.vPage c y.1 with
    | some x => if x.w then s.devicePut c x (x.target (s.ctx c).pasid.toNat y.1) (whole y.2) else s
    | none => s) s

/-- A write of a context's image or area still waits at its home. -/
def State.deviceWaits (s : State) (c : Nat) : Bool := s.homeHeld.any (fun h => h.store.who == deviceAgent c)

end Sys2Proof.Machine
end

