-- ==== Sys2Proof/Machine/Ops.lean ====
section
/-! DEFINITION. The shared operations: events to the host, the issuing group, register access, retirement of a slot,
fetch, taking a trap (R40, R355 to R357) and the return from it (R358). -/

namespace Sys2Proof.Machine

/-! ## Events and records for the host (R201, R449, R450) -/

/-- The 256 bits of an event. -/
def eventBits (kind c : Nat) (arg : Word) (addr clock : Dword) : Nat :=
  at' 128 64 clock.toNat + at' 64 64 addr.toNat + at' 32 32 arg.toNat + at' 8 6 c + at' 0 8 kind

/-- Write an event to the context's ring, or count it dropped. -/
def State.writeEvent (s : State) (c kind : Nat) (arg : Word) (addr clock : Dword) : State :=
  let x := s.ctx c
  if x.evbase == 0 || ringFull x.evTail x.evHead x.evLog2n.toNat then
    s.setCtx c { x with evDropped := satInc x.evDropped }
  else
    let a := x.evbase.toNat * 32 + 32 * (x.evTail.toNat % 2 ^ x.evLog2n.toNat)
    (s.setCtx c { x with evTail := x.evTail + 1 }).vWrite c a (leBytes 32 (eventBits kind c arg addr clock))

/-- The 256 bits of a completion record (R449). -/
def completionBits (itin : Nat) (clock : Dword) (leg : Word) (node reason status : Nat) : Nat :=
  at' 128 64 clock.toNat + at' 64 64 itin + at' 32 32 leg.toNat + at' 16 16 node + at' 8 8 reason + at' 0 8 status

/-- Write a record that waited for a cut, under the leg that the cut ended; outside a domain at once with leg 0. -/
def State.writeRec (s : State) (c : Nat) (leg : Word) (r : HostRec) : State :=
  match r with
  | .completion crec itin clock node reason status =>
    s.vWrite c crec (leBytes 32 (completionBits itin clock leg node reason status))
  | .event kind arg addr clock => s.writeEvent c kind arg addr clock

/-- Post a record: a context of a recovery domain waits for the cut; an event requests a seal (R201, R450). -/
def State.post (s : State) (c : Nat) (r : HostRec) : State :=
  match (s.ctx c).domain with
  | none => s.writeRec c 0 r
  | some d =>
    let s := s.modCtx c (fun x => { x with waiting := x.waiting ++ [r] })
    match r with
    | .event .. => s.requestSeal d
    | _ => s

/-- Post an event of R450. -/
def State.postEvent (s : State) (c kind : Nat) (arg addr : Nat) : State :=
  s.post c (.event kind (wd arg) (dw addr) (dw s.clock))

/-! ## The issuing group -/

/-- The issue group that an instruction acts on, as it stands at issue. -/
structure Who where
  core : Nat
  part : Nat
  slot : Nat
  grp : Nat
  b : Block
  g : Group
  ig : IGroup

/-- The current issue group of the partition in focus. -/
def State.issuer (s : State) : Option Who :=
  match (listGet {} (s.core s.focus.1).parts s.focus.2).cur with
  | none => none
  | some (slot, grp, id) =>
    match s.block s.focus.1 slot with
    | none => none
    | some b =>
      match (b.group grp).igs.find? (fun x => x.id == id) with
      | none => none
      | some ig => some ⟨s.focus.1, s.focus.2, slot, grp, b, b.group grp, ig⟩

/-- An issue group of a core by its place. -/
def State.whoOf (s : State) (core slot grp id : Nat) : Option Who :=
  match s.block core slot with
  | none => none
  | some b =>
    match (b.group grp).igs.find? (fun x => x.id == id) with
    | none => none
    | some ig => some ⟨core, (b.group grp).part, slot, grp, b, b.group grp, ig⟩

/-- Run a meaning on the issuing group. -/
def State.withIssuer (s : State) (f : Who → Host.Outcome State Fault Refusal) : Host.Outcome State Fault Refusal :=
  match s.issuer with
  | some w => f w
  | none => .fault .noIssueGroup

/-- Thread of a lane. -/
def Group.thread (g : Group) (lane : Nat) : Thread := listGet {} g.threads lane

/-- A present thread that has not exited. -/
def Thread.live (t : Thread) : Bool := t.present && !t.exited

/-- Lanes of present, non-exited threads of a group. -/
def Group.liveMask (g : Group) : LaneMask := maskOf (fun l => (g.thread l).live)

/-- Lanes of the issue group with live threads. -/
def Who.live (w : Who) : LaneMask := maskOf (fun l => w.ig.mask.getLsbD l && (w.g.thread l).live)

/-- Predicate p of a thread; 7 is PT. -/
def Thread.pred (t : Thread) (p : BitVec 3) : Bool := p == 7 || t.preds.getLsbD p.toNat

/-- A predicate source. -/
def Thread.psrc (t : Thread) (p : PSrc) : Bool := t.pred p.p != p.neg

/-- A guard holds for a thread (R221). -/
def guardHolds (gd : Guard) (t : Thread) : Bool := t.pred gd.pred != gd.neg

/-- lane_active (R214). -/
def Who.active (w : Who) (gd : Guard) : LaneMask := maskOf (fun l => w.live.getLsbD l && guardHolds gd (w.g.thread l))

/-- The context of the issuer. -/
def Who.ctx (w : Who) : Nat := w.b.ctx

/-- The kernel whose code the issue group runs: the handler's in handler mode. -/
def Who.kern (w : Who) : Kernel :=
  match w.ig.handler, w.g.trap with
  | true, some t => t.kern
  | _, _ => w.b.nodeRec.kern

/-- The agent of a lane's access. -/
def Who.agent (w : Who) (lane : Nat) : Agent := ⟨w.core, w.slot, w.b.gen, w.grp, lane, w.b.ctx⟩

/-! ## Registers -/

/-- Read Vn of a lane, or the pair from Vn. -/
def Group.readV (g : Group) (lane n : Nat) (wide : Bool) : Dword :=
  let lo := KMap.get (0 : Word) g.v (n * 32 + lane)
  if wide then pairOf (KMap.get 0 g.v ((n + 1) * 32 + lane)) lo else lo.setWidth 64

/-- Write Vn of a lane, or the pair from Vn. -/
def Group.writeV (g : Group) (lane n : Nat) (wide : Bool) (x : Dword) : Group :=
  let v := KMap.put g.v (n * 32 + lane) (loWord x)
  { g with v := if wide then KMap.put v ((n + 1) * 32 + lane) (hiWord x) else v }

/-- Read Sn, or the pair from Sn. -/
def Group.readS (g : Group) (n : Nat) (wide : Bool) : Dword :=
  let lo := KMap.get (0 : Word) g.s n
  if wide then pairOf (KMap.get 0 g.s (n + 1)) lo else lo.setWidth 64

/-- Write Sn, or the pair from Sn. -/
def Group.writeS (g : Group) (n : Nat) (wide : Bool) (x : Dword) : Group :=
  let v := KMap.put g.s n (loWord x)
  { g with s := if wide then KMap.put v (n + 1) (hiWord x) else v }

/-- Change the thread of a lane. -/
def Group.modThread (g : Group) (lane : Nat) (f : Thread → Thread) : Group := { g with threads := listMod g.threads lane f }

/-- Write a predicate of a lane. -/
def Group.writeP (g : Group) (lane : Nat) (p : BitVec 3) (k : Bool) : Group :=
  g.modThread lane (fun t => { t with preds :=
    if k then t.preds ||| (1 : BitVec 7) <<< p.toNat else t.preds &&& ~~~((1 : BitVec 7) <<< p.toNat) })

/-- Write a latch of a lane (R223). -/
def Group.writeL (g : Group) (lane : Nat) (l : BitVec 2) (x : Dword) : Group :=
  g.modThread lane (fun t => { t with latches := listSet t.latches l.toNat (some x) })

/-- Write a V result: register unless suppressed, and latch (R223). -/
def Group.result (g : Group) (lane : Nat) (wb : Wb) (d : BitVec 8) (wide : Bool) (x : Dword) : Group :=
  let x := if wide then x else dw (x.toNat % 2 ^ 32)
  let g := g.writeL lane wb.ldst x
  if wb.nowb then g else g.writeV lane d.toNat wide x

/-- A remote result no longer writes the latches of the lanes. -/
def RDest.loseLatches (m : LaneMask) : RDest → RDest
  | .v d wb ty k => .v d wb ty (k &&& ~~~m)
  | r => r

/-- Every latch of the lanes is lost (R28), also the one that a result on its way would write. -/
def Group.loseLatches (g : Group) (m : LaneMask) : Group :=
  let g := { g with ops := g.ops.map (fun o => { o with dest := o.dest.loseLatches m }) }
  forLanes m g (fun g l => g.modThread l (fun t => { t with latches := [none, none, none, none] }))

/-- Change issue group `id`. -/
def Group.modIg (g : Group) (id : Nat) (f : IGroup → IGroup) : Group :=
  { g with igs := g.igs.map (fun x => if x.id == id then f x else x) }

/-- Read a V source of a lane: a register or a latch; an invalid latch gives none. -/
def Who.src? (w : Who) (lane : Nat) (wide : Bool) : VSrc → Option Dword
  | .reg n => some (w.g.readV lane n.toNat wide)
  | .latch l => (listGet none (w.g.thread lane).latches l.toNat).map fun x => if wide then x else dw (x.toNat % 2 ^ 32)

/-- Read a V source, after row 6 has passed. -/
def Who.src (w : Who) (lane : Nat) (wide : Bool) (x : VSrc) : Dword := (w.src? lane wide x).getD 0

/-- A V source read at some width. -/
structure VRead where
  x : VSrc
  wide : Bool

/-- A V register named at some width. -/
structure VName where
  n : BitVec 8
  wide : Bool

/-- The lanes of a mask for which some source reads an invalid latch (row 6 of R230). -/
def Who.badLatch (w : Who) (m : LaneMask) (rs : List VRead) : Option Nat :=
  (lanesOf m).find? (fun l => rs.any (fun r => (w.src? l r.wide r.x).isNone))

/-- A V register, or its pair, lies within the allotment (R35). -/
def IGroup.allows (ig : IGroup) (n : BitVec 8) (wide : Bool) : Bool :=
  decide (n.toNat + (if wide then 1 else 0) < 8 * ig.allot)

/-- A V register that reaches past the allotment (R35). -/
def Who.badReg (w : Who) (rs : List VRead) (ds : List VName) : Bool :=
  rs.any (fun r => match r.x with | .reg n => !w.ig.allows n r.wide | .latch _ => false)
    || ds.any (fun d => !w.ig.allows d.n d.wide)

/-- Rows 6 and 7 of R230 for the V operands: the cause and the lane. -/
def Who.check (w : Who) (m : LaneMask) (rs : List VRead) (ds : List VName) : Option (Nat × Nat) :=
  match w.badLatch m rs with
  | some l => some (6, l)
  | none => if m != 0 && w.badReg rs ds then some (3, lowest m) else none

/-! ## Fetch (R215, R458) -/

/-- The bundle of a PC. -/
def bundleOf (pc : Dword) : Dword := pc &&& ~~~31

/-- The slot of a PC. -/
def slotOf (pc : Dword) : Nat := pc.toNat / 8 % 4 - 1

/-- What instruction fetch needs of a page. -/
def fetchNeed : Need := ⟨true, false, none⟩

/-- The first address of code that a home refuses (R462). -/
def State.codeRefused (s : State) (c : Nat) (ps : List Piece) : Option Nat :=
  ps.findSome? (fun p => match p.x.target (s.ctx c).pasid.toNat p.va with
    | .dev pa => if s.homeAdmits c pa then none else some pa
    | _ => none)

/-- Bytes of code as the core fetches them; a refused home reads zero (R462). -/
def State.codeBytes (s : State) (c : Nat) (ps : List Piece) : List Byte :=
  ps.foldl (fun a p =>
    let t := p.x.target (s.ctx c).pasid.toNat p.va
    a ++ (match t with
      | .dev pa => if s.homeAdmits c pa then (s.homeRead c t p.n).1 else List.replicate p.n 0
      | _ => (s.homeRead c t p.n).1)) []

/-- Fetch the bundle at an address. -/
def State.fetchBundle (s : State) (core c : Nat) (a : Dword) : Except Refuse Bundle :=
  match s.pieces core c fetchNeed a.toNat 32 with
  | .error r => .error r
  | .ok ps =>
    let n := leNat (s.codeBytes c ps)
    .ok ⟨dw (field n 0 64), dw (field n 64 64), dw (field n 128 64), dw (field n 192 64)⟩

/-- The instruction word and slot control at a PC, zero where it cannot be fetched. -/
def State.wordAt (s : State) (core c : Nat) (pc : Dword) : BitVec 20 × Dword :=
  match s.fetchBundle core c (bundleOf pc) with
  | .ok b => (b.ctl (slotOf pc), b.word (slotOf pc))
  | .error _ => (0, 0)

/-! ## Segments (R26, R407) -/

/-- The entry bundle of a segment of a kernel: none where the number is beyond the table, the entry is empty, or its
bundle lacks SEGENT (R27). None too, so that the terminator takes the illegal-target fault, where the table entry or the bundle cannot
be read: R27 and R238 do not say which fault that is (DESIGN CHOICE, log 78). -/
def State.segEntry (s : State) (core c : Nat) (k : Kernel) (n : Nat) : Option Dword :=
  if k.nseg ≤ n || 4096 ≤ n then none
  else
    match s.vRead c (k.addr + k.segOff + 4 * n) 4 with
    | none => none
    | some bs =>
      let e := leNat bs
      if !bitAt e 31 then none
      else
        let a := dw (k.addr + k.codeOff + 32 * field e 0 25)
        match s.fetchBundle core c a with
        | .ok b => if b.segEntry then some a else none
        | .error _ => none

/-! ## Retiring a slot -/

/-- The PC of the next slot (R215). -/
def nextPc (pc : Dword) : Dword := if slotOf pc = 2 then pc + 16 else pc + 8

/-- An issue group moves past its slot; into the next bundle after slot 2. -/
def IGroup.advance (ig : IGroup) : IGroup :=
  if slotOf ig.pc = 2 then { ig with pc := nextPc ig.pc, waited := false, entered := false, jumped := false }
  else { ig with pc := nextPc ig.pc, waited := false }

/-- The issue group loses its latches and joins the runnable ones anew (R28). -/
def Group.reschedule (g : Group) (id since : Nat) : Group :=
  match g.igs.find? (fun x => x.id == id) with
  | some ig => (g.loseLatches ig.mask).modIg id (fun x => { x with since := since })
  | none => g

/-- An issue group meets a scheduling point: a partition holds it no longer, and a composite issue that it stands in ends with the
slot being issued (R28, log 41). -/
def Part.letGo (p : Part) (slot grp id : Nat) : Part :=
  { p with
    cur := if p.cur == some (slot, grp, id) then none else p.cur
    comp := p.comp.map (fun c => if c.slot == slot && c.igs.contains (grp, id)
      then { c with igs := c.igs.filter (· != (grp, id)), broken := true } else c) }

/-- No issue group of a block, or of its group `grp`, is current any longer. -/
def Part.letOut (p : Part) (slot : Nat) (grp : Option Nat) : Part :=
  let mine := fun (g : Nat) => grp.isNone || grp == some g
  { p with
    cur := match p.cur with | some (sl, g, id) => if sl = slot && mine g then none else some (sl, g, id) | none => none
    comp := p.comp.bind (fun c =>
      if c.slot != slot || !c.igs.any (fun x => mine x.1) then some c
      else if grp.isNone then none
      else some { c with igs := c.igs.filter (fun x => !mine x.1), broken := true }) }

/-- Change a partition of a core. -/
def State.modPart (s : State) (core part : Nat) (f : Part → Part) : State :=
  s.modCore core (fun k => { k with parts := listMod k.parts part f })

/-- The issue group is no longer the current one of its partition. -/
def State.clearCur (s : State) (w : Who) : State :=
  s.modPart w.core w.part (fun p => p.letGo w.slot w.grp w.ig.id)

/-- A scheduling point of the issuing group (R28, R384). -/
def State.schedule (s : State) (w : Who) : State :=
  let (n, s) := s.fresh
  (s.modGroup w.core w.slot w.grp (fun g => g.reschedule w.ig.id n)).clearCur w

/-- An issue group that has ended a segment and not begun the next. -/
def IGroup.atEntry (ig : IGroup) : Bool := slotOf ig.pc == 0 && ig.jumped && !ig.entered

/-- A group that is asked to stop. -/
def GPlace.stops : GPlace → Bool
  | .stopping _ => true
  | _ => false

/-- A group's issue group may issue: it does not wait, is not stopped at a segment end (R43), no other of its group is
in handler mode (R356), and the group is not held at a CHUNK (R347). -/
def Group.runnable (g : Group) (ig : IGroup) : Bool :=
  ig.wait == .none && (g.place == .resident || (g.place.stops && !ig.atEntry)) && (g.trap.isNone || ig.handler)
    && !g.igs.any (fun x => x.wait == .chunk)

/-- Groups of a context issue: it is live, its domain runs, and no drain holds its parked groups (R183, R191, R454). -/
def State.ctxIssues (s : State) (c : Nat) : Bool :=
  (s.ctx c).state == .live && !s.draining c && (match s.domOf c with | some d => !d.stopped | none => true)

/-- An issue group may issue (R384). -/
def State.mayIssue (s : State) (w : Who) : Bool :=
  s.ctxIssues w.ctx && !w.b.held && w.live != 0 && w.g.runnable w.ig

/-- An issue group stands in a composite issue. -/
def Comp.holds (c : Comp) (w : Who) : Bool := c.slot == w.slot && c.gen == w.b.gen && c.igs.contains (w.grp, w.ig.id)

/-- The composite issue in which an issue group stands. -/
def State.compOf (s : State) (w : Who) : Option Comp := (listGet {} (s.core w.core).parts w.part).comp.filter (fun c => c.holds w)

/-- Another issue group of the partition may issue: none that issues together with this one (R30, R384). -/
def State.otherRunnable (s : State) (w : Who) : Bool :=
  (s.core w.core).slots.any (fun (sl, b) => b.groups.any (fun g => g.part == w.part && g.igs.any (fun ig =>
    let v : Who := ⟨w.core, w.part, sl, g.idx, b, g, ig⟩
    s.mayIssue v && !(sl == w.slot && g.idx == w.grp && ig.id == w.ig.id)
      && !(match s.compOf w with | some c => c.holds v | none => false))))

/-- The token that the slot sets (R219): pending until the result's write-back. -/
def Group.setToken (g : Group) (k : Ctl) : Group :=
  match k.sett with
  | some t => { g with results := g.results ++ [{ id := g.nextId, tok := some t }], nextId := g.nextId + 1 }
  | none => g

/-- Where the counters of the issuing partition lie (R393, R494). -/
def Who.partCtr (w : Who) (s : State) : Nat := 0x1000 * s.sys.physCore w.core + 0x100 * w.part

/-- A YIELD that switches: a scheduling point, counted once for all that issue it together (R384, R393). -/
def State.yieldNow (s : State) (w : Who) : State :=
  let counted := match s.compOf w with | some c => c.yielded | none => false
  let s := (s.schedule w).modPart w.core w.part (fun p =>
    { p with comp := p.comp.map (fun c => if c.slot == w.slot && c.gen == w.b.gen then { c with yielded := true } else c) })
  if counted then s else s.bump (w.partCtr s + 0x30) 1

/-- The slot takes effect on its group and the issue group moves on; its YIELD may switch. -/
def State.finish (s : State) (w : Who) (k : Ctl) (f : Group → Group) : State :=
  let s := s.modGroup w.core w.slot w.grp (fun g => ((f g).setToken k).modIg w.ig.id IGroup.advance)
  if k.yield && s.switch && s.otherRunnable w then s.yieldNow w else s

/-- The slot has no effect on its group beside moving on. -/
def State.skip (s : State) (w : Who) (k : Ctl) : State := s.finish w k id

/-- The issue group moves past its slot without setting a token: a remote result sets its own. -/
def State.finishRemote (s : State) (w : Who) (k : Ctl) (f : Group → Group) : State :=
  s.finish w { k with sett := none } f

/-! ## Traps (R40, R355 to R357) -/

/-- What a fault reports. -/
structure Flt where
  cause : Nat
  lane : Nat
  addr : Dword := 0
  sub : BitVec 4 := 0
  code : BitVec 8 := 0
  /-- FLOOR register of R362 -/
  floor : Word := 0

/-- The trap record of the issuing group at its slot. -/
def State.record (s : State) (w : Who) (lanes : LaneMask) (f : Flt) : TrapRec :=
  let (ctl, word) := s.wordAt w.core w.ctx w.ig.pc
  { addr := f.addr
    iword := word
    leg := s.legOf w.ctx
    block := wd w.b.task.lin
    node := wd w.b.task.node
    lanes := lanes
    slotctl := ctl
    group := BitVec.ofNat 5 w.grp
    lane := BitVec.ofNat 5 f.lane
    code := f.code
    sub := f.sub
    cause := BitVec.ofNat 6 f.cause
    pc := w.ig.pc
    region := (w.g.thread f.lane).region
    clock := s.coreClock w.core }

/-- Causes that run no handler (R355). -/
def driverCause (c : Nat) : Bool := c == 9 || c == 12 || c == 13 || c == 15 || c == 16

/-- Causes after which RFE.NEXT is legal, and causes that RFE may leave (R355). -/
def nextOk (c : Nat) : Bool := c == 2 || c == 14 || c == 19
def restartable (c : Nat) : Bool :=
  c == 2 || c == 3 || c == 7 || c == 8 || c == 10 || c == 11 || c == 14 || c == 17 || c == 18 || c == 19

/-- A trap completes the group's writes, abandons its remote results, clears its tokens and latches (R40). An abandoned XATOM
outside UB still holds its group by its custody (R156). -/
def Group.settle (g : Group) : Group :=
  ({ g with
    results := []
    ops := (g.ops.filter (fun (o : RemOp) => !o.pkts.isEmpty)).map (fun (o : RemOp) =>
      { o with dest := .nothing, abandoned := o.abandoned || o.dest != RDest.nothing })
    negs := g.negs.map (fun (n : NegReply) => { n with tok := none }) }).loseLatches 0xFFFFFFFF

/-- The issue group enters the handler (R356). -/
def Group.enterHandler (g : Group) (id : Nat) (r : TrapRec) (floor : Word) (k : Kernel) (entry : Dword)
    (since : Nat) : Group :=
  { (g.settle.modIg id (fun ig => { ig with
      pc := entry + 8, wait := .none, since := since, handler := true, jumped := true, entered := false,
      waited := false, trap := none, allot := g.allot, got := [] })) with
    trap := some { record := r, floor := floor, kern := k, opBase := since,
                   lanes := match g.igs.find? (fun x => x.id == id) with | some ig => ig.mask | none => 0 } }

/-- The context stops at an assertion (R245): the record is kept and STOPPED is posted. -/
def State.stopCtx (s : State) (c : Nat) (r : TrapRec) : State :=
  let x := s.ctx c
  if x.state = .live then
    (s.setCtx c { x with state := .stopped, cause := 13, fault := r }).postEvent c 3 r.lane.toNat 0
  else s

/-- Deliver a trap to an issue group (R355, R356, R468, R469). At an assertion the writes in flight complete (R245). -/
def State.takeTrap (s : State) (w : Who) (r : TrapRec) (floor : Word) : State :=
  let c := w.ctx
  let cause := r.cause.toNat
  let x := s.ctx c
  let settled := (s.modGroup w.core w.slot w.grp Group.settle).clearCur w
  if w.ig.handler then settled.endCtx c cause (some { r with hm := true })
  else if cause = 13 then
    ((s.modGroup w.core w.slot w.grp (fun g => g.modIg w.ig.id (fun ig => { ig with trap := some r }))).clearCur w).stopCtx c r
  else if driverCause cause || x.handler == 0 then settled.endCtx c cause (some r)
  else if w.g.allot < x.hkern.regs || w.b.nodeRec.kern.locKiB < x.hkern.locKiB then
    settled.endCtx c cause (some { r with hm := true })
  else
    match s.segEntry w.core c x.hkern x.hseg.toNat with
    | none => settled.endCtx c cause (some r)
    | some a =>
      let (n, s) := s.fresh
      (s.modGroup w.core w.slot w.grp (fun g => g.enterHandler w.ig.id r floor x.hkern a n)).clearCur w

/-- Raise a fault of the issuing group at its slot. -/
def State.raise (s : State) (w : Who) (lanes : LaneMask) (f : Flt) : Host.Outcome State Fault Refusal :=
  .next (s.takeTrap w (s.record w lanes f) f.floor)

/-- A refused access as a fault (R59, R289, R362). -/
def refuseFlt (r : Refuse) (lane : Nat) (rank : Nat) : Flt :=
  match r with
  | .permission a => { cause := 8, lane := lane, addr := dw a }
  | .floor a f => { cause := 7, lane := lane, addr := dw a, floor := wd (8 * rank + f) }
  | .absent a => { cause := 9, lane := lane, addr := dw a }

/-- RFE: the issue group's threads leave handler mode at a PC (R358), in the region of the record. -/
def Group.leaveHandler (g : Group) (id : Nat) (pc : Dword) (since : Nat) : Group :=
  match g.igs.find? (fun x => x.id == id), g.trap with
  | some ig, some t =>
    let rest := t.lanes &&& ~~~ig.mask
    let g := forLanes ig.mask g (fun g l => g.modThread l (fun x => { x with region := t.record.region }))
    { ((g.loseLatches ig.mask).modIg id (fun x => { x with
        pc := pc, handler := false, jumped := true, entered := false, waited := false, since := since, got := [] })) with
      trap := if rest == 0 then none else some { t with lanes := rest } }
  | _, _ => g

/-- The return from a trap: at the region entry, or after the trapped slot; a cause that may not be left so ends the
context (R355, R358). -/
def State.returnTrap (s : State) (w : Who) (next : Bool) : State :=
  match w.g.trap with
  | none => s
  | some t =>
    let c := t.record.cause.toNat
    if (next && nextOk c) || (!next && restartable c) then
      let (n, s) := s.fresh
      (s.modGroup w.core w.slot w.grp (fun g =>
        g.leaveHandler w.ig.id (if next then nextPc t.record.pc else t.record.region + 8) n)).clearCur w
    else (s.clearCur w).endCtx w.ctx c (some { t.record with clock := s.coreClock w.core })

/-! ## The shape of a vector instruction (R236) -/

/-- The operand checks of rows 6 and 7, then the effect on the group of the lanes whose guard holds. -/
def State.vector (s : State) (h : Hd) (rs : List VRead) (ds : List VName)
    (f : Who → LaneMask → Group → Group) : Host.Outcome State Fault Refusal :=
  s.withIssuer fun w =>
    let m := w.active h.g
    match w.check m rs ds with
    | some (c, l) => s.raise w m { cause := c, lane := l }
    | none => .next (s.finish w h.k (f w m))

/-- Each active lane's V result. -/
def writeLanes (m : LaneMask) (wb : Wb) (d : BitVec 8) (wide : Bool) (x : Nat → Dword) (g : Group) : Group :=
  forLanes m g (fun g l => g.result l wb d wide (x l))

/-- Each active lane's predicate result. -/
def writePreds (m : LaneMask) (p : BitVec 3) (x : Nat → Bool) (g : Group) : Group :=
  forLanes m g (fun g l => g.writeP l p (x l))

/-- A uniform instruction: its effect happens once for the issue group (R258). -/
def State.uniform (s : State) (k : Ctl) (f : Who → Group → Group) : Host.Outcome State Fault Refusal :=
  s.withIssuer fun w => .next (s.finish w k (f w))

/-- An instruction that acts once when any lane's guard holds, and otherwise does nothing. -/
def State.anyLane (s : State) (h : Hd) (f : Who → LaneMask → Host.Outcome State Fault Refusal) :
    Host.Outcome State Fault Refusal :=
  s.withIssuer fun w =>
    let m := w.active h.g
    if m = 0 then .next (s.skip w h.k) else f w m

end Sys2Proof.Machine
end

