-- ==== Sys2Proof/Machine/Operands.lean ====
section
/-! DEFINITION. Every operand form (R222, R234, R235, R259, R286, R287): what a lane reads through it, and which V
reads it makes. -/

namespace Sys2Proof.Machine

/-- A type of 64-bit operands. -/
def wide (ty : Ty) : Bool := ty == .b64 || ty == .i64 || ty == .n64

/-- The V read of a source. -/
def vr (ty : Ty) (x : VSrc) : List VRead := [⟨x, wide ty⟩]

/-- The 32-bit V read of a source. -/
def vr32 (x : VSrc) : List VRead := [⟨x, false⟩]

/-- The 64-bit V read of a source. -/
def vr64 (x : VSrc) : List VRead := [⟨x, true⟩]

/-- The V reads of an operand. -/
def opReads (w : Bool) : Opnd → List VRead
  | .v x => [⟨x, w⟩]
  | _ => []

/-- The V register named by a destination. -/
def vd (d : BitVec 8) (w : Bool) : List VName := [⟨d, w⟩]

/-- An operand of a type, for a lane (R234, R235). -/
def Who.opnd (w : Who) (lane : Nat) (ty : Ty) : Opnd → Dword
  | .v x => w.src lane (wide ty) x
  | .s n => w.g.readS n.toNat (wide ty)
  | .imm i => immOf ty i

/-- A count operand, always 32 bits (R235). -/
def Who.count (w : Who) (lane : Nat) : Opnd → Nat
  | .v x => (w.src lane false x).toNat
  | .s n => (w.g.readS n.toNat false).toNat
  | .imm i => i.toNat

/-- A uniform operand (R259). -/
def Who.sop (w : Who) (ty : Ty) : SOp → Dword
  | .s n => w.g.readS n.toNat (wide ty)
  | .imm i => immOf ty i

/-- A uniform count. -/
def Who.scount (w : Who) : SOp → Nat
  | .s n => (w.g.readS n.toNat false).toNat
  | .imm i => i.toNat

/-- An S register as a number. -/
def Who.s32 (w : Who) (n : BitVec 6) : Nat := (w.g.readS n.toNat false).toNat

/-- An S pair as a number. -/
def Who.s64 (w : Who) (n : BitVec 6) : Nat := (w.g.readS n.toNat true).toNat

/-- Sn + k as a 32-bit number, for descriptors of consecutive registers. -/
def Who.sAt (w : Who) (n : BitVec 6) (k : Nat) : Nat := (w.g.readS (n.toNat + k) false).toNat

/-- The V reads of a memory base. -/
def baseReads (w : Bool) : Base → List VRead
  | .v x => [⟨x, w⟩]
  | .s _ => []

/-- A memory base for a lane (R286). -/
def Who.base (w : Who) (lane : Nat) (wide : Bool) : Base → Nat
  | .v x => (w.src lane wide x).toNat
  | .s n => (w.g.readS n.toNat wide).toNat

/-- A global or host byte address (R287). -/
def Who.gaddr (w : Who) (lane : Nat) (b : Base) (imm : BitVec 8) : Nat :=
  wrapTo 64 (w.base lane true b + imm.toInt)

/-- A local offset or an accumulator index (R287). -/
def Who.laddr (w : Who) (lane : Nat) (b : Base) (imm : BitVec 8) : Nat :=
  wrapTo 32 (w.base lane false b + imm.toInt)

end Sys2Proof.Machine
end

