-- ==== Sys2Proof/Machine/Int.lean ====
section
/-! DEFINITION. Integer arithmetic, logic, shifts, bit fields, permutes, moves, compares and predicates: majors 0x01
to 0x04 (R236, R247 to R257). -/

namespace Sys2Proof.Machine

/-! ## Shapes -/

/-- The exact result written under R236 and R247: modulo 2^W, or saturated. -/
def arith (ty : Ty) (sat : Bool) (x : Int) : Dword :=
  dw (if sat then satTo (isSigned ty) (widthOf ty) x else wrapTo (widthOf ty) x)

/-- Bits of a type's width. -/
def trunc (ty : Ty) (x : Dword) : Dword := dw (x.toNat % 2 ^ widthOf ty)

/-- Unary shape (R234) with a destination of its own width. -/
def State.unary (s : State) (o : IUn) (wd : Bool) (f : Dword → Dword) : Host.Outcome State Fault Refusal :=
  s.vector o.h (vr o.ty o.a) (vd o.d wd) fun w m =>
    writeLanes m o.wb o.d wd (fun l => f (w.src l (wide o.ty) o.a))

/-- Binary shape (R234). -/
def State.binary (s : State) (o : IBin) (f : Dword → Dword → Dword) : Host.Outcome State Fault Refusal :=
  s.vector o.h (vr o.ty o.a ++ opReads (wide o.ty) o.b) (vd o.d (wide o.ty)) fun w m =>
    writeLanes m o.wb o.d (wide o.ty) (fun l => f (w.src l (wide o.ty) o.a) (w.opnd l o.ty o.b))

/-- Binary shape whose b is a 32-bit count or control (R235, R252). -/
def State.counted (s : State) (o : IBin) (f : Dword → Nat → Dword) : Host.Outcome State Fault Refusal :=
  s.vector o.h (vr o.ty o.a ++ opReads false o.b) (vd o.d (wide o.ty)) fun w m =>
    writeLanes m o.wb o.d (wide o.ty) (fun l => f (w.src l (wide o.ty) o.a) (w.count l o.b))

/-- Ternary shape (R234). -/
def State.ternary (s : State) (o : ITern) (f : Dword → Dword → Dword → Dword) : Host.Outcome State Fault Refusal :=
  s.vector o.h (vr o.ty o.a ++ opReads (wide o.ty) o.b ++ opReads (wide o.ty) o.c) (vd o.d (wide o.ty)) fun w m =>
    writeLanes m o.wb o.d (wide o.ty) (fun l =>
      f (w.src l (wide o.ty) o.a) (w.opnd l o.ty o.b) (w.opnd l o.ty o.c))

/-- Ternary shape whose c is a 32-bit count or control (R235, R252). -/
def State.ternaryCount (s : State) (o : ITern) (f : Dword → Dword → Nat → Dword) : Host.Outcome State Fault Refusal :=
  s.vector o.h (vr o.ty o.a ++ opReads (wide o.ty) o.b ++ opReads false o.c) (vd o.d (wide o.ty)) fun w m =>
    writeLanes m o.wb o.d (wide o.ty) (fun l =>
      f (w.src l (wide o.ty) o.a) (w.opnd l o.ty o.b) (w.count l o.c))

/-! ## Major 0x01 (R247) -/

/-- IADD: a + b. -/
def execIadd (o : IBin) (s : State) : Host.Outcome State Fault Refusal :=
  s.binary o fun a b => arith o.ty o.m (intOf o.ty a + intOf o.ty b)

/-- ISUB: a - b. -/
def execIsub (o : IBin) (s : State) : Host.Outcome State Fault Refusal :=
  s.binary o fun a b => arith o.ty o.m (intOf o.ty a - intOf o.ty b)

/-- IADD3: a + b + c. -/
def execIadd3 (o : ITern) (s : State) : Host.Outcome State Fault Refusal :=
  s.ternary o fun a b c => arith o.ty o.m (intOf o.ty a + intOf o.ty b + intOf o.ty c)

/-- IMUL: a * b. -/
def execImul (o : IBin) (s : State) : Host.Outcome State Fault Refusal :=
  s.binary o fun a b => arith o.ty o.m (intOf o.ty a * intOf o.ty b)

/-- IMULHI: floor(a * b / 2^W). -/
def execImulhi (o : IBin) (s : State) : Host.Outcome State Fault Refusal :=
  s.binary o fun a b => arith o.ty false (intOf o.ty a * intOf o.ty b / 2 ^ widthOf o.ty)

/-- IMAD: a * b + c. -/
def execImad (o : ITern) (s : State) : Host.Outcome State Fault Refusal :=
  s.ternary o fun a b c => arith o.ty o.m (intOf o.ty a * intOf o.ty b + intOf o.ty c)

/-- IMIN: the smaller. -/
def execImin (o : IBin) (s : State) : Host.Outcome State Fault Refusal :=
  s.binary o fun a b => arith o.ty false (min (intOf o.ty a) (intOf o.ty b))

/-- IMAX: the larger. -/
def execImax (o : IBin) (s : State) : Host.Outcome State Fault Refusal :=
  s.binary o fun a b => arith o.ty false (max (intOf o.ty a) (intOf o.ty b))

/-- IABS: |a|. -/
def execIabs (o : IUn) (s : State) : Host.Outcome State Fault Refusal :=
  s.unary o (wide o.ty) fun a => arith o.ty o.m (intOf o.ty a).natAbs

/-- INEG: -a. -/
def execIneg (o : IUn) (s : State) : Host.Outcome State Fault Refusal :=
  s.unary o (wide o.ty) fun a => arith o.ty o.m (-intOf o.ty a)

/-! ## Major 0x02 (R248 to R250) -/

/-- AND. -/
def execAnd (o : IBin) (s : State) : Host.Outcome State Fault Refusal := s.binary o fun a b => trunc o.ty (a &&& b)

/-- OR. -/
def execOr (o : IBin) (s : State) : Host.Outcome State Fault Refusal := s.binary o fun a b => trunc o.ty (a ||| b)

/-- XOR. -/
def execXor (o : IBin) (s : State) : Host.Outcome State Fault Refusal := s.binary o fun a b => trunc o.ty (a ^^^ b)

/-- NOT. -/
def execNot (o : IUn) (s : State) : Host.Outcome State Fault Refusal :=
  s.unary o (wide o.ty) fun a => trunc o.ty (~~~a)

/-- Bit i of LOP3's result is table[a[i] + 2 d[i] + 4 b[i]] (R249). -/
def lop3 (table : BitVec 8) (a d b : Dword) : Dword :=
  BitVec.ofNat 64 ((List.range 64).foldl (fun x i =>
    let k := (if a.getLsbD i then 1 else 0) + (if d.getLsbD i then 2 else 0) + (if b.getLsbD i then 4 else 0)
    if table.getLsbD k then x + 2 ^ i else x) 0)

/-- LOP3 (R249): the destination is also a source. -/
def execLop3 (o : Lop3) (s : State) : Host.Outcome State Fault Refusal :=
  s.vector o.h (vr o.ty o.a ++ opReads (wide o.ty) o.b) (vd o.d (wide o.ty)) fun w m =>
    writeLanes m o.wb o.d (wide o.ty) (fun l =>
      trunc o.ty (lop3 o.table (w.src l (wide o.ty) o.a) (w.g.readV l o.d.toNat (wide o.ty)) (w.opnd l o.ty o.b)))

/-- a << n; 0 when n is W or more (R248). -/
def shl (ty : Ty) (a : Dword) (n : Nat) : Dword :=
  if widthOf ty ≤ n then 0 else dw (a.toNat * 2 ^ n % 2 ^ widthOf ty)

/-- a >> n with zero fill; 0 when n is W or more. -/
def shr (ty : Ty) (a : Dword) (n : Nat) : Dword :=
  if widthOf ty ≤ n then 0 else dw (a.toNat % 2 ^ widthOf ty / 2 ^ n)

/-- a >> n with sign fill. -/
def sar (ty : Ty) (a : Dword) (n : Nat) : Dword :=
  dw (wrapTo (widthOf ty) (signedOf (widthOf ty) a.toNat / 2 ^ (min n (widthOf ty))))

/-- a rotated left by n mod W. -/
def rotl (ty : Ty) (a : Dword) (n : Nat) : Dword :=
  let w := widthOf ty
  let x := a.toNat % 2 ^ w
  let k := n % w
  dw ((x * 2 ^ k % 2 ^ w) + x / 2 ^ (w - k))

/-- SHL. -/
def execShl (o : IBin) (s : State) : Host.Outcome State Fault Refusal := s.counted o (shl o.ty)

/-- SHR. -/
def execShr (o : IBin) (s : State) : Host.Outcome State Fault Refusal := s.counted o (shr o.ty)

/-- SAR. -/
def execSar (o : IBin) (s : State) : Host.Outcome State Fault Refusal := s.counted o (sar o.ty)

/-- ROTL. -/
def execRotl (o : IBin) (s : State) : Host.Outcome State Fault Refusal := s.counted o (rotl o.ty)

/-- FUNNEL (R250): the 2W-bit value b:a shifted by min(c, W), left (high half) or right (low half). -/
def funnel (ty : Ty) (right : Bool) (a b : Dword) (c : Nat) : Dword :=
  let w := widthOf ty
  let y := b.toNat % 2 ^ w * 2 ^ w + a.toNat % 2 ^ w
  let m := min c w
  if right then dw (y / 2 ^ m % 2 ^ w) else dw (y * 2 ^ m % 2 ^ (2 * w) / 2 ^ w)

/-- FUNNEL. -/
def execFunnel (o : ITern) (s : State) : Host.Outcome State Fault Refusal := s.ternaryCount o (funnel o.ty o.m)

/-! ## Major 0x03 (R251 to R254) -/

/-- The position and length of a field control, cut at W (R252). -/
def fieldOf (ty : Ty) (c : Nat) : Nat × Nat :=
  let p := min (field c 0 8) (widthOf ty)
  (p, min (field c 8 8) (widthOf ty - p))

/-- BFX (R252). -/
def bfx (ty : Ty) (a : Dword) (c : Nat) : Dword :=
  let (p, n) := fieldOf ty c
  let f := a.toNat / 2 ^ p % 2 ^ n
  if n = 0 then 0
  else if isSigned ty && f.testBit (n - 1) then dw (wrapTo (widthOf ty) ((f : Int) - 2 ^ n))
  else dw f

/-- BFI (R252): a is inserted into b. -/
def bfi (ty : Ty) (a b : Dword) (c : Nat) : Dword :=
  let (p, n) := fieldOf ty c
  let msk := dw ((2 ^ n - 1) * 2 ^ p)
  trunc ty ((b &&& ~~~msk) ||| (dw (a.toNat * 2 ^ p) &&& msk))

/-- BFX. -/
def execBfx (o : IBin) (s : State) : Host.Outcome State Fault Refusal := s.counted o (bfx o.ty)

/-- BFI. -/
def execBfi (o : ITern) (s : State) : Host.Outcome State Fault Refusal := s.ternaryCount o (bfi o.ty)

/-- Leading zero bits within W. -/
def clz (ty : Ty) (a : Dword) : Nat :=
  let x := a.toNat % 2 ^ widthOf ty
  if x = 0 then widthOf ty else widthOf ty - 1 - Nat.log2 x

/-- Trailing zero bits within W. -/
def ctz (ty : Ty) (a : Dword) : Nat :=
  ((List.range (widthOf ty)).find? (fun i => a.getLsbD i)).getD (widthOf ty)

/-- Bit i moved to bit W - 1 - i. -/
def brev (ty : Ty) (a : Dword) : Dword :=
  dw ((List.range (widthOf ty)).foldl (fun x i => if a.getLsbD i then x + 2 ^ (widthOf ty - 1 - i) else x) 0)

/-- POPC, into one register. -/
def execPopc (o : IUn) (s : State) : Host.Outcome State Fault Refusal :=
  s.unary o false fun a => dw (popcount (trunc o.ty a))

/-- CLZ, into one register. -/
def execClz (o : IUn) (s : State) : Host.Outcome State Fault Refusal := s.unary o false fun a => dw (clz o.ty a)

/-- CTZ, into one register. -/
def execCtz (o : IUn) (s : State) : Host.Outcome State Fault Refusal := s.unary o false fun a => dw (ctz o.ty a)

/-- BREV. -/
def execBrev (o : IUn) (s : State) : Host.Outcome State Fault Refusal := s.unary o (wide o.ty) (brev o.ty)

/-- One byte of PERMB: the byte of y that selector s chooses, sign-filled or cleared. -/
def permByte (y s : Nat) : Nat :=
  let v := field y (8 * field s 0 3) 8
  if bitAt s 4 then 0 else if bitAt s 3 then (if bitAt v 7 then 0xFF else 0) else v

/-- PERMB (R253). -/
def permb (a b c : Dword) : Dword :=
  let y := b.toNat % 2 ^ 32 * 2 ^ 32 + a.toNat % 2 ^ 32
  dw (leNat ((List.range 4).map (fun i => BitVec.ofNat 8 (permByte y (field c.toNat (8 * i) 8)))))

/-- PERMB. -/
def execPermb (o : ITern) (s : State) : Host.Outcome State Fault Refusal := s.ternary o permb

/-- SEL (R254). -/
def execSel (o : SelOp) (s : State) : Host.Outcome State Fault Refusal :=
  s.vector o.h (vr o.ty o.a ++ opReads (wide o.ty) o.b) (vd o.d (wide o.ty)) fun w m =>
    writeLanes m o.wb o.d (wide o.ty) (fun l =>
      if (w.g.thread l).psrc o.p then w.src l (wide o.ty) o.a else w.opnd l o.ty o.b)

/-- MOV (R254). -/
def execMov (o : MovOp) (s : State) : Host.Outcome State Fault Refusal :=
  s.vector o.h (opReads (wide o.ty) o.b) (vd o.d (wide o.ty)) fun w m =>
    writeLanes m o.wb o.d (wide o.ty) (fun l => w.opnd l o.ty o.b)

/-- MOVI (R254): the extended immediate. -/
def execMovi (o : MovImm) (s : State) : Host.Outcome State Fault Refusal :=
  s.vector o.h [] (vd o.d (wide o.ty)) fun _ m => writeLanes m o.wb o.d (wide o.ty) (fun _ => trunc o.ty (immOf o.ty o.imm))

/-- MOVK (R254): byte k of the destination. -/
def execMovk (o : MovImm) (s : State) : Host.Outcome State Fault Refusal :=
  s.vector o.h [] (vd o.d (wide o.ty)) fun w m =>
    writeLanes m o.wb o.d (wide o.ty) (fun l =>
      let d := w.g.readV l o.d.toNat (wide o.ty)
      let msk : Dword := dw (0xFF * 2 ^ (8 * o.k.toNat))
      (d &&& ~~~msk) ||| dw (o.imm.toNat * 2 ^ (8 * o.k.toNat)))

/-! ## Major 0x04 (R255 to R257) -/

/-- ICMP (R255). -/
def execIcmp (o : IcmpOp) (s : State) : Host.Outcome State Fault Refusal :=
  s.vector o.h (vr o.ty o.a ++ opReads (wide o.ty) o.b) [] fun w m =>
    writePreds m o.p (fun l =>
      combine o.comb (condInt o.cond (intOf o.ty (w.src l (wide o.ty) o.a)) (intOf o.ty (w.opnd l o.ty o.b)))
        ((w.g.thread l).pred o.p))

/-- PSET's operators (R256). -/
def predOp (op : ROp) (a b : Bool) : Bool :=
  match op with
  | .and => a && b
  | .or => a || b
  | _ => a != b

/-- PSET (R256). -/
def execPset (o : PsetOp) (s : State) : Host.Outcome State Fault Refusal :=
  s.vector o.h [] [] fun w m =>
    writePreds m o.p (fun l => predOp o.op ((w.g.thread l).psrc o.a) ((w.g.thread l).psrc o.b))

/-- PMOV (R257): a bit number of 32 or more is an illegal operand. -/
def execPmov (o : PmovOp) (s : State) : Host.Outcome State Fault Refusal :=
  s.withIssuer fun w =>
    let m := w.active o.h.g
    match w.check m (vr32 o.a) [] with
    | some (c, l) => s.raise w m { cause := c, lane := l }
    | none =>
      if m != 0 && 32 ≤ o.bit.toNat then s.raise w m { cause := 3, lane := lowest m }
      else .next (s.finish w o.h.k (writePreds m o.p (fun l => (w.src l false o.a).getLsbD o.bit.toNat)))

end Sys2Proof.Machine
end

