-- ==== Sys2Proof/Machine/Special.lean ====
section
/-! DEFINITION. The special functions of R269 and R270. A result that the specification only bounds is a free value
of Config inside the bound (log 10): a candidate outside it is replaced by the nearest FP32 value. -/

namespace Sys2Proof.Machine

/-- 2^320 * pi, and 2^320 * ln 2, rounded down. -/
def piFix : Nat := 0x3243f6a8885a308d313198a2e03707344a4093822299f31d0082efa98ec4e6c89452821e638d01377
def ln2Fix : Nat := 0xb17217f7d1cf79abc9e3b39803f2f6af40f343267298b62d8a0d175b8baafa2be7b876206debac98

/-- One in fixed point. -/
def oneFix : Nat := 2 ^ 320

/-- A magnitude m * 2^e in fixed point. -/
def toFix (m : Nat) (e : Int) : Nat := if -320 ≤ e then m * 2 ^ (e + 320).toNat else m / 2 ^ (-320 - e).toNat

/-- The series of exp at x: `fuel` terms from the n-th, whose predecessor is t. -/
def expSeries (x : Nat) : Nat → Nat → Nat → Nat → Nat
  | 0, _, _, acc => acc
  | fuel + 1, n, t, acc =>
    let t := t * x / oneFix / n
    expSeries x fuel (n + 1) t (acc + t)

/-- exp of a fixed-point number below 1. -/
def expFix (x : Nat) : Nat := expSeries x 80 1 oneFix oneFix

/-- The series of sin (t = x, n = 2) and cos (t = 1, n = 1), with alternating signs. -/
def trigSeries (x : Nat) : Nat → Nat → Nat → Bool → Int → Int
  | 0, _, _, _, acc => acc
  | fuel + 1, n, t, neg, acc =>
    let t := t * x / oneFix * x / oneFix / (n * (n + 1))
    trigSeries x fuel (n + 2) t (!neg) (if neg then acc - t else acc + t)

/-- sin and cos of a fixed-point magnitude. -/
def sinFix (x : Nat) : Int := let x := x % (2 * piFix); trigSeries x 60 2 x true x
def cosFix (x : Nat) : Int := let x := x % (2 * piFix); trigSeries x 60 1 oneFix true oneFix

/-- The series of atanh at z. -/
def atanhSeries (z : Nat) : Nat → Nat → Nat → Nat → Nat
  | 0, _, _, acc => acc
  | fuel + 1, n, t, acc => atanhSeries z fuel (n + 2) (t * z / oneFix * z / oneFix) (acc + t / n)

/-- A fixed-point integer as a value. -/
def ofFix (x : Int) : Val := .fin (decide (x < 0)) x.natAbs (-320)

/-- 2^a of a finite value, to 320 places. -/
def exp2Val (neg : Bool) (m : Nat) (e : Int) : Val :=
  let x := toFix m e
  let n := x / oneFix
  let fr := x % oneFix
  if 1000 < n then .fin false 1 (if neg then -1000 else 1000)
  else
    let (k, f) : Int × Nat := if neg then (if fr = 0 then (-(n : Int), 0) else (-(n : Int) - 1, oneFix - fr)) else (n, fr)
    .fin false (expFix (f * ln2Fix / oneFix)) (k - 320)

/-- log2 of a positive finite value. -/
def log2Val (m : Nat) (e : Int) : Val :=
  let l := Nat.log2 m
  let q := m * oneFix / 2 ^ l
  let z := (q - oneFix) * oneFix / (q + oneFix)
  let ln := 2 * atanhSeries z 120 1 z 0
  ofFix (((l : Int) + e) * oneFix + ln * oneFix / ln2Fix)

/-- tanh of a finite value. -/
def tanhVal (neg : Bool) (m : Nat) (e : Int) : Val :=
  let x := toFix m e
  if 64 * oneFix ≤ x then .fin neg (2 ^ 100 - 1) (-100)
  else
    let y := 2 * x
    let ex := expFix (y % ln2Fix) * 2 ^ (y / ln2Fix)
    quotient neg (ex - oneFix) (ex + oneFix) 0 240

/-- A value that is a power of two: its exponent. -/
def pow2Exp : Val → Option Int
  | .fin _ m e => if m = 2 ^ Nat.log2 m then some (Nat.log2 m + e) else none
  | _ => none

/-- What the exact function gives. -/
inductive Special where
  /-- an exact case of R269 or R270 -/
  | exact (v : Val)
  /-- a result within `bound` of a value -/
  | near (v : Val) (bound : Val)

/-- k ulp at a value: the spacing of FP32 there. -/
def ulps (k : Nat) (v : Val) : Val := .fin false k (max (floorLog2' v) (-126) - 23)
where
  floorLog2' : Val → Int
    | .fin _ m e => Nat.log2 m + e
    | _ => 0

/-- The function of a minor of major 0x07 on an exact input (R269, R270); FRCP and FSQRT are always exact. -/
def special (minor : Nat) (a : Val) : Special :=
  let nan : Special := .exact (.nan false)
  match a with
  | .nan _ => nan
  | .inf n =>
    match minor with
    | 0 => .exact (.zero n)
    | 1 => if n then nan else .exact (.zero false)
    | 2 => if n then nan else .exact a
    | 3 => .exact (if n then .zero false else a)
    | 4 => if n then nan else .exact a
    | 7 => .exact (.fin n 1 0)
    | _ => nan
  | .fin n m e =>
    let zero := m == 0
    match minor with
    | 0 => if zero then .exact (.inf n) else .exact a.recip
    | 1 =>
      if zero then .exact (.inf n)
      else if n then nan
      else
        match pow2Exp a with
        | some k => if k % 2 = 0 then .exact (.fin false 1 (-(k / 2))) else let v := a.recip.root; .near v (ulps 1 v)
        | none => let v := a.recip.root; .near v (ulps 1 v)
    | 2 => if zero then .exact a else if n then nan else .exact a.root
    | 3 =>
      if zero then .exact (.fin false 1 0)
      else if toFix m e % oneFix = 0 && -320 ≤ e then .exact (exp2Val n m e)
      else let v := exp2Val n m e; .near v (ulps 2 v)
    | 4 =>
      if zero then .exact (.inf true)
      else if n then nan
      else
        match pow2Exp a with
        | some k => .exact (.ofInt k)
        | none =>
          let v := log2Val m e
          .near v (if a.lt (.fin false 1 (-1)) || Val.lt (.fin false 2 0) a then ulps 2 v else .fin false 1 (-22))
    | 5 =>
      if zero then .exact a
      else let x := sinFix (toFix m e); .near (ofFix (if n then -x else x)) (.fin false 1 (-22))
    | 6 => if zero then .exact (.fin false 1 0) else .near (ofFix (cosFix (toFix m e))) (.fin false 1 (-22))
    | _ => if zero then .exact a else let v := tanhVal n m e; .near v (ulps 2 v)

/-- A candidate FP32 code lies within a bound of a value. -/
def within (c : Nat) (v bound : Val) : Bool :=
  match fp32.decode c with
  | .fin n m e => !bound.lt ((Val.sum 0 [.fin n m e, v.negate]).withSign false)
  | _ => false

/-- The FP32 result of a minor; `key` names function, type and MODE, on which alone the free value may depend. An exact result is rounded
nearest-even, also one too small for a subnormal: for FEXP2 of an integer below -149 R270 names "a subnormal, or 0 under R119" and no rounding
(DESIGN CHOICE, log 104). -/
def specialF32 (key minor mode : Nat) (a : Val) : Nat :=
  match special minor a with
  | .exact v => fp32.round mode 0 v
  | .near v bound =>
    let c := (Config.special key (wd (fp32.round 0 0 a))).toNat
    let n := fp32.round 0 0 v
    if n % 2 ^ 31 != fp32.infCode && within c v bound then c else n

end Sys2Proof.Machine
end

