-- ==== Sys2Proof/Machine/Float.lean ====
section
/-! DEFINITION. Float arithmetic and special functions: majors 0x06 and 0x07 (R261 to R270). -/

namespace Sys2Proof.Machine

/-- A type of two packed elements. -/
def packed (ty : Ty) : Bool := ty == .f16x2 || ty == .bf16x2

/-- Element e of a register under a float type (R261). -/
def elemBits (ty : Ty) (x : Dword) (e : Nat) : Nat :=
  if ty == .f32 then x.toNat % 2 ^ 32 else field x.toNat (16 * e) 16

/-- A register of element results (R261): bits [31:16] are zero under a scalar 16-bit type. -/
def packElems (ty : Ty) (f : Nat → Nat) : Dword :=
  if packed ty then dw (f 0 + 2 ^ 16 * f 1) else dw (f 0)

/-- A source element: decoded, flushed under MODE, then its modifiers (R263). -/
def floatIn (mode : Word) (ty : Ty) (neg abs : Bool) (x : Dword) (e : Nat) : Val :=
  ((fmtOf ty).decode ((fmtOf ty).flushBits (ftzOf mode (fmtOf ty)) (elemBits ty x e))).modify neg abs

/-- The result of an arithmetic minor: one rounding under MODE, then the flush (R263). -/
def floatOut (mode : Word) (ty : Ty) (v : Val) : Nat :=
  (fmtOf ty).roundZ (ftzOf mode (fmtOf ty)) (rndArith mode) 0 v

/-- Unary float shape: `f` makes an element's result bits from its value. -/
def State.funary (s : State) (o : FUn) (f : Word → Val → Nat) : Host.Outcome State Fault Refusal :=
  s.vector o.h (vr o.ty o.a) (vd o.d false) fun w m =>
    writeLanes m o.wb o.d false (fun l =>
      packElems o.ty (fun e => f w.g.mode (floatIn w.g.mode o.ty o.mods.negA o.mods.absA (w.src l false o.a) e)))

/-- Binary float shape. -/
def State.fbinary (s : State) (o : FBin) (f : Word → Val → Val → Nat) : Host.Outcome State Fault Refusal :=
  s.vector o.h (vr o.ty o.a ++ opReads false o.b) (vd o.d false) fun w m =>
    writeLanes m o.wb o.d false (fun l =>
      packElems o.ty (fun e => f w.g.mode
        (floatIn w.g.mode o.ty o.mods.negA o.mods.absA (w.src l false o.a) e)
        (floatIn w.g.mode o.ty o.mods.negB o.mods.absB (w.opnd l .b32 o.b) e)))

/-- FADD: a + b. -/
def execFadd (o : FBin) (s : State) : Host.Outcome State Fault Refusal :=
  s.fbinary o fun mode a b => floatOut mode o.ty (.sum (rndArith mode) [a, b])

/-- FSUB: a - b. -/
def execFsub (o : FBin) (s : State) : Host.Outcome State Fault Refusal :=
  s.fbinary o fun mode a b => floatOut mode o.ty (.sum (rndArith mode) [a, b.negate])

/-- FMUL: a * b. -/
def execFmul (o : FBin) (s : State) : Host.Outcome State Fault Refusal :=
  s.fbinary o fun mode a b => floatOut mode o.ty (a.mul b)

/-- FFMA: a * b + c, rounded once. -/
def execFfma (o : FTern) (s : State) : Host.Outcome State Fault Refusal :=
  s.vector o.h (vr o.ty o.a ++ opReads false o.b ++ opReads false o.c) (vd o.d false) fun w m =>
    writeLanes m o.wb o.d false (fun l =>
      packElems o.ty (fun e =>
        floatOut w.g.mode o.ty (.sum (rndArith w.g.mode)
          [(floatIn w.g.mode o.ty o.mods.negA o.mods.absA (w.src l false o.a) e).mul
              (floatIn w.g.mode o.ty o.mods.negB o.mods.absB (w.opnd l .b32 o.b) e),
           floatIn w.g.mode o.ty o.mods.negC false (w.opnd l .b32 o.c) e])))

/-- FMIN: chosen, not rounded (R265). -/
def execFmin (o : FBin) (s : State) : Host.Outcome State Fault Refusal :=
  s.fbinary o fun _ a b => (fmtOf o.ty).round 0 0 (fminmax false a b)

/-- FMAX: chosen, not rounded (R265). -/
def execFmax (o : FBin) (s : State) : Host.Outcome State Fault Refusal :=
  s.fbinary o fun _ a b => (fmtOf o.ty).round 0 0 (fminmax true a b)

/-- FCMP (R266). -/
def execFcmp (o : FcmpOp) (s : State) : Host.Outcome State Fault Refusal :=
  s.vector o.h (vr o.ty o.a ++ opReads false o.b) [] fun w m =>
    writePreds m o.p (fun l =>
      combine o.comb
        (condVal o.cond (floatIn w.g.mode o.ty false false (w.src l false o.a) 0)
          (floatIn w.g.mode o.ty false false (w.opnd l .b32 o.b) 0))
        ((w.g.thread l).pred o.p))

/-- The class bit of an element (R267). -/
def classBit (f : Fmt) (x : Nat) : Nat :=
  let neg := x.testBit f.bits
  let sub := x % 2 ^ f.bits < 2 ^ f.fbits
  match f.decode x with
  | .nan _ => 8
  | .inf n => if n then 0 else 7
  | .fin _ m _ =>
    if m = 0 then (if neg then 3 else 4)
    else if sub then (if neg then 2 else 5)
    else if neg then 1 else 6

/-- FCLASS (R267): it ignores FTZ. -/
def execFclass (o : FUn) (s : State) : Host.Outcome State Fault Refusal :=
  s.vector o.h (vr o.ty o.a) (vd o.d false) fun w m =>
    writeLanes m o.wb o.d false (fun l =>
      packElems o.ty (fun e => 2 ^ classBit (fmtOf o.ty) (elemBits o.ty (w.src l false o.a) e)))

/-- A value rounded to an integral value of its sign (R268). -/
def integral (mode : Nat) (v : Val) : Val :=
  match v with
  | .fin n _ _ => .fin n (v.toInt mode 0).natAbs 0
  | v => v

/-- FRND (R268): mode none is the RND of MODE, with 4 read as 0. -/
def execFrnd (o : FrndOp) (s : State) : Host.Outcome State Fault Refusal :=
  s.vector o.h (vr o.ty o.a) (vd o.d false) fun w m =>
    let mode := w.g.mode
    let rm : Nat := match o.rm with
      | some .rne => 0 | some .rtz => 1 | some .rpi => 2 | some .rmi => 3 | some .rsr => 0
      | none => rndArith mode
    writeLanes m o.wb o.d false (fun l =>
      packElems o.ty (fun e =>
        (fmtOf o.ty).roundZ (ftzOf mode (fmtOf o.ty)) 0 0
          (integral rm (floatIn mode o.ty o.negA o.absA (w.src l false o.a) e))))

/-! ## Major 0x07 (R269, R270) -/

/-- The element result of a special function: FRCP and FSQRT round once to the type, the others go through FP32. -/
def specialOut (minor : Nat) (ty : Ty) (mode : Word) (a : Val) : Nat :=
  let f := fmtOf ty
  if minor = 0 || minor = 2 then
    match special minor a with
    | .exact v => f.roundZ (ftzOf mode f) (rndArith mode) 0 v
    | .near v _ => f.roundZ (ftzOf mode f) (rndArith mode) 0 v
  else
    let key := minor + 8 * (if ty = .f32 then 0 else if f = fp16 then 1 else 2) + 32 * field mode.toNat 0 6
    let x := specialF32 key minor 0 a
    if ty = .f32 then f.flushBits (ftzOf mode f) x else f.roundZ (ftzOf mode f) 0 0 (fp32.decode x)

/-- FRCP: 1 / a. -/
def execFrcp (o : FUn) (s : State) : Host.Outcome State Fault Refusal := s.funary o (specialOut 0 o.ty)

/-- FRSQ: 1 / sqrt a. -/
def execFrsq (o : FUn) (s : State) : Host.Outcome State Fault Refusal := s.funary o (specialOut 1 o.ty)

/-- FSQRT. -/
def execFsqrt (o : FUn) (s : State) : Host.Outcome State Fault Refusal := s.funary o (specialOut 2 o.ty)

/-- FEXP2: 2^a. -/
def execFexp2 (o : FUn) (s : State) : Host.Outcome State Fault Refusal := s.funary o (specialOut 3 o.ty)

/-- FLOG2. -/
def execFlog2 (o : FUn) (s : State) : Host.Outcome State Fault Refusal := s.funary o (specialOut 4 o.ty)

/-- FSIN. -/
def execFsin (o : FUn) (s : State) : Host.Outcome State Fault Refusal := s.funary o (specialOut 5 o.ty)

/-- FCOS. -/
def execFcos (o : FUn) (s : State) : Host.Outcome State Fault Refusal := s.funary o (specialOut 6 o.ty)

/-- FTANH. -/
def execFtanh (o : FUn) (s : State) : Host.Outcome State Fault Refusal := s.funary o (specialOut 7 o.ty)

end Sys2Proof.Machine
end

