-- ==== Sys2Proof/Machine/Sq.lean ====
section
/-! DEFINITION. The SQ block formats (R113 to R116) and the 64-byte tensor formats of R58. -/

namespace Sys2Proof.Machine

/-- The magnitude width b of an SQ format. -/
def sqBits (ty : Ty) : Nat := match ty with | .sq2 => 2 | .sq4 => 4 | _ => 7

/-- Block size in bytes. -/
def sqSize (b : Nat) : Nat := 2 + 2 * (b + 1)

/-- Decode element i of a block (R114). -/
def sqDecode (b : Nat) (blk : List Byte) (i : Nat) : Val :=
  let e := (listGet 0 blk 0).toNat
  let fs := leNat (blk.drop 2)
  let f := field fs ((b + 1) * i) (b + 1)
  let m := f % 2 ^ b
  let p : Nat := if bitAt (listGet 0 blk 1).toNat (i / 2) then 1 else 0
  if e = 255 then .nan false
  else .fin (m != 0 && bitAt f b) m ((e : Int) - 127 - p - (b - 1))

/-- The larger of two magnitudes. -/
def magMax (x y : Val) : Val := if (x.withSign false).lt (y.withSign false) then y.withSign false else x.withSign false

/-- floor(log2 x) of a positive finite value. -/
def floorLog2 : Val → Int
  | .fin _ m e => Nat.log2 m + e
  | _ => 0

/-- encode_sq_block (R115); `draws` holds the stochastic draw of each element. -/
def sqEncode (b mode : Nat) (draws : List Nat) (xs : List Val) : List Byte :=
  if xs.any Val.isNan then 0xFF :: List.replicate (sqSize b - 1) 0
  else
    let big : Nat → Val := fun i =>
      match listGet (.zero false) xs i with
      | .inf n => .fin n (2 ^ 24 - 1) 104
      | v => v
    let amax := (List.range 16).foldl (fun a i => magMax a (big i)) (.zero false)
    if amax.isZero then List.replicate (sqSize b) 0
    else
      let e : Int := min 254 (max 0 (floorLog2 amax + 127))
      let small : Nat → Bool := fun j => (magMax (big (2 * j)) (big (2 * j + 1))).lt (.fin false 1 (e - 128))
      let elem : Nat → Nat := fun i =>
        let p : Int := if small (i / 2) then 1 else 0
        match big i with
        | .fin n m x =>
          let q := Val.fin n m (x + (b - 1) - (e - 127 - p))
          let k := min (q.toInt mode (listGet 0 draws i)).natAbs (2 ^ b - 1)
          if k = 0 then 0 else if n then k + 2 ^ b else k
        | _ => 0
      let fs := (List.range 16).foldl (fun a i => a + elem i * 2 ^ ((b + 1) * i)) 0
      let ps := (List.range 8).foldl (fun a j => if small j then a + 2 ^ j else a) 0
      BitVec.ofNat 8 e.toNat :: BitVec.ofNat 8 ps :: leBytes (2 * (b + 1)) fs

/-! ## FMT codes (R58) -/

/-- Size in bytes of a format block. -/
def fmtBlk (fmt : Nat) : Nat :=
  match fmt with
  | 1 => 64 | 2 => 32 | 3 => 32 | 4 => 16 | 5 => 16 | 6 => 8 | 7 => 16 | 8 => 8 | 9 => 12 | 10 => 18 | _ => 0

/-- An SQ format. -/
def fmtSq (fmt : Nat) : Bool := fmt == 8 || fmt == 9 || fmt == 10

/-- b of an SQ format code. -/
def fmtSqBits (fmt : Nat) : Nat := match fmt with | 8 => 2 | 9 => 4 | _ => 7

/-- The element format of a float code. -/
def fmtFloat (fmt : Nat) : Fmt := match fmt with | 2 => fp16 | 3 => bf16 | 4 => e4m3 | 5 => e5m2 | 6 => e2m1 | _ => fp32

/-- Bits of one element of an element format (FMT 1 to 7). -/
def fmtBits (fmt : Nat) : Nat := match fmt with | 1 => 32 | 2 => 16 | 3 => 16 | 6 => 4 | _ => 8

/-- What element k has of a block: the exponent bytes, which all share, and its own bits (R113). -/
def sqShare (b k : Nat) (bs : List (Byte × Byte)) : List (Byte × Byte) :=
  (bs.zip (0xFF :: 0xFF :: leBytes (2 * (b + 1)) ((2 ^ (b + 1) - 1) * 2 ^ ((b + 1) * k)))).map (fun x => (x.1.1, x.1.2 &&& x.2))

/-- An element of an element format as a value. -/
def fmtDecode (fmt x : Nat) : Val :=
  if fmt = 7 then .ofInt (signedOf 8 x) else (fmtFloat fmt).decode x

end Sys2Proof.Machine
end

