-- ==== Sys2Proof/Machine/Convert.lean ====
section
/-! DEFINITION. Conversions between element formats: major 0x08 (R271 to R278), and the stochastic generator of a
partition (R117, R118, R274, R275). -/

namespace Sys2Proof.Machine

/-! ## The generator -/

/-- Advance the generator of a partition for a context, reseeding it when the context changed (R118): `n` numbers the draws of
entropy since the machine was made, over every power-up. -/
def Part.advance (p : Part) (core part c n : Nat) : Part :=
  if p.genCtx = some c then { p with gen := Machine.advance p.gen }
  else { p with gen := Machine.advance (Config.seed core part n), genCtx := some c }

/-- The new state of a partition's generator, and the machine that holds it. -/
def State.advanceGen (s : State) (core part c : Nat) : Word × State :=
  let p := (listGet {} (s.core core).parts part).advance core part c s.freeCtr
  (p.gen, { s.modCore core (fun k => { k with parts := listSet k.parts part p }) with freeCtr := s.freeCtr + 1 })

/-- The composite issue that an instruction's issue belongs to (R30). -/
def Part.compOf (p : Part) (w : Who) : Option Comp :=
  p.comp.filter (fun c => c.slot == w.slot && c.gen == w.b.gen && c.pc == w.ig.pc && c.igs.contains (w.grp, w.ig.id))

/-- The generator state of an instruction's issue. In a composite issue the advance of the constituent that issues first serves all of
them for that slot (R274). -/
def State.issueGen (s : State) (w : Who) : Word × State :=
  match (listGet {} (s.core w.core).parts w.part).compOf w with
  | none => s.advanceGen w.core w.part w.ctx
  | some c =>
    match c.drawn with
    | some g => (g, s)
    | none =>
      let (g, t) := s.advanceGen w.core w.part w.ctx
      (g, t.modCore w.core (fun k => { k with parts := listMod k.parts w.part (fun p => { p with comp := some { c with drawn := some g } }) }))

/-! ## Conversion of one value -/

/-- Float types of R273. -/
def isFloat (ty : Ty) : Bool :=
  match ty with
  | .f32 | .f16 | .bf16 | .e4m3 | .e5m2 | .e2m1 => true
  | _ => false

/-- The width order of the float types (R273). -/
def floatRank (ty : Ty) : Nat := match ty with | .f32 => 3 | .f16 => 2 | .bf16 => 2 | .e4m3 => 1 | .e5m2 => 1 | _ => 0

/-- Bits of an integer type (R272). -/
def intBits (ty : Ty) : Nat := 8 * sizeOf ty

/-- The rounding that applies: the instruction's own, or RND of MODE (R271). -/
def rmOf (rm : Option Rnd) (mode : Word) : Nat :=
  match rm with
  | some .rne => 0
  | some .rtz => 1
  | some .rpi => 2
  | some .rmi => 3
  | some .rsr => 4
  | none => rndOf mode

/-- A conversion that rounds to a float by its types (R109, R273). -/
def narrowing (dt st : Ty) : Bool :=
  isFloat dt && (!isFloat st || decide (floatRank dt < floatRank st) || (floatRank dt = floatRank st && dt != st))

/-- The bits of a float source (R272). -/
def floatBits (st : Ty) (x : Dword) : Nat := x.toNat % 2 ^ ((fmtOf st).bits + 1)

/-- An integer result of R272: sign- or zero-extended to its register. -/
def extendInt (ty : Ty) (x : Nat) : Dword :=
  if isSigned ty then dw (wrapTo (widthOf ty) (signedOf (intBits ty) x)) else dw x

/-- CVT of one lane (R273) in rounding `rm` with draw `r`. -/
def convert (mode : Word) (dt st : Ty) (rm r : Nat) (x : Dword) : Dword :=
  if isFloat st then
    let f := fmtOf st
    let b := floatBits st x
    let flushed := f.decode (f.flushBits (ftzOf mode f) b)
    if isFloat dt then
      let g := fmtOf dt
      if dt = st then
        (if (f.decode b).isNan then dw f.nan else dw (f.flushBits (ftzOf mode f) b))
      else if narrowing dt st then dw (g.roundZ (ftzOf mode g) rm r flushed)
      else dw (g.round 0 0 ((f.decode b).withSign (!(f.decode b).isNan && (f.decode b).sign)))
    else extendInt dt (flushed.satInt (isSigned dt) (intBits dt) rm)
  else
    let v : Int := if isSigned st then signedOf (intBits st) x.toNat else ((x.toNat % 2 ^ intBits st : Nat) : Int)
    if isFloat dt then dw ((fmtOf dt).roundZ (ftzOf mode (fmtOf dt)) rm r (.ofInt v))
    else extendInt dt (satTo (isSigned dt) (intBits dt) v)

/-- The shape of CVT and CVTSR: a stochastic rounding advances the generator once for the issue (R273, R274). -/
def State.converted (s : State) (o : CvtOp) (rm : Word → Nat) : Host.Outcome State Fault Refusal :=
  s.withIssuer fun w =>
    let m := w.active o.h.g
    match w.check m (vr o.st o.a) (vd o.d (wide o.dt)) with
    | some (c, l) => s.raise w m { cause := c, lane := l }
    | none =>
      let mode := w.g.mode
      let k := rm mode
      let (g, s) := if k = 4 && narrowing o.dt o.st then s.issueGen w else (0, s)
      .next (s.finish w o.h.k (writeLanes m o.wb o.d (wide o.dt) (fun l =>
        convert mode o.dt o.st k (draw g l) (w.src l (wide o.st) o.a))))

/-- CVT (R273). -/
def execCvt (o : CvtOp) (s : State) : Host.Outcome State Fault Refusal := s.converted o (rmOf o.rm)

/-- CVTSR (R274): always stochastic. -/
def execCvtsr (o : CvtOp) (s : State) : Host.Outcome State Fault Refusal := s.converted o (fun _ => 4)

/-! ## SQ blocks (R276, R277) -/

/-- A half in which some lanes are active and others are not: its lowest active lane. -/
def splitHalf (m : LaneMask) : Option Nat :=
  [0, 16].findSome? (fun h =>
    let on := (List.range 16).filter (fun i => m.getLsbD (h + i))
    if on.isEmpty || on.length == 16 then none else on.head?.map (h + ·))

/-- The shape of QENC and QDEC: all or none of each half's lanes. -/
def State.halves (s : State) (o : CvtOp) (f : Who → LaneMask → Host.Outcome State Fault Refusal) :
    Host.Outcome State Fault Refusal :=
  s.withIssuer fun w =>
    let m := w.active o.h.g
    match w.check m (vr32 o.a) (vd o.d false) with
    | some (c, l) => s.raise w m { cause := c, lane := l }
    | none =>
      match splitHalf m with
      | some l => s.raise w m { cause := 3, lane := l }
      | none => f w m

/-- The half of a lane: 0 or 16. -/
def halfOf (l : Nat) : Nat := l / 16 * 16

/-- The block that a half encodes (R276). -/
def Who.encodeHalf (w : Who) (o : CvtOp) (k : Nat) (g : Word) (h : Nat) : List Byte :=
  sqEncode (sqBits o.dt) k ((List.range 16).map (fun i => draw g (h + i)))
    ((List.range 16).map (fun i =>
      fp32.decode (fp32.flushBits (ftzOf w.g.mode fp32) (w.src (h + i) false o.a).toNat)))

/-- QENC (R276). -/
def execQenc (o : CvtOp) (s : State) : Host.Outcome State Fault Refusal :=
  s.halves o fun w m =>
    let k := rmOf o.rm w.g.mode
    let (g, s) := if k = 4 then s.issueGen w else (0, s)
    .next (s.finish w o.h.k (writeLanes m o.wb o.d false (fun l =>
      dw (leNat (((w.encodeHalf o k g (halfOf l)).drop (4 * (l % 16))).take 4)))))

/-- The bytes of a half's block (R277). -/
def Who.halfBytes (w : Who) (o : CvtOp) (h : Nat) : List Byte :=
  (List.range 5).flatMap (fun i => leBytes 4 (w.src (h + i) false o.a).toNat)

/-- QDEC (R277). -/
def execQdec (o : CvtOp) (s : State) : Host.Outcome State Fault Refusal :=
  s.halves o fun w m =>
    .next (s.finish w o.h.k (writeLanes m o.wb o.d false (fun l =>
      dw (fp32.round 0 0 (sqDecode (sqBits o.st) (w.halfBytes o (halfOf l)) (l % 16))))))

/-! ## Packed pairs (R278) -/

/-- One FP32 value rounded to a 16-bit format, mode 4 read as nearest-even. -/
def packOne (mode : Word) (dt : Ty) (rm : Option Rnd) (x : Dword) : Nat :=
  let k := rmOf rm mode
  (fmtOf dt).roundZ (ftzOf mode (fmtOf dt)) (if k = 4 then 0 else k) 0
    (fp32.decode (fp32.flushBits (ftzOf mode fp32) x.toNat))

/-- PACK2. -/
def execPack2 (o : PackOp) (s : State) : Host.Outcome State Fault Refusal :=
  s.vector o.h (vr32 o.a ++ vr32 o.b) (vd o.d false) fun w m =>
    writeLanes m o.wb o.d false (fun l =>
      dw (packOne w.g.mode o.dt o.rm (w.src l false o.a) + 2 ^ 16 * packOne w.g.mode o.dt o.rm (w.src l false o.b)))

/-- UNPACK2: both elements, exactly, to the pair. -/
def execUnpack2 (o : CvtOp) (s : State) : Host.Outcome State Fault Refusal :=
  s.vector o.h (vr32 o.a) (vd o.d true) fun w m =>
    writeLanes m o.wb o.d true (fun l =>
      let x := (w.src l false o.a).toNat
      let one := fun e => fp32.round 0 0 ((fmtOf o.st).decode (field x (16 * e) 16))
      dw (one 0 + 2 ^ 32 * one 1))

end Sys2Proof.Machine
end

