-- ==== Sys2Proof/Machine/Mem.lean ====
section
/-! DEFINITION. The memory system of a core: store queues, L1, invalidation filters, fences and acquires, and the
accesses made of them (R53 to R55, R69 to R91, R198, R501). -/

namespace Sys2Proof.Machine

/-! ## Agents and scopes (R71) -/

/-- The agent that stands for the host. -/
def hostAgent : Agent := ⟨4096, 0, 0, 0, 0, 64⟩

/-- The agent of a packet from another package. -/
def farAgent (p : Packet) : Agent := ⟨4096 + p.srcPkg.toNat, p.issuer.slot, p.issuer.gen, p.issuer.grp, 36, p.srcCtx.toNat⟩

/-- The agent is a thread, or the threads of one atomic: not an engine command. -/
def Agent.isThread (a : Agent) : Bool := decide (a.lane < 32) || a.lane == 35

/-- The agent is on this package. -/
def Agent.here (a : Agent) : Bool := decide (a.core < 4096)

/-- The package of an agent, in the recovery domain of a context. -/
def State.inDomainOf (s : State) (c : Nat) (a : Agent) : Bool :=
  a.here || (match s.domOf c with | some d => d.members.contains (BitVec.ofNat 12 (a.core - 4096)) | none => false)

/-- Core, slot and generation are one of those that a block has or had. -/
def Block.wasAt (b : Block) (core slot : Nat) (a : Agent) : Bool :=
  (core == a.core && slot == a.slot && b.gen == a.gen) || b.names.contains (a.core, a.slot, a.gen)

/-- An agent where its block stands now: one that has been evicted and restored has another core, slot or generation than when the agent
made its accesses (R84, R445). -/
def State.nowAt (s : State) (a : Agent) : Agent :=
  if !a.here then a
  else
    match s.cores.findSome? (fun k => (k.2.slots.find? (fun x => x.2.wasAt k.1 x.1 a)).map (fun x => (k.1, x.1, x.2.gen))) with
    | some (c, sl, g) => { a with core := c, slot := sl, gen := g }
    | none =>
      match s.saved.find? (fun x => x.whole && x.blk.wasAt x.core x.slot a) with
      | some x => { a with core := x.core, slot := x.slot, gen := x.gen }
      | none => a

/-- The place at which a block of this package is that a core endpoint names: its own, or another where the block has moved (R445, R447). -/
def State.placeNow (s : State) (core slot : Nat) (gen : Word) : Nat × Nat :=
  let a := s.nowAt ⟨core, slot, gen, 0, 0, 0⟩
  (a.core, a.slot)

/-- The instance of a scope around an agent contains another agent (R71). -/
def State.inScope (s : State) (sc : Scope) (me a : Agent) : Bool :=
  let me := s.nowAt me
  let a := s.nowAt a
  let blk := me.ctx == a.ctx && me.core == a.core && me.slot == a.slot && me.gen == a.gen
  me == a || match sc with
    | .grp => blk && me.grp == a.grp && me.isThread && a.isThread
    | .blk => blk
    | .clu => me.ctx == a.ctx && me.here && a.here && s.sys.clusterOf me.core == s.sys.clusterOf a.core
    | .dev => me.ctx == a.ctx && me.here && a.here
    | .fab => me.ctx == a.ctx && s.inDomainOf me.ctx a
    | .sys => (me.ctx == a.ctx && s.inDomainOf me.ctx a) || a.ctx == 64

/-- The rank of a scope: each instance lies inside those of the wider ones (R71). -/
def scopeRank (s : Scope) : Nat := match s with | .grp => 0 | .blk => 1 | .clu => 2 | .dev => 3 | .fab => 4 | .sys => 5

/-- The narrower and the wider of two scopes. -/
def narrower (a b : Scope) : Scope := if scopeRank a ≤ scopeRank b then a else b
def wider (a b : Scope) : Scope := if scopeRank a ≤ scopeRank b then b else a

/-- The scope at which an access to a page acts: host space and peer MMIO lie outside every instance but .SYS (R72). -/
def Xlate.scope (x : Xlate) (sc : Scope) : Scope := if x.tgt == 0 then sc else .sys

/-- The scope at which an access to pieces acts. -/
def scopeOf (ps : List Piece) (sc : Scope) : Scope := ps.foldl (fun sc p => p.x.scope sc) sc

/-! ## Sectors -/

/-- Drop a sector from the L1 of a core. -/
def State.dropSector (s : State) (core key : Nat) : State :=
  s.modL1 (s.l1Pos core key) (fun k => { k with sectors := KMap.drop k.sectors key })

/-- Invalidations for a store to every L1 that holds one of the sectors, but for the one that serves the writer's own core
(R73). -/
def State.invalidate (s : State) (own : Option Nat) (src : Agent) (store : Nat) (keys : List Nat) (tctx : Option Nat := none) : State :=
  let (id, s) := s.fresh
  { s with l1s := s.l1s.map (fun (n, k) =>
      (n, { k with invs := k.invs ++ (keys.filter (fun x =>
        (KMap.find k.sectors x).isSome && !(match own with | some c => s.l1Pos c x == n | none => false))).map (fun x =>
          { id := id, store := store, sector := x, src := src, arrived := none, applied := [], tctx := tctx }) })) }

/-! ## Marks of the last stores (R81, R82, R85) -/

/-- Two runs of bytes of one kind overlap. -/
def runsMeet (a n b m : Nat) : Bool := decide (a < b + m) && decide (b < a + n)

/-- Two places overlap. -/
def placesMeet (p : Place) (n : Nat) (q : Place) (m : Nat) : Bool :=
  match p, q with
  | .glob (.dev a), .glob (.dev b) => runsMeet a n b m
  | .glob (.host a), .glob (.host b) => runsMeet a n b m
  | .glob (.mmio a), .glob (.mmio b) => runsMeet a n b m
  | .loc sl a, .loc sl' b => sl == sl' && runsMeet a n b m
  | _, _ => false

/-- The address of a place, and the place at another address of its kind. -/
def Place.addr : Place → Nat
  | .glob (.dev a) | .glob (.host a) | .glob (.mmio a) | .loc _ a => a
def Place.move : Place → Nat → Place
  | .glob (.dev _), b => .glob (.dev b)
  | .glob (.host _), b => .glob (.host b)
  | .glob (.mmio _), b => .glob (.mmio b)
  | .loc sl _, b => .loc sl b

/-- The core that a place belongs to: its own for local memory, none for the rest. -/
def Place.home (p : Place) (core : Nat) : Nat := match p with | .loc .. => core | .glob _ => 0

/-- A mark covers bytes of a run. -/
def Mark.meets (m : Mark) (core : Nat) (p : Place) (n : Nat) : Bool := m.core == p.home core && placesMeet m.place m.len p n

/-- What is left of a mark outside a run. -/
def Mark.minus (m : Mark) (core : Nat) (p : Place) (n : Nat) : List Mark :=
  if m.meets core p n then
    let a := m.place.addr
    let lo := p.addr
    (if a < lo then [{ m with len := lo - a }] else [])
      ++ (if lo + n < a + m.len then [{ m with place := m.place.move (lo + n), len := a + m.len - (lo + n) }] else [])
  else [m]

/-- The marks of the last stores to a run of bytes. -/
def State.marksAt (s : State) (core : Nat) (p : Place) (n : Nat) : List Mark := s.marks.filter (fun m => m.meets core p n)

/-- A packet is not performed: a remote acquire is complete for its core with its reply alone (R155). -/
def Flight.open (f : Flight) : Bool := (f.answer.isNone || f.acquire) && f.at_ != .gone && !f.irrevHeld

/-- A store or packet is not performed yet. -/
def State.unperformed (s : State) (id : Nat) : Bool :=
  s.homeHeld.any (fun h => h.store.id == id) || s.cores.any (fun k => k.2.stores.any (fun e => e.id == id))
    || s.flights.any (fun f => f.p.id == id && f.open)

/-- A store is not yet performed for every agent: its order may still matter. -/
def State.isOpen (s : State) (id : Nat) : Bool :=
  s.unperformed id || s.l1s.any (fun k => k.2.invs.any (fun i => i.store == id && i.arrived.isNone))

/-- A mark still orders something. -/
def State.keepsMark (s : State) (m : Mark) : Bool :=
  s.isOpen m.id || m.rels.any (fun r => s.isOpen r.id || r.before.any (fun b => s.isOpen b.id))
    || m.els.any (fun e => e.2.any (fun b => s.isOpen b.id))

/-- Put the mark of a store that is last at its bytes. Of those it covers an atomic carries every release on (R81), any other the
causal ones: a reader of a store later in co than a CO store observes that one too (R89). -/
def State.putMark (s : State) (m : Mark) (atomic : Bool) : Mark × State :=
  let old := (s.marks.filter (fun x => x.meets m.core m.place m.len)).flatMap (·.rels)
  let m := { m with rels := (old.filter (fun r => atomic || r.dom == .co)) ++ m.rels }
  (m, { s with marks := (s.marks.flatMap (fun x => x.minus m.core m.place m.len) ++ [m]).filter s.keepsMark })

/-- The L1 that serves the storing core takes the bytes of a store into the sectors it holds, with their mark (R55). -/
def State.updateL1 (s : State) (core : Nat) (t : Tgt) (bs : List (Byte × Byte)) (m : Mark) : State :=
  (sectorKeys t bs.length).foldl (fun s key =>
    s.modL1 (s.l1Pos core key) (fun k =>
      match KMap.find k.sectors key with
      | some x =>
        let x : Sector := { x with
          bytes := overlayTgt (keyTgt key) x.bytes t bs
          marks := ((x.marks.flatMap (fun y => y.minus 0 (.glob t) bs.length)).filter s.keepsMark) ++ [m] }
        { k with sectors := KMap.put k.sectors key x }
      | none => k)) s

/-! ## Home refusals (R462) -/

/-- A home agent refuses an access after translation: the context ends with cause 8. -/
def State.homeRefuses (s : State) (who : Agent) (eng : Bool) (pa : Nat) (pc : Dword) (node block : Word) (leg : Word) :
    State :=
  s.endCtx who.ctx 8 (some { cause := 8, eng := eng, addr := dw pa, pc := pc, node := node, block := block, leg := leg,
                             group := BitVec.ofNat 5 who.grp, clock := s.coreClock who.core })

/-- A home admits an access of a context to a target. -/
def State.admitsTgt (s : State) (c : Nat) (t : Tgt) : Bool := match t with | .dev pa => s.homeAdmits c pa | _ => true

/-! ## Store queues (R73, R79, R80) -/

/-- Bytes that a queued store writes: place and length. -/
def Store.len (e : Store) : Nat := match e.work with | .bytes bs => bs.length | .red _ ty _ => cuSize ty

/-- A store is one of an agent's: a thread's, or one lane's of several (R64). -/
def Store.of (e : Store) (a : Agent) : Bool := { e.who with lane := a.lane } == a && (e.who == a || e.lanes.getLsbD a.lane)

/-- Two stores have a thread in common. -/
def Store.sameThread (a b : Store) : Bool := { a.who with lane := b.who.lane } == b.who && (a.who == b.who || a.lanes &&& b.lanes != 0)

/-- The mark of a store. -/
def Store.mark (e : Store) : Mark :=
  { place := e.place, core := e.place.home e.who.core, len := e.len, id := e.id, rels := e.rels, els := e.els }

/-- Local memory. -/
def Place.isLoc : Place → Bool
  | .loc .. => true
  | .glob _ => false

/-- Two places have one home: a home agent, or the host (R100). -/
def Place.sameHome (p q : Place) : Bool :=
  match p, q with
  | .glob (.dev a), .glob (.dev b) => homeOf a == homeOf b
  | .glob (.host _), .glob (.host _) => true
  | .glob (.mmio _), .glob (.mmio _) => true
  | _, _ => false

/-- An earlier queued store a of a core is performed before a later one b. A release in RC counts the earlier RC stores of its core to its
home, whatever their threads (R100). -/
def mustPrecede (a b : Store) : Bool :=
  let same := a.sameThread b
  let meet := placesMeet a.place a.len b.place b.len
  b.after.contains a.id
    || (same && meet && a.place.isLoc)
    || (a.dom == b.dom &&
        (match a.dom with
         | .sc | .tso => true
         | .co => same
         | .rc => (same && (meet || b.rel)) || (b.rel && a.place.sameHome b.place && decide (scopeRank b.scope ≤ scopeRank a.scope))
         | .ub => same && meet))

/-- The stores of a core that are not performed, oldest first: those held at a home, then those queued. -/
def State.pendingStores (s : State) (core : Nat) : List Store :=
  ((s.homeHeld.filter (fun h => h.store.who.core == core)).map (·.store)) ++ (s.core core).stores

/-- The stores that must be performed before those that `need` names, with them, oldest first. -/
def closure (q : List Store) (need : Store → Bool) : List Store :=
  q.foldr (fun e acc => if need e || acc.any (fun b => mustPrecede e b) then e :: acc else acc) []

/-- The same, with what makes one bank request with any of them (R53); `fuel` bounds the rounds. -/
def closureReq : Nat → List Store → (Store → Bool) → List Store
  | 0, q, need => closure q need
  | fuel + 1, q, need =>
    let c := closure q need
    let more := fun (e : Store) => c.any (fun x => x.id == e.id || (e.req != 0 && x.req == e.req))
    if q.any (fun e => more e && !c.any (fun x => x.id == e.id)) then closureReq fuel q more else c

/-- Take a store out of its queue. -/
def State.removeStore (s : State) (core id : Nat) : State :=
  { (s.modCore core (fun k => { k with stores := k.stores.filter (fun e => e.id != id) })) with
    homeHeld := s.homeHeld.filter (fun h => h.store.id != id) }

/-- A TSO or SC store is performed at once for every agent (R73, R87, R88). -/
def State.afterStore (s : State) (d : Dom) (id : Nat) : State := if d == .tso || d == .sc then s.settle [id] else s

/-- A store whose bytes are at their home: the L1 of its core is up to date, other L1s are told, its mark stands (R55, R73). -/
def State.stored (s : State) (e : Store) (t : Tgt) (bs : List (Byte × Byte)) : State :=
  let s := s.rxHome e.who.core t bs.length
  let s := s.invalidate (some e.who.core) e.who e.id (sectorKeys t bs.length)
  let (m, s) := s.putMark e.mark false
  (s.updateL1 e.who.core t bs m).afterStore e.dom e.id

/-- A store that a home or a hold takes and that no L1 is given: every L1 is told, its own core's at once. The mark of an atomic
carries the releases before it on. -/
def State.storedPast (s : State) (e : Store) (t : Tgt) (atomic : Bool) : State :=
  let keys := sectorKeys t e.len
  let s := if e.who.here then s.rxHome e.who.core t e.len else s
  let s := if e.who.here then keys.foldl (fun s key => s.dropSector e.who.core key) s else s
  ((s.invalidate none e.who e.id keys e.tctx).putMark e.mark atomic).2.afterStore e.dom e.id

/-- Write the bytes of a store of an engine, a packet or a hold at their home, in the log of its maker, or put it into the hold of
domain d where it is irrevocable (R179, R198). -/
def State.putHome (s : State) (m : Maker) (d : Option Nat) (e : Store) (t : Tgt) (bs : List (Byte × Byte)) (atomic : Bool) : Logged :=
  match d with
  | some d =>
    match s.hold (holdDie t) d e.who.core e.leg (.inl e) (holdSize t bs.length) with
    | .ok s => .ok (s.storedPast e t atomic)
    | r => r
  | none =>
    match s.writeFor m t bs with
    | .ok s => .ok (s.storedPast e t atomic)
    | r => r

/-- Perform a store: in local memory, in an outbound hold, or at its home. An access that touches several sectors or 8-byte
units is written whole; R77 gives no atomicity beyond a unit, and the model takes the one instant (log 59). -/
def State.perform (s : State) (e : Store) : Logged :=
  let core := e.who.core
  match e.place with
  | .loc slot off =>
    match s.block core slot, e.work with
    | some b, .bytes bs =>
      if b.gen = e.who.gen then
        .ok ((s.setBlock core slot { b with mem := Memory.writeMasked b.mem off bs }).putMark e.mark false).2
      else .ok s
    | _, _ => .ok s
  | .glob t =>
    if e.irrev then
      match (s.ctx e.who.ctx).domain with
      | some d =>
        match s.hold (holdDie t) d core e.leg (.inl e) (holdSize t e.len) with
        | .ok s => .ok (s.storedPast e t false)
        | r => r
      | none => .ok s
    else if !s.admitsTgt e.who.ctx t then
      let a := match t with | .dev a | .host a | .mmio a => a
      .ok (s.homeRefuses e.who false a e.pc e.node e.block e.leg)
    else
      match e.work, t with
      | .bytes bs, t =>
        match s.homeWrite e.who.ctx t bs with
        | .ok s => .ok (s.stored e t bs)
        | r => r
      | .red op ty xs, .dev pa =>
        match s.logWrite e.who.ctx pa (cuSize ty) with
        | .ok s => .ok ((s.addReds pa op ty xs).storedPast e t false)
        | r => r
      | .red op ty xs, t =>
        let (old, s) := s.homeRead e.who.ctx t (cuSize ty)
        let v := xs.foldl (fun v x => opApply op ty v x) (dw (leNat old))
        .ok ((s.rawWrite t (whole (leBytes (cuSize ty) v.toNat))).storedPast e t false)

/-- Some of the numbers are those of packets that are not performed: what needs them waits for their acknowledgement. -/
def State.remoteIds (s : State) (ids : List Nat) : Bool :=
  ids.any (fun id => s.flights.any (fun f => f.p.id == id && f.open))

/-- The runs of offsets that a packet reads or writes. -/
def opRuns : PktOp → List (Nat × Nat)
  | .store rs => rs.map (fun r => (r.1, r.2.length))
  | .load os n => os.map (fun o => (o, n))
  | .atom _ ty ops => ops.map (fun o => (o.1, sizeOf ty))
  | .reduce _ _ es => es.map (fun e => (e.1, e.2.length))
  | .reserve _ => []
  | .arrive _ => []

/-- A packet's bytes are counted against the allowance. -/
def opWrites : PktOp → Bool
  | .load .. => false
  | .reserve _ => false
  | _ => true

/-- A packet has not been answered. -/
def Flight.pending (f : Flight) : Bool := f.answer.isNone && f.at_ != .gone

/-- The unanswered stores of a core that its queue of a domain has sent to endpoints (R73, R100). -/
def State.coreFlights (s : State) (core : Nat) (d : Dom) : List Flight :=
  s.flights.filter (fun f => f.pending && !f.inbound && f.p.issuer.core == core && f.p.dom == d && f.op.isSome && opWrites f.p.op)

/-- Those whose queue is first in, first out in issue order, by number. -/
def State.corePackets (s : State) (core : Nat) (d : Dom) : List Nat :=
  if d = .tso ∨ d = .sc then (s.coreFlights core d).map (·.p.id) else []

/-- Those of CO that have left the core: CO is first in, first out per source in leaving order (R100). -/
def State.coLeft (s : State) (core : Nat) : List Nat :=
  ((s.coreFlights core .co).filter (fun f => f.at_ != .source && !f.irrevHeld)).map (·.p.id)

/-- A store waits for a packet that is not performed. -/
def State.awaitsPacket (s : State) (e : Store) : Bool :=
  s.remoteIds e.after || (e.dom == .co && !(s.coLeft e.who.core).isEmpty)

/-- Perform one store of a core and take it out of its queue; a store that its home holds for log space stays there. -/
def State.drainOne (s : State) (e : Store) : Bool × State :=
  if s.awaitsPacket e then (false, s)
  else
  match s.perform e with
  | .ok s => (true, s.removeStore e.who.core e.id)
  | .wait s =>
    match e.place, (s.ctx e.who.ctx).domain with
    | .glob _, some d =>
      if e.irrev || s.homeHeld.any (fun h => h.store.id == e.id) then (false, s)
      else
        let s' := s.modCore e.who.core (fun k => { k with stores := k.stores.filter (fun x => x.id != e.id) })
        (false, { s' with homeHeld := s'.homeHeld ++ [{ dom := d, store := e }] })
    | _, _ => (false, s)
  | .over s => (false, s.legOverflow e.who.ctx (if e.irrev then 1 else 0))

/-- Perform stores in order; false where one is held. -/
def State.drainList (s : State) : List Store → Bool × State
  | [] => (true, s)
  | e :: t =>
    match s.drainOne e with
    | (true, s) => s.drainList t
    | r => r

/-- Perform the stores of a core that `need` names, and those that must precede them. -/
def State.drainFor (s : State) (core : Nat) (need : Store → Bool) : Bool × State :=
  let q := s.pendingStores core
  s.drainList (closureReq q.length q need)

/-! ## What is before a thread's accesses (R79 to R85, log 14) -/

/-- The items of a second list that the first lacks, behind it. -/
def unite {α : Type} [BEq α] (l new : List α) : List α := l ++ new.filter (fun x => !l.contains x)

/-- A chain goes on by an edge of an agent at a scope. -/
def Before.step (b : Before) (me : Agent) (sc : Scope) (e : Edge) : Before :=
  { b with via := if b.via.contains (me, sc) then b.via else b.via ++ [(me, sc)], edge := e }

/-- What a chain is after a further event of the thread at a scope: preserved program order narrows to it (R84). -/
def Before.past (b : Before) (me : Agent) (sc : Scope) : Before := if b.edge == .ppo then b.step me sc .ppo else b

/-- A chain orders its store before an observer's access: every scope on it holds the observer, or it is one of CO accesses
(R84, R89). -/
def State.inForce (s : State) (me : Agent) (b : Before) : Bool := b.causal || b.via.all (fun v => s.inScope v.2 v.1 me)

/-- The stores that an access of a domain must see (R85). -/
def State.mustSee (s : State) (t : Thread) (me : Agent) (d : Dom) : List Nat :=
  (t.ahead.filter (fun p => p.1 == d && s.inForce me p.2)).map (·.2.id)

/-- What is before the next event of a domain of a thread, at a scope. -/
def Thread.next (t : Thread) (me : Agent) (d : Dom) (sc : Scope) : List Before :=
  (t.ahead.filter (fun p => p.1 == d)).map (fun p => p.2.past me sc)

/-- An event of a thread: its coherence point, or the store that it makes, and what is before it are in its past. -/
def Thread.event (t : Thread) (me : Agent) (d : Dom) (sc : Scope) (own : List Before) : Thread :=
  { t with past := unite t.past ((t.next me d sc ++ own).map (fun b => ⟨d, sc, b⟩)) }

/-- What is before a release of a thread: its events of the domain, each at the narrower scope, and what is before them (R79,
R84). -/
def Thread.released (t : Thread) (me : Agent) (d : Dom) (sc : Scope) : List Before :=
  unite ((t.past.filter (fun p => p.dom == d)).map (fun p => p.b.step me (narrower p.scope sc) .ppo)) (t.next me d sc)

/-- What the fences of a thread have put before its next store of a domain (R82). -/
def Thread.fenced (t : Thread) (d : Dom) : List Before :=
  (t.ahead.filter (fun p => p.1 == d && p.2.edge == .fence)).map (·.2)

/-- What a fence of a thread orders: its events of domain x at the fence's scope, and what fenced stores that it has read
carry, where the scope holds their writers (R80, R82). -/
def State.fences (s : State) (t : Thread) (me : Agent) (x : Dom) (sc : Scope) : List Before :=
  let bs : List Before := (t.past.filter (fun p => p.dom == x)).map (·.b)
    ++ (t.seen.filter (fun y => y.dom == x && s.inScope sc me y.who)).flatMap (·.els)
  bs.map (fun b => { b.step me sc .fence with causal := false })

/-- What an acquire of a domain at a scope takes from a release (R81, R89): all where each scope holds the other party, else
only what is in causal order. -/
def State.syncs (s : State) (me : Agent) (d : Dom) (sc : Scope) (r : Rel) : List Before :=
  if r.dom != d then []
  else
    let all : List Before := (r.before ++ [({ id := r.id, causal := d == .co } : Before)]).map (fun b => (b.step r.who r.scope .ppo).step me sc .ppo)
    if s.inScope r.scope r.who me && s.inScope sc me r.who then all else all.filter (·.causal)

/-- Keep of a thread's order what is not performed for every agent, and of its stores that its loads have had early what is not performed. -/
def State.prune (s : State) (t : Thread) : Thread :=
  { t with
    fed := t.fed.filter s.unperformed
    ahead := t.ahead.filter (fun p => s.isOpen p.2.id)
    past := t.past.filter (fun p => s.isOpen p.b.id)
    seen := (t.seen.map (fun y => { y with els := y.els.filter (fun b => s.isOpen b.id) })).filter (fun y => !y.els.isEmpty) }

/-- A read of a thread has returned bytes of some stores: they are its coherence points, what fences put before them is seen, and
an acquire synchronises with their releases. -/
def State.noteRead (s : State) (me : Agent) (d : Dom) (sc : Scope) (acq : Bool) (ms : List Mark) : State :=
  s.modGroup me.core me.slot me.grp (fun g => g.modThread me.lane (fun t =>
    let acqs := if acq then ms.flatMap (fun m => m.rels.flatMap (s.syncs me d sc)) else []
    let t := t.event me d sc (ms.map (fun m => { id := m.id }) ++ acqs)
    s.prune { t with
      seen := unite t.seen (ms.flatMap (fun m => m.els.map (fun e => ⟨d, e.1, e.2⟩)))
      ahead := unite t.ahead (acqs.map (fun b => (d, b))) }))

/-- A thread has made a store. -/
def State.noteWrite (s : State) (me : Agent) (d : Dom) (sc : Scope) (id : Nat) : State :=
  s.modGroup me.core me.slot me.grp (fun g => g.modThread me.lane (fun t =>
    s.prune (t.event me d sc [{ id := id, causal := d == .co }])))

/-- Every store that is before the next events of some domain of a thread, or among its own. -/
def Thread.known (t : Thread) : List Nat := t.ahead.map (·.2.id) ++ t.past.map (·.b.id) ++ t.seen.flatMap (fun y => y.els.map (·.id))

/-- Every store that is before the end of a block's threads. -/
def Block.known (b : Block) : List Nat := b.groups.flatMap (fun g => g.threads.flatMap Thread.known)

/-- Packets of a thread that are not acknowledged, with the domain of their operation. -/
def Group.remotePending (g : Group) (lane : Nat) (d : Dom) : List Nat :=
  (g.ops.filter (fun o => o.dom == d)).flatMap (fun o =>
    (o.pkts.filter (fun p => p.2.getLsbD lane)).map (·.1))

/-- Packets of a thread's unanswered remote acquires of a domain (R79, R155). -/
def Group.acqPending (g : Group) (lane : Nat) (d : Dom) : List Nat :=
  (g.ops.filter (fun o => o.acquire && o.dom == d)).flatMap (fun o => (o.pkts.filter (fun p => p.2.getLsbD lane)).map (·.1))

/-- The bytes that a packet to a home endpoint of this package reaches, one by one. -/
def State.homePlaces (s : State) (p : Packet) : List Place :=
  (opRuns p.op).flatMap (fun r => (List.range r.2).filterMap (fun i => (s.vTarget p.tctx.toNat (p.wbase + r.1 + i)).map Place.glob))

/-- A packet to an endpoint of this package reaches bytes of some places, those of local memory being of core `core`. -/
def State.pktReaches (s : State) (core : Nat) (p : Packet) (ps : List (Place × Nat)) : Bool :=
  p.pkg == s.sys.pkg &&
    (if p.toCore then
      let at_ := s.placeNow p.unit.toNat p.slot.toNat p.gen
      at_.1 == core && (opRuns p.op).any (fun r => ps.any (fun q => placesMeet (.loc at_.2 r.1) r.2 q.1 q.2))
    else (s.homePlaces p).any (fun x => ps.any (fun q => placesMeet x 1 q.1 q.2)))

/-- A scope is at least as wide as another. -/
def wideEnough (wide sc : Scope) : Bool := decide (scopeRank sc ≤ scopeRank wide)

/-- The RC packets that a core has sent to homes of this package, those of some places, at the scope of a release or a wider one: a release
of the core counts them there (R100). -/
def State.rcPackets (s : State) (core : Nat) (sc : Scope) (ps : List (Place × Nat)) : List Nat :=
  ((s.coreFlights core .rc).filter (fun f => f.p.pkg == s.sys.pkg && !f.p.toCore && wideEnough f.p.scope sc
    && (s.homePlaces f.p).any (fun x => ps.any (fun q => x.sameHome q.1)))).map (·.p.id)

/-- A thread's unanswered packets of a domain that reach the same bytes of this package: any pair that touches a common byte is in order
(R79, R85), in local memory whatever the domains (R54). -/
def State.ownPackets (s : State) (w : Who) (lane : Nat) (d : Dom) (ps : List (Place × Nat)) : List Nat :=
  (s.flights.filter (fun f => f.pending && !f.inbound
    && w.g.ops.any (fun o => (o.dom == d || f.p.toCore) && o.pkts.any (fun p => p.1 == f.p.id && p.2.getLsbD lane))
    && s.pktReaches w.core f.p ps)).map (·.p.id)

/-- What must be performed before a new store of a thread at some places: what fences and acquires put before it, its packets to the
same bytes, for a release or a strong domain its remote accesses of the domain, for a release in RC at a scope the core's to its home, and in
TSO and SC those of the whole core, whose queue is one (R73, R79, R80, R100). -/
def State.storeAfter (s : State) (w : Who) (lane : Nat) (d : Dom) (sc : Scope) (rel : Bool) (ps : List (Place × Nat)) : List Nat :=
  let fenced := ((w.g.thread lane).ahead.filter (fun p => p.1 == d)).map (·.2.id)
  let strong := d == .co || d == .tso || d == .sc
  let remote := if rel || strong then w.g.remotePending lane d else w.g.acqPending lane d
  let counted := if rel && d == .rc then s.rcPackets w.core sc ps else []
  (fenced ++ remote ++ s.ownPackets w lane d ps ++ s.corePackets w.core d ++ counted).filter s.unperformed

/-- What must be performed before a new load of a thread at some places; in SC the core's queue is empty first (R73). -/
def State.loadAfter (s : State) (w : Who) (lane : Nat) (d : Dom) (ps : List (Place × Nat)) : List Nat :=
  let fenced := ((w.g.thread lane).ahead.filter (fun p => p.1 == d)).map (·.2.id)
  let remote := if d = .sc then w.g.remotePending lane d ++ s.corePackets w.core d else w.g.acqPending lane d
  (fenced ++ remote ++ s.ownPackets w lane d ps).filter s.unperformed

/-! ## Filters (R73, R501) -/

/-- A filter of domain d of an L1 applies what `p` names of the invalidations that have arrived. -/
def State.filterApply (s : State) (core : Nat) (d : Dom) (p : Inval → Bool) : State :=
  s.modL1 (s.sys.physCore core) (fun k => k.apply d p)

/-- An acquire of a domain at a scope, or a fence before its accesses (R73, R80): the filter applies what it holds from
sources within the scope. -/
def State.acquire (s : State) (me : Agent) (d : Dom) (sc : Scope) : State :=
  s.filterApply me.core d (fun i => s.inScope sc me i.src)

/-! ## Loads of global and host memory -/

/-- Held stores of the context's domain cover bytes of a sector (R198). -/
def State.heldIn (s : State) (c : Nat) (t : Tgt) (n : Nat) : Bool :=
  match (s.ctx c).domain with
  | none => false
  | some d => s.holds.any (fun h => h.dom == d && (match h.what with
      | .inl st => placesMeet st.place st.len (.glob t) n
      | .inr _ => false))

/-- The lines of an L1. -/
def L1.lines (k : L1) : List Nat := (k.sectors.map (fun e => e.1 / 4)).dedup

/-- Lines that an L1 has room for (R3). -/
def l1Lines : Nat := 512

/-- Make room in an L1 for a sector: a line gives way where it is new and the L1 is full. Which one is free (log 58). -/
def State.makeRoom (s : State) (pos key : Nat) : State :=
  let ls := (s.l1 pos).lines
  if ls.contains (key / 4) || ls.length < l1Lines then s
  else
    let v := listGet 0 ls ((Config.freeDword s.freeCtr).toNat % ls.length)
    { s.modL1 pos (fun k => { k with sectors := k.sectors.filter (fun e => e.1 / 4 != v) }) with freeCtr := s.freeCtr + 1 }

/-- A core's L1 has not the sector, and no other L1 of its die: the die's snoop filter misses (R494, log 80). -/
def State.snoopMiss (s : State) (core key : Nat) : State :=
  let die := s.sys.dieOfCore core
  if s.l1s.any (fun k => k.1 / 24 == die && (KMap.find k.2.sectors key).isSome) then s else s.bump (0x300000 + 0x1000 * die + 48) 1

/-- Read one sector for a load: from the L1 where a copy is held, else from its home, filling the L1. Bytes that a hold keeps are never
cached. -/
def State.readSector (s : State) (me : Agent) (cached : Bool) (key : Nat) : List Byte × List Mark × State :=
  let p := 0x1000 * s.sys.physCore me.core
  let pos := s.l1Pos me.core key
  let cached := cached && !s.heldIn me.ctx (keyTgt key) 64
  match (if cached then KMap.find (s.l1 pos).sectors key else none) with
  | some x => (x.bytes, x.marks, s.bump (p + 0x430) 1)
  | none =>
    let s := (s.snoopMiss me.core key).rxCore me.core (keyTgt key) 64
    let (bs, s) := s.coreRead me.core me.ctx (keyTgt key) 64
    let ms := s.marksAt me.core (.glob (keyTgt key)) 64
    let (n, s) := s.fresh
    let s := if cached then (s.makeRoom pos key).modL1 pos (fun k => { k with sectors := KMap.put k.sectors key ⟨n, bs, ms⟩ }) else s
    (bs, ms, s.bump (p + 0x438) 1)

/-- A copy in the L1 that is older than a store that a load must see is discarded first (R85). -/
def State.mustArrive (s : State) (core : Nat) (must : List Nat) (keys : List Nat) : State :=
  keys.foldl (fun s key => s.arriveAt (s.l1Pos core key) (fun i => i.sector == key && must.contains i.store)) s

/-- What the loads of one instruction have read so far: sectors with the marks of the stores that wrote them, and bytes of peer MMIO. Lanes
that read the same bytes share one read (R290). -/
structure Reads where
  sectors : List (Nat × List Byte × List Mark) := []
  mmio : KMap Byte := []

/-- Bytes of a sector for one more lane of an instruction. -/
def State.readShared (s : State) (me : Agent) (cached : Bool) (rd : Reads) (key : Nat) : List Byte × List Mark × Reads × State :=
  match rd.sectors.find? (fun x => x.1 == key) with
  | some x => (x.2.1, x.2.2, rd, s)
  | none =>
    let (bs, ms, s) := s.readSector me cached key
    (bs, ms, { rd with sectors := (key, bs, ms) :: rd.sectors }, s)

/-- Bytes of sectors, in order. -/
def State.readKeys (s : State) (me : Agent) (cached : Bool) (rd : Reads) : List Nat → List Byte × List Mark × Reads × State
  | [] => ([], [], rd, s)
  | key :: t =>
    let (bs, ms, rd, s) := s.readShared me cached rd key
    let (rest, ms', rd, s) := State.readKeys s me cached rd t
    (bs ++ rest, ms ++ ms', rd, s)

/-- Bytes of peer MMIO: each once for an instruction. -/
def State.readMmio (s : State) (me : Agent) (rd : Reads) (a : Nat) : Nat → List Byte × Reads × State
  | 0 => ([], rd, s)
  | n + 1 =>
    match KMap.find rd.mmio a with
    | some b => let (bs, rd, s) := State.readMmio s me rd (a + 1) n; (b :: bs, rd, s)
    | none =>
      let (x, s) := (s.rxCore me.core (.mmio a) 1).homeRead me.ctx (.mmio a) 1
      let b := x.headD 0
      let (bs, rd, s) := State.readMmio s me { rd with mmio := KMap.put rd.mmio a b } (a + 1) n
      (b :: bs, rd, s)

/-- Where a target starts within its first sector. -/
def Tgt.inSector (t : Tgt) : Nat := match t with | .dev a | .host a | .mmio a => a % 64

/-- A thread's own queued stores that its loads of a domain have early (R73), or in CO that its loads come after (R79). -/
def State.ownQueued (s : State) (me : Agent) (d : Dom) : List Store :=
  (s.pendingStores me.core).filter (fun (e : Store) => e.of me && e.dom == d)

/-- Bytes of a piece of a load at its home or L1, then the thread's own queued stores of the domain over them, and the marks of
the stores that it reads. A sector is read at one instant; R77 gives no atomicity beyond an 8-byte unit (log 59). -/
def State.readPiece (s : State) (me : Agent) (d : Dom) (rd : Reads) (p : Piece) (pc : Dword) (node block : Word) :
    List Byte × List Mark × Reads × State :=
  let core := me.core
  let t := p.x.target (s.ctx me.ctx).pasid.toNat p.va
  let s := s.txTo core t p.n
  if !s.admitsTgt me.ctx t then
    let a := match t with | .dev a | .host a | .mmio a => a
    (List.replicate p.n 0, [], rd, s.homeRefuses me false a pc node block (s.legOf me.ctx))
  else
    let (bs, ms, rd, s) : List Byte × List Mark × Reads × State :=
      match t with
      | .mmio a => let (bs, rd, s) := s.readMmio me rd a p.n; (bs, [], rd, s)
      | _ =>
        let (all, ms, rd, s) := s.readKeys me (p.x.cp == 0) rd (sectorKeys t p.n)
        ((all.drop t.inSector).take p.n, ms.filter (fun m => m.meets core (.glob t) p.n), rd, s)
    let own := s.ownQueued me d
    (own.foldl (fun bs e =>
        match e.place, e.work with
        | .glob u, .bytes xs => overlayTgt t bs u xs
        | _, _ => bs) bs,
      (own.foldl (fun ms e => ms.flatMap (fun (m : Mark) => m.minus core e.place e.len)) ms).filter
        (fun m => m.meets core (.glob t) p.n), rd, s)

/-- Bytes of a load made of pieces. -/
def State.readPieces (s : State) (me : Agent) (d : Dom) (rd : Reads) (pc : Dword) (node block : Word) :
    List Piece → List Byte × List Mark × Reads × State
  | [] => ([], [], rd, s)
  | p :: t =>
    let (bs, ms, rd, s) := s.readPiece me d rd p pc node block
    let (rest, ms', rd, s) := State.readPieces s me d rd pc node block t
    (bs ++ rest, ms ++ ms', rd, s)

/-- The stores of a thread whose bytes a load of it has had before their home has them, or that a CO load comes after, those to endpoints
among them: what uses the load's value comes after them (R76, R95). -/
def State.noteFed (s : State) (me : Agent) (d : Dom) (places : List (Place × Nat)) : State :=
  let sent := if d = .co then match s.block me.core me.slot with
      | some b => (b.group me.grp).remotePending me.lane .co
      | none => []
    else []
  let new := ((s.pendingStores me.core).filter (fun (e : Store) => e.of me
      && ((e.dom == d && d == .co) || ((e.dom == d || e.place.isLoc) && places.any (fun p => placesMeet e.place e.len p.1 p.2))))).map (·.id)
    ++ sent.filter s.unperformed
  if new.isEmpty then s
  else s.modGroup me.core me.slot me.grp (fun g => g.modThread me.lane (fun t => { t with fed := unite t.fed new }))

/-- The queued stores that a load of a thread must see performed first: the SC queue (R73), its fences, and its own
REDs of the domain to the same bytes. -/
def loadNeeds (me : Agent) (d : Dom) (after : List Nat) (places : List (Place × Nat)) (e : Store) : Bool :=
  (d == .sc && e.dom == .sc) || after.contains e.id
    || (e.of me && e.dom == d && places.any (fun p => placesMeet e.place e.len p.1 p.2)
        && (match e.work with | .red .. => true | _ => false))

/-- What an atomic of a thread at a scope must see performed first: for a release in RC also the RC stores of its core to its home (R73, R79,
R86, R100). -/
def atomNeeds (me : Agent) (d : Dom) (sc : Scope) (rel : Bool) (after : List Nat) (places : List (Place × Nat)) (e : Store) : Bool :=
  after.contains e.id
    || (rel && d == .rc && e.dom == .rc && wideEnough e.scope sc && places.any (fun p => e.place.sameHome p.1))
    || (e.dom == d && (d == .sc || d == .tso))
    || (e.of me && e.dom == d && (d == .co || (d == .rc && rel) || places.any (fun p => placesMeet e.place e.len p.1 p.2)))
    || (e.of me && e.place.isLoc && places.any (fun p => placesMeet e.place e.len p.1 p.2))

/-- The places of pieces. -/
def State.piecePlaces (s : State) (c : Nat) (ps : List Piece) : List (Place × Nat) :=
  ps.map (fun p => (Place.glob (p.x.target (s.ctx c).pasid.toNat p.va), p.n))

/-- An access is an acquire (R78). -/
def isAcquire (a : Acc) : Bool := a.ord == .acq || a.ord == .ar || a.dom == .co || a.dom == .tso || a.dom == .sc

/-- An access is a release (R78). -/
def isRelease (a : Acc) : Bool := a.ord == .rel || a.ord == .ar || a.dom == .co || a.dom == .tso || a.dom == .sc

/-! ## Queueing stores -/

/-- The releases that a store numbered `id` of some lanes carries. -/
def Who.relsOf (w : Who) (ls : List Nat) (a : Acc) (sc : Scope) (id : Nat) : List Rel :=
  if isRelease a then
    ls.map (fun l => { id := id, who := w.agent l, dom := a.dom, scope := sc, before := (w.g.thread l).released (w.agent l) a.dom sc })
  else []

/-- What fences put before a store of some lanes. -/
def Who.elsOf (w : Who) (ls : List Nat) (d : Dom) : List (Agent × List Before) :=
  (ls.map (fun l => (w.agent l, (w.g.thread l).fenced d))).filter (fun e => !e.2.isEmpty)

/-- An access of n bytes to a place is issued: local memory is no target of another die. -/
def State.placeTx (s : State) (core : Nat) (p : Place) (n : Nat) : State :=
  match p with
  | .glob t => s.txTo core t n
  | .loc .. => s

/-- Queue a store of some lanes, at a scope; `batch` numbers the first store of the instruction, `req` its bank request. Stores of one
instruction that meet take their place in lane order (R54, R64, R290). -/
def State.enqueue (s : State) (w : Who) (batch : Nat) (ls : List Nat) (a : Acc) (sc : Scope) (place : Place) (work : Work)
    (irrev : Bool) (req : Nat := 0) : State :=
  let (id, s') := s.fresh
  let e : Store := { id := id, who := w.agent (ls.headD 0), dom := a.dom, scope := sc, rel := isRelease a, place := place,
                     work := work, after := [], lanes := maskOf (fun l => ls.contains l), rels := w.relsOf ls a sc id,
                     els := w.elsOf ls a.dom, irrev := irrev, leg := s.legOf w.ctx, pc := w.ig.pc,
                     node := wd w.b.task.node, block := wd w.b.task.lin, req := req }
  let own := ((s.core w.core).stores.filter (fun x => decide (batch ≤ x.id) && placesMeet x.place x.len place e.len)).map (·.id)
  let s' := s'.placeTx w.core place e.len
  let s' := s'.modCore w.core (fun k => { k with stores := k.stores ++
    [{ e with after := ls.flatMap (fun l => s.storeAfter w l a.dom sc (isRelease a) [(place, e.len)]) ++ own }] })
  ls.foldl (fun s l => s.noteWrite (w.agent l) a.dom sc id) s'

/-- Queue a store of bytes made of pieces, each following its own page (R289). -/
def State.enqueuePieces (s : State) (w : Who) (batch : Nat) (ls : List Nat) (a : Acc) : List Piece → List (Byte × Byte) → State
  | [], _ => s
  | p :: t, bs =>
    let tg := p.x.target (s.ctx w.ctx).pasid.toNat p.va
    (s.enqueue w batch ls a (p.x.scope a.scope) (.glob tg) (.bytes (bs.take p.n)) (s.irrevPage w.ctx p.x)).enqueuePieces w batch
      ls a t (bs.drop p.n)

/-! ## Fences and bridges (R80, R304) -/

/-- The pending stores of a thread in a domain, remote ones included. -/
def State.threadPending (s : State) (w : Who) (lane : Nat) (d : Dom) : List Nat :=
  ((s.pendingStores w.core).filter (fun (e : Store) => e.of (w.agent lane) && e.dom == d)).map (·.id)
    ++ w.g.remotePending lane d

/-- BRIDGE.x.y at a scope, for one thread: its pending stores of x, and every store that its past or what it has read puts
before, are before its later accesses of y. -/
def State.bridge1 (s : State) (w : Who) (x y : Dom) (sc : Scope) (lane : Nat) : State :=
  let me := w.agent lane
  let new := (s.threadPending w lane x).map (fun i => ({ id := i, via := [(me, sc)], edge := .fence } : Before))
  let s := s.modGroup w.core w.slot w.grp (fun g => g.modThread lane (fun t =>
    let u := s.prune t
    { t with ahead := unite u.ahead ((new ++ s.fences u me x sc).map (fun b => (y, b))) }))
  s.acquire me y sc

/-- The five domains. -/
def allDoms : List Dom := [.ub, .rc, .co, .tso, .sc]

/-- What sources that `p` names have written is performed, and the filters of every domain of a core apply it (R94, R161). -/
def State.applyAll (s : State) (core : Nat) (p : Agent → Bool) : State :=
  allDoms.foldl (fun s d => s.filterApply core d (fun i => p i.src)) (s.arriveAll (fun i => p i.src))

/-- The lane that stands for a command in an agent: 64 and the tag with the release flag, 33 without (R94). -/
def cmdLane (relf : Bool) (tag : Nat) : Nat := if relf then 64 + tag else 33

end Sys2Proof.Machine
end

