-- ==== Sys2Proof/Machine/Local.lean ====
section
/-! DEFINITION. Local memory of a block (R49, R52 to R54, R75, R166): its bounds, the control area of its serai, and
what a thread reads of it. -/

namespace Sys2Proof.Machine

/-- Bytes of the block's allocation. -/
def Block.locSize (b : Block) : Nat := b.nodeRec.kern.locKiB * 1024

/-- The serai of a block: offset, slot size, slot count. -/
def Block.serai (b : Block) : Option (Nat × Nat × Nat) := b.nodeRec.kern.serai

/-- Bytes of a serai's control area (R166). -/
def seraiCtl (n : Nat) : Nat := 40 + 8 * n

/-- Where slot j of a serai lies, from the serai's offset (R166). -/
def seraiSlot (n z j : Nat) : Nat := ceilDiv (seraiCtl n) 64 * 64 + j * z

/-- A run of bytes reaches the control area of the block's serai. -/
def Block.inControl (b : Block) (off n : Nat) : Bool :=
  match b.serai with
  | some (o, _, k) => runsMeet off n o (seraiCtl k)
  | none => false

/-- The barrier word at an offset is a serai slot's: the slot (R166). -/
def Block.slotWord (b : Block) (off : Nat) : Option Nat :=
  match b.serai with
  | some (o, _, k) => if o + 40 ≤ off ∧ off < o + 40 + 8 * k ∧ (off - o - 40) % 8 = 0 then some ((off - o - 40) / 8) else none
  | none => none

/-- The permission check of a local access (R49, R166): `store` forbids the control area. -/
def Block.locCheck (b : Block) (off n : Nat) (store : Bool) : Bool :=
  decide (off + n ≤ b.locSize) && !(store && b.inControl off n)

/-- A 64-bit word of local memory. -/
def Block.word64 (b : Block) (off : Nat) : Nat := leNat (Memory.readN b.mem off 8)

/-- Write a 64-bit word of local memory. -/
def Block.putWord64 (b : Block) (off x : Nat) : Block := { b with mem := Memory.writeN b.mem off (leBytes 8 x) }

/-- Bytes of local memory as a thread reads them: its own queued stores over the block's memory (R54). -/
def State.readLoc (s : State) (core slot : Nat) (me : Agent) (off n : Nat) : List Byte :=
  let old := match s.block core slot with | some b => Memory.readN b.mem off n | none => List.replicate n 0
  (s.pendingStores core).foldl (fun bs e =>
    match e.place, e.work with
    | .loc sl o, .bytes xs => if e.of me && sl == slot then overlay off bs o xs else bs
    | _, _ => bs) old

/-- The marks of the stores that a thread reads in local memory: none where its own queued stores lie over them. -/
def State.locMarks (s : State) (core slot : Nat) (me : Agent) (off n : Nat) : List Mark :=
  let own := (s.pendingStores core).filter (fun (e : Store) => e.of me && e.place.isLoc)
  (own.foldl (fun ms e => ms.flatMap (fun (m : Mark) => m.minus core e.place e.len)) (s.marksAt core (.loc slot off) n)).filter
    (fun m => m.meets core (.loc slot off) n)

end Sys2Proof.Machine
end

