-- ==== Sys2Proof/Machine/MemI.lean ====
section
/-! DEFINITION. Loads, stores, format-decoding access, prefetch and cache control: majors 0x0B and 0x0C but for the
accumulator words (R286 to R297). -/

namespace Sys2Proof.Machine

/-! ## Checks that lanes share (R288, R289) -/

/-- The marks that loads, stores and atomics accept (R288). -/
def loadMarks : List Ord := [.none, .acq]
def storeMarks : List Ord := [.none, .rel]
def atomMarks : List Ord := [.none, .acq, .rel, .ar]

/-- A mark outside the list, or any mark on a UB access (R78, R288). -/
def badMark (marks : List Ord) (a : Acc) : Bool := !marks.contains a.ord || (a.dom == .ub && a.ord != .none)

/-- The rank of a domain (R59, R69). -/
def rank (d : Dom) : Nat := match d with | .ub => 0 | .rc => 1 | .co => 2 | .tso => 3 | .sc => 4

/-- What each lane of a mask finds, or the fault of the lowest lane that fails. Where a lower lane fails a check and a higher one reaches a
non-present page, R63 and R289 do not say which decides: it is the lowest lane's, and the context lives (DESIGN CHOICE, log 81). -/
def gather {α : Type} (ls : List Nat) (f : Nat → Except Flt α) : Except Flt (List (Nat × α)) :=
  match ls with
  | [] => .ok []
  | l :: t =>
    match f l with
    | .error e => .error e
    | .ok a =>
      match gather t f with
      | .error e => .error e
      | .ok r => .ok ((l, a) :: r)

/-- The active lanes of an instruction translate their addresses, each the runs that `f` names, whatever their checks find (R65). -/
def State.touchLanes (s : State) (w : Who) (m : LaneMask) (f : State → Nat → List (Nat × Nat)) : State :=
  (lanesOf m).foldl (fun s l => (f s l).foldl (fun s r => s.touch w.core w.part l w.ctx r.1 r.2) s) s

/-- Rows 6 and 7 for the operands and the mark, then every lane's own checks, before any lane takes effect (R289). Where lanes fail in different
rows, R230 goes by rows and R289 by lanes: here the operands and the mark of all lanes come first, then addresses lane by lane (DESIGN CHOICE,
log 106). `touch` gives the global or host addresses that a lane translates. -/
def State.accessAt {α : Type} (s : State) (h : Hd) (rs : List VRead) (ds : List VName) (bad : Bool)
    (touch : Who → State → Nat → List (Nat × Nat)) (f : Who → Nat → Except Flt α)
    (go : State → Who → LaneMask → List (Nat × α) → Host.Outcome State Fault Refusal) : Host.Outcome State Fault Refusal :=
  s.withIssuer fun w =>
    let m := w.active h.g
    match w.check m rs ds with
    | some (c, l) => s.raise w m { cause := c, lane := l }
    | none =>
      if m != 0 && bad then s.raise w m { cause := 3, lane := lowest m }
      else
        let t := s.touchLanes w m (touch w)
        match gather (lanesOf m) (f w) with
        | .error e => t.raise w m e
        | .ok xs => go t w m xs

/-- The same for an access that translates nothing. -/
def State.access {α : Type} (s : State) (h : Hd) (rs : List VRead) (ds : List VName) (bad : Bool)
    (f : Who → Nat → Except Flt α) (go : Who → LaneMask → List (Nat × α) → Host.Outcome State Fault Refusal) :
    Host.Outcome State Fault Refusal :=
  s.accessAt h rs ds bad (fun _ _ _ => []) f (fun _ => go)

/-- Translate and check a lane's access of n bytes. -/
def State.laneAccess (s : State) (w : Who) (l : Nat) (need : Need) (rk a n : Nat) : Except Flt (List Piece) :=
  match s.lanePieces w.core w.part l w.ctx need a n with
  | .ok ps => .ok ps
  | .error r => .error (refuseFlt r l rk)

/-- What an access of a domain needs. -/
def needOf (r w : Bool) (d : Dom) : Need := ⟨r, w, some (rank d)⟩

/-- The local check of a lane's access. -/
def Who.locAccess (w : Who) (l off n : Nat) (store : Bool) : Except Flt Nat :=
  if w.b.locCheck off n store then .ok off else .error { cause := 8, lane := l, addr := dw off }

/-- Stores of active lanes to bytes that another active lane of the instruction reads too: one read serves both (R290). -/
def sharedNeeds (w : Who) (d : Dom) (xs : List (Nat × List (Place × Nat))) (e : Store) : Bool :=
  let meets := fun (x : Nat × List (Place × Nat)) => x.2.any (fun p => placesMeet e.place e.len p.1 p.2)
  (e.dom == d || e.place.isLoc) && xs.any (fun x => e.of (w.agent x.1) && meets x)
    && xs.any (fun x => !e.of (w.agent x.1) && meets x)

/-- Before the loads of an instruction: every store that must come first is performed; none where one is held. -/
def State.beforeLoads (s : State) (w : Who) (a : Acc) (xs : List (Nat × List (Place × Nat))) : Option State × State :=
  let aft := xs.map (fun x => (x.1, x.2, s.loadAfter w x.1 a.dom x.2))
  if aft.any (fun x => s.remoteIds x.2.2) then (none, s)
  else
    match s.drainFor w.core (fun e =>
        aft.any (fun x => loadNeeds (w.agent x.1) a.dom x.2.2 x.2.1 e) || sharedNeeds w a.dom xs e) with
    | (true, s) => (some s, s)
    | (false, s) => (none, s)

/-- A lane's read has returned bytes of some stores, at a scope: its filter applies what an acquire does (R73, R78). -/
def State.afterRead (s : State) (w : Who) (a : Acc) (l : Nat) (sc : Scope) (ms : List Mark) : State :=
  let s := s.noteRead (w.agent l) a.dom sc (isAcquire a) ms
  if isAcquire a then s.acquire (w.agent l) a.dom sc else s

/-- Copies in the L1 that are older than what some lane's load must see are discarded before any lane reads (R85). -/
def State.seeAll (s : State) (w : Who) (a : Acc) (xs : List (Nat × List Piece)) : State :=
  xs.foldl (fun s x =>
    let must := s.mustSee (w.g.thread x.1) (w.agent x.1) a.dom
    x.2.foldl (fun s p => s.mustArrive w.core must (sectorKeys (p.x.target (s.ctx w.ctx).pasid.toNat p.va) p.n)) s) s

/-- Read the bytes of each lane in ascending order: each byte once for all lanes that read it (R290). -/
def State.readLanes (s : State) (w : Who) (a : Acc) : List (Nat × List Piece) → Reads → List (Nat × List Byte) × State
  | [], _ => ([], s)
  | (l, ps) :: t, rd =>
    let me := w.agent l
    let (bs, ms, rd, s) := s.readPieces me a.dom rd w.ig.pc (wd w.b.task.node) (wd w.b.task.lin) ps
    let s := (s.noteFed me a.dom (s.piecePlaces w.ctx ps)).afterRead w a l (scopeOf ps a.scope) ms
    let (r, s) := State.readLanes s w a t rd
    ((l, bs) :: r, s)

/-- The value a load writes (R292). -/
def loadValue (ty : Ty) (bs : List Byte) : Dword :=
  let n := leNat bs
  match ty with
  | .i8 => dw (wrapTo 32 (signedOf 8 n))
  | .i16 => dw (wrapTo 32 (signedOf 16 n))
  | _ => dw n

/-- Write each lane's value. -/
def writeVals (xs : List (Nat × Dword)) (wb : Wb) (d : BitVec 8) (wide : Bool) (g : Group) : Group :=
  xs.foldl (fun g x => g.result x.1 wb d wide x.2) g

/-! ## LD, ST, LDL, STL (R291, R292) -/

/-- A load of global or host memory, of which `f` makes each lane's result. -/
def State.loadGlobal (s : State) (w : Who) (h : Hd) (a : Acc) (xs : List (Nat × List Piece)) (wb : Wb) (d : BitVec 8)
    (wd : Bool) (f : Nat → List Byte → Dword) : Host.Outcome State Fault Refusal :=
  match s.beforeLoads w a (xs.map (fun x => (x.1, s.piecePlaces w.ctx x.2))) with
  | (none, s) => .next s
  | (some s, _) =>
    let (vs, s) := (s.seeAll w a xs).readLanes w a xs {}
    .next (s.finish w h.k (writeVals (vs.map (fun x => (x.1, f x.1 x.2))) wb d wd))

/-- LD. -/
def execLd (o : LdOp) (s : State) : Host.Outcome State Fault Refusal :=
  s.accessAt o.h (baseReads true o.base) (vd o.d (wide o.ty)) (badMark loadMarks o.acc)
    (fun w _ l => [(w.gaddr l o.base o.imm, sizeOf o.ty)])
    (fun w l => s.laneAccess w l (needOf true false o.acc.dom) (rank o.acc.dom) (w.gaddr l o.base o.imm) (sizeOf o.ty))
    fun s w _ xs => s.loadGlobal w o.h o.acc xs o.wb o.d (wide o.ty) (fun _ bs => loadValue o.ty bs)

/-- ST. -/
def execSt (o : StOp) (s : State) : Host.Outcome State Fault Refusal :=
  s.accessAt o.h (baseReads true o.base ++ vr o.ty o.data) [] (badMark storeMarks o.acc)
    (fun w _ l => [(w.gaddr l o.base o.imm, sizeOf o.ty)])
    (fun w l => s.laneAccess w l (needOf false true o.acc.dom) (rank o.acc.dom) (w.gaddr l o.base o.imm) (sizeOf o.ty))
    fun s w _ xs =>
      let batch := s.nextId
      let s := xs.foldl (fun s x => s.enqueuePieces w batch [x.1] o.acc x.2
        (whole (leBytes (sizeOf o.ty) (w.src x.1 (wide o.ty) o.data).toNat))) s
      .next (s.skip w o.h.k)

/-! ## Bank requests (R53) -/

/-- The 8-byte bank words that n bytes of local memory touch. -/
def bankWords (off n : Nat) : List Nat := (List.range ((off + n - 1) / 8 - off / 8 + 1)).map (off / 8 + ·)

/-- The bank words whose requests complete now: of those that wait, the ones that the turn picks by their place; all of them where it picks
none. -/
def State.bankNow (s : State) (rest : List Nat) : List Nat :=
  let now := (rest.zipIdx.filter (fun x => s.pick.getLsbD (x.2 % 32))).map (·.1)
  if now.isEmpty then rest else now

/-- What requests have answered is kept until the last one has: then `f` writes the results and the group moves on. No thread sees a partial
result. -/
def State.bankDone (s : State) (w : Who) (h : Hd) (new : List (Nat × Dword)) (all : List Nat) (f : KMap Dword → Group → Group) : State :=
  let got := new.foldl (fun (g : KMap Dword) x => KMap.put g x.1 x.2) w.ig.got
  if all.all (fun k => got.any (fun x => x.1 == k)) then
    s.finish w h.k (fun g => f got (g.modIg w.ig.id (fun ig => { ig with got := [] })))
  else s.modGroup w.core w.slot w.grp (fun g => g.modIg w.ig.id (fun ig => { ig with got := got }))

/-- A lane's part of a bank word's answer. -/
def bankKey (lane word : Nat) : Nat := lane * 2 ^ 32 + word

/-- The share of a run of local bytes in a bank word: where it starts, and how long it is. -/
def inBank (off n word : Nat) : Nat × Nat := (max off (8 * word), min (off + n) (8 * word + 8) - max off (8 * word))

/-- Lanes read bank words, one after the other: their answers. -/
def State.readBanks (s : State) (w : Who) (a : Acc) (n : Nat) : List (Nat × Nat × Nat) → List (Nat × Dword) × State
  | [] => ([], s)
  | (l, off, word) :: t =>
    let me := w.agent l
    let (lo, k) := inBank off n word
    let v := dw (leNat (s.readLoc w.core w.slot me (8 * word) 8))
    let ms := s.locMarks w.core w.slot me lo k
    let s := (s.noteFed me a.dom [(.loc w.slot lo, k)]).afterRead w a l a.scope ms
    let (r, s) := State.readBanks s w a n t
    ((bankKey l word, v) :: r, s)

/-- A lane's bytes from the answers of its bank words. -/
def bankBytes (got : KMap Dword) (l off n : Nat) : List Byte :=
  (((bankWords off n).flatMap (fun word => leBytes 8 (KMap.get 0 got (bankKey l word)).toNat)).drop (off % 8)).take n

/-- LDL: one request for each bank word that active lanes touch; all lanes that read it receive it together (R53). -/
def execLdl (o : LdOp) (s : State) : Host.Outcome State Fault Refusal :=
  s.access o.h (baseReads false o.base) (vd o.d (wide o.ty)) (badMark loadMarks o.acc)
    (fun w l => w.locAccess l (w.laddr l o.base o.imm) (sizeOf o.ty) false)
    fun w _ xs =>
      let n := sizeOf o.ty
      match s.beforeLoads w o.acc (xs.map (fun x => (x.1, [(.loc w.slot x.2, n)]))) with
      | (none, s) => .next s
      | (some s, _) =>
        let parts := xs.flatMap (fun x => (bankWords x.2 n).map (fun b => (x.1, x.2, b)))
        let rest := parts.filter (fun y => !w.ig.got.any (fun g => g.1 == bankKey y.1 y.2.2))
        let now := s.bankNow (rest.map (·.2.2)).dedup
        let (vs, s) := s.readBanks w o.acc n (rest.filter (fun y => now.contains y.2.2))
        .next (s.bankDone w o.h vs (parts.map (fun y => bankKey y.1 y.2.2)) (fun got =>
          writeVals (xs.map (fun x => (x.1, loadValue o.ty (bankBytes got x.1 x.2 n)))) o.wb o.d (wide o.ty)))

/-- The number of the bank request that an instruction makes of a bank word. -/
def bankReq (batch word : Nat) : Nat := (batch + 1) * 2 ^ 32 + word

/-- STL: one request for each bank word that active lanes touch; the lanes' parts of it are queued in lane order and performed together. -/
def execStl (o : StOp) (s : State) : Host.Outcome State Fault Refusal :=
  s.access o.h (baseReads false o.base ++ vr o.ty o.data) [] (badMark storeMarks o.acc)
    (fun w l => w.locAccess l (w.laddr l o.base o.imm) (sizeOf o.ty) true)
    fun w _ xs =>
      let batch := s.nextId
      let n := sizeOf o.ty
      let s := xs.foldl (fun s x =>
        let bs := whole (leBytes n (w.src x.1 (wide o.ty) o.data).toNat)
        (bankWords x.2 n).foldl (fun s b =>
          let (lo, k) := inBank x.2 n b
          s.enqueue w batch [x.1] o.acc o.acc.scope (.loc w.slot lo) (.bytes ((bs.drop (lo - x.2)).take k)) false (bankReq batch b)) s) s
      .next (s.skip w o.h.k)

/-! ## LDX, STX (R61, R62, R293, R294) -/

/-- An element located under R61: the base page's FMT, where its format block starts and the element within it. -/
structure Elem where
  fmt : Nat
  at_ : Nat
  within : Nat
  ps : List Piece

/-- The alignment of a base (R61). -/
def baseAlign (fmt : Nat) : Nat := match fmt with | 1 => 64 | 2 => 32 | 3 => 32 | 6 => 8 | 8 => 8 | 9 => 4 | 10 => 2 | _ => 16

/-- Where an element's bytes start within its block. -/
def elemOffset (fmt within : Nat) : Nat := fmtBits fmt * within / 8

/-- Bytes that one element takes: a part of a byte under E2M1. -/
def elemSize (fmt : Nat) : Nat := if fmt = 6 then 1 else fmtBits fmt / 8

/-- Locate and check a lane's element: LDX and SQ formats reach the whole block, STX of another format its element. -/
def State.elem (s : State) (w : Who) (l : Nat) (need : Need) (rk : Nat) (ty : Ty) (base i : Nat) : Except Flt Elem :=
  let ill : Flt := { cause := 3, lane := l }
  if 2 ^ 52 ≤ base then .error { cause := 8, lane := l, addr := dw base }
  else
    match s.lookupLast (s.lastPage w.core w.part l) w.core w.ctx base with
    | .absent => .error { cause := 9, lane := l, addr := dw base }
    | .refused => .error { cause := 8, lane := l, addr := dw base }
    | .leaf x =>
      let blk := fmtBlk x.fmt
      let at_ := base + i / 16 * blk
      let k := i % 16
      if x.fmt = 0 || base % baseAlign x.fmt != 0 || (ty == .i32) != (x.fmt == 7) then .error ill
      else
        match s.lanePieces w.core w.part l w.ctx ⟨false, false, none⟩ at_ blk with
        | .error r => .error (refuseFlt r l rk)
        | .ok ps =>
          let (lo, n) := if need.r || fmtSq x.fmt then (at_, blk) else (at_ + elemOffset x.fmt k, elemSize x.fmt)
          if ps.any (fun p => p.x.fmt != x.fmt) then .error ill
          else
            match s.lanePieces w.core w.part l w.ctx need lo n with
            | .error r => .error (refuseFlt r l rk)
            | .ok ps => .ok ⟨x.fmt, at_, k, ps⟩

/-- The addresses that a lane of an LDX or STX translates: its base, and where that page gives a format the element's block. -/
def State.elemTouch (s : State) (w : Who) (l base i : Nat) : List (Nat × Nat) :=
  match s.lookupLast (s.lastPage w.core w.part l) w.core w.ctx base with
  | .leaf x => if 2 ^ 52 ≤ base || x.fmt = 0 then [(base, 1)] else [(base, 1), (base + i / 16 * fmtBlk x.fmt, fmtBlk x.fmt)]
  | _ => [(base, 1)]

/-- An element's exact value as LDX writes it (R112, R293). -/
def elemValue (fmt within : Nat) (bs : List Byte) : Dword :=
  if fmtSq fmt then dw (fp32.round 0 0 (sqDecode (fmtSqBits fmt) bs within))
  else
    let x := field (leNat bs) (fmtBits fmt * within) (fmtBits fmt)
    if fmt = 7 then dw (wrapTo 32 (signedOf 8 x)) else dw (fp32.round 0 0 ((fmtFloat fmt).decode x))

/-- LDX. -/
def execLdx (o : LdxOp) (s : State) : Host.Outcome State Fault Refusal :=
  s.accessAt o.h (baseReads true o.base ++ vr32 o.idx) (vd o.d false) (badMark loadMarks o.acc)
    (fun w s l => s.elemTouch w l (w.base l true o.base) (w.src l false o.idx).toNat)
    (fun w l => s.elem w l (needOf true false o.acc.dom) (rank o.acc.dom) o.ty (w.base l true o.base)
      (w.src l false o.idx).toNat)
    fun s w _ xs =>
      s.loadGlobal w o.h o.acc (xs.map (fun x => (x.1, x.2.ps))) o.wb o.d false (fun l bs =>
        match xs.find? (fun x => x.1 == l) with
        | some x => elemValue x.2.fmt x.2.within bs
        | none => 0)

/-- The SQ rule of R62 for a lane: its half is whole and addresses one block in lane order. -/
def sqHalfOk (xs : List (Nat × Elem)) (l : Nat) (e : Elem) : Bool :=
  (List.range 16).all (fun i =>
    match xs.find? (fun x => x.1 == halfOf l + i) with
    | some x => x.2.fmt == e.fmt && x.2.at_ == e.at_ && x.2.within == i
    | none => false)

/-- A lane that breaks the SQ rule: the lowest active lane of its half. -/
def sqFault (xs : List (Nat × Elem)) : Option Nat :=
  (xs.find? (fun x => fmtSq x.2.fmt && !sqHalfOk xs x.1 x.2)).map (fun x =>
    ((xs.find? (fun y => halfOf y.1 == halfOf x.1)).map (·.1)).getD x.1)

/-- Bytes with their masks of one element that STX stores, from the start of its block (R294). -/
def elemBytes (mode : Word) (r fmt within : Nat) (x : Dword) : List (Byte × Byte) :=
  if fmt = 7 then whole (leBytes 1 (satTo true 8 (signedOf 32 x.toNat)))
  else
    let f := fmtFloat fmt
    let src := if fmt = 1 then x.toNat else fp32.flushBits (ftzOf mode fp32) x.toNat
    let v := fp32.decode src
    let b := if fmt = 1 then f.round 0 0 v else f.roundZ (ftzOf mode f) (rndOf mode) r v
    if fmt = 6 then
      (if within % 2 = 0 then [(BitVec.ofNat 8 b, 0x0F)] else [(BitVec.ofNat 8 (b * 16), 0xF0)])
    else whole (leBytes (fmtBits fmt / 8) b)

/-- The store that STX makes of a lane: nothing for the higher lanes of an SQ half, whose block is one store by the thread of its lowest lane
(R294). -/
def State.stxLane (s : State) (w : Who) (batch : Nat) (o : StxOp) (g : Word) (l : Nat) (e : Elem) : State :=
  let mode := w.g.mode
  let val := fun k => w.src k false o.data
  if fmtSq e.fmt then
    if l % 16 != 0 then s
    else
      let bs := sqEncode (fmtSqBits e.fmt) (rndOf mode) ((List.range 16).map (fun i => draw g (l + i)))
        ((List.range 16).map (fun i => fp32.decode (fp32.flushBits (ftzOf mode fp32) (val (l + i)).toNat)))
      s.enqueuePieces w batch [l] o.acc e.ps (whole bs)
  else
    s.enqueuePieces w batch [l] o.acc e.ps (elemBytes mode (draw g l) e.fmt e.within (val l))

/-- The lanes whose element was found. -/
def found (xs : List (Nat × Except Flt Elem)) : List (Nat × Elem) :=
  xs.filterMap (fun x => match x.2 with | .ok e => some (x.1, e) | .error _ => none)

/-- The fault of the lowest failing lane of an STX (R289, R294). -/
def stxFault (xs : List (Nat × Except Flt Elem)) : Option Flt :=
  let bad := xs.findSome? (fun x => match x.2 with | .error e => some e | .ok _ => none)
  match sqFault (found xs), bad with
  | some l, some e => if e.lane ≤ l then some e else some { cause := 3, lane := l }
  | some l, none => some { cause := 3, lane := l }
  | none, e => e

/-- STX. -/
def execStx (o : StxOp) (s : State) : Host.Outcome State Fault Refusal :=
  s.accessAt o.h (baseReads true o.base ++ vr32 o.data ++ vr32 o.idx) [] (badMark storeMarks o.acc)
    (fun w s l => s.elemTouch w l (w.base l true o.base) (w.src l false o.idx).toNat)
    (fun w l => .ok (s.elem w l (needOf false true o.acc.dom) (rank o.acc.dom) o.ty (w.base l true o.base)
      (w.src l false o.idx).toNat))
    fun s w m xs =>
      match stxFault xs with
      | some e => s.raise w m e
      | none =>
        let (g, s) := if rndOf w.g.mode = 4 then s.issueGen w else (0, s)
        let batch := s.nextId
        let s := (found xs).foldl (fun s x => s.stxLane w batch o g x.1 x.2) s
        .next (s.skip w o.h.k)

/-! ## PREF and CCTL (R296, R297) -/

/-- Bring the line of an address into the L1 where a plain read of it could be cached; dropped otherwise. PREF names no domain: a page whose
FLOOR refuses the lowest one refuses it (R296; DESIGN CHOICE, log 82). -/
def State.prefetch (s : State) (w : Who) (l a : Nat) : State :=
  let s := s.touch w.core w.part l w.ctx a 1
  match s.lanePieces w.core w.part l w.ctx (needOf true false .ub) a 1 with
  | .error _ => s
  | .ok ps =>
    ps.foldl (fun s p =>
      match p.x.target 0 p.va with
      | .dev pa =>
        if p.x.cp = 0 && s.homeAdmits w.ctx pa then
          ((List.range 4).map (fun i => pa / 256 * 4 + i)).foldl (fun s key =>
            if (s.held? w.core key).isSome then s else (s.readSector (w.agent l) true key).2.2) s
        else s
      | _ => s) s

/-- PREF: the L1 form may fill the L1, the LLC form changes nothing here. -/
def execPref (o : PrefOp) (s : State) : Host.Outcome State Fault Refusal :=
  s.withIssuer fun w =>
    let m := w.active o.h.g
    match w.check m (baseReads true o.base) [] with
    | some (c, l) => s.raise w m { cause := c, lane := l }
    | none =>
      let s := if o.llc then s else (lanesOf m).foldl (fun s l => s.prefetch w l (w.gaddr l o.base o.imm)) s
      .next (s.skip w o.h.k)

/-- CCTL.IV: the line of each active lane's address leaves the L1. -/
def execCctlIv (h : Hd) (base : VSrc) (imm : BitVec 8) (s : State) : Host.Outcome State Fault Refusal :=
  s.withIssuer fun w =>
    let m := w.active h.g
    match w.check m (vr64 base) [] with
    | some (c, l) => s.raise w m { cause := c, lane := l }
    | none =>
      let s := (lanesOf m).foldl (fun s l =>
        let s := s.touch w.core w.part l w.ctx (w.gaddr l (.v base) imm) 1
        match s.lanePieces w.core w.part l w.ctx ⟨false, false, none⟩ (w.gaddr l (.v base) imm) 1 with
        | .error _ => s
        | .ok ps => ps.foldl (fun s p =>
            match sectorKey (p.x.target (s.ctx w.ctx).pasid.toNat p.va) with
            | some key => (List.range 4).foldl (fun s i => s.dropSector w.core (key / 4 * 4 + i)) s
            | none => s) s) s
      .next (s.skip w h.k)

/-- CCTL.IVALL: every line of the core's L1 leaves it. -/
def execCctlIvall (h : Hd) (s : State) : Host.Outcome State Fault Refusal :=
  s.anyLane h fun w _ => .next ((s.modL1 (s.sys.physCore w.core) (fun k => { k with sectors := [] })).skip w h.k)

end Sys2Proof.Machine
end

