-- ==== Sys2Proof/Machine/Atomic.lean ====
section
/-! DEFINITION. Atomics: majors 0x0D to 0x0F (R64, R298 to R302). -/

namespace Sys2Proof.Machine

/-- The operand of a lane: b, or the compare and the new value of a CAS. -/
def Who.atomArgs (w : Who) (l : Nat) (ty : Ty) : AArg → Dword × Dword
  | .one b _ => (w.src l (wide ty) b, 0)
  | .cas c n => (w.src l (wide ty) c, w.src l (wide ty) n)

/-- The V reads of an atomic's arguments. -/
def argReads (ty : Ty) : AArg → List VRead
  | .one b _ => vr ty b
  | .cas c n => vr ty c ++ vr ty n

/-- The offset of an atomic; a CAS has none. -/
def argImm : AArg → BitVec 8
  | .one _ i => i
  | .cas _ _ => 0

/-- A word that an instruction's lanes have reached: its place, its value so far, and whether it was written. -/
structure AWord where
  place : Place
  value : Dword
  wrote : Bool
  /-- marks of the stores that it was read from -/
  marks : List Mark := []

/-- Lane l operates on its word: the old value it returns and the words after it (R300). -/
def atomLane (op : AOp) (ty : Ty) (ws : List AWord) (p : Place) (b n : Dword) : Dword × List AWord :=
  match ws.find? (fun w => w.place == p) with
  | none => (0, ws)
  | some x =>
    match atomNew op ty x.value b n with
    | none => (x.value, ws)
    | some v => (x.value, ws.map (fun w => if w.place == p then { w with value := v, wrote := true } else w))

/-- All lanes, in ascending order (R64). -/
def atomLanes (op : AOp) (ty : Ty) : List (Nat × Place × Dword × Dword) → List AWord → List (Nat × Dword) × List AWord
  | [], ws => ([], ws)
  | (l, p, b, n) :: t, ws =>
    let (o, ws) := atomLane op ty ws p b n
    let (r, ws) := atomLanes op ty t ws
    ((l, o) :: r, ws)

/-- The places of a list, once each. -/
def distinct (ps : List Place) : List Place := ps.foldl (fun a p => if a.contains p then a else a ++ [p]) []

/-- The words of global or host memory as they stand at their homes; a refused one reads zero (R462). -/
def State.readWords (s : State) (w : Who) (n : Nat) : List Place → List AWord × State
  | [] => ([], s)
  | p :: t =>
    let (v, s) :=
      match p with
      | .glob tg =>
        if s.admitsTgt w.ctx tg then let (bs, s) := s.coreRead w.core w.ctx tg n; (dw (leNat bs), s)
        else
          let a := match tg with | .dev a | .host a | .mmio a => a
          (0, s.homeRefuses (w.agent 0) false a w.ig.pc (wd w.b.task.node) (wd w.b.task.lin) (s.legOf w.ctx))
      | .loc _ off => (dw (leNat (Memory.readN w.b.mem off n)), s)
    let (r, s) := State.readWords s w n t
    ({ place := p, value := v, wrote := false, marks := s.marksAt w.core p n } :: r, s)

/-- The log entries of the words that will be written: none where one must wait. -/
def State.logWords (s : State) (w : Who) (n : Nat) : List AWord → Option State × State
  | [] => (some s, s)
  | x :: t =>
    match x.wrote, x.place with
    | true, .glob (.dev pa) =>
      if s.homeAdmits w.ctx pa then
        match s.logWrite w.ctx pa n with
        | .ok s => State.logWords s w n t
        | .wait s => (none, s)
        | .over s => (none, s.legOverflow w.ctx 0)
      else State.logWords s w n t
    | _, _ => State.logWords s w n t

/-- The events of an atomic's lanes on one word, in lane order: each reads from the one before, so that a lane whose part
is an acquire synchronises with the releases of the word's stores and of the lanes before it (R64, R81, R83). `wrote` says of which
lanes the write part happens; `new` are the releases so far, what fences put before the lanes that have written (R82), and whether one has. -/
def State.atomEvents (s : State) (w : Who) (a : Acc) (sc : Scope) (ms : List Mark) (id : Nat) (wrote : Nat → Bool) :
    List Nat → List Rel × List (Agent × List Before) × Bool → List Rel × State
  | [], new => (new.1, s)
  | l :: t, new =>
    let last : Mark := { place := .glob (.dev 0), core := 0, len := 0, id := id, rels := new.1, els := new.2.1 }
    let s := s.afterRead w a l sc (if new.2.2 then ms ++ [last] else ms)
    if wrote l then State.atomEvents (s.noteWrite (w.agent l) a.dom sc id) w a sc ms id wrote t
      (new.1 ++ w.relsOf [l] a sc id, new.2.1 ++ w.elsOf [l] a.dom, true)
    else State.atomEvents s w a sc ms id wrote t new

/-- Write a word that an atomic changed: the L1 of its core is up to date, other L1s are told, and its mark carries the releases
of the atomics before it. A word that a home refuses is discarded (R462). -/
def State.writeWord (s : State) (w : Who) (n id : Nat) (d : Dom) (ls : List Nat) (rels : List Rel) (x : AWord) : State :=
  let bs := whole (leBytes n x.value.toNat)
  let m : Mark := { place := x.place, core := x.place.home w.core, len := n, id := id, rels := rels, els := w.elsOf ls d }
  match x.place with
  | .glob t =>
    if s.admitsTgt w.ctx t then
      let s := (s.rawWrite t bs).invalidate (some w.core) (w.agent (if ls.length = 1 then ls.headD 0 else 35)) id (sectorKeys t n)
      let (m, s) := s.putMark m true
      (s.updateL1 w.core t bs m).afterStore d id
    else s
  | .loc slot off => ((s.modBlock w.core slot (fun b => { b with mem := Memory.writeMasked b.mem off bs })).putMark m true).2

/-- The scope at which an access to a place acts: host space and peer MMIO lie outside every instance but .SYS (R72). -/
def Place.scope (p : Place) (sc : Scope) : Scope := match p with | .glob (.dev _) | .loc .. => sc | .glob _ => .sys

/-- The words of an atomic take effect: each with its own number, its lanes' events and its write. -/
def State.writeWords (s : State) (w : Who) (a : Acc) (n : Nat) (wrote : Nat → Bool) (xs : List (Nat × Place))
    (ws : List AWord) : State :=
  ws.foldl (fun s x =>
    let ls := (xs.filter (fun y => y.2 == x.place)).map (·.1)
    let (id, s) := s.fresh
    let (rels, s) := s.atomEvents w a (x.place.scope a.scope) x.marks id wrote ls ([], [], false)
    if x.wrote then s.writeWord w n id a.dom (ls.filter wrote) rels x else s) s

/-- The lanes whose words are reached now: for local memory as the requests of their bank words complete (R53). -/
def State.wordLanes (s : State) (w : Who) (xs : List (Nat × Place)) : List (Nat × Place) :=
  if xs.any (fun x => x.2.isLoc) then
    let rest := xs.filter (fun x => !w.ig.got.any (fun y => y.1 == x.1))
    let now := s.bankNow (rest.map (fun x => x.2.addr / 8)).dedup
    rest.filter (fun x => now.contains (x.2.addr / 8))
  else xs

/-- The bytes of an atomic on a word: its operand goes to the home, its old value comes back (R495). -/
def State.placeAtomic (s : State) (core : Nat) (p : Place) (n : Nat) : State :=
  match p with
  | .glob t => ((s.txTo core t n).rxHome core t n).rxCore core t n
  | .loc .. => s

/-- A home refuses a lane's word: it returns zero (R462). -/
def State.refusedWord (s : State) (c : Nat) (p : Place) : Bool := match p with | .glob t => !s.admitsTgt c t | .loc .. => false

/-- The one operation of an atomic on its words, once every check has passed. Words of one ATOM are performed in no stated order (R64); the
model performs all of them at one instant (DESIGN CHOICE, log 83). -/
def State.atomic (s : State) (w : Who) (o : AtomOp) (all : List (Nat × Place)) : Host.Outcome State Fault Refusal :=
  let n := sizeOf o.ty
  let xs := s.wordLanes w all
  let sc := fun (x : Nat × Place) => x.2.scope o.acc.scope
  let aft := xs.map (fun x => (x.1, x.2,
    s.storeAfter w x.1 o.acc.dom (sc x) (isRelease o.acc) [(x.2, n)] ++ s.loadAfter w x.1 o.acc.dom [(x.2, n)]))
  if aft.any (fun x => s.remoteIds x.2.2) then .next s
  else
    match s.drainFor w.core (fun e => aft.any (fun x =>
        atomNeeds (w.agent x.1) o.acc.dom (sc (x.1, x.2.1)) (isRelease o.acc) x.2.2 [(x.2.1, n)] e)) with
    | (false, s) => .next s
    | (true, s) =>
      match s.issuer with
      | none => .next s
      | some w' =>
        let (ws, s1) := s.readWords w' n (distinct (xs.map (·.2)))
        let (olds, ws) := atomLanes o.op o.ty
          (xs.map (fun x => let (b, c) := w.atomArgs x.1 o.ty o.arg; (x.1, x.2, b, c))) ws
        let wrote := fun l => olds.any (fun y => y.1 == l
          && (let (b, c) := w.atomArgs l o.ty o.arg; (atomNew o.op o.ty y.2 b c).isSome))
        let olds := olds.map (fun y => if xs.any (fun x => x.1 == y.1 && s.refusedWord w.ctx x.2) then (y.1, 0) else y)
        match s1.logWords w n ws with
        | (none, s) => .next s
        | (some s, _) =>
          let s := xs.foldl (fun s x => s.placeAtomic w.core x.2 n) s
          .next ((s.writeWords w' o.acc n wrote xs ws).bankDone w' o.h olds (all.map (·.1)) (fun got => writeVals got o.wb o.d (wide o.ty)))

/-- A lane's word lies on a page that makes its stores irrevocable, whatever the page allows (R198, R199). -/
def State.wordIrrev (s : State) (w : Who) (l a : Nat) : Bool :=
  decide (a < 2 ^ 52) && (match s.lookupLast (s.lastPage w.core w.part l) w.core w.ctx a with
    | .leaf x => s.irrevPage w.ctx x
    | _ => false)

/-- A lane's aligned word of global or host memory, not irrevocable: illegal operands, which R230 puts before the page's checks (R199, R300). -/
def State.atomAddr (s : State) (w : Who) (l : Nat) (need : Need) (rk a n : Nat) : Except Flt (List Piece) :=
  if a % n != 0 || s.wordIrrev w l a then .error { cause := 3, lane := l, addr := dw a }
  else s.laneAccess w l need rk a n

/-- The place of an aligned word's one piece. -/
def State.wordPlace (s : State) (c : Nat) (ps : List Piece) : Place :=
  match ps with
  | p :: _ => .glob (p.x.target (s.ctx c).pasid.toNat p.va)
  | [] => .glob (.dev 0)

/-- ATOM. -/
def execAtom (o : AtomOp) (s : State) : Host.Outcome State Fault Refusal :=
  s.accessAt o.h (baseReads true o.base ++ argReads o.ty o.arg) (vd o.d (wide o.ty)) (badMark atomMarks o.acc)
    (fun w _ l => [(w.gaddr l o.base (argImm o.arg), sizeOf o.ty)])
    (fun w l => s.atomAddr w l (needOf true true o.acc.dom) (rank o.acc.dom) (w.gaddr l o.base (argImm o.arg)) (sizeOf o.ty))
    fun s w _ xs => s.atomic w o (xs.map (fun x => (x.1, s.wordPlace w.ctx x.2)))

/-- ATOML. -/
def execAtoml (o : AtomOp) (s : State) : Host.Outcome State Fault Refusal :=
  s.access o.h (baseReads false o.base ++ argReads o.ty o.arg) (vd o.d (wide o.ty)) (badMark atomMarks o.acc)
    (fun w l =>
      let a := w.laddr l o.base (argImm o.arg)
      if a % sizeOf o.ty != 0 then .error { cause := 3, lane := l, addr := dw a } else w.locAccess l a (sizeOf o.ty) true)
    fun w _ xs => s.atomic w o (xs.map (fun x => (x.1, .loc w.slot x.2)))

/-- The lanes of a list by their place, places in the order of their first lane. -/
def byPlace (xs : List (Nat × Place)) : List (Place × List Nat) :=
  (distinct (xs.map (·.2))).map (fun p => (p, (xs.filter (fun x => x.2 == p)).map (·.1)))

/-- RED (R301): the contributions of the lanes that name one word are one operation, in ascending lane order, queued as a store
(R64). The words stand in the queue in the order of their first lane, of which R64 states none (DESIGN CHOICE, log 83). -/
def execRed (o : RedOp) (s : State) : Host.Outcome State Fault Refusal :=
  s.accessAt o.h (baseReads true o.base ++ vr o.ty o.data) [] (badMark storeMarks o.acc)
    (fun w _ l => [(w.gaddr l o.base o.imm, sizeOf o.ty)])
    (fun w l => s.atomAddr w l (needOf false true o.acc.dom) (rank o.acc.dom) (w.gaddr l o.base o.imm) (sizeOf o.ty))
    fun s w _ xs =>
      let batch := s.nextId
      let s := (byPlace (xs.map (fun x => (x.1, s.wordPlace w.ctx x.2)))).foldl (fun s y =>
        s.enqueue w batch y.2 o.acc (y.1.scope o.acc.scope) y.1 (.red o.op o.ty (y.2.map (fun l => w.src l (wide o.ty) o.data))) false) s
      .next (s.skip w o.h.k)

end Sys2Proof.Machine
end

