-- ==== Sys2Proof/Machine/Barrier.lean ====
section
/-! DEFINITION. Barrier words (R305 to R311) and the block barrier (R312 to R314). -/

namespace Sys2Proof.Machine

/-! ## Barrier words (R306, R307) -/

/-- PHASE, FAULT, RPH, TARGET and COUNT of a barrier word. -/
def bwPhase (x : Nat) : Bool := bitAt x 63
def bwFault (x : Nat) : Bool := bitAt x 62
def bwRph (x : Nat) : Bool := bitAt x 60
def bwTarget (x : Nat) : Nat := field x 30 30
def bwCount (x : Nat) : Nat := field x 0 30

/-- A barrier word of its fields. -/
def bwMake (phase fault rph : Bool) (target count : Nat) : Nat :=
  (if phase then 2 ^ 63 else 0) + (if fault then 2 ^ 62 else 0) + (if rph then 2 ^ 60 else 0) + target * 2 ^ 30 + count

/-- An arrival of n (R307): the word after it, and whether the phase flipped. RPH stands in a serai slot's word and is
written as zero in any other. -/
def arrive (slot : Bool) (x n : Nat) : Nat × Bool :=
  let count := min (bwCount x + n) (2 ^ 30 - 1)
  let flip := decide (bwTarget x ≤ count)
  (bwMake (bwPhase x != flip) (bwFault x) (slot && bwRph x) (bwTarget x) (if flip then count - bwTarget x else count), flip)

/-- An arrival of n at the barrier word at an offset of a block: the word after it, and whether the phase flipped. A serai slot
whose FAULT is set refuses it (R169, R307); R169's other refusals are those of a sender's packets, and are not made here (DESIGN CHOICE,
log 105). -/
def Block.arriveWord (b : Block) (off n : Nat) : Nat × Bool :=
  let x := b.word64 off
  let slot := (b.slotWord off).isSome
  if slot && bwFault x then (x, false) else arrive slot x n

/-- Credit n to the barrier word at an offset of a block (R129, R158). -/
def Block.credit (b : Block) (off n : Nat) : Block := b.putWord64 off (b.arriveWord off n).1

/-- Set the fault bit of the barrier word at an offset (R139, R171). -/
def Block.faultWord (b : Block) (off : Nat) : Block :=
  let x := b.word64 off
  b.putWord64 off (if bwFault x then x else x + 2 ^ 62)

/-- The check of a lane's barrier word: alignment, then the allocation; a serai's control area is open (R305). -/
def Who.barAccess (w : Who) (l off : Nat) : Except Flt Nat :=
  if off % 8 != 0 then .error { cause := 3, lane := l, addr := dw off } else w.locAccess l off 8 false

/-- BARINIT (R308): a store of a fresh word; the target must be 1 to 2^30 - 1. -/
def execBarinit (o : BarinitOp) (s : State) : Host.Outcome State Fault Refusal :=
  s.access o.h (baseReads false o.base ++ vr32 o.data) [] (badMark storeMarks o.acc)
    (fun w l =>
      let t := (w.src l false o.data).toNat
      if t = 0 || 2 ^ 30 ≤ t then .error { cause := 3, lane := l } else w.barAccess l (w.laddr l o.base o.imm))
    fun w _ xs =>
      let batch := s.nextId
      let s := xs.foldl (fun s x =>
        s.enqueue w batch [x.1] o.acc o.acc.scope (.loc w.slot x.2)
          (.bytes (whole (leBytes 8 (bwMake false false false (w.src x.1 false o.data).toNat 0)))) false) s
      .next (s.skip w o.h.k)

/-- The arrivals of a BARARRIVE in ascending lane order: statuses and the block after them (R309). -/
def arrivals (w : Who) (o : BarOp) : List (Nat × Nat) → Block → List (Nat × Dword) × Block
  | [], b => ([], b)
  | (l, off) :: t, b =>
    let x := b.word64 off
    let n := (w.src l false o.data).toNat
    let (y, flip) := if n = 0 then (x, false) else b.arriveWord off n
    let st := dw ((if bwPhase x then 1 else 0) + (if bwFault x then 2 else 0) + (if flip then 4 else 0))
    let (r, b) := arrivals w o t (b.putWord64 off y)
    ((l, st) :: r, b)

/-- The events of a BARARRIVE: one atomic for each word, whose write part is that of the lanes with a count (R309); the
arrivals of a phase form a chain of atomics. -/
def State.arriveEvents (s : State) (w : Who) (o : BarOp) (xs : List (Nat × Nat)) : State :=
  (xs.map (·.2)).dedup.foldl (fun s off =>
    let ls := (xs.filter (fun x => x.2 == off)).map (·.1)
    let wrote := fun l => (w.src l false o.data).toNat != 0
    let (id, s) := s.fresh
    let (rels, s) := s.atomEvents w o.acc o.acc.scope (s.marksAt w.core (.loc w.slot off) 8) id wrote ls ([], [], false)
    let ls := ls.filter wrote
    if ls.isEmpty then s
    else (s.putMark { place := .loc w.slot off, core := w.core, len := 8, id := id, rels := rels, els := w.elsOf ls o.acc.dom } true).2) s

/-- BARARRIVE. -/
def execBararrive (o : BarOp) (s : State) : Host.Outcome State Fault Refusal :=
  s.access o.h (baseReads false o.base ++ vr32 o.data) (vd o.d false) (badMark storeMarks o.acc)
    (fun w l => w.barAccess l (w.laddr l o.base o.imm))
    fun w _ xs =>
      let aft := xs.map (fun x => (x.1, x.2, s.storeAfter w x.1 o.acc.dom o.acc.scope (isRelease o.acc) [(.loc w.slot x.2, 8)]))
      if aft.any (fun x => s.remoteIds x.2.2) then .next s
      else
        match s.drainFor w.core (fun e => aft.any (fun x =>
            atomNeeds (w.agent x.1) o.acc.dom o.acc.scope (isRelease o.acc) x.2.2 [(.loc w.slot x.2.1, 8)] e)) with
        | (false, s) => .next s
        | (true, s) =>
          match s.block w.core w.slot with
          | none => .next s
          | some b =>
            let (sts, b) := arrivals w o xs b
            .next (((s.setBlock w.core w.slot b).arriveEvents w o xs).finish w o.h.k (writeVals sts o.wb o.d false))

/-- What a lane of BARWAIT or BARTEST waits on. -/
def barLanes (w : Who) (o : BarOp) (xs : List (Nat × Nat)) : List BarLane :=
  xs.map (fun x => ⟨x.1, x.2, (w.src x.1 false o.data).getLsbD 0⟩)

/-- The word that a lane's thread reads. -/
def State.barRead (s : State) (core slot : Nat) (me : Agent) (off : Nat) : Nat := leNat (s.readLoc core slot me off 8)

/-- A word has flipped past a phase token, or has failed (R310). -/
def barDone (x : Nat) (phase : Bool) : Bool := bwPhase x != phase || bwFault x

/-- Observing a flip orders every byte that the word counted before the thread's later events (R161). -/
def State.observeFlip (s : State) (w : Who) : State :=
  s.applyAll w.core (fun a => !a.here || (s.inScope .blk (w.agent 0) a && 64 ≤ a.lane))

/-- Every lane's condition holds. -/
def State.barReady (s : State) (core slot : Nat) (me : Nat → Agent) (ls : List BarLane) : Bool :=
  ls.all (fun x => barDone (s.barRead core slot (me x.lane) x.off) x.phase)

/-- Lanes have read their words (R310, R311). -/
def State.barEvents (s : State) (w : Who) (o : BarOp) (ls : List BarLane) : State :=
  ls.foldl (fun s x => s.afterRead w o.acc x.lane o.acc.scope (s.locMarks w.core w.slot (w.agent x.lane) x.off 8)) s

/-- BARWAIT passes: each lane reads its word and receives its status. -/
def State.barPass (s : State) (w : Who) (o : BarOp) (ls : List BarLane) : State :=
  let sts := ls.map (fun x =>
    let v := s.barRead w.core w.slot (w.agent x.lane) x.off
    (x.lane, dw ((if bwPhase v then 1 else 0) + (if bwFault v then 2 else 0))))
  let s := (s.barEvents w o ls).observeFlip w
  s.finish w o.h.k (writeVals sts o.wb o.d false)

/-- The issue group begins to wait: a scheduling point (R28). -/
def State.waitOn (s : State) (w : Who) (x : Wait) : State :=
  (s.modGroup w.core w.slot w.grp (fun g => g.modIg w.ig.id (fun ig => { ig with wait := x }))).schedule w

/-- BARWAIT (R310). -/
def execBarwait (o : BarOp) (s : State) : Host.Outcome State Fault Refusal :=
  s.access o.h (baseReads false o.base ++ vr32 o.data) (vd o.d false) (badMark loadMarks o.acc)
    (fun w l => w.barAccess l (w.laddr l o.base o.imm))
    fun w _ xs =>
      match s.beforeLoads w o.acc (xs.map (fun x => (x.1, [(.loc w.slot x.2, 8)]))) with
      | (none, s) => .next s
      | (some s, _) =>
        let ls := barLanes w o xs
        if s.barReady w.core w.slot w.agent ls then .next (s.barPass w o ls) else .next (s.waitOn w (.bar ls o))

/-- BARTEST (R311). -/
def execBartest (o : BarOp) (s : State) : Host.Outcome State Fault Refusal :=
  s.access o.h (baseReads false o.base ++ vr32 o.data) (vd o.d false) (badMark loadMarks o.acc)
    (fun w l => w.barAccess l (w.laddr l o.base o.imm))
    fun w _ xs =>
      match s.beforeLoads w o.acc (xs.map (fun x => (x.1, [(.loc w.slot x.2, 8)]))) with
      | (none, s) => .next s
      | (some s, _) =>
        let sts := (barLanes w o xs).map (fun x =>
          let v := s.barRead w.core w.slot (w.agent x.lane) x.off
          (x.lane, dw ((if bwPhase v then 1 else 0) + (if bwFault v then 2 else 0) + (if barDone v x.phase then 4 else 0))))
        let s := s.barEvents w o (barLanes w o xs)
        let s := if isAcquire o.acc && sts.any (fun x => bitAt x.2.toNat 2) then s.observeFlip w else s
        .next (s.finish w o.h.k (writeVals sts o.wb o.d false))

/-! ## The block barrier (R312) -/

/-- Thread number of a lane of a group. -/
def threadNo (grp lane : Nat) : Nat := grp * 32 + lane

/-- Every present, non-exited thread of the block has arrived. -/
def Block.phaseDone (b : Block) : Bool :=
  b.groups.all (fun g => (lanesOf g.liveMask).all (fun l => b.barrier.any (fun a => a.thread == threadNo g.idx l)))

/-- A domain's narrowest scope among the arrivals that name it. -/
def syncScope (as : List Arrival) (d : Dom) : Scope :=
  (as.filter (fun a => a.dom == d)).foldl (fun sc a => narrower sc a.scope) .sys

/-- The agent of an arrival's thread. -/
def Block.arriver (b : Block) (core slot : Nat) (a : Arrival) : Agent := ⟨core, slot, b.gen, a.thread / 32, a.thread % 32, b.ctx⟩

/-- What the phase puts before the later events of domain d of the threads that named it: the pending stores of those threads,
remote ones included, and all of their past (R312). -/
def State.syncBefore (s : State) (core slot : Nat) (b : Block) (d : Dom) : List Before :=
  let sc := syncScope b.barrier d
  (b.barrier.filter (fun a => a.dom == d)).flatMap (fun a =>
    let me := b.arriver core slot a
    let g := b.group (a.thread / 32)
    let pending := ((s.pendingStores core).filter (fun (e : Store) => e.of me && e.dom == d)).map (·.id)
      ++ g.remotePending (a.thread % 32) d
    let past := ((g.thread (a.thread % 32)).past.filter (fun p => p.dom == d)).map (·.b)
    pending.map (fun i => ({ id := i, via := [(me, sc)] } : Before))
      ++ past.map (fun (b : Before) => { b.step me sc .sync with causal := false }))

/-- The phase completes: the order of R312 is laid on every arriving thread, and every issue group held at BLKSYNC moves
past it. -/
def State.syncRelease (s : State) (core slot : Nat) (b : Block) : State :=
  let ids := allDoms.map (fun d => (d, s.syncBefore core slot b d))
  let named := fun t d => b.barrier.any (fun a => a.thread == t && a.dom == d)
  let s := allDoms.foldl (fun s d =>
    b.barrier.foldl (fun s a => if a.dom == d then s.acquire (b.arriver core slot a) d (syncScope b.barrier d) else s) s) s
  let (n, s) := s.fresh
  s.modBlock core slot (fun b => { b with
    barrier := []
    groups := b.groups.map (fun g => { g with
      threads := g.threads.mapIdx (fun l t =>
        let new := ids.flatMap (fun x => if named (threadNo g.idx l) x.1 then x.2.map (fun i => (x.1, i)) else [])
        { t with ahead := unite t.ahead new })
      igs := g.igs.map (fun ig =>
        match ig.wait with
        | .sync _ => { ig.advance with wait := .none, since := n }
        | _ => ig) }) })

/-- Complete the phase of a block where every thread has arrived; a block in which nobody waits has none to complete. -/
def State.trySync (s : State) (core slot : Nat) : State :=
  match s.block core slot with
  | none => s
  | some b => if !b.barrier.isEmpty && b.phaseDone then s.syncRelease core slot b else s

/-- BLKSYNC (R312): a scope of .GRP is an illegal operand; the arrival that completes the phase passes at once. -/
def execBlksync (o : BlksyncOp) (s : State) : Host.Outcome State Fault Refusal :=
  s.access o.h [] [] (o.acc.ord != .none || o.acc.scope == .grp) (fun _ l => .ok l)
    fun w m xs =>
      if m = 0 then .next (s.skip w o.h.k)
      else
        let new := xs.map (fun x => (⟨threadNo w.grp x.1, o.acc.dom, o.acc.scope⟩ : Arrival))
        let s1 := s.modBlock w.core w.slot (fun b => { b with barrier := b.barrier ++ new })
        match s1.block w.core w.slot with
        | none => .next s
        | some b =>
          if b.phaseDone then .next ((s1.trySync w.core w.slot).skip w o.h.k)
          else .next (s1.waitOn w (.sync o.wm))

end Sys2Proof.Machine
end

