-- ==== Sys2Proof/Machine/Allot.lean ====
section
/-! DEFINITION. Register allotments: GROW, SHRINK and the grant of a held GROW (R35 to R38, R351). -/

namespace Sys2Proof.Machine

/-- Granules of one partition (R3). -/
def partGranules : Nat := 128

/-- A group that occupies its partition. -/
def Group.here (g : Group) : Bool := g.place == .resident || g.place.stops

/-- Granules owned by the groups of a partition. -/
def State.partUsed (s : State) (core part : Nat) : Nat :=
  sumOf (fun x => sumOf (fun g => if g.part = part ∧ g.here then g.allot else 0) x.2.groups) (s.core core).slots

/-- Lanes of a group held at waits that satisfy `p`. -/
def Group.heldAt (g : Group) (p : Wait → Bool) : LaneMask :=
  g.igs.foldl (fun m ig => if p ig.wait then m ||| ig.mask else m) 0

/-- Every present, non-exited thread of the group is held at a wait that satisfies `p` (R38). -/
def Group.allAt (g : Group) (p : Wait → Bool) : Bool := g.liveMask &&& ~~~(g.heldAt p) == 0

/-- The waits at which the threads of a group gather: GROW, SHRINK and WAYMARK (R38, R184). -/
def Wait.gathers : Wait → Bool
  | .grow .. => true
  | .way .. => true
  | _ => false

/-- Two gathering waits ask for the same. -/
def Wait.agrees : Wait → Wait → Bool
  | .grow a n, .grow b m => a == b && n == m
  | .way _ v _, .way _ u _ => v == u
  | _, _ => false

/-- The issue groups of a group at waits that satisfy `p` move past their slot. -/
def Group.passAll (g : Group) (p : Wait → Bool) (since : Nat) : Group :=
  { g with igs := g.igs.map (fun ig => if p ig.wait then { ig.advance with wait := .none, since := since } else ig) }

/-- SHRINK: the granules go back, and the registers' contents are lost (R37, log 3). -/
def Group.shrink (g : Group) (n free : Nat) : Group :=
  let lo := 8 * (g.allot - n)
  let regs := (List.range (8 * n)).map (fun i => lo + i)
  let v := regs.foldl (fun v r => lanes.foldl (fun v l =>
    KMap.put v (r * 32 + l) (Config.freeWord (free + (r - lo) * 32 + l))) v) g.v
  { g with allot := g.allot - n, v := v }

/-- GROW: the new registers read as zero (R36). -/
def Group.grow (g : Group) (n : Nat) : Group :=
  let lo := 8 * g.allot
  { g with allot := g.allot + n, v := g.v.filter (fun p => decide (p.1 < lo * 32)) }

/-- Apply the GROW or SHRINK that every thread of the group has reached, where the pool allows it. -/
def State.tryResize (s : State) (core slot grp : Nat) : State :=
  match s.block core slot with
  | none => s
  | some b =>
    let g := b.group grp
    match g.igs.findSome? (fun ig => match ig.wait with | .grow up n => some (up, n) | _ => none) with
    | none => s
    | some (up, n) =>
      let at_ := fun w => w == Wait.grow up n
      if !g.allAt at_ then s
      else
        let (k, s) := s.fresh
        if up then
          if s.partUsed core g.part + n ≤ partGranules then
            s.modGroup core slot grp (fun g => (g.grow n).passAll at_ k)
          else s
        else
          let s := { s with freeCtr := s.freeCtr + 256 * n }
          s.modGroup core slot grp (fun g => (g.shrink n (s.freeCtr - 256 * n)).passAll at_ k)

/-- The group's request is a GROW that every thread has reached: the last time that one of them joined it. -/
def Group.growHeld (g : Group) : Option Nat :=
  match g.igs.findSome? (fun ig => match ig.wait with | .grow true n => some n | _ => none) with
  | some n => if g.allAt (· == .grow true n) then some (g.igs.foldl (fun m ig => max m ig.since) 0) else none
  | none => none

/-- The groups of a partition: slot, group. -/
def State.partGroups (s : State) (core part : Nat) : List (Nat × Group) :=
  (s.core core).slots.flatMap (fun x => (x.2.groups.filter (fun g => g.part == part && g.here)).map (fun g => (x.1, g)))

/-- The granules that a group's held GROW asks for. -/
def Group.growAsks (g : Group) : Option Nat :=
  g.igs.findSome? (fun ig => match ig.wait with | .grow true n => some n | _ => none)

/-- The pool of a partition can grant what a group holds for. -/
def State.canGrant (s : State) (core part : Nat) (g : Group) : Bool :=
  g.growHeld.isSome && (match g.growAsks with | some n => decide (s.partUsed core part + n ≤ partGranules) | none => false)

/-- Where every resident group of a partition is held in GROW, and none can be granted, the one that entered last takes the
watchdog trap (R36). A group that has exited is resident until it is released. -/
def State.growStuck (s : State) (core part : Nat) : State :=
  let gs := s.partGroups core part
  let held := gs.filterMap (fun x => x.2.growHeld.map (fun t => (t, x.1, x.2)))
  if gs.isEmpty || held.length != gs.length || gs.any (fun x => s.canGrant core part x.2) then s
  else
    match held.find? (fun x => held.all (fun y => decide (y.1 ≤ x.1))) with
    | none => s
    | some (_, slot, g) =>
      match g.igs.find? (fun ig => ig.wait.gathers) with
      | none => s
      | some ig =>
        match s.whoOf core slot g.idx ig.id with
        | none => s
        | some w => s.takeTrap w (s.record w w.live { cause := 15, lane := lowest w.live }) 0

/-- What leaves the partitions of a core may leave only held groups behind (R36). -/
def State.allStuck (s : State) (core : Nat) : State := [0, 1, 2, 3].foldl (fun s p => s.growStuck core p) s

/-- The same over the cores of the package. -/
def State.everyStuck (s : State) : State := s.cores.foldl (fun s k => s.allStuck k.1) s

/-- The threads of a group that are held at a request which the issuing one contradicts join its fault (R38): cause 3,
LANE the lowest of them all. R38 says no more of the record: its PC, IWORD and SLOTCTL are those of the request that arrives, wherever the
thread of LANE is held; the model's choice (log 60). -/
def State.clash (s : State) (w : Who) : State :=
  let others := w.g.igs.filter (fun ig => ig.id != w.ig.id && ig.wait.gathers)
  let m := others.foldl (fun m ig => m ||| ig.mask) w.ig.mask
  let s := s.modGroup w.core w.slot w.grp (fun g =>
    { g with igs := (g.igs.filter (fun ig => !others.any (fun o => o.id == ig.id))).map (fun ig =>
        if ig.id = w.ig.id then { ig with mask := m } else ig) })
  match s.whoOf w.core w.slot w.grp w.ig.id with
  | none => s
  | some w => s.takeTrap w (s.record w w.live { cause := 3, lane := lowest w.live }) 0

/-- Threads of the group are held at a request that an issue group's contradicts (R38). -/
def Group.clashes (g : Group) (ig : IGroup) (x : Wait) : Bool :=
  g.igs.any (fun y => y.id != ig.id && y.wait.gathers && !y.wait.agrees x)

/-- The issue group waits with the rest of its group at a request; a request that another contradicts faults. -/
def State.gatherAt (s : State) (w : Who) (x : Wait) (go : State → State) : State :=
  if w.g.clashes w.ig x then s.clash w
  else go (s.modGroup w.core w.slot w.grp (fun g => g.modIg w.ig.id (fun ig => { ig with wait := x })))

/-- An issue group that still waits has met a scheduling point (R28); one that passed heeds its YIELD, and one that switches is counted
(R384, R393). -/
def State.holdPoint (s : State) (w : Who) (k : Ctl) : State :=
  match s.whoOf w.core w.slot w.grp w.ig.id with
  | none => s
  | some w' =>
    if w'.ig.wait != .none then s.schedule w'
    else if k.yield && s.switch && s.otherRunnable w then s.yieldNow w' else s

/-- GROW and SHRINK of n granules. -/
def State.resize (s : State) (k : Ctl) (up : Bool) (n : Nat) : Host.Outcome State Fault Refusal :=
  s.withIssuer fun w =>
    if w.ig.handler then s.raise w w.live { cause := 1, lane := lowest w.live }
    else if w.g.clashes w.ig (.grow up n) then .next (s.clash w)
    else if (up && decide (32 < w.g.allot + n)) || (!up && decide (w.g.allot < n + 1)) then
      s.raise w w.live { cause := 3, lane := lowest w.live }
    else
      .next (s.gatherAt w (.grow up n) fun s =>
        ((s.tryResize w.core w.slot w.grp).holdPoint w k).growStuck w.core w.part)

/-- GROW. -/
def execGrow (k : Ctl) (n : BitVec 5) (s : State) : Host.Outcome State Fault Refusal := s.resize k true n.toNat

/-- SHRINK. -/
def execShrink (k : Ctl) (n : BitVec 5) (s : State) : Host.Outcome State Fault Refusal := s.resize k false n.toNat

/-- GROW_GRANT: the partition grants the held GROW that waited longest among those it can grant; where all its groups are held and it can
grant none, it raises the watchdog trap (R36). -/
def execGrowGrant (core part : Nat) (s : State) : Host.Outcome State Fault Refusal :=
  let can := (s.partGroups core part).filterMap (fun x =>
    if s.canGrant core part x.2 then x.2.growHeld.map (fun t => (t, x.1, x.2.idx)) else none)
  match can.find? (fun x => can.all (fun y => decide (x.1 ≤ y.1))) with
  | some (_, slot, grp) => .next (s.tryResize core slot grp)
  | none => .next (s.growStuck core part)

end Sys2Proof.Machine
end

