-- ==== Sys2Proof/Machine/Attest.lean ====
section
/-! DEFINITION. What the package says of itself: the enumeration table and attestation reports (R422 to R425, R428, R430, R431). -/

namespace Sys2Proof.Machine

/-! ## The enumeration table (R422 to R425) -/

/-- A row: kind, base die, compute die, cluster, core, unit, logical number, live, retired, attribute. -/
structure EnumRow where
  kind : Nat
  base : Nat
  cdie : Nat := 0
  clu : Nat := 0
  core : Nat := 0
  unit : Nat := 0
  logical : Nat
  live : Bool := true
  retired : Bool := false
  attr : Nat

/-- The 16 bytes of a row. -/
def EnumRow.bytes (r : EnumRow) : List Byte :=
  leBytes 16 (at' 64 32 r.attr + at' 32 16 r.logical + at' 26 6 r.unit + at' 24 2 r.core + at' 21 3 r.clu + at' 19 2 r.cdie
    + at' 16 3 r.base + (if r.retired then 512 else 0) + (if r.live then 256 else 0) + at' 0 8 r.kind)

/-- Live cores of a compute die. -/
def Sys.dieCores (y : Sys) (d : Nat) : Nat := y.liveCores.countP (fun p => p / 24 == d)

/-- The row of a physical core. -/
def Sys.coreRow (y : Sys) (p : Nat) : EnumRow :=
  let n := findIdx (· == p) y.liveCores
  { kind := 3, base := p / 96, cdie := p / 24 % 4, clu := p / 4 % 6, core := p % 4, logical := n.getD 0xFFFF, live := n.isSome
    retired := match n with | some k => y.retired.contains k | none => false
    attr := 1 }

/-- The pairs of base dies that UCIe links join, by the lower die. -/
def basePairs : List (Nat × Nat) :=
  (List.range 8).flatMap (fun a => ((List.range 8).filter (fun b => decide (a < b))).map (fun b => (a, b)))

/-- The rows of the table, by kind and physical position. -/
def Sys.enumRows (y : Sys) : List EnumRow :=
  (List.range 8).map (fun i => { kind := 1, base := i, logical := i, attr := 1 })
    ++ (List.range 32).map (fun i => { kind := 2, base := i / 4, cdie := i % 4, logical := i, attr := y.dieCores i })
    ++ (List.range 768).map y.coreRow
    ++ (List.range 256).map (fun i => { kind := 4, base := i / 32, unit := i % 32, logical := i, attr := 8192 })
    ++ (List.range 32).map (fun i => { kind := 5, base := i / 4, unit := i % 4, logical := i, attr := y.stackGib })
    ++ basePairs.zipIdx.map (fun x => { kind := 6, base := x.1.1, unit := x.1.2 - x.1.1 - 1, logical := x.2, attr := x.1.2 })
    ++ (List.range 32).map (fun i => { kind := 7, base := i / 4, cdie := i % 4, logical := i, attr := 4000 })
    ++ (List.range 16).map (fun i => { kind := 8, base := i / 2, unit := i % 2, logical := i, attr := 224 })

/-- The enumeration table: header and rows. -/
def Sys.enumTable (y : Sys) : List Byte :=
  let rows := y.enumRows
  leBytes 64 (at' 96 12 y.pkg.toNat + at' 88 8 y.stackGib + at' 80 8 y.grade + at' 64 16 y.liveCount + at' 40 16 rows.length
    + at' 32 8 1 + 0x4D554E45) ++ rows.flatMap EnumRow.bytes

/-! ## Attestation reports (R428, R430, R431) -/

/-- The image slot that runs. -/
def Sys.running (y : Sys) : ImgSlot := if y.slotB then y.imgB else y.imgA

/-- Exactly n bytes. -/
def fitBytes (n : Nat) (l : List Byte) : List Byte := (l ++ List.replicate n 0).take n

/-- The configuration block that a report digests (log 11). -/
def Sys.configBlock (y : Sys) : List Byte :=
  leBytes 1 y.grade ++ leBytes 1 y.stackGib ++ [if y.debug then 1 else 0, if y.encreq then 1 else 0]

/-- The signed part of a report. -/
def Sys.reportBody (y : Sys) (nonce : List Byte) : List Byte :=
  leBytes 4 0x4A374154 ++ [1] ++ leBytes 1 y.fwsvn ++ leBytes 1 y.fuseSvn ++ leBytes 1 y.grade ++ leBytes 2 y.liveCount
    ++ leBytes 1 ((if y.debug then 1 else 0) + (if y.slotB then 2 else 0)) ++ leBytes 5 0
    ++ fitBytes 64 nonce ++ fitBytes 64 (Config.sha512 y.running.image) ++ fitBytes 64 (Config.sha512 y.configBlock)
    ++ fitBytes 64 (Config.sha512 y.enumTable) ++ fitBytes 32 Config.identityKey ++ leBytes 16 0

/-- An attestation report. -/
def Sys.attestation (y : Sys) (nonce : List Byte) : List Byte :=
  let b := y.reportBody nonce
  b ++ fitBytes 64 (Config.signIdentity b)

/-- The requests over I3C that waited behind a mailbox command are answered in their order (R431). -/
def Sys.serveAttests (y : Sys) : Sys :=
  if y.attestWait.isEmpty then y else { y with i3c := y.attestWait.flatMap y.attestation, attestWait := [] }

end Sys2Proof.Machine
end

