-- ==== Sys2Proof/Machine/Control.lean ====
section
/-! DEFINITION. Major 0x00: segment terminators and control (R26, R27, R237 to R246), and the words that are no
instruction (R230, R231). -/

namespace Sys2Proof.Machine

/-! ## Terminators (R238) -/

/-- The lanes and successors of an issue group, as issue groups of the threads that name the same one (R29). Segment numbers whose table
entries give one entry bundle are the same successor, which R29 does not say (DESIGN CHOICE, log 84). Threads that reach a segment at another
scheduling point may join them or not, and here never do (R29; DESIGN CHOICE, log 98). -/
def successorGroups (g : Group) (old : IGroup) (since id : Nat) : List (Nat × Option Dword) → List IGroup → List IGroup
  | [], gs => gs
  | (_, none) :: t, gs => successorGroups g old since id t gs
  | (l, some a) :: t, gs =>
    let bit := (1 : BitVec 32) <<< l
    let gs' := if gs.any (fun x => x.pc == a + 8) then gs.map (fun x => if x.pc == a + 8 then { x with mask := x.mask ||| bit } else x)
      else gs ++ [{ id := id + gs.length, mask := bit, pc := a + 8, since := since, allot := g.allot, handler := old.handler }]
    successorGroups g old since id t gs'

/-- The lanes that leave the handler by exiting. -/
def dropLanes (t : Option TrapCtx) (m : LaneMask) : Option TrapCtx :=
  t.bind fun t => if t.lanes &&& ~~~m == 0 then none else some { t with lanes := t.lanes &&& ~~~m }

/-- The threads of an issue group go to their successors or exit; `st` changes each thread that acts. -/
def Group.depart (g : Group) (ig : IGroup) (xs : List (Nat × Option Dword)) (st : Thread → Thread) (since : Nat) : Group :=
  let gone := maskOf (fun l => xs.any (fun x => x.1 == l && x.2.isNone))
  let g := xs.foldl (fun g x => g.modThread x.1 (fun t =>
    let t := st t
    if x.2.isNone then { t with exited := true, stack := [] } else t)) (g.loseLatches ig.mask)
  { g with
    igs := g.igs.filter (fun x => x.id != ig.id) ++ successorGroups g ig since (since + 1) xs []
    trap := if ig.handler then dropLanes g.trap gone else g.trap }

/-- A terminator: each live thread's successor, or its fault; then all of them go (R238). A scheduling point. -/
def State.terminate (s : State) (go : Who → Nat → Except Nat (Option Nat)) (st : Thread → Thread) :
    Host.Outcome State Fault Refusal :=
  s.withIssuer fun w =>
    let choose := fun l => match go w l with
      | .error c => .error ({ cause := c, lane := l } : Flt)
      | .ok none => .ok none
      | .ok (some n) =>
        match s.segEntry w.core w.ctx w.kern n with
        | some a => .ok (some a)
        | none => .error { cause := 5, lane := l }
    match gather (lanesOf w.live) choose with
    | .error e => s.raise w w.live e
    | .ok xs =>
      let n := s.nextId
      let s := { s with nextId := s.nextId + 33 }
      let s := (s.modGroup w.core w.slot w.grp (fun g => g.depart w.ig xs st n)).clearCur w
      .next (((s.trySync w.core w.slot).tryResize w.core w.slot w.grp).growStuck w.core w.part)

/-- NEXT. -/
def execNextSeg (_ : Ctl) (seg : BitVec 8) (s : State) : Host.Outcome State Fault Refusal :=
  s.terminate (fun _ _ => .ok (some seg.toNat)) id

/-- NEXTP: each thread by its own predicate. -/
def execNextp (_ : Ctl) (p : BitVec 3) (t f : BitVec 8) (s : State) : Host.Outcome State Fault Refusal :=
  s.terminate (fun w l => .ok (some (if (w.g.thread l).pred p then t.toNat else f.toNat))) id

/-- NEXTX. -/
def execNextx (_ : Ctl) (n : BitVec 6) (imm : BitVec 8) (s : State) : Host.Outcome State Fault Refusal :=
  s.terminate (fun w _ => .ok (some (w.s32 n + imm.toNat))) id

/-- CALL: cont is pushed; the seventeenth level is an illegal operand (R239). -/
def execCall (_ : Ctl) (callee cont : BitVec 8) (s : State) : Host.Outcome State Fault Refusal :=
  s.terminate
    (fun w l => if (w.g.thread l).stack.length = 16 then .error 3 else .ok (some callee.toNat))
    (fun t => { t with stack := BitVec.setWidth 12 cont :: t.stack })

/-- RET: the popped continuation plus the immediate; an empty stack is an illegal target (R239). -/
def execRet (_ : Ctl) (imm : BitVec 8) (s : State) : Host.Outcome State Fault Refusal :=
  s.terminate
    (fun w l => match (w.g.thread l).stack with
      | [] => .error 5
      | c :: _ => .ok (some (c.toNat + imm.toNat)))
    (fun t => { t with stack := t.stack.drop 1 })

/-- EXIT (R240). -/
def execExit (_ : Ctl) (s : State) : Host.Outcome State Fault Refusal :=
  s.terminate (fun _ _ => .ok none) id

/-! ## NOP, WAIT (R241 to R243) -/

/-- NOP. -/
def execNop (k : Ctl) (s : State) : Host.Outcome State Fault Refusal := s.uniform k (fun _ g => g)

/-- Some result of a token of the mask is not written yet. -/
def Group.tokPending (g : Group) (mask : BitVec 8) : Bool :=
  g.results.any (fun r => match r.tok with | some t => mask.getLsbD t.toNat | none => false)

/-- A negative reply is delivered to an issue group that holds threads whose lanes were refused, or to any where those have all exited
(R164, R399, log 26). -/
def Group.negFor (g : Group) (ig : IGroup) (n : NegReply) : Bool :=
  n.refused &&& ig.mask != 0 || n.refused &&& g.liveMask == 0

/-- A negative reply that a wait on the mask delivers to an issue group (R164). -/
def Group.negAt (g : Group) (ig : IGroup) (mask : BitVec 8) : Option NegReply :=
  g.negs.find? (fun n => g.negFor ig n && (match n.tok with | some t => mask.getLsbD t.toNat | none => false))

/-- The threads of a mask leave issue group `id` for one of their own, at the same place. -/
def Group.split (g : Group) (id new : Nat) (m : LaneMask) : Group :=
  { g with igs := g.igs.flatMap (fun x =>
      if x.id = id then [{ x with mask := x.mask &&& ~~~m }, { x with id := new, mask := x.mask &&& m }] else [x]) }

/-- The trap record of a negative reply (R164), made at its issue, with LANE the lowest lane refused. A target that is irrevocable gives an
illegal operand (R199). -/
def State.negRecord (s : State) (w : Who) (n : NegReply) : TrapRec :=
  let m := n.refused &&& w.ig.mask
  { n.issue with
    cause := if n.irrev then 3 else 11
    sub := if n.irrev then 0 else n.sub
    lane := BitVec.ofNat 5 (lowest (if m == 0 then n.refused else m))
    clock := s.coreClock w.core }

/-- A reply after an issue group has taken it: gone, unless threads of another one were refused too. -/
def NegReply.after (n : NegReply) (g : Group) (m : LaneMask) : Option NegReply :=
  let left := n.refused &&& ~~~m &&& g.liveMask
  if left == 0 then none else some { n with refused := left }

/-- Deliver a negative reply to the threads of the issue group that issued the operation, where lanes of theirs were refused; its other
threads stay where they are (R164, R356, R399). -/
def State.takeNeg (s : State) (w : Who) (n : NegReply) : State :=
  let s := s.modGroup w.core w.slot w.grp (fun g => { g with negs := g.negs.filterMap (fun x =>
    if x.op = n.op then x.after g w.ig.mask else some x) })
  let m := w.ig.mask &&& n.threads
  if m == 0 || m == w.ig.mask then s.takeTrap w (s.negRecord w n) 0
  else
    let (id, s) := s.fresh
    let s := (s.modGroup w.core w.slot w.grp (fun g => g.split w.ig.id id m)).clearCur w
    match s.whoOf w.core w.slot w.grp id with
    | some x => s.takeTrap x (s.negRecord x n) 0
    | none => s

/-- WAIT.TOK: a negative reply traps, a pending token waits. -/
def execWaitTok (h : Hd) (wm : Bool) (mask : BitVec 8) (s : State) : Host.Outcome State Fault Refusal :=
  s.anyLane h fun w _ =>
    match w.g.negAt w.ig mask with
    | some n => .next (s.takeNeg w n)
    | none => .next (if w.g.tokPending mask then s.waitOn w (.tok mask wm) else s.skip w h.k)

/-- WAIT.CLK: the issue group is past the slot and waits 16 n aclk. -/
def execWaitClk (h : Hd) (wm : Bool) (n : BitVec 8) (s : State) : Host.Outcome State Fault Refusal :=
  s.anyLane h fun w _ =>
    .next ((s.modGroup w.core w.slot w.grp (fun g => g.modIg w.ig.id (fun ig =>
      { ig.advance with wait := .clk (s.clock + 16 * n.toNat) wm }))).schedule w)

/-- WAIT_CLK_EXPIRY: the count has run out; a group at a .WM wait stays where it is in a drain (R243). -/
def execWaitClkExpiry (core slot grp ig : Nat) (s : State) : Host.Outcome State Fault Refusal :=
  match s.whoOf core slot grp ig with
  | none => .next s
  | some w =>
    match w.ig.wait with
    | .clk till wm =>
      if till ≤ s.clock && !(wm && s.draining w.ctx) then
        .next (s.modGroup core slot grp (fun g => g.modIg ig (fun x => { x with wait := .none })))
      else .next s
    | _ => .next s

/-! ## TRAP, ASSERT, BKPT (R244 to R246) -/

/-- TRAP. -/
def execTrap (h : Hd) (code : BitVec 8) (s : State) : Host.Outcome State Fault Refusal :=
  s.anyLane h fun w m => s.raise w m { cause := 19, lane := lowest m, code := code }

/-- ASSERT: ADDR holds the message pointer. -/
def execAssert (h : Hd) (n : BitVec 6) (p : PSrc) (s : State) : Host.Outcome State Fault Refusal :=
  s.anyLane h fun w m =>
    match (lanesOf m).find? (fun l => !(w.g.thread l).psrc p) with
    | some l => s.raise w m { cause := 13, lane := l, addr := w.g.readS n.toNat true }
    | none => .next (s.skip w h.k)

/-- BKPT. -/
def execBkpt (h : Hd) (code : BitVec 8) (s : State) : Host.Outcome State Fault Refusal :=
  s.anyLane h fun w m =>
    if (s.ctx w.ctx).bkpten then s.raise w m { cause := 14, lane := lowest m, code := code } else .next (s.skip w h.k)

/-! ## Words that are no instruction (R230, R231) -/

/-- A fault of the encoding, made whatever the guards hold: LANES is the mask of lanes whose guard would hold. Where none does R230 names
no lane: LANE is the lowest live one (DESIGN CHOICE, log 85). -/
def State.encodingFault (s : State) (c : BitVec 20) (x : Dword) (cause : Nat) : Host.Outcome State Fault Refusal :=
  s.withIssuer fun w =>
    let r := Raw.split c x
    let m := w.active ⟨r.pneg, r.pred⟩
    s.raise w m { cause := cause, lane := lowest (if m == 0 then w.live else m) }

/-- A word of extension space, or SGSZ 6: cause 2. -/
def execExtensionWord (ctl : BitVec 20) (x : Dword) (s : State) : Host.Outcome State Fault Refusal :=
  s.encodingFault ctl x 2

/-- A word that fails row 1 or 4 of R230 takes cause 4, one that fails row 3 takes cause 1. -/
def execIllegalWord (ctl : BitVec 20) (x : Dword) (why : IllegalWhy) (s : State) : Host.Outcome State Fault Refusal :=
  s.encodingFault ctl x (match why with | .word => 1 | .bundleAtFetch => 4 | .slotControl => 4)

end Sys2Proof.Machine
end

