-- ==== Sys2Proof/Machine/Packet.lean ====
section
/-! DEFINITION. Manifest entries and the sending of packets (R152 to R156, R159, R160, R199). -/

namespace Sys2Proof.Machine

/-! ## Manifest entries (R152, R153) -/

/-- The fields of a manifest entry. -/
structure Man where
  v : Bool
  kind : Nat
  pr : Bool
  pw : Bool
  pa : Bool
  ps : Bool
  pc : Bool
  slot : Nat
  unit : Nat
  pkg : Nat
  tctx : Nat
  allow : Nat
  gen : Nat
  wsize : Nat
  wbase : Nat

/-- Read an entry. -/
def manOf (e : Entry) : Man :=
  let n := e.toNat
  { v := bitAt n 0, pr := bitAt n 1, pw := bitAt n 2, pa := bitAt n 3, ps := bitAt n 4, pc := bitAt n 5, kind := field n 6 2
    slot := field n 63 5, unit := field n 68 16, pkg := field n 84 12, tctx := field n 96 6, allow := field n 112 16
    gen := field n 128 32, wsize := field n 160 32, wbase := field n 192 52 }

/-- A core endpoint. -/
def Man.isCore (m : Man) : Bool := m.kind == 1

/-- What an operation needs of an entry. -/
inductive Right where
  | read | write | atomic | reserve | coll

/-- The entry grants a right (R153). -/
def Man.grants (m : Man) : Right → Bool
  | .read => m.pr
  | .write => m.pw && m.allow != 0
  | .atomic => m.pa
  | .reserve => m.ps
  | .coll => m.pc

/-- Step 1 of R153. -/
def State.entry (s : State) (c m : Nat) : Option Man :=
  let e := manOf (KMap.get 0 (s.ctx c).manifest m)
  if m < (s.ctx c).manlen.toNat && e.v && (e.kind == 1 || e.kind == 2) then some e else none

/-- Steps 1 and 2 of R153: the entry, or the cause. -/
def State.checkEntry (s : State) (c m : Nat) (r : Right) : Except Nat Man :=
  match s.entry c m with
  | none => .error 10
  | some e => if e.grants r then .ok e else .error 8

/-- Step 3 of R153. -/
def Man.inWindow (m : Man) (off n : Nat) : Bool := m.isCore || decide (off + n ≤ m.wsize * 65536)

/-- The entry that an endpoint names, with its convoy: none for a convoy that is not open (R159). -/
def Block.endp (b : Block) : Endp → Option (Nat × Option Nat)
  | .entry m => some (m.toNat, none)
  | .convoy c =>
    match (KMap.get {} b.convoys c.toNat).entry with
    | some m => some (m.toNat, some c.toNat)
    | none => none

/-- A package outside the context's recovery domain, when it has one (R198, R199). -/
def State.outside (s : State) (c pkg : Nat) : Bool :=
  match s.domOf c with
  | some d => !d.members.contains (BitVec.ofNat 12 pkg)
  | none => false

/-- Bytes outstanding on an entry (R154). -/
def State.sentOn (s : State) (c m : Nat) : Nat := KMap.get 0 (s.ctx c).sent m

/-- n more bytes fit the allowance, or nothing is outstanding. -/
def State.fits (s : State) (c m : Nat) (man : Man) (n : Nat) : Bool :=
  s.sentOn c m == 0 || decide (s.sentOn c m + n ≤ man.allow * 256)

/-! ## Packets -/

/-- Who sends: the issuer of a packet, its context, the agent of its accesses and the record of its issue; with the releases of
a store at its number and scope, and what fences put before it. -/
structure Sender where
  ctx : Nat
  who : Issuer
  agent : Agent
  issue : TrapRec
  rels : Nat → Scope → List Rel := fun _ _ => []
  els : List (Agent × List Before) := []

/-- The sender that lanes of an issuing group are; `act` are all whose guard holds. The record of a refusal names the lowest of its lanes
(R357). -/
def Who.sender (w : Who) (s : State) (act : LaneMask) (ls : List Nat) (a : Acc) (writes : Bool) : Sender :=
  { ctx := w.ctx
    who := { core := w.core, slot := w.slot, gen := w.b.gen, grp := w.grp, node := wd w.b.task.node
             block := wd w.b.task.lin, pc := w.ig.pc, leg := s.legOf w.ctx }
    agent := w.agent (if ls.length = 1 then ls.headD 0 else 35)
    issue := s.record w act { cause := 0, lane := ls.headD (lowest act) }
    rels := fun id sc => if writes then w.relsOf ls a sc id else []
    els := if writes then w.elsOf ls a.dom else [] }

/-- Where a packet stands among its sender's (R160, R175), and whether it is a remote acquire (R155). -/
structure Seat where
  convoy : Option Nat := none
  item : Nat := 0
  coll : Option (BitVec 32) := none
  bar : Option Nat := none
  after : List Nat := []
  acquire : Bool := false

/-- The gateway of a core: that of its base die. -/
def State.gateOf (s : State) (core : Nat) : Nat := s.sys.physCore core / 96

/-- A page of the own package that a packet reaches is in host space or peer MMIO. -/
def State.hostPage (s : State) (man : Man) (rs : List (Nat × Nat)) : Bool :=
  rs.any (fun r => match s.vPage man.tctx (man.wbase + r.1) with | some x => x.tgt != 0 | none => false)

/-- An offset of a home endpoint on this package lies on a page that makes the context's stores irrevocable (R198, R199). -/
def State.homeIrrev (s : State) (c : Nat) (man : Man) (off : Nat) : Bool :=
  man.pkg == s.sys.pkg.toNat && !man.isCore
    && (match s.vPage man.tctx (man.wbase + off) with | some x => s.irrevPage c x | none => false)

/-- The scope at which a remote access acts: the narrowest that holds its target where the one it names does not (R72). -/
def State.farScope (s : State) (x : Issuer) (man : Man) (op : PktOp) (sc : Scope) : Scope :=
  if man.pkg != s.sys.pkg.toNat then wider sc .fab
  else if !man.isCore then (if s.hostPage man (opRuns op) then .sys else wider sc .dev)
  else if s.placeNow man.unit man.slot (wd man.gen) == s.placeNow x.core x.slot x.gen then sc
  else if s.sys.clusterOf man.unit = s.sys.clusterOf x.core then wider sc .clu
  else wider sc .dev

/-- Bytes that a packet carries to its target. -/
def opOut (o : PktOp) : Nat := match o with | .load .. => 0 | _ => sumOf (fun r => r.2) (opRuns o)

/-- Bytes that its target sends back. -/
def opBack (o : PktOp) : Nat := match o with | .load .. | .atom .. => sumOf (fun r => r.2) (opRuns o) | _ => 0

/-- The parts of a run within lines of 256 bytes. -/
def lineParts (a n : Nat) : List (Nat × Nat) :=
  if n = 0 then [] else (List.range ((a + n - 1) / 256 - a / 256 + 1)).map (fun i =>
    let lo := max a (256 * (a / 256 + i))
    (lo, min (a + n) (256 * (a / 256 + i + 1)) - lo))

/-- The compute dies of the home slices that a packet to a home endpoint of this package reaches, with the bytes at each. -/
def State.homeShares (s : State) (p : Packet) : List (Nat × Nat) :=
  (opRuns p.op).flatMap (fun r => (lineParts (p.wbase + r.1) r.2).filterMap (fun q =>
    match s.vTarget p.tctx.toNat q.1 with
    | some (.dev a) => some (sliceDie a, q.2)
    | _ => none))

/-- The compute die of an endpoint of this package: its core's, or that of a home slice of the agent it names. -/
def State.endDie (s : State) (isCore : Bool) (unit : Nat) : Nat := if isCore then s.sys.dieOfCore unit else sliceDie (unit % 32 * 2 ^ 36)

/-- The bytes of a remote operation as it leaves its core, under the class of its target (R495). -/
def State.packetTx (s : State) (core : Nat) (man : Man) (o : PktOp) : State :=
  s.bumpTx core (if man.pkg != s.sys.pkg.toNat then s.farClass man.pkg
    else dieClass (s.sys.dieOfCore core) (s.endDie man.isCore man.unit)) (max (opOut o) (opBack o))

/-- Send a packet through entry m: it waits at its source for its first hop. -/
def State.send (s : State) (x : Sender) (m : Nat) (man : Man) (op : PktOp) (d : Dom) (sc : Scope) (rel : Bool)
    (payload : Nat) (seat : Seat) (cmd rop : Option Nat) : Nat × State :=
  let sc := s.farScope x.who man op sc
  let (id, s) := s.fresh
  let p : Packet := {
    id := id, op := op, dom := d, scope := sc, rel := rel
    pkg := BitVec.ofNat 12 man.pkg, tctx := BitVec.ofNat 6 man.tctx, toCore := man.isCore
    unit := BitVec.ofNat 16 man.unit, slot := BitVec.ofNat 5 man.slot, gen := wd man.gen, wbase := man.wbase
    bar := seat.bar, srcPkg := s.sys.pkg, srcCtx := BitVec.ofNat 6 x.ctx
    gate := s.gateOf x.who.core, seq := KMap.get 0 s.seqs (s.gateOf x.who.core)
    rdom := (s.ctx x.ctx).domain, leg := s.legOf x.ctx
    irrev := opWrites op && s.outside x.ctx man.pkg, convoy := seat.convoy, item := seat.item, coll := seat.coll
    after := seat.after, srcId := id, tags := [], issuer := x.who, entry := m, payload := payload }
  let f : Flight := { p := p, at_ := .source, cmd := cmd, op := rop, who := x.agent, rels := x.rels id sc, els := x.els, issue := x.issue
                      acquire := seat.acquire }
  let s := { s with flights := s.flights ++ [f], seqs := KMap.put s.seqs p.gate (p.seq + 1) }.packetTx x.who.core man op
  let s := if opWrites op then s.modCtx x.ctx (fun c => { c with sent := KMap.put c.sent m (KMap.get 0 c.sent m + payload) }) else s
  (id, s)

/-- The next item of a convoy, counted in the block (R160). -/
def State.nextItem (s : State) (core slot : Nat) (cv : Option Nat) : Nat × State :=
  match cv, s.block core slot with
  | some c, some b =>
    let v := KMap.get {} b.convoys c
    (v.items, s.setBlock core slot { b with convoys := KMap.put b.convoys c { v with items := v.items + 1 } })
  | _, _ => (0, s)

/-! ## What a packet reaches -/

/-- Where the block of a core endpoint is: on this package by the place that it has now, on another as it is named. -/
def State.endNow (s : State) (pkg unit slot gen : Nat) : Nat × Nat :=
  if pkg = s.sys.pkg.toNat then s.placeNow unit slot (wd gen) else (unit, slot)

/-- Two packets reach the same bytes of one endpoint. -/
def State.pktsMeet (s : State) (p : Packet) (pkg unit slot gen tctx : Nat) (core : Bool) (wbase : Nat) (rs : List (Nat × Nat)) : Bool :=
  p.pkg.toNat == pkg && p.toCore == core && p.tctx.toNat == tctx
    && (if core then s.endNow pkg p.unit.toNat p.slot.toNat p.gen.toNat == s.endNow pkg unit slot gen else true)
    && (opRuns p.op).any (fun a => rs.any (fun b =>
        runsMeet (a.1 + (if core then 0 else p.wbase)) a.2 (b.1 + (if core then 0 else wbase)) b.2))

/-- A thread's earlier packets that reach the same bytes (program order on one location). -/
def State.samePlace (s : State) (w : Who) (lane : Nat) (man : Man) (rs : List (Nat × Nat)) : List Nat :=
  (s.flights.filter (fun f => f.pending
      && w.g.ops.any (fun o => o.pkts.any (fun p => p.1 == f.p.id && p.2.getLsbD lane))
      && s.pktsMeet f.p man.pkg man.unit man.slot man.gen man.tctx man.isCore man.wbase rs)).map (·.p.id)

/-- Where the bytes of a remote access on this package lie, byte by byte. -/
def State.endPlaces (s : State) (w : Who) (man : Man) (rs : List (Nat × Nat)) : List Place :=
  if man.pkg != s.sys.pkg.toNat then []
  else if man.isCore then
    let at_ := s.placeNow man.unit man.slot (wd man.gen)
    (if at_.1 = w.core then rs.flatMap (fun r => (List.range r.2).map (fun i => Place.loc at_.2 (r.1 + i))) else [])
  else
    rs.flatMap (fun r => (List.range r.2).filterMap (fun i => (s.vTarget man.tctx (man.wbase + r.1 + i)).map Place.glob))

/-- What must be performed before a remote load of a lane: what fences and acquires put before it, the SC queue, and its
own accesses of the domain to the same bytes (R73, R79, R80). -/
def State.remoteLoadAfter (s : State) (w : Who) (lane : Nat) (d : Dom) (man : Man) (rs : List (Nat × Nat)) : List Nat :=
  let q := s.pendingStores w.core
  let ps := (s.endPlaces w man rs).map (fun p => (p, 1))
  s.loadAfter w lane d ps
    ++ (q.filter (fun e => e.dom == d && (d == .sc || (e.of (w.agent lane) && ps.any (fun p => placesMeet e.place e.len p.1 p.2))))).map (·.id)
    ++ s.samePlace w lane man rs

/-- The earlier RC stores of a core that a release of it at a scope counts at its home (R100): those it has sent to the same endpoint, and those
in its queue for a home agent that the release reaches too. -/
def State.rcCounted (s : State) (w : Who) (sc : Scope) (man : Man) (rs : List (Nat × Nat)) : List Nat :=
  let wide := fun (x : Scope) => wideEnough x sc
  let ps := s.endPlaces w man rs
  ((s.coreFlights w.core .rc).filter (fun f => f.p.pkg.toNat == man.pkg && f.p.toCore == man.isCore
      && (!man.isCore || f.p.unit.toNat == man.unit) && wide f.p.scope)).map (·.p.id)
    ++ ((s.pendingStores w.core).filter (fun e => e.dom == .rc && wide e.scope && ps.any e.place.sameHome)).map (·.id)

/-- What must be performed before a remote store or atomic of a lane at a scope: also, for a release or a strong domain, its earlier
accesses of the domain, the core's whole queue in TSO and SC, and what a release in RC counts (R73, R79, R80, R100). -/
def State.remoteAfter (s : State) (w : Who) (lane : Nat) (d : Dom) (sc : Scope) (rel : Bool) (man : Man) (rs : List (Nat × Nat)) : List Nat :=
  let q := s.pendingStores w.core
  let mine := fun (e : Store) => e.dom == d && (e.of (w.agent lane) || d == .tso || d == .sc)
  let strong := rel || d == .co || d == .tso || d == .sc
  s.storeAfter w lane d sc rel ((s.endPlaces w man rs).map (fun p => (p, 1))) ++ (if strong then (q.filter mine).map (·.id) else [])
    ++ (if rel && d == .rc then s.rcCounted w sc man rs else [])
    ++ s.remoteLoadAfter w lane d man rs

end Sys2Proof.Machine
end

