-- ==== Sys2Proof/Machine/Endpoint.lean ====
section
/-! DEFINITION. Core endpoints: the blocks that they name, resident or in their save images (R163, R426, R446, R447). -/

namespace Sys2Proof.Machine

/-! ## Save images as arrivals see them (R446, R447) -/

/-- Bytes of a group record (R446). -/
def recBytes (g : Group) : Nat := 1664 + 1024 * g.allot

/-- Where the local memory of a whole-block image lies. -/
def Saved.locAt (x : Saved) : Nat :=
  x.image + 1024 + sumOf (fun g => if x.groups.contains g.idx then recBytes g else 0) x.blk.groups

/-- The block of an image with its local memory. -/
def State.imageBlock (s : State) (x : Saved) : Block :=
  let n := x.blk.locSize
  { x.blk with mem := Memory.writeN [] 0 ((s.vRead x.ctx x.locAt n).getD []) }

/-- Write back what changed of an image's local memory, as logged writes of its context (R179). -/
def State.putImage (s : State) (x : Saved) (old new : Block) : State :=
  (List.range x.blk.locSize).foldl (fun s i =>
    if old.mem.read i = new.mem.read i then s else s.vWriteLogged x.ctx (x.locAt + i) [new.mem.read i]) s

/-! ## The block behind an endpoint (R163, R426, R447) -/

/-- Where an arrival for a core endpoint goes. -/
inductive EndAt where
  | block (core slot : Nat) (b : Block)
  | image (x : Saved)

/-- The saved block of an absent-block entry. -/
def State.savedAt (s : State) (core : Nat) (a : Absent) : Option Saved :=
  s.saved.find? (fun x => x.whole && x.core == core && x.ctx == a.ctx && x.image == a.image)

/-- What an absent-block entry leads to. -/
def State.absentEnd (s : State) (core : Nat) (a : Absent) : Except Nat EndAt :=
  match a.state with
  | .absent =>
    match s.savedAt core a with
    | some x => .ok (.image x)
    | none => .error 1
  | .moved slot =>
    match s.block core slot with
    | some b => .ok (.block core slot b)
    | none => .error 1

/-- The block that an endpoint names, or the sub-code of its refusal: no endpoint, stale endpoint (R163, R426, R447). -/
def State.slotEnd (s : State) (core slot : Nat) (gen : Word) : Except Nat EndAt :=
  let k := s.core core
  let abs := k.absent.filter (fun a => a.slot == slot)
  if s.sys.liveCount ≤ core || k.off || s.sys.retired.contains core then .error 1
  else
    match KMap.find k.slots slot with
    | some b =>
      if b.gen = gen then .ok (.block core slot b)
      else
        match abs.find? (fun a => a.gen == gen) with
        | some a => s.absentEnd core a
        | none => .error 2
    | none =>
      match abs.find? (fun a => a.gen == gen) with
      | some a => s.absentEnd core a
      | none => .error (if abs.isEmpty then 1 else 2)

/-- Change the block behind an endpoint. -/
def State.modEnd (s : State) (e : EndAt) (f : Block → Block) : State :=
  match e with
  | .block core slot b => s.setBlock core slot (f b)
  | .image x => let b := s.imageBlock x; s.putImage x b (f b)

/-! ## Names of blocks (R176, R448) -/

/-- A block of this package as a member list names it (R448). -/
def State.memberWord (s : State) (core slot : Nat) (gen : Word) : Nat :=
  s.sys.pkg.toNat + 2 ^ 12 * core + 2 ^ 28 * slot + 2 ^ 33 * (gen.toNat % 2 ^ 31)

/-- Where a block stands and has stood: core, slot, generation. -/
def Block.allNames (b : Block) (core slot : Nat) : List (Nat × Nat × Word) := (core, slot, b.gen) :: b.names

/-- A block is the one that a name meant, or that it meant before the block moved. -/
def Block.named (b : Block) (core slot : Nat) (x : Issuer) : Bool := (b.allNames core slot).contains (x.core, x.slot, x.gen)

/-- A list of members holds a block, by the name that it has or one that it had. -/
def State.onList (s : State) (ms : List Dword) (core slot : Nat) (b : Block) : Bool :=
  (b.allNames core slot).any (fun n => ms.any (fun m => m.toNat == s.memberWord n.1 n.2.1 n.2.2))

/-- A block is a member of a caravan halt. -/
def State.memberOf (s : State) (h : Halt) (core slot : Nat) (b : Block) : Bool := h.ctx == b.ctx && s.onList h.members core slot b

/-- A caravan halt that is complete has stopped a block (R147, R176). -/
def State.haltedBlock (s : State) (core slot : Nat) (b : Block) : Bool := s.halts.any (fun h => h.complete && s.memberOf h core slot b)

end Sys2Proof.Machine
end

