-- ==== Sys2Proof/Machine/Cmd.lean ====
section
/-! DEFINITION. Commands: what they share, how they issue, what their engines read and write, how they fail and
complete (R92 to R96, R127 to R129, R136, R139 to R143, R148, R317, R395). -/

namespace Sys2Proof.Machine

/-! ## Tiles and accumulator words in issue order (R143) -/

/-- A tile register, or a run of accumulator words. -/
inductive Store2 where
  | tile (t : Nat)
  | acc (lo n : Nat)

/-- A use of one: whether it writes. -/
structure Use where
  what : Store2
  write : Bool

/-- Two uses must keep their issue order. -/
def Use.meets (a b : Use) : Bool :=
  (a.write || b.write) &&
    match a.what, b.what with
    | .tile t, .tile u => t == u
    | .acc x n, .acc y m => runsMeet x n y m
    | _, _ => false

/-- The uses of a multiply. -/
def Mma.uses (m : Mma) : List Use :=
  [⟨.tile m.ta, false⟩, ⟨.tile m.tb, false⟩, ⟨.acc m.abase (m.ca.rows * m.cb.rows), true⟩]

/-- Box extent k of a record. -/
def Shape.boxAt (h : Shape) (k : Nat) : Nat := listGet 1 h.box k

/-- Dense rows of a record (R134). -/
def Shape.rows (h : Shape) : Nat := h.boxAt 1 * h.boxAt 2 * h.boxAt 3

/-- K elements of a tile row (R145). -/
def TileCfg.k (c : TileCfg) : Nat :=
  if c.fmt = 6 then 2 * c.rowb
  else if fmtSq c.fmt then 16 * c.rowb / fmtBlk c.fmt
  else c.rowb / (fmtBits c.fmt / 8)

/-- The uses of a command. -/
def CmdOp.uses : CmdOp → List Use
  | .cpy .. => []
  | .tcpy h _ dense _ _ fo =>
    (match dense with
      | .tile t _ => [⟨.tile t, !h.toTensor⟩]
      | .at base => if h.dspace = 3 then [⟨.acc base (h.boxAt 0 * h.rows), !h.toTensor⟩] else [])
    ++ (match fo with | some m => m.uses | none => [])
  | .tld t _ _ => [⟨.tile t, true⟩]
  | .tst t _ _ => [⟨.tile t, false⟩]
  | .tzero t => [⟨.tile t, true⟩]
  | .tmma m => m.uses
  | .tdrain h _ _ _ base _ clr => [⟨.acc base (h.boxAt 0 * h.rows), clr⟩]
  | .tacc t c base _ => [⟨.tile t, false⟩, ⟨.acc base (c.rows * c.k), true⟩]
  | .xsend .. => []

/-- An incomplete command issued before number `id` stands in the way of these uses. -/
def Block.inUse (b : Block) (id : Nat) (us : List Use) : Bool :=
  b.cmds.any (fun c => decide (c.id < id) && !c.credited && c.op.uses.any (fun u => us.any (fun v => u.meets v)))

/-- An incomplete command stands in the way of a thread instruction. -/
def Block.engaged (b : Block) (us : List Use) : Bool := b.inUse b.nextCmd us

/-! ## Tags (R128, R140) -/

/-- Tag k of a block. -/
def Block.tag (b : Block) (k : Nat) : Tag := KMap.get {} b.tags k

/-- Change tag k. -/
def Block.modTag (b : Block) (k : Nat) (f : Tag → Tag) : Block := { b with tags := KMap.put b.tags k (f (b.tag k)) }

/-- A tag is ready (R128). -/
def Tag.ready (t : Tag) : Bool := t.count == 0 && !t.fault

/-! ## Issue (R317, R395) -/

/-- A multiply waits for or runs on the matrix sequencer. -/
def CmdOp.multiplies : CmdOp → Bool
  | .tmma _ => true
  | .tcpy _ _ _ _ _ (some _) => true
  | _ => false

/-- A command of the copy engine. -/
def CmdOp.copies : CmdOp → Bool
  | .tmma _ => false
  | _ => true

/-- Every command of a core that is not credited yet. -/
def State.coreCmds (s : State) (core : Nat) : List Cmd :=
  (s.core core).slots.flatMap (fun x => x.2.cmds.filter (fun c => !c.credited))

/-- A command is on the copy engine: a copy whose follow-on has started is complete there (R94, R148). -/
def Cmd.copies (c : Cmd) : Bool := c.op.copies && c.state != .follow

/-- A queue of R395 has no room for a command. -/
def State.queueFull (s : State) (core : Nat) (op : CmdOp) : Bool :=
  (op.copies && decide (32 ≤ (s.coreCmds core).countP Cmd.copies))
    || (op.multiplies && decide (4 ≤ (s.coreCmds core).countP (fun c => c.op.multiplies)))

/-- The local stores of an issue group's threads are performed before a command reads local memory; false where one is held
(R93). -/
def State.settleLocal (s : State) (w : Who) (m : LaneMask) : Bool × State :=
  s.drainFor w.core (fun e => e.place.isLoc && (lanesOf m).any (fun l => e.of (w.agent l)))

/-- Everything that an acquiring command's reads wait for: the pending stores of the issuing threads, and those that are before
their accesses (R93). -/
def State.acquireAfter (s : State) (w : Who) (m : LaneMask) : List Nat :=
  (lanesOf m).flatMap (fun l => allDoms.flatMap (fun d => s.threadPending w l d) ++ ((w.g.thread l).known.filter s.unperformed))

/-- The stores of an issue group's threads whose bytes their loads have had before their home has them: a command whose operands may come
from such a load reads and writes after them (R95, log 93). -/
def Who.fed (w : Who) (s : State) (m : LaneMask) : List Nat := ((lanesOf m).flatMap (fun l => (w.g.thread l).fed)).filter s.unperformed

/-- The ranks of RMASK. -/
def Coll.ranks (c : Coll) : List Nat := (List.range 64).filter (fun k => c.rmask.getLsbD k)

/-- The manifest entries that a command sends through: its own, or those of a collective's ranks. -/
def CmdOp.entries (o : CmdOp) (ep : Option Nat) : List Nat :=
  match o with
  | .tcpy _ _ _ (some k) _ _ => k.ranks.map (k.mbase + ·)
  | _ => ep.toList

/-- The counters of a core's copy engine: CE_CMDS, CE_RDBYTES and CE_WRBYTES (R494, log 94). -/
def State.bumpCe (s : State) (core i n : Nat) : State := s.bump (0x1000 * s.sys.physCore core + 0x408 + 8 * i) n

/-- Issue a command on a tag, or hold the slot (R128, R395); `ep` is the endpoint that it names. -/
def State.issueCmd (s : State) (w : Who) (m : LaneMask) (k : Ctl) (tag : BitVec 6) (a : CAcc) (op : CmdOp)
    (ep : Option (Nat × Option Nat)) : Host.Outcome State Fault Refusal :=
  let t := w.b.tag tag.toNat
  if t.count = 0xFFFF || s.queueFull w.core op then .next s
  else
    let (ctl, word) := s.wordAt w.core w.ctx w.ig.pc
    let cv := ep.bind (·.2)
    let (item, s) := s.nextItem w.core w.slot cv
    let (n, s) := s.fresh
    let c : Cmd := { id := w.b.nextCmd, tag := tag.toNat, grp := w.grp, lanes := m, pc := w.ig.pc, iword := word,
                     slotctl := ctl, leg := s.legOf w.ctx, mode := w.g.mode, acc := a, op := op, entry := ep.map (·.1),
                     mans := ((op.entries (ep.map (·.1))).map (fun e => (e, KMap.get 0 (s.ctx w.ctx).manifest e))).foldl
                       (fun m e => KMap.put m e.1 e.2) []
                     convoy := cv, item := item, store := n,
                     after := w.fed s m ++ if a.acqf then s.acquireAfter w m else [], part := w.g.part }
    let s := if op.copies then s.bumpCe w.core 0 1 else s
    let s := s.modBlock w.core w.slot (fun b =>
      { (b.modTag tag.toNat (fun t => { t with count := t.count + 1 })) with cmds := b.cmds ++ [c], nextCmd := b.nextCmd + 1 })
    .next (s.skip w k)

/-- A flag on a UB command is an illegal operand (R92). -/
def badFlags (a : CAcc) : Bool := a.dom == .ub && (a.acqf || a.relf)

/-! ## A command as it runs -/

/-- A command where it stands. -/
structure Run where
  core : Nat
  slot : Nat
  b : Block
  c : Cmd

/-- Command k, by number, of the block in a slot. -/
def State.run? (s : State) (core slot k : Nat) : Option Run :=
  match s.block core slot with
  | none => none
  | some b => (b.cmds.find? (fun c => c.id == k)).map (fun c => ⟨core, slot, b, c⟩)

/-- The agent of a command's accesses. -/
def Run.agent (x : Run) : Agent := ⟨x.core, x.slot, x.b.gen, x.c.grp, cmdLane x.c.acc.relf x.c.tag, x.b.ctx⟩

/-- Change the command. -/
def State.modCmd (s : State) (x : Run) (f : Cmd → Cmd) : State :=
  s.modBlock x.core x.slot (fun b => { b with cmds := b.cmds.map (fun c => if c.id = x.c.id then f c else c) })

/-- The command may begin: earlier commands have left its tiles and words, and what its acquire names is performed. -/
def State.mayRun (s : State) (x : Run) : Bool :=
  !x.b.inUse x.c.id x.c.op.uses
    && !x.c.after.any s.unperformed

/-- A manifest entry as the command's checks found it (R466). -/
def Cmd.man (c : Cmd) (m : Nat) : Man := manOf (KMap.get 0 c.mans m)

/-- The lane that a command's fault names: the faulting one of a CPY, which works lane by lane, the command's lowest otherwise (R357). -/
def Run.faultLane (x : Run) (f : Flt) : Nat :=
  match x.c.op with
  | .cpy .. => f.lane
  | _ => lowest x.c.lanes

/-- The trap record of a command's fault (R140, R357). -/
def State.cmdRecord (s : State) (x : Run) (f : Flt) : TrapRec :=
  { addr := f.addr
    iword := x.c.iword
    leg := x.c.leg
    block := wd x.b.task.lin
    node := wd x.b.task.node
    lanes := x.c.lanes
    slotctl := x.c.slotctl
    tag := BitVec.ofNat 6 x.c.tag
    group := BitVec.ofNat 5 x.c.grp
    lane := BitVec.ofNat 5 (x.faultLane f)
    eng := true
    sub := f.sub
    cause := BitVec.ofNat 6 f.cause
    pc := x.c.pc
    region := ((x.b.group x.c.grp).thread (x.faultLane f)).region
    clock := s.coreClock x.core }

/-- The sender of a command's packets. -/
def State.cmdSender (s : State) (x : Run) : Sender :=
  { ctx := x.b.ctx
    who := { core := x.core, slot := x.slot, gen := x.b.gen, grp := x.c.grp, node := wd x.b.task.node,
             block := wd x.b.task.lin, pc := x.c.pc, leg := x.c.leg }
    agent := x.agent
    issue := s.cmdRecord x { cause := 0, lane := 0 } }

/-- A TCPY's dense side is its destination and lies in the own block, or its tensor side does. -/
def tcpyFar (h : Shape) : Bool := (if h.toTensor then h.tspace else h.dspace) == 2 && !(h.dtile && !h.toTensor)

/-- The barrier word of the issuing block that a command names. -/
def CmdOp.ownBar : CmdOp → BarRef
  | .tcpy h _ _ none bar _ => if tcpyFar h then none else bar
  | .tdrain _ _ _ _ _ bar _ => bar
  | _ => none

/-- The manifest entries of the endpoints whose barrier word a command names, with the word: its own, or those of a collective's
ranks (R139). -/
def Cmd.farBars (c : Cmd) : List (Nat × Nat) :=
  match c.op with
  | .tcpy _ _ _ (some k) (some off) _ =>
    k.ranks.map (fun r => (k.mbase + r, off))
  | .tcpy h _ _ none (some off) _ => if tcpyFar h then [(c.entry.getD 0, off)] else []
  | .xsend _ _ _ (some off) => [(c.entry.getD 0, off)]
  | _ => []

/-- The fault bit of a barrier word behind a command's manifest entry is set: at once on this package, by a notice on another (R139). -/
def State.faultFar (s : State) (c : Cmd) (e : Nat × Nat) : State :=
  let man := c.man e.1
  if man.pkg != s.sys.pkg.toNat then
    { s with out := s.out ++ [FabMsg.wordFault (BitVec.ofNat 12 man.pkg) man.unit man.slot (wd man.gen) e.2] }
  else
    match s.slotEnd man.unit man.slot (wd man.gen) with
    | .ok x => s.modEnd x (fun b => if e.2 + 8 ≤ b.locSize then b.faultWord e.2 else b)
    | .error _ => s

/-- Command `id` leaves; its tag's count falls by one unless it was credited before. -/
def Block.retireCmd (b : Block) (id : Nat) : Block :=
  match b.cmds.find? (fun x => x.id == id) with
  | none => b
  | some c =>
    let b := { b with cmds := b.cmds.filter (fun x => x.id != id) }
    if c.credited then b else b.modTag c.tag (fun t => { t with count := t.count - 1 })

/-- With the release flag every write of a command is performed before it completes (R94). -/
def State.releaseCmd (s : State) (x : Run) : State := if x.c.acc.relf then s.settle [x.c.store] else s

/-- A command completes (R94). -/
def State.completeCmd (s : State) (x : Run) : State := (s.releaseCmd x).modBlock x.core x.slot (fun b => b.retireCmd x.c.id)

/-- The FAULT bit of a tag is set (R139). Where several commands on one tag fail before delivery, the record of the first stands: R140 does
not say whose (DESIGN CHOICE, log 87). -/
def Tag.setFault (t : Tag) (r : TrapRec) (floor : Word) : Tag :=
  if t.fault then t else { t with fault := true, record := r, floor := floor }

/-- A command fails (R139, R140); a non-present page ends the context (R63). -/
def State.failCmd (s : State) (x : Run) (f : Flt) : State :=
  let r := s.cmdRecord x f
  if f.cause = 9 then (s.completeCmd x).endCtx x.b.ctx 9 (some r)
  else
    let s := s.modBlock x.core x.slot (fun b =>
      let b := (b.retireCmd x.c.id).modTag x.c.tag (fun t => t.setFault r f.floor)
      match x.c.op.ownBar with
      | some off => b.faultWord off
      | none => b)
    x.c.farBars.foldl (fun s e => s.faultFar x.c e) s

/-! ## Accesses of an engine to global and host memory (R48, R59, R92, R139) -/

/-- The pages of an access, checked; `space` is the space code that a tensor side names (R48). -/
def State.engPieces (s : State) (x : Run) (r w : Bool) (space : Option Nat) (va n : Nat) : Except Flt (List Piece) :=
  match s.pieces x.core x.b.ctx (needOf r w x.c.acc.dom) va n with
  | .error e => .error (refuseFlt e 0 (rank x.c.acc.dom))
  | .ok ps =>
    match space with
    | none => .ok ps
    | some sp =>
      match ps.find? (fun p => p.x.tgt != (if sp = 4 then 1 else 0)) with
      | some p => .error { cause := 8, lane := 0, addr := dw p.va }
      | none => .ok ps

/-- Read the pieces at their homes; a refused home reads zero and ends the context (R462). `fresh` says that the command transfers these bytes
now: its counters count them once (R494, R495). -/
def State.engRead (s : State) (x : Run) (fresh : Bool) (ps : List Piece) : List Byte × State :=
  ps.foldl (fun (bs, s) p =>
    let t := p.x.target (s.ctx x.b.ctx).pasid.toNat p.va
    let n := if fresh then p.n else 0
    let s := s.txTo x.core t n
    if s.admitsTgt x.b.ctx t then
      let (b, s) := ((s.rxCore x.core t n).bumpCe x.core 1 n).homeRead x.b.ctx t p.n
      (bs ++ b, s)
    else
      let a := match t with | .dev a | .host a | .mmio a => a
      (bs ++ List.replicate p.n 0, s.homeRefuses x.agent true a x.c.pc (wd x.b.task.node) (wd x.b.task.lin) x.c.leg))
    ([], s)

/-- A store that a command makes. -/
def Run.store (x : Run) (place : Place) (work : Work) (irrev : Bool) : Store :=
  { id := x.c.store, who := x.agent, dom := x.c.acc.dom, scope := x.c.acc.scope, rel := false, place := place, work := work, after := [],
    lanes := 1, irrev := irrev, leg := x.c.leg, pc := x.c.pc, node := wd x.b.task.node, block := wd x.b.task.lin }

/-- Write one piece: into a hold, or at its home, with invalidations to every core. -/
def State.engPut (s : State) (x : Run) (p : Piece) (bs : List (Byte × Byte)) : Logged :=
  let t := p.x.target (s.ctx x.b.ctx).pasid.toNat p.va
  let a := match t with | .dev a | .host a | .mmio a => a
  let irrev := s.irrevPage x.b.ctx p.x
  let s := s.txTo x.core t p.n
  if irrev || s.admitsTgt x.b.ctx t then
    (s.bumpCe x.core 2 p.n).putHome (s.maker x.b.ctx) (if irrev then (s.ctx x.b.ctx).domain else none) (x.store (.glob t) (.bytes bs) irrev) t bs false
  else .ok (s.homeRefuses x.agent true a x.c.pc (wd x.b.task.node) (wd x.b.task.lin) x.c.leg)

/-- Write the pieces in order. -/
def State.engWrite (s : State) (x : Run) : List Piece → List (Byte × Byte) → Logged
  | [], _ => .ok s
  | p :: t, bs =>
    match s.engPut x p (bs.take p.n) with
    | .ok s => State.engWrite s x t (bs.drop p.n)
    | r => r

/-- How one unit of a command's work ended. -/
inductive Did where
  | done (s : State)
  /-- it must wait: the command stays where it is -/
  | held (s : State)
  | failed (s : State) (f : Flt)

/-- A seal of a context's domain is requested. -/
def State.sealFor (s : State) (c : Nat) : State :=
  match (s.maker c).dom with
  | some d => s.requestSeal d
  | none => s

/-- The end of a write of a unit that began in s: a unit that a log holds back does nothing of its own, neither a byte nor a draw nor a count,
and is done again as a whole once the seal is pending (R197, R275). -/
def Logged.did (r : Logged) (s : State) (c : Nat) : Did :=
  match r with
  | .ok s => .done s
  | .wait _ => .held (s.sealFor c)
  | .over _ => .held (s.legOverflow c 0)

/-- Do some units of a command's work in turn. R92 leaves a command's accesses unordered: the agenda chooses the order of the units.
Within one unit, a row, the accesses follow in ascending order, none before all of them have their undo-log entries, and a TLD or TST moves
its tile at one instant; the model's choice (log 61). -/
def State.runUnits (s : State) (x : Run) (step : State → Nat → Did) : List Nat → State × Option Flt
  | [] => (s, none)
  | i :: t =>
    match step s i with
    | .done s => State.runUnits (s.modCmd x (fun c => { c with did := c.did ++ [i] })) x step t
    | .held s => (s, none)
    | .failed s f => (s, some f)

/-! ## Conversion draws of an engine (R118) -/

/-- The draw for the next element that a command converts in mode 4: the generator advances once per 32. R118 does not say whether a
conversion that does not narrow, and so takes no draw, advances it: here every element of a command in mode 4 counts (log 62). -/
def State.engDraw (s : State) (x : Run) : Nat × State :=
  if rndOf x.c.mode != 4 then (0, s)
  else
    match s.run? x.core x.slot x.c.id with
    | none => (0, s)
    | some y =>
      let (g, s) := if y.c.conv % 32 = 0 then s.advanceGen x.core x.c.part x.b.ctx else (y.c.gen, s)
      (draw g (y.c.conv % 32), s.modCmd x (fun c => { c with conv := c.conv + 1, gen := g }))

/-! ## Observation of completion (R94, R325 to R327) -/

/-- A thread of the block observes the commands of some tags: what those with the release flag wrote is before its later
events. -/
def State.observeTags (s : State) (w : Who) (p : Nat → Bool) : State :=
  s.applyAll w.core (fun a => a.core == w.core && a.slot == w.slot && a.gen == w.b.gen && decide (64 ≤ a.lane) && p (a.lane - 64))

/-- The trap of a tag's fault at the issuing slot (R140); delivery clears FAULT. -/
def State.tagTrap (s : State) (w : Who) (m : LaneMask) (k : Nat) : State :=
  let t := w.b.tag k
  let r := { s.record w m { cause := t.record.cause.toNat, lane := lowest m, addr := t.record.addr, sub := t.record.sub } with
    eng := true, tag := t.record.tag, pc := t.record.pc, iword := t.record.iword, leg := t.record.leg }
  (s.modBlock w.core w.slot (fun b => b.modTag k (fun t => { t with fault := false }))).takeTrap w r t.floor

end Sys2Proof.Machine
end

