-- ==== Sys2Proof/Machine/Shape.lean ====
section
/-! DEFINITION. Shape records: their fields, their checks and where their elements lie (R130 to R134, R137, R172). -/

namespace Sys2Proof.Machine

/-! ## Reading records -/

/-- Read a shape record (R131). -/
def shapeOf (bs : List Byte) : Shape :=
  let n := leNat bs
  { ord := bitAt n 495, coll := bitAt n 494, nofill := bitAt n 493, geom := bitAt n 492, fmt := field n 488 4
    toTensor := bitAt n 487, dtile := bitAt n 486, dspace := field n 483 3, tspace := field n 480 3
    scale := wd (field n 448 32)
    box := [field n 384 16, field n 400 16, field n 416 16, field n 432 16]
    ext := [field n 256 32, field n 288 32, field n 320 32, field n 352 32]
    stride := [0, signedOf 64 (field n 64 64), signedOf 64 (field n 128 64), signedOf 64 (field n 192 64)]
    tbase := field n 0 64 }

/-- A collective extension, and whether its reserved fields and grid are legal (R172). -/
def collOf (bs : List Byte) : Coll × Bool :=
  let n := leNat bs
  let nr := field n 44 6 + 1
  ({ rmask := dw (field n 192 64), cmask := dw (field n 128 64), seqbase := wd (field n 96 32)
     roff := signedOf 32 (field n 64 32), mbase := field n 56 8, rank := field n 50 6, nranks := nr
     rdim := field n 24 2, rop := field n 20 4 },
   field n 256 256 == 0 && field n 0 20 == 0 && decide (field n 20 4 ≤ 10) && decide (field n 50 6 < nr)
     && (field n 38 6 + 1) * (field n 32 6 + 1) * (field n 26 6 + 1) == nr
     && decide (field n 192 64 < 2 ^ nr))

/-- Bytes of the block's local memory that a command reads at issue, where the record is aligned and within it (R130). -/
def Block.recordAt (b : Block) (off n : Nat) : Option (List Byte) :=
  if off % 64 = 0 ∧ off + n ≤ b.locSize then some (Memory.readN b.mem off n) else none

/-! ## Fields -/

/-- Size of the format block, 16 bytes for raw bytes (R133). -/
def blkOf (fmt : Nat) : Nat := if fmt = 0 then 16 else fmtBlk fmt

/-- Alignment of a tensor in a format (R61, R133). -/
def alignOf (fmt : Nat) : Nat := if fmt = 0 then 1 else baseAlign fmt

/-- Extent, stride and origin in dimension k. -/
def Shape.extAt (h : Shape) (k : Nat) : Nat := listGet 1 h.ext k
def Shape.strideAt (h : Shape) (k : Nat) : Int := listGet 0 h.stride k
def orgAt (org : List Int) (k : Nat) : Int := listGet 0 org k

/-- SCALE is a NaN, an infinity or a subnormal. -/
def badScale (x : Word) : Bool :=
  let e := field x.toNat 23 8
  e == 255 || (e == 0 && field x.toNat 0 23 != 0)

/-- The reserved bits and values of a record, and its alignment (R131, R133). -/
def Shape.fieldsOk (h : Shape) (reserved : Nat) : Bool :=
  reserved == 0 && !(h.ord && !h.coll) && decide (h.fmt ≤ 10) && decide (h.tspace ≤ 4)
    && (h.dtile || decide (h.dspace ≤ 4)) && !badScale h.scale && !h.ext.contains 0 && !h.box.contains 0
    && h.tbase % alignOf h.fmt == 0 && h.stride.all (fun x => x % (alignOf h.fmt : Int) == 0)

/-- The pairs of spaces of R132. -/
def Shape.pairOk (h : Shape) : Bool :=
  if h.tspace == 3 then false
  else if h.dtile then true
  else h.dspace == 1 || h.dspace == 3 || (h.dspace == 2 && h.tspace != 2)

/-- The unit of the blocked dimension: 16 in SQ formats, 2 in E2M1 (R133). -/
def unitOf (fmt : Nat) : Nat := if fmtSq fmt then 16 else if fmt = 6 then 2 else 1

/-- Extent, box and origin are multiples of the unit in the blocked dimension. -/
def Shape.blockedOk (h : Shape) (org : List Int) : Bool :=
  let k := if h.geom && fmtSq h.fmt then 1 else 0
  let u := unitOf h.fmt
  h.extAt k % u == 0 && h.boxAt k % u == 0 && orgAt org k % (u : Int) == 0

/-- A tensor side whose geometry is its page's (R133). -/
def Shape.pageGeom (h : Shape) : Bool := (h.tspace == 0 || h.tspace == 4) && fmtSq h.fmt

/-- The multiples of R133 under some geometry, where the page's decides and is not read yet (log 63). -/
def Shape.blockedMay (h : Shape) (org : List Int) : Bool :=
  if h.pageGeom then Shape.blockedOk { h with geom := false } org || Shape.blockedOk { h with geom := true } org else h.blockedOk org

/-- The dense format: 0 raw, 32 INT32 (R134). -/
def denseFmt (h : Shape) (cfg : Option TileCfg) : Nat :=
  match cfg with
  | some c => if h.fmt = 0 then 0 else c.fmt
  | none => if h.dspace = 3 then (if h.fmt = 7 then 32 else 1) else h.fmt

/-- Bits of an element of a dense format. -/
def bitsOf (fmt : Nat) : Nat := if fmt = 32 then 32 else if fmt = 0 then 8 else fmtBits fmt

/-- Bytes of n elements of a format; n is a multiple of its unit. -/
def runBytes (fmt n : Nat) : Nat := if fmtSq fmt then n / 16 * fmtBlk fmt else bitsOf fmt * n / 8

/-- RB: bytes of a dense row (R134). -/
def Shape.rb (h : Shape) (df : Nat) : Nat := runBytes df (h.boxAt 0)

/-- Tile bytes (R134): words are counted at 4 bytes in ACC. -/
def Shape.tileBytes (h : Shape) (df : Nat) : Nat := h.rb df * h.rows

/-! ## Coordinates (R133, R137) -/

/-- A dense row's coordinates (j1, j2, j3). -/
def Shape.rowCoord (h : Shape) (r : Nat) : Nat × Nat × Nat :=
  (r % h.boxAt 1, r / h.boxAt 1 % h.boxAt 2, r / h.boxAt 1 / h.boxAt 2)

/-- Coordinate k of a box element, and whether it lies in the tensor. -/
def Shape.inExt (h : Shape) (k : Nat) (i : Int) : Bool := decide (0 ≤ i) && decide (i < h.extAt k)

/-- Where a tensor element lies: its format block and its index within it (R133). -/
def Shape.place (h : Shape) (i0 i1 i2 i3 : Int) : Int × Nat :=
  let far : Int := h.tbase + i2 * h.strideAt 2 + i3 * h.strideAt 3
  if h.geom && fmtSq h.fmt then (far + i1 / 16 * h.strideAt 1 + i0 * fmtBlk h.fmt, (i1 % 16).toNat)
  else (far + i1 * h.strideAt 1 + i0 / 16 * blkOf h.fmt, (i0 % 16).toNat)

/-- The clipped range of dimension k: from, to. -/
def Shape.clip (h : Shape) (org : List Int) (k : Nat) : Int × Int :=
  (max 0 (orgAt org k), min (h.extAt k) (orgAt org k + h.boxAt k))

/-- The box is clipped entirely. -/
def Shape.allClipped (h : Shape) (org : List Int) : Bool :=
  (List.range 4).any (fun k => decide ((h.clip org k).2 ≤ (h.clip org k).1))

/-- Integers from a to b, b excluded. -/
def intRange (a b : Int) : List Int := (List.range (b - a).toNat).map (fun (i : Nat) => a + i)

/-- The runs of tensor bytes that the box touches after clipping: first byte, length (R137, R322). -/
def Shape.runs (h : Shape) (org : List Int) : List (Int × Nat) :=
  if h.allClipped org then []
  else
    let (a0, b0) := h.clip org 0
    let (a1, b1) := h.clip org 1
    let (a2, b2) := h.clip org 2
    let (a3, b3) := h.clip org 3
    let sq1 := h.geom && fmtSq h.fmt
    let i1s := if sq1 then (intRange (a1 / 16) ((b1 + 15) / 16)).map (· * 16) else intRange a1 b1
    (intRange a3 b3).flatMap fun i3 => (intRange a2 b2).flatMap fun i2 => i1s.map fun i1 =>
      let (x, k) := h.place a0 i1 i2 i3
      if sq1 then (x, (b0 - a0).toNat * fmtBlk h.fmt)
      else if fmtSq h.fmt then (x, (b0 - a0).toNat / 16 * fmtBlk h.fmt)
      else
        let lo := x + bitsOf h.fmt * k / 8
        let (y, j) := h.place (b0 - 1) i1 i2 i3
        (lo, (y + bitsOf h.fmt * j / 8 + ceilDiv (bitsOf h.fmt) 8 - lo).toNat)

/-- The bytes of a dense row that a move touches after clipping (R137, R322): all of it where it writes zeros for clipped elements. -/
def Shape.denseRun (h : Shape) (org : List Int) (df r : Nat) : Option (Nat × Nat) :=
  if !h.toTensor && !h.nofill then some (0, h.rb df)
  else
    let (j1, j2, j3) := h.rowCoord r
    let (a, b) := h.clip org 0
    let lo := (a - orgAt org 0).toNat
    let hi := (b - orgAt org 0).toNat
    if a < b && h.inExt 1 (orgAt org 1 + j1) && h.inExt 2 (orgAt org 2 + j2) && h.inExt 3 (orgAt org 3 + j3) then
      if fmtSq df then some (lo / 16 * fmtBlk df, (ceilDiv hi 16 - lo / 16) * fmtBlk df)
      else some (bitsOf df * lo / 8, ceilDiv (bitsOf df * hi) 8 - bitsOf df * lo / 8)
    else none

/-- The runs of dense bytes from `base` that a move touches after clipping. -/
def Shape.denseRuns (h : Shape) (org : List Int) (df base : Nat) : List (Nat × Nat) :=
  (List.range h.rows).filterMap (fun r => (h.denseRun org df r).map (fun x => (base + r * h.rb df + x.1, x.2)))

/-- Tile t of a block, when the block asked for it and it is configured (R141). -/
def Block.tileCfg (b : Block) (t : Nat) : Option TileCfg :=
  let x := (listGet 0 b.tcfg t).toNat
  if t < b.nodeRec.kern.tiles ∧ field x 28 4 != 0 then
    some { fmt := field x 28 4, rows := field x 16 9, rowb := field x 0 16 }
  else none

/-- Words of the block's accumulator allocation. -/
def Block.accSize (b : Block) : Nat := b.nodeRec.kern.acc * 1024

end Sys2Proof.Machine
end

