-- ==== Sys2Proof/Machine/Convey.lean ====
section
/-! DEFINITION. What the copy engine moves for TCPY and TDRAIN: element conversion, tensor and dense sides, packets to and
from a remote side (R118, R119, R133 to R138, R149, R154, R173 to R175, R320 to R323, R335). -/

namespace Sys2Proof.Machine

/-! ## Conversion of one element (R110, R111, R119, R135) -/

/-- The format of an element code, where it is a float. -/
def floatOf (fmt : Nat) : Option Fmt := if 1 ≤ fmt ∧ fmt ≤ 6 then some (fmtFloat fmt) else none

/-- Width rank of an element format; an SQ value counts as FP32. -/
def fmtRank (fmt : Nat) : Nat := match fmt with | 1 => 3 | 2 => 2 | 3 => 2 | 4 => 1 | 5 => 1 | 6 => 0 | _ => 3

/-- A conversion is narrowing by its formats (R109): integers count on either side, and so does every E2M1 and SQ
encoding. -/
def engNarrow (df sf : Nat) : Bool :=
  fmtSq df || df == 6 || df == 7 || df == 32 || sf == 7 || sf == 32
    || decide (fmtRank df < fmtRank sf) || (fmtRank df == fmtRank sf && df != sf && df != 1)

/-- The value of an element code; INT32 is code 32. -/
def codeVal (fmt code : Nat) : Val := if fmt = 32 then .ofInt (signedOf 32 code) else fmtDecode fmt code

/-- A source element as it enters a conversion: flushed, decoded, multiplied by SCALE; a NaN keeps its sign. -/
def engIn (mode scale : Word) (df sf code : Nat) : Val :=
  let code := match floatOf sf with
    | some f => if engNarrow df sf then f.flushBits (ftzOf mode f) code else code
    | none => code
  let v := codeVal sf code
  if v.isNan then v else v.mul (fp32.decode scale.toNat)

/-- The rounding of a conversion: mode 4 in narrowing ones only (R109). -/
def engRnd (mode : Word) (df sf : Nat) : Nat := if engNarrow df sf then rndOf mode else rndArith mode

/-- Encode a value in an element format. -/
def engOut (mode : Word) (r df sf : Nat) (v : Val) : Nat :=
  match floatOf df with
  | some f => f.roundZ (engNarrow df sf && ftzOf mode f) (engRnd mode df sf) r v
  | none => v.satInt true (if df = 32 then 32 else 8) (rndOf mode)

/-! ## Bytes with masks -/

/-- One element of each code, packed from bit 0 of the first byte; none leaves its bits as they are. -/
def packCodes (bits : Nat) (cs : List (Option Nat)) : List (Byte × Byte) :=
  if bits = 4 then
    (List.range (cs.length / 2)).map (fun i =>
      let lo := listGet none cs (2 * i)
      let hi := listGet none cs (2 * i + 1)
      (BitVec.ofNat 8 (lo.getD 0 + 16 * hi.getD 0),
       (if lo.isSome then (0x0F : BitVec 8) else 0) ||| (if hi.isSome then (0xF0 : BitVec 8) else 0)))
  else
    cs.flatMap (fun c => match c with
      | some x => whole (leBytes (bits / 8) x)
      | none => List.replicate (bits / 8) (0, 0))

/-- The bytes of a run, masked into a sparse map. -/
def putMasked (m : KMap Byte) (a : Nat) : List (Byte × Byte) → KMap Byte
  | [] => m
  | (b, k) :: t => putMasked (KMap.set 0 m a ((b &&& k) ||| (KMap.get 0 m a &&& ~~~k))) (a + 1) t

/-- Bytes of a sparse map. -/
def getBytes (m : KMap Byte) (a n : Nat) : List Byte := (List.range n).map (fun i => KMap.get 0 m (a + i))

/-- A code out of the bytes that hold it. -/
def codeIn (fmt within : Nat) (bs : List Byte) : Nat :=
  if fmt = 6 then leNat bs / 16 ^ (within % 2) % 16 else leNat bs

/-! ## The tensor side -/

/-- One side of a move: its record, origin, dense format and dense place; `tr` is N for the transpose of a TDRAIN. -/
structure Move where
  h : Shape
  org : List Int
  df : Nat
  dense : Dense
  tr : Option Nat

/-- Bytes are copied unchanged (R135). -/
def Move.equal (v : Move) : Bool := v.h.fmt == 0 || (v.df == v.h.fmt && !(v.h.geom && fmtSq v.h.fmt))

/-- Read tensor bytes: own local memory, the bytes received from a remote source, or pages, whose FMT and GEOM must be
the record's (R133, R135). A failure comes with the state that its translation leaves. -/
def State.tensorRead (s : State) (x : Run) (h : Shape) (a : Int) (n : Nat) (fresh : Bool) : Except (Flt × State) (List Byte × State) :=
  if h.tspace = 1 then
    .ok ((match s.block x.core x.slot with | some b => Memory.readN b.mem a.toNat n | none => []), s)
  else if h.tspace = 2 then .ok (getBytes x.c.got (wrapTo 64 a) n, s)
  else if a < 0 then .error ({ cause := 8, lane := 0, addr := dw (wrapTo 64 a) }, s)
  else
    let t := s.touchEng x.core x.b.ctx a.toNat n
    match s.engPieces x true false (some h.tspace) a.toNat n with
    | .error f => .error (f, t)
    | .ok ps =>
      if h.fmt != 0 && ps.any (fun p => p.x.fmt != h.fmt || (fmtSq h.fmt && p.x.geom != h.geom)) then
        .error ({ cause := 3, lane := 0, addr := dw a.toNat }, t)
      else .ok (t.engRead x fresh ps)

/-- The tensor coordinates of element j0 of row r, none when it is clipped (R137, R322). -/
def Move.coord (v : Move) (r j0 : Nat) : Option (Int × Nat) :=
  let (j1, j2, j3) := v.h.rowCoord r
  let i0 := orgAt v.org 0 + j0
  let i1 := orgAt v.org 1 + j1
  let i2 := orgAt v.org 2 + j2
  let i3 := orgAt v.org 3 + j3
  if v.h.inExt 0 i0 && v.h.inExt 1 i1 && v.h.inExt 2 i2 && v.h.inExt 3 i3 then some (v.h.place i0 i1 i2 i3) else none

/-- Fold over items, stopping at the first fault. -/
def foldE {ε α β : Type} (f : β → α → Except ε β) : List α → β → Except ε β
  | [], b => .ok b
  | a :: t, b =>
    match f b a with
    | .error e => .error e
    | .ok b => foldE f t b

/-- The bytes that hold an element of the tensor: a block of an SQ format, or the bytes of its code. -/
def Move.bytesAt (v : Move) (c : Int × Nat) : Int × Nat :=
  if fmtSq v.h.fmt then (c.1, fmtBlk v.h.fmt)
  else (c.1 + bitsOf v.h.fmt * c.2 / 8, ceilDiv (bitsOf v.h.fmt) 8)

/-- What row r reads of the tensor, each run of bytes once; the flag says that no earlier row of the box reads it: blocks along dimension 1
stand in 16 rows (R133). -/
def Move.reads (v : Move) (r : Nat) : List ((Int × Nat) × Bool) :=
  ((List.range (v.h.boxAt 0)).filterMap (fun j =>
    (v.coord r j).map (fun c => (v.bytesAt c, !(v.h.geom && fmtSq v.h.fmt) || c.2 == 0)))).eraseDups

/-- The bytes of a row of the tensor, by their places. -/
abbrev Got := List (Int × List Byte)

/-- Read what row r needs. -/
def State.readRow (s : State) (x : Run) (v : Move) (r : Nat) : Except (Flt × State) (Got × State) :=
  foldE (fun (m, s) o =>
    match s.tensorRead x v.h o.1.1 o.1.2 o.2 with
    | .error f => .error f
    | .ok (bs, s) => .ok (m ++ [(o.1.1, bs)], s)) (v.reads r) ([], s)

/-- The bytes that hold element j0 of row r, with the element's index within its block; none where it is clipped. -/
def Move.tensorBytes (v : Move) (got : Got) (r j0 : Nat) : Option (List Byte × Nat) :=
  (v.coord r j0).map (fun c => (((got.find? (fun g => g.1 == (v.bytesAt c).1)).map (·.2)).getD [], c.2))

/-- The code of element j0 of row r of a tensor that is not SQ. -/
def Move.tensorCode (v : Move) (got : Got) (r j0 : Nat) : Option Nat :=
  (v.tensorBytes got r j0).map (fun b => codeIn v.h.fmt b.2 b.1)

/-- The value of element j0 of row r as it enters the conversion. -/
def Move.tensorVal (v : Move) (mode : Word) (got : Got) (r j0 : Nat) : Option Val :=
  if fmtSq v.h.fmt then
    (v.tensorBytes got r j0).map (fun b =>
      let w := sqDecode (fmtSqBits v.h.fmt) b.1 b.2
      if w.isNan then w else w.mul (fp32.decode v.h.scale.toNat))
  else (v.tensorCode got r j0).map (engIn mode v.h.scale v.df v.h.fmt)

/-- Draws for n elements. -/
def State.engDraws (s : State) (x : Run) : Nat → List Nat × State
  | 0 => ([], s)
  | n + 1 =>
    let (d, s) := s.engDraw x
    let (ds, s) := State.engDraws s x n
    (d :: ds, s)

/-- Encode values in an element format, each with its draw. -/
def State.encodeVals (s : State) (x : Run) (df sf : Nat) (vs : List (Option Val)) (fill : Option Nat) :
    List (Option Nat) × State :=
  vs.foldl (fun (l, s) v =>
    match v with
    | none => (l ++ [fill], s)
    | some v => let (d, s) := s.engDraw x; (l ++ [some (engOut x.c.mode d df sf v)], s)) ([], s)

/-- Encode 16 values as an SQ block. -/
def State.encodeBlock (s : State) (x : Run) (df : Nat) (vs : List (Option Val)) : List Byte × State :=
  let (ds, s) := s.engDraws x 16
  (sqEncode (fmtSqBits df) (rndOf x.c.mode) ds (vs.map (·.getD (.zero false))), s)

/-- Blocks of 16 of a row. -/
def chunks16 {α : Type} (l : List α) : List (List α) :=
  (List.range (ceilDiv l.length 16)).map (fun i => (l.drop (16 * i)).take 16)

/-- Dense row r of a tensor-to-dense move, as bytes with masks; clipped elements follow EDGE (R137). An SQ block of a converted row
all of whose elements are clipped is left unchanged under EDGE 1: R137 leaves clipped elements unchanged, and speaks of zeros only for
blocks that are encoded; the model's choice (log 69). -/
def State.denseRow (s : State) (x : Run) (v : Move) (r : Nat) : Except (Flt × State) (List (Byte × Byte) × State) :=
  let n := v.h.boxAt 0
  let fill : Option Nat := if v.h.nofill then none else some 0
  match s.readRow x v r with
  | .error f => .error f
  | .ok (got, s) =>
    if v.equal && fmtSq v.h.fmt then
      .ok (((List.range (n / 16)).map (16 * ·)).flatMap (fun j => match v.tensorBytes got r j with
        | some (bytes, _) => whole bytes
        | none => List.replicate (fmtBlk v.h.fmt) (0, if v.h.nofill then 0 else 0xFF)), s)
    else if v.equal then
      .ok (packCodes (bitsOf v.h.fmt) ((List.range n).map (fun j =>
        match v.tensorCode got r j with | some y => some y | none => fill)), s)
    else
      let vs := (List.range n).map (v.tensorVal x.c.mode got r)
      if fmtSq v.df then
        .ok ((chunks16 vs).foldl (fun (l, s) b =>
          if v.h.nofill && b.all Option.isNone then (l ++ List.replicate (fmtBlk v.df) (0, 0), s)
          else let (bs, s) := s.encodeBlock x v.df b; (l ++ whole bs, s)) ([], s))
      else
        let (cs, s) := s.encodeVals x v.df v.h.fmt vs fill
        .ok (packCodes (bitsOf v.df) cs, s)

/-! ## The dense side -/

/-- The word index of element j0 of row r in ACC; the transpose of a region of N columns reads down a column. -/
def Move.word (v : Move) (base r j0 : Nat) : Nat :=
  match v.tr with
  | none => base + r * v.h.boxAt 0 + j0
  | some n => base + j0 * n + r

/-- Bytes of the dense side from byte k of row r. -/
def State.denseBytes (s : State) (x : Run) (v : Move) (r k n : Nat) : List Byte :=
  match s.block x.core x.slot with
  | none => []
  | some b =>
    match v.dense with
    | .tile t c => getBytes b.tiles (32768 * t + r * c.rowb + k) n
    | .at base =>
      if v.h.dspace = 2 then getBytes x.c.got (base + r * v.h.rb v.df + k) n
      else Memory.readN b.mem (base + r * v.h.rb v.df + k) n

/-- The code of a dense element that is not SQ. -/
def State.denseCode (s : State) (x : Run) (v : Move) (r j0 : Nat) : Nat :=
  match v.dense, v.h.dspace, s.block x.core x.slot with
  | .at base, 3, some b => (KMap.get 0 b.acc (v.word base r j0)).toNat
  | _, _, _ =>
    let bits := bitsOf v.df
    codeIn v.df j0 (s.denseBytes x v r (bits * j0 / 8) (ceilDiv bits 8))

/-- The SQ block of a dense element. -/
def State.denseBlock (s : State) (x : Run) (v : Move) (r j0 : Nat) : List Byte :=
  s.denseBytes x v r (j0 / 16 * fmtBlk v.df) (fmtBlk v.df)

/-- The value of a dense element as it enters the conversion. -/
def State.denseVal (s : State) (x : Run) (v : Move) (r j0 : Nat) : Val :=
  if fmtSq v.df then
    let w := sqDecode (fmtSqBits v.df) (s.denseBlock x v r j0) (j0 % 16)
    if w.isNan then w else w.mul (fp32.decode v.h.scale.toNat)
  else engIn x.c.mode v.h.scale v.h.fmt v.df (s.denseCode x v r j0)

/-- Words of bytes with masks; a word is written whole or not at all. -/
def putWords (m : KMap Word) (i : Nat) (bs : List (Byte × Byte)) : KMap Word :=
  (List.range (bs.length / 4)).foldl (fun m k =>
    let w := (bs.drop (4 * k)).take 4
    if w.any (fun p => p.2 != 0) then KMap.set 0 m (i + k) (wd (leNat (w.map (·.1)))) else m) m

/-- Write dense row r: a tile, local memory or accumulator words. -/
def State.putDense (s : State) (x : Run) (v : Move) (r : Nat) (bs : List (Byte × Byte)) : State :=
  s.modBlock x.core x.slot (fun b =>
    match v.dense with
    | .tile t c => { b with tiles := putMasked b.tiles (32768 * t + r * c.rowb) bs }
    | .at base =>
      if v.h.dspace = 3 then { b with acc := putWords b.acc (base + r * v.h.boxAt 0) bs }
      else { b with mem := Memory.writeMasked b.mem (base + r * v.h.rb v.df) bs })

/-! ## Writes to the tensor side -/

/-- One write of a dense-to-tensor move: its dense offset, its place and its bytes. -/
abbrev Out := Nat × Int × List (Byte × Byte)

/-- What row r writes to the tensor (R133, R137): rows of 16 together where blocks lie along dimension 1. -/
def State.tensorOuts (s : State) (x : Run) (v : Move) (r : Nat) : List Out × State :=
  let n := v.h.boxAt 0
  let doff := fun j => r * v.h.rb v.df + runBytes v.df j
  let f := v.h.fmt
  if v.equal && fmtSq f then
    (((List.range (n / 16)).map (16 * ·)).filterMap (fun j =>
      (v.coord r j).map (fun c => (doff j, c.1, whole (s.denseBlock x v r j)))), s)
  else if fmtSq f && v.h.geom then
    if r % v.h.boxAt 1 % 16 != 0 then ([], s)
    else
      (List.range n).foldl (fun (l, s) j =>
        match v.coord r j with
        | none => (l, s)
        | some (a, _) =>
          let (bs, s') := s.encodeBlock x f ((List.range 16).map (fun k => some (s.denseVal x v (r + k) j)))
          (l ++ [(doff j, a, whole bs)], s')) ([], s)
  else if fmtSq f then
    ((List.range (n / 16)).map (16 * ·)).foldl (fun (l, s) j =>
      match v.coord r j with
      | none => (l, s)
      | some (a, _) =>
        let (bs, s') := s.encodeBlock x f ((List.range 16).map (fun k => some (s.denseVal x v r (j + k))))
        (l ++ [(doff j, a, whole bs)], s')) ([], s)
  else
    (List.range n).foldl (fun (l, s) j =>
      match v.coord r j with
      | none => (l, s)
      | some (a, k) =>
        let (code, s') :=
          if v.equal then (s.denseCode x v r j, s)
          else let (d, s') := s.engDraw x; (engOut x.c.mode d f v.df (s.denseVal x v r j), s')
        let bytes :=
          if f = 6 then (if k % 2 = 0 then [(BitVec.ofNat 8 code, (0x0F : BitVec 8))] else [(BitVec.ofNat 8 (code * 16), 0xF0)])
          else whole (leBytes (bitsOf f / 8) code)
        (l ++ [(doff j, a + bitsOf f * k / 8, bytes)], s')) ([], s)

/-- Two neighbouring elements of half a byte each are written as one byte. -/
def joinHalves (os : List Out) : List Out :=
  os.foldr (fun o t => match o, t with
    | (d, a, [(b, m)]), (_, a', [(b', m')]) :: u =>
      if a = a' && m &&& m' == 0 then (d, a, [((b &&& m) ||| (b' &&& m'), m ||| m')]) :: u else o :: t
    | _, _ => o :: t) []

/-- Write to a tensor of the own block or of pages, in a unit of work that began in s0. -/
def State.putTensor (s0 s : State) (x : Run) (h : Shape) : List Out → Did
  | [] => .done s
  | (_, a, bs) :: t =>
    if h.tspace = 1 then
      State.putTensor s0 (s.modBlock x.core x.slot (fun b => { b with mem := Memory.writeMasked b.mem a.toNat bs })) x h t
    else if a < 0 then .failed s { cause := 8, lane := 0, addr := dw (wrapTo 64 a) }
    else
      let s := s.touchEng x.core x.b.ctx a.toNat bs.length
      match s.engPieces x false true (some h.tspace) a.toNat bs.length with
      | .error f => .failed s f
      | .ok ps =>
        if h.fmt != 0 && ps.any (fun p => p.x.fmt != h.fmt || (fmtSq h.fmt && p.x.geom != h.geom)) then
          .failed s { cause := 3, lane := 0, addr := dw a.toNat }
        else
          match (s.engWrite x ps bs).did s0 x.b.ctx with
          | .done s => State.putTensor s0 s x h t
          | r => r

/-- Credit n bytes to the barrier word of the own block that the command names (R129, R138). With the release flag what the command has
written is performed for every agent first: whoever reads the word afterwards is after it (R94). -/
def State.creditOwn (s : State) (x : Run) (n : Nat) : State :=
  match x.c.op.ownBar with
  | some off => (s.releaseCmd x).modBlock x.core x.slot (fun b => b.credit off n)
  | none => s

/-- The dense rows whose bytes are written together: 16 of a tensor whose blocks lie along dimension 1, by the first of them (R133). -/
def Move.band (v : Move) : Nat := if v.h.toTensor && fmtSq v.h.fmt && v.h.geom then 16 else 1

/-- Row r of a move between sides of this package that are no remote endpoint. The row that writes a band credits all of it (R129). -/
def State.moveRow (s : State) (x : Run) (v : Move) (r : Nat) : Did :=
  let fin := fun (s : State) => Did.done (s.creditOwn x (if r % v.band = 0 then v.band * v.h.rb v.df else 0))
  if v.h.toTensor then
    let (os, t) := s.tensorOuts x v r
    match s.putTensor t x v.h (joinHalves os) with
    | .done s => fin s
    | d => d
  else
    match s.denseRow x v r with
    | .error (f, s) => .failed s f
    | .ok (bs, s) => fin (s.putDense x v r bs)

/-! ## Remote sides (R154, R173 to R175) -/

/-- The move's destination is remote. -/
def Move.remoteOut (v : Move) : Bool := if v.h.toTensor then v.h.tspace == 2 else (!v.h.dtile && v.h.dspace == 2)

/-- The move's source is remote. -/
def Move.remoteIn (v : Move) : Bool := if v.h.toTensor then (!v.h.dtile && v.h.dspace == 2) else v.h.tspace == 2

/-- A write divided as the packets of its dense bytes carry it, so that each credits no byte before what those bytes give is written
(R129): an element's share of a block that stands across rows, the bytes of a block that is copied, and all of what comes of a dense block
on either side of a packet's end. -/
def Move.portions (v : Move) (o : Out) : List Out :=
  let os : List Out :=
    if v.band = 16 then (List.range 16).map (fun k => (o.1 + k * v.h.rb v.df, o.2.1, sqShare (fmtSqBits v.h.fmt) k o.2.2))
    else if v.equal && fmtSq v.h.fmt then o.2.2.mapIdx (fun i x => (o.1 + i, o.2.1 + i, [x]))
    else [o]
  if fmtSq v.df && !v.equal then
    os.flatMap (fun o => let e := o.1 + fmtBlk v.df - 1; if e / 128 = o.1 / 128 then [o] else [o, (e, o.2)])
  else os

/-- What row r writes remotely: dense offset, target offset, bytes. -/
def State.remoteOuts (s : State) (x : Run) (v : Move) (r : Nat) : Except (Flt × State) (List (Nat × Nat × List (Byte × Byte)) × State) :=
  if v.h.toTensor then
    let (os, s) := s.tensorOuts x v r
    .ok ((os.flatMap v.portions).map (fun o => (o.1, wrapTo 64 o.2.1, o.2.2)), s)
  else
    match s.denseRow x v r with
    | .error f => .error f
    | .ok (bs, s) =>
      let base := match v.dense with | .at b => b | .tile .. => 0
      let k := r * v.h.rb v.df
      .ok (bs.mapIdx (fun i b => (k + i, base + k + i, [b])), s)

/-- Contiguous writes joined into runs. -/
def joinRuns : List (Nat × List (Byte × Byte)) → List (Nat × List (Byte × Byte))
  | [] => []
  | (a, bs) :: t =>
    match joinRuns t with
    | (b, cs) :: u => if a + bs.length = b then (a, bs ++ cs) :: u else (a, bs) :: (b, cs) :: u
    | [] => [(a, bs)]

/-- The elements that a reducing packet delivers. The I32 and bitwise operators work on raw 4-byte elements (R172): four bytes whose
dense offset is a multiple of 4. One of which clipping leaves a part only is not delivered; the spec does not say (log 64). -/
def ropElems (rop : Nat) (es : List (Nat × Nat × List (Byte × Byte))) : List (Nat × List Byte) :=
  if rop = 3 || 6 ≤ rop then
    (es.map (fun e => e.1 / 4)).dedup.filterMap (fun k =>
      let part := es.filter (fun e => e.1 / 4 == k)
      let bytes := part.flatMap (fun e => e.2.2.map (·.1))
      match part with
      | e :: _ => if bytes.length = 4 then some (e.2.1, bytes) else none
      | [] => none)
  else es.map (fun e => (e.2.1, e.2.2.map (·.1)))

/-- The command's packets towards one rank: entry, extension and sequence of the first. -/
structure Lane2 where
  m : Nat
  coll : Option Coll
  ord : Bool
  bar : Option Nat

/-- The packets of a command that one of its to an endpoint comes after: in SC and TSO those to the same home, in CO all that are not
delivered (R100). -/
def State.cmdAfter (s : State) (x : Run) (man : Man) : List Nat :=
  (s.flights.filter (fun f => f.pending && !f.inbound && f.cmd == some x.c.id && x.b.named x.core x.slot f.p.issuer
    && (match x.c.acc.dom with
        | .co => true
        | .tso | .sc => f.p.pkg.toNat == man.pkg && f.p.toCore == man.isCore && (!man.isCore || f.p.unit.toNat == man.unit)
        | .ub | .rc => false))).map (·.p.id)

/-- Send what is ready of the buffer: packets of 128 dense bytes, the last one short; false where the allowance holds one. -/
def State.flushPackets (s : State) (x : Run) (l : Lane2) (ready total : Nat) : Nat → Bool × State
  | 0 => (true, s)
  | fuel + 1 =>
    match s.run? x.core x.slot x.c.id with
    | none => (true, s)
    | some y =>
      let p := y.c.pk
      if ready ≤ 128 * p || (ready < 128 * (p + 1) && ready < total) then (true, s)
      else
        let payload := min 128 (total - 128 * p)
        let man := x.c.man l.m
        if !s.fits x.b.ctx l.m man payload then (false, s)
        else
          let (mine, rest) := y.c.buf.partition (fun e => e.1 / 128 == p)
          let op := match l.coll with
            | some c =>
              if c.rop = 0 then PktOp.store (joinRuns (mine.map (·.2)))
              else .reduce c.rop (if l.ord then some (c.rank, c.cmask) else none) (ropElems c.rop mine)
            | none => .store (joinRuns (mine.map (·.2)))
          let seat : Seat := { convoy := x.c.convoy, item := x.c.item, bar := l.bar, after := s.cmdAfter x man,
                               coll := l.coll.map (fun c => c.seqbase + BitVec.ofNat 32 p) }
          let s := s.bumpCe x.core 2 payload
          let (id, s) := s.send (s.cmdSender x) l.m man op x.c.acc.dom x.c.acc.scope x.c.acc.relf payload seat (some x.c.id) none
          State.flushPackets (s.modCmd x (fun c => { c with
            buf := rest, pk := p + 1, atSource := c.atSource ++ [id], unacked := c.unacked ++ [id] })) x l ready total fuel

/-- The move towards rank k: the origin shifted by ROFF in RDIM (R173). -/
def Move.toRank (v : Move) (c : Coll) (k : Nat) : Move :=
  { v with org := listMod v.org c.rdim (fun o => o + c.roff * k) }

/-- Destinations of a remote move: entry and move of each. -/
def remoteDests (x : Run) (v : Move) (coll : Option Coll) : List (Nat × Move) :=
  match coll with
  | some c => c.ranks.map (fun k => (c.mbase + k, v.toRank c k))
  | none => [((x.c.entry).getD 0, v)]

/-- Unit i of a move to remote endpoints: row i of the destinations laid end to end, after the packets that are ready have
left; the last unit sends the rest. -/
def State.remoteUnit (s : State) (x : Run) (v : Move) (coll : Option Coll) (bar : BarRef) (i : Nat) : Did :=
  let ds := remoteDests x v coll
  let rows := v.h.rows
  let total := v.h.tileBytes v.df
  let laneOf := fun (m : Nat) => ({ m := m, coll := coll, ord := v.h.ord, bar := bar } : Lane2)
  let ready := if i % rows = 0 then total else i % rows * v.h.rb v.df
  let before := if i = 0 then (true, s)
    else
      match listGet (0, v) ds ((i - 1) / rows) with
      | (m, _) => s.flushPackets x (laneOf m) ready total (ready / 128 + 2)
  match before with
  | (false, s) => .held s
  | (true, s) =>
    let s := if i % rows = 0 then s.modCmd x (fun c => { c with pk := 0, buf := [] }) else s
    if ds.length ≤ i / rows then .done s
    else
      let (m, w) := listGet (0, v) ds (i / rows)
      if (match coll with | some c => c.rop != 0 | none => false)
          && s.outside x.b.ctx (x.c.man m).pkg then .failed s { cause := 3, lane := 0 }
      else
        match s.remoteOuts x w (i % rows) with
        | .error (f, s) => .failed s f
        | .ok (es, s) =>
          let man := x.c.man m
          if (match coll with | some c => c.rop != 0 | none => false) && es.any (fun e => s.homeIrrev x.b.ctx man e.2.1) then
            .failed s { cause := 3, lane := 0 }
          else .done (s.modCmd x (fun c => { c with buf := c.buf ++ es }))

/-- Offsets of the target bytes that row r of a remote source needs beside those of the rows before it. -/
def Move.needs (v : Move) (r : Nat) : List Nat :=
  if v.h.toTensor then
    match v.dense with
    | .at base => (List.range (v.h.rb v.df)).map (fun i => base + r * v.h.rb v.df + i)
    | .tile .. => []
  else
    ((v.reads r).flatMap (fun o => if o.2 then (List.range o.1.2).map (fun (i : Nat) => wrapTo 64 (o.1.1 + i)) else [])).dedup

/-- Ask a remote source for row r: loads of up to 128 bytes each. -/
def State.askRow (s : State) (x : Run) (v : Move) (r : Nat) : State :=
  let offs := v.needs r
  let m := (x.c.entry).getD 0
  let man := x.c.man m
  let s := (List.range (ceilDiv offs.length 128)).foldl (fun s i =>
    let s := s.bumpCe x.core 1 (min 128 (offs.length - 128 * i))
    let (id, s) := s.send (s.cmdSender x) m man (.load ((offs.drop (128 * i)).take 128) 1) x.c.acc.dom x.c.acc.scope false 0
      { convoy := x.c.convoy, item := x.c.item } (some x.c.id) none
    s.modCmd x (fun c => { c with atSource := c.atSource ++ [id], unacked := c.unacked ++ [id] })) s
  s.modCmd x (fun c => { c with asked := r + 1 })

end Sys2Proof.Machine
end

