-- ==== Sys2Proof/Machine/Matrix.lean ====
section
/-! DEFINITION. The matrix sequencer: sub-blocks of a multiply (R122, R145 to R147, R332) and numerical telemetry
(R124 to R126, R471). -/

namespace Sys2Proof.Machine

/-! ## One element (R122) -/

/-- Element k of row r of a tile, as a value; a tile operand read never flushes. -/
def Block.tileVal (b : Block) (t : Nat) (c : TileCfg) (r k : Nat) : Val :=
  let at_ := 32768 * t + r * c.rowb
  if fmtSq c.fmt then sqDecode (fmtSqBits c.fmt) (getBytes b.tiles (at_ + k / 16 * fmtBlk c.fmt) (fmtBlk c.fmt)) (k % 16)
  else
    let bits := fmtBits c.fmt
    fmtDecode c.fmt (codeIn c.fmt k (getBytes b.tiles (at_ + bits * k / 8) (ceilDiv bits 8)))

/-- Rows of a multiply's operands, decoded once. -/
def Block.tileRow (b : Block) (t : Nat) (c : TileCfg) (r : Nat) : List Val :=
  (List.range c.k).map (b.tileVal t c r)

/-- An FP32 word as an arithmetic input under a snapshot. -/
def accIn (mode : Word) (x : Nat) : Val := fp32.decode (fp32.flushBits (ftzOf mode fp32) x)

/-- The terms of a chunk: its products, or an infinity of their sum's sign where the sum lies beyond the largest FP32 number
(R122, log 72). -/
def chunkTerms (ps : List Val) : List Val :=
  match Val.sum 0 ps with
  | .fin n m e => if (fp32.decode 0x7F7FFFFF).lt (.fin false m e) then [.inf n] else ps
  | _ => ps

/-- One element over its chunks of 16 products, one rounding each. -/
def mmaChunks (mode : Word) : List (List Val) → Nat → Nat
  | [], acc => acc
  | ps :: t, acc => mmaChunks mode t (fp32.roundZ (ftzOf mode fp32) 0 0 (Val.sum 0 (accIn mode acc :: chunkTerms ps)))

/-- The products of two rows. -/
def products (a b : List Val) : List Val := (a.zip b).map (fun p => p.1.mul p.2)

/-- An integer product sum. -/
def intSum (a b : List Val) : Int := (a.zip b).foldl (fun s p => s + p.1.toInt 0 0 * p.2.toInt 0 0) 0

/-- One output element from its accumulator word. -/
def mmaElem (mode : Word) (int8 : Bool) (a b : List Val) (acc : Word) : Word :=
  if int8 then wd (wrapTo 32 ((acc.toNat : Int) + intSum a b)) else wd (mmaChunks mode (chunks16 (products a b)) acc.toNat)

/-! ## Sub-blocks (R146) -/

/-- Sub-blocks of a multiply. -/
def Mma.total (m : Mma) : Nat := ceilDiv m.ca.rows 64 * ceilDiv m.cb.rows 64

/-- The start index of the descriptor. -/
def Mma.start (m : Mma) : Nat := field m.desc.toNat 16 4

/-- The elements of sub-block i: row and column. -/
def Mma.elems (m : Mma) (i : Nat) : List (Nat × Nat) :=
  let nb := ceilDiv m.cb.rows 64
  let rows := (List.range (min 64 (m.ca.rows - i / nb * 64))).map (· + i / nb * 64)
  let cols := (List.range (min 64 (m.cb.rows - i % nb * 64))).map (· + i % nb * 64)
  rows.flatMap (fun r => cols.map (fun c => (r, c)))

/-- The accumulator word that an element starts from. -/
def Block.accStart (b : Block) (m : Mma) (r c : Nat) : Word :=
  if m.z then 0 else KMap.get 0 b.acc (m.abase + r * m.cb.rows + c)

/-- The results of a sub-block: word index, value. -/
def Block.subResults (b : Block) (m : Mma) (mode : Word) (i : Nat) : List (Nat × Word) :=
  (m.elems i).map (fun (r, c) =>
    (m.abase + r * m.cb.rows + c,
     mmaElem mode (m.ca.fmt == 7) (b.tileRow m.ta m.ca r) (b.tileRow m.tb m.cb c) (b.accStart m r c)))

/-! ## Telemetry (R124 to R126, R471) -/

/-- The reference of one element: fused multiply-adds in ascending K, or the exact integer. R124 does not say whether FTZ32 of the
snapshot applies here: the reference path never flushes; the model's choice (log 66). -/
def refElem (int8 : Bool) (a b : List Val) (acc : Word) : Val :=
  if int8 then .ofInt (signedOf 32 acc.toNat + intSum a b)
  else fp32.decode ((products a b).foldl (fun x p => fp32.round 0 0 (Val.sum 0 [fp32.decode x, p])) acc.toNat)

/-- |d - r| and |d - r| / |r| of a checked element. R124 says nothing of infinities: of one sign they differ by a NaN, of two by an infinity,
and against an infinite r the relative deviation is a NaN (DESIGN CHOICE, log 100). -/
def deviations (d r : Val) : Val × Val :=
  if d.isNan || r.isNan then (.nan false, .nan false)
  else
    let x := (Val.sum 0 [d, r.negate]).withSign false
    if r.isZero then (x, if d.isZero then .zero false else .inf false)
    else
      match x, r with
      | .fin _ m e, .fin _ n f => (x, quotient false m n (e - f) (80 + Nat.log2 n))
      | .fin .., _ => (x, .zero false)
      | .inf _, .fin .. => (x, .inf false)
      | _, _ => (x, .nan false)

/-- The largest of deviations. R125 does not say what it is where one of them is a NaN: here a NaN stands above all (DESIGN CHOICE, log 86). -/
def devMax (a b : Val) : Val := if a.isNan || b.isNan then .nan false else if a.lt b then b else a

/-- The 256 bits of a telemetry record. R125 does not say how RELDEV and ABSDEV are rounded to FP32: the exact deviation is rounded
to nearest-even; the model's choice (log 65). -/
def telRecord (rel abs : Val) (sub : Nat) (m : Mma) (core dropped : Nat) (block node : Nat) (clock : Dword) : Nat :=
  at' 224 32 (fp32.round 0 0 rel) + at' 192 32 (fp32.round 0 0 abs) + at' 176 16 sub + at' 172 4 m.ca.fmt
    + at' 168 4 m.cb.fmt + at' 144 16 core + at' 128 16 dropped + at' 96 32 block + at' 64 32 node + at' 0 64 clock.toNat

/-- The context may write its telemetry slot. -/
def State.telOpen (s : State) (c a : Nat) : Bool :=
  match s.vTargetOf c a (·.w) with
  | some t => s.admitsTgt c t
  | none => false

/-- Append a record to the ring, or count it lost to the core, whichever context it is of (R126, R471, log 76). A ring that is off takes and
loses nothing (R452, log 57). -/
def State.telAppend (s : State) (core c : Nat) (bits : Nat → Nat) : State :=
  let y := s.ctx c
  let a := y.telbase.toNat * 32 + 32 * (y.telTail.toNat % 2 ^ y.telLog2n.toNat)
  let lost := (s.core core).telLost
  if y.telLog2n == 0 then s
  else if ringFull y.telTail y.telHead y.telLog2n.toNat || !s.telOpen c a then
    s.modCore core (fun k => { k with telLost := min 0xFFFF (lost + 1) })
  else
    ((s.modCore core (fun k => { k with telLost := 0 })).setCtx c { y with telTail := y.telTail + 1 }).vWrite c a (leBytes 32 (bits lost))

/-- MMA_STEPS of a core: the steps of a sub-block, ⌈K/16⌉ (R146, R494). -/
def State.countSteps (s : State) (core : Nat) (m : Mma) : State := s.bump (0x1000 * s.sys.physCore core + 0x420) (ceilDiv m.ca.k 16)

/-- Count a completed sub-block and check it where its count says so (R124); TEL_CYCLES gains an amount that is free (log 94). -/
def State.telemetry (s : State) (x : Run) (m : Mma) (i : Nat) (b : Block) (res : List (Nat × Word)) : State :=
  let mode := x.c.mode
  let n := KMap.get 0 (s.core x.core).telCount x.b.ctx + 1
  if !mode.getLsbD 15 then s
  else
    let s := s.modCore x.core (fun k => { k with telCount := KMap.put k.telCount x.b.ctx n })
    if n % 2 ^ field mode.toNat 10 5 != 0 then s
    else
      let s := { s.bump (0x1000 * s.sys.physCore x.core + 0x428) (Config.freeWord s.freeCtr).toNat with freeCtr := s.freeCtr + 1 }
      let int8 := m.ca.fmt == 7
      let ds := ((m.elems i).zip res).map (fun ((r, c), (_, w)) =>
        deviations (if int8 then .ofInt (signedOf 32 w.toNat) else fp32.decode w.toNat)
          (refElem int8 (b.tileRow m.ta m.ca r) (b.tileRow m.tb m.cb c) (b.accStart m r c)))
      let rel := ds.foldl (fun a d => devMax a d.2) (.zero false)
      let abs := ds.foldl (fun a d => devMax a d.1) (.zero false)
      s.telAppend x.core x.b.ctx (fun lost =>
        telRecord rel abs i m x.core lost x.b.task.lin x.b.task.node (s.coreClock x.core))

/-! ## Running a multiply -/

/-- The multiply that a command runs now. -/
def Cmd.mma (c : Cmd) : Option Mma :=
  match c.op, c.state with
  | .tmma m, _ => some m
  | .tcpy _ _ _ _ _ (some m), .follow => some m
  | _, _ => none

/-- The command with its multiply at another sub-block. -/
def CmdOp.withNext (o : CmdOp) (n : Nat) : CmdOp :=
  match o with
  | .tmma m => .tmma { m with next := n }
  | .tcpy h org d c b (some m) => .tcpy h org d c b (some { m with next := n })
  | o => o

/-- The next sub-block of a running multiply; the last one completes the command (R332). -/
def State.subBlock (s : State) (x : Run) (m : Mma) : State :=
  match s.block x.core x.slot with
  | none => s
  | some b =>
    let res := b.subResults m x.c.mode m.next
    let s := (s.countSteps x.core m).telemetry x m m.next b res
    let s := s.modBlock x.core x.slot (fun b => { b with acc := res.foldl (fun a p => KMap.set 0 a p.1 p.2) b.acc })
    if m.total ≤ m.next + 1 then s.completeCmd x
    else s.modCmd x (fun c => { c with op := c.op.withNext (m.next + 1) })

/-- Run sub-blocks until the multiply completes or stops. -/
def State.subBlocks (s : State) (core slot k : Nat) : Nat → State
  | 0 => s
  | n + 1 =>
    match s.run? core slot k with
    | none => s
    | some x =>
      match x.c.mma with
      | none => s
      | some m => State.subBlocks (s.subBlock x m) core slot k n

/-- Commands of a block from which another, later one that cannot stop still waits for what they use (R143): none of them stops. -/
def neededBy : List Cmd → List Cmd
  | [] => []
  | c :: t =>
    let later := neededBy t
    if c.mma.isNone || later.any (fun d => d.op.uses.any (fun u => c.op.uses.any (fun v => u.meets v))) then c :: later else later

/-- The sequencer stops a multiply between sub-blocks: its block is being saved or a caravan halt is complete, and no command that must
complete first waits for it (R147, R151, log 67). -/
def State.mmaStops (s : State) (x : Run) : Bool :=
  (x.b.leaving || s.haltedBlock x.core x.slot x.b) && !(neededBy (x.b.cmds.filter (fun c => !c.credited))).any (fun c => c.id == x.c.id)

/-- A multiply may run: its place in the issue order has come, and neither a halt nor an eviction stops it. -/
def State.mmaRuns (s : State) (x : Run) : Bool := s.mayRun x && !s.mmaStops x

/-- TMMA_SUBBLOCK. -/
def execTmmaSubblock (core slot k : Nat) (s : State) : Host.Outcome State Fault Refusal :=
  match s.run? core slot k with
  | none => .next s
  | some x =>
    match x.c.mma with
    | none => .next s
    | some m => .next (if s.mmaRuns x then s.subBlock x m else s)

/-- FOLLOW_ON_START: the copy has landed, so its multiply starts, and the copy completes in the sense of R94. -/
def execFollowOnStart (core slot k : Nat) (s : State) : Host.Outcome State Fault Refusal :=
  match s.run? core slot k with
  | none => .next s
  | some x =>
    match x.c.op, x.c.state with
    | .tcpy _ _ _ _ _ (some _), .landed =>
      .next (if s.mayRun x then (s.releaseCmd x).modCmd x (fun c => { c with state := .follow }) else s)
    | _, _ => .next s

end Sys2Proof.Machine
end

