-- ==== Sys2Proof/Machine/Copy.lean ====
section
/-! DEFINITION. Majors 0x11 and 0x12: copies, tags, tiles, multiplies and drains (R315 to R335), with ACCRD and ACCWR
(R295). -/

namespace Sys2Proof.Machine

/-! ## Issue helpers -/

/-- A fault of an instruction that acts once. Its record's ADDR is zero: R357 does not say which address it is where ranges of a command fail
(DESIGN CHOICE, log 108). -/
def State.fail (s : State) (w : Who) (m : LaneMask) (cause : Nat) : Host.Outcome State Fault Refusal :=
  s.raise w m { cause := cause, lane := lowest m }

/-- Act once when any lane's guard holds, after the check of the command flags (R92, R316). -/
def State.once (s : State) (h : Hd) (a : CAcc) (f : State → Who → LaneMask → Host.Outcome State Fault Refusal) :
    Host.Outcome State Fault Refusal :=
  s.anyLane h fun w m => if badFlags a then s.fail w m 3 else f s w m

/-- Act once, with the local stores of the issuing threads performed first; the slot is held while one of them is (R93). -/
def State.onceLocal (s : State) (h : Hd) (a : CAcc) (f : State → Who → LaneMask → Host.Outcome State Fault Refusal) :
    Host.Outcome State Fault Refusal :=
  s.once h a fun s w m =>
    match s.settleLocal w m with
    | (false, s) => .next s
    | (true, s) =>
      match s.issuer with
      | some w => f s w m
      | none => .next s

/-- The access of a command that carries no domain. -/
def plainAcc : CAcc := { dom := .ub, scope := .grp, acqf := false, relf := false }

/-! ## CPY (R318, R319) -/

/-- The valid count of a lane. -/
def Who.cpyCount (w : Who) (l : Nat) : CpyCnt → Nat
  | .v x => (w.src l false x).toNat
  | .imm i => i.toNat

/-- The V reads of a CPY. -/
def cpyReads (o : CpyOp) : List VRead :=
  [⟨o.src, o.dir == .gl⟩, ⟨o.dst, o.dir == .lg⟩] ++ (match o.cnt with | .v x => vr32 x | .imm _ => [])

/-- The range checks of one side of a lane: local allocation and control area, or the address bits (R48, R166). -/
def Who.cpySide (w : Who) (l a n : Nat) (glob store : Bool) : Except Flt Nat :=
  if glob then (if 2 ^ 52 < a + n then .error { cause := 8, lane := l, addr := dw a } else .ok a)
  else w.locAccess l a n store

/-- A lane of a CPY, with its ranges checked; nothing is read when its count is zero. -/
def Who.cpyLane (w : Who) (o : CpyOp) (n l : Nat) : Except Flt CpyLane :=
  let v := w.cpyCount l o.cnt
  let src := (w.src l (o.dir == .gl) o.src).toNat
  let dst := (w.src l (o.dir == .lg) o.dst).toNat
  match (if v = 0 then .ok src else w.cpySide l src v (o.dir == .gl) false), w.cpySide l dst n (o.dir == .lg) true with
  | .error e, _ => .error e
  | _, .error e => .error e
  | .ok _, .ok _ => .ok ⟨l, src, dst, v⟩

/-- CPY. -/
def execCpy (o : CpyOp) (s : State) : Host.Outcome State Fault Refusal :=
  let n := 4 * 2 ^ o.sz.toNat
  s.access o.h (cpyReads o) [] (badFlags o.acc)
    (fun w l => if n < w.cpyCount l o.cnt then .error { cause := 3, lane := l } else .ok ())
    fun w m _ =>
      if m = 0 then .next (s.skip w o.h.k)
      else
        match gather (lanesOf m) (w.cpyLane o n) with
        | .error e => s.raise w m e
        | .ok xs =>
          match s.settleLocal w m with
          | (false, s) => .next s
          | (true, s) =>
            match s.issuer with
            | none => .next s
            | some w => s.issueCmd w m o.h.k o.tag o.acc (.cpy o.dir n (xs.map (·.2))) none

/-- One lane of a running CPY: its bytes and the zero tail. -/
def State.cpyUnit (s : State) (x : Run) (dir : CpyDir) (n : Nat) (c : CpyLane) : Did :=
  let s0 := s
  let s := if dir == .gl then s.touchEng x.core x.b.ctx c.src c.cnt else s
  let src : Except Flt (List Byte × State) :=
    if c.cnt = 0 then .ok ([], s)
    else if dir == .gl then
      match s.engPieces x true false none c.src c.cnt with
      | .error f => .error { f with lane := c.lane }
      | .ok ps => .ok (s.engRead x true ps)
    else .ok ((match s.block x.core x.slot with | some b => Memory.readN b.mem c.src c.cnt | none => []), s)
  match src with
  | .error f => .failed s f
  | .ok (bs, s) =>
    let out := whole (bs ++ List.replicate (n - bs.length) 0)
    if dir == .lg then
      let s := s.touchEng x.core x.b.ctx c.dst n
      match s.engPieces x false true none c.dst n with
      | .error f => .failed s { f with lane := c.lane }
      | .ok ps => (s.engWrite x ps out).did s0 x.b.ctx
    else .done (s.modBlock x.core x.slot (fun b => { b with mem := Memory.writeMasked b.mem c.dst out }))

/-! ## Tag instructions (R325 to R327) -/

/-- Tags of a mask. -/
def tagsOf (mask : Dword) : List Nat := (List.range 64).filter (fun k => mask.getLsbD k)

/-- The lowest tag of a mask whose fault is to be delivered. -/
def Block.faultTag (b : Block) (mask : Dword) : Option Nat :=
  (tagsOf mask).find? (fun k => (b.tag k).count == 0 && (b.tag k).fault)

/-- CPYWAIT's condition. -/
def Block.tagsDone (b : Block) (mask : Dword) (any : Bool) : Bool :=
  mask == 0 || (if any then (tagsOf mask).any (fun k => (b.tag k).ready) else (tagsOf mask).all (fun k => (b.tag k).count == 0))

/-- The order that a passing CPYWAIT gives. -/
def State.passTags (s : State) (w : Who) (mask : Dword) (any : Bool) : State :=
  s.observeTags w (fun k => mask.getLsbD k && (!any || (w.b.tag k).ready))

/-- CPYWAIT. -/
def execCpywait (h : Hd) (any : Bool) (mask : BitVec 6) (s : State) : Host.Outcome State Fault Refusal :=
  s.anyLane h fun w m =>
    let x := w.g.readS mask.toNat true
    match w.b.faultTag x with
    | some k => .next (s.tagTrap w m k)
    | none =>
      if w.b.tagsDone x any then .next ((s.passTags w x any).skip w h.k)
      else .next (s.waitOn w (.cpy x any m))

/-- TAGFF. -/
def execTagff (h : Hd) (d : BitVec 6) (mask : BitVec 6) (s : State) : Host.Outcome State Fault Refusal :=
  s.anyLane h fun w m =>
    let x := w.g.readS mask.toNat true
    match w.b.faultTag x with
    | some k => .next (s.tagTrap w m k)
    | none =>
      match (tagsOf x).find? (fun k => (w.b.tag k).ready) with
      | some k => .next ((s.observeTags w (· == k)).finish w h.k (fun g => g.writeS d.toNat false (dw k)))
      | none => .next (s.finish w h.k (fun g => g.writeS d.toNat false 0xFFFFFFFF))

/-- TAGRD. -/
def execTagrd (h : Hd) (d : BitVec 6) (tag : BitVec 6) (s : State) : Host.Outcome State Fault Refusal :=
  s.anyLane h fun w _ =>
    let t := w.b.tag tag.toNat
    let s := if t.ready then s.observeTags w (· == tag.toNat) else s
    .next (s.finish w h.k (fun g => g.writeS d.toNat false (dw (t.count + if t.fault then 65536 else 0))))

/-! ## TCFG, TLD, TST, TZERO, TACC, TSTAT (R141, R328 to R330, R334) -/

/-- What TCFG accepts (R141). -/
def tcfgOk (x : Nat) : Bool :=
  let f := field x 28 4
  if f = 0 then x == 0
  else
    decide (f ≤ 10) && field x 25 3 == 0 && decide (1 ≤ field x 16 9) && decide (field x 16 9 ≤ 256)
      && field x 0 16 % fmtBlk f == 0 && decide (field x 16 9 * field x 0 16 ≤ 32768)

/-- TCFG: held while a command uses the tile (R143). -/
def execTcfg (h : Hd) (tile : BitVec 3) (v : BitVec 6) (s : State) : Host.Outcome State Fault Refusal :=
  s.anyLane h fun w m =>
    let t := tile.toNat
    if w.b.nodeRec.kern.tiles ≤ t || !tcfgOk (w.s32 v) then s.fail w m 3
    else if w.b.engaged [⟨.tile t, true⟩] then .next s
    else
      .next ((s.modBlock w.core w.slot (fun b => { b with tcfg := listSet b.tcfg t (wd (w.s32 v)) })).skip w h.k)

/-- TLD and TST: the whole tile to or from local memory. -/
def State.tileMove (s : State) (o : TileMv) (load : Bool) : Host.Outcome State Fault Refusal :=
  s.onceLocal o.h o.acc fun s w m =>
    let a := w.s32 o.addr
    match w.b.tileCfg o.tile.toNat with
    | none => s.fail w m 3
    | some c =>
      if a % 8 != 0 then s.fail w m 3
      else if !w.b.locCheck a (c.rows * c.rowb) (!load) then
        s.raise w m { cause := 8, lane := lowest m, addr := dw a }
      else
        s.issueCmd w m o.h.k o.tag o.acc (if load then .tld o.tile.toNat c a else .tst o.tile.toNat c a) none

/-- TLD. -/
def execTld (o : TileMv) (s : State) : Host.Outcome State Fault Refusal := s.tileMove o true

/-- TST. -/
def execTst (o : TileMv) (s : State) : Host.Outcome State Fault Refusal := s.tileMove o false

/-- TZERO. -/
def execTzero (h : Hd) (tag : BitVec 6) (tile : BitVec 3) (s : State) : Host.Outcome State Fault Refusal :=
  s.onceLocal h plainAcc fun s w m =>
    match w.b.tileCfg tile.toNat with
    | none => s.fail w m 3
    | some _ => s.issueCmd w m h.k tag plainAcc (.tzero tile.toNat) none

/-- TACC. -/
def execTacc (h : Hd) (add : Bool) (tag : BitVec 6) (tile : BitVec 3) (base : BitVec 6) (s : State) :
    Host.Outcome State Fault Refusal :=
  s.onceLocal h plainAcc fun s w m =>
    match w.b.tileCfg tile.toNat with
    | none => s.fail w m 3
    | some c =>
      if w.b.accSize < w.s32 base + c.rows * c.k then s.fail w m 8
      else s.issueCmd w m h.k tag plainAcc (.tacc tile.toNat c (w.s32 base) add) none

/-- The words that a running TACC writes. -/
def State.taccUnit (s : State) (x : Run) (t : Nat) (c : TileCfg) (base : Nat) (add : Bool) : State :=
  s.modBlock x.core x.slot (fun b =>
    let places := (List.range c.rows).flatMap (fun r => (List.range c.k).map (fun k => (r, k)))
    { b with acc := places.foldl (fun a (r, k) =>
        let i := base + r * c.k + k
        let v := b.tileVal t c r k
        let old := KMap.get 0 a i
        let y : Word :=
          if c.fmt = 7 then wd (wrapTo 32 (v.toInt 0 0 + (if add then (old.toNat : Int) else 0)))
          else if add then wd (fp32.roundZ (ftzOf x.c.mode fp32) 0 0 (Val.sum 0 [accIn x.c.mode old.toNat, v]))
          else wd (fp32.round 0 0 v)
        KMap.set 0 a i y) b.acc })

/-- The multiply of an unfinished command. -/
def CmdOp.mul : CmdOp → Option Mma
  | .tmma m => some m
  | .tcpy _ _ _ _ _ f => f
  | _ => none

/-- The status word of the oldest unfinished multiply (R334). -/
def Block.tstat (b : Block) : Nat :=
  match b.cmds.findSome? (fun c => c.op.mul.map (fun m => (c, m))) with
  | none => 0
  | some (c, m) => 2 ^ 31 + (if m.next != m.start then 2 ^ 30 else 0) + at' 16 6 c.tag + at' 0 16 m.next

/-- TSTAT. -/
def execTstat (h : Hd) (d : BitVec 6) (s : State) : Host.Outcome State Fault Refusal :=
  s.anyLane h fun w _ => .next (s.finish w h.k (fun g => g.writeS d.toNat false (dw w.b.tstat)))

/-! ## TMMA (R331, R332) -/

/-- Check a matrix descriptor: the multiply, or the cause. -/
def Block.mmaOf (b : Block) (desc : Nat) : Except Nat Mma :=
  if bitAt desc 31 || field desc 20 4 != 0 then .error 3
  else
    match b.tileCfg (field desc 27 3), b.tileCfg (field desc 24 3) with
    | some ca, some cb =>
      let legal := fun (f : Nat) => f != 1 && f != 7
      let m : Mma := { z := bitAt desc 30, ta := field desc 27 3, tb := field desc 24 3, ca := ca, cb := cb,
                       abase := field desc 0 16, next := field desc 16 4, desc := wd desc }
      if !((ca.fmt == 7 && cb.fmt == 7) || (legal ca.fmt && legal cb.fmt)) || ca.k != cb.k || decide (m.total ≤ m.next) then
        .error 3
      else if b.accSize < m.abase + ca.rows * cb.rows then .error 8
      else .ok m
    | _, _ => .error 3

/-- TMMA. -/
def execTmma (h : Hd) (tag : BitVec 6) (desc : BitVec 6) (s : State) : Host.Outcome State Fault Refusal :=
  s.onceLocal h plainAcc fun s w m =>
    match w.b.mmaOf (w.s32 desc) with
    | .error c => s.fail w m c
    | .ok x => s.issueCmd w m h.k tag plainAcc (.tmma x) none

/-! ## Records at issue (R130 to R134, R320, R322) -/

/-- Four origin coordinates. -/
def Who.origin (w : Who) (n : BitVec 6) : List Int := (List.range 4).map (fun k => signedOf 32 (w.sAt n k))

/-- A barrier descriptor (R320): the word, or none; `own` checks it against the block's allocation. -/
def Block.barOf (b : Block) (x : Nat) (own : Bool) : Except Nat BarRef :=
  if field x 19 12 != 0 then .error 3
  else if !bitAt x 31 then .ok none
  else if field x 0 19 % 8 != 0 then .error 3
  else if own && decide (b.locSize < field x 0 19 + 8) then .error 8
  else .ok (some (field x 0 19))

/-- Read a record and check what stands in it alone; none is an illegal operand. -/
def State.readShape (_s : State) (w : Who) (off : Nat) (org : List Int) : Option Shape :=
  match w.b.recordAt off 64 with
  | none => none
  | some bs =>
    let h := shapeOf bs
    if h.fieldsOk (field (leNat bs) 496 16) && h.blockedMay org then some h else none

/-- A local tensor side lies in the allocation, and a written one outside the control area (R322). -/
def Block.tensorLocal (b : Block) (h : Shape) (org : List Int) : Bool :=
  h.tspace != 1 || (h.runs org).all (fun r => decide (0 ≤ r.1) && b.locCheck r.1.toNat r.2 h.toTensor)

/-- The dense side of a TCPY, with its format; none is an illegal operand (R134, R320). Of an SQ format under GEOM 1 whose BOX0 is no
multiple of 16, RB is no whole number of blocks; R134 is silent, and a LOC or RLOC side is an illegal operand here too; the model's
choice (log 68). -/
def Block.denseOf (b : Block) (h : Shape) (base : Nat) : Option (Dense × Nat) :=
  if h.dtile then
    if 8 ≤ base then none
    else
      match b.tileCfg base with
      | none => none
      | some c =>
        let df := denseFmt h (some c)
        if h.boxAt 0 % unitOf df != 0 || c.rows != h.rows || c.rowb != h.rb df then none else some (.tile base c, df)
  else
    let df := denseFmt h none
    if h.dspace = 3 then (if h.fmt = 0 then none else some (.at base, df))
    else if h.boxAt 0 % unitOf df != 0 || (h.dspace == 1 && base % alignOf df != 0) then none
    else some (.at base, df)

/-- The dense side lies in its allocation, all of it; the bytes of local memory that the move touches after clipping are judged as any
local access, too (R134, R322). -/
def Block.denseFits (b : Block) (h : Shape) (org : List Int) (df base : Nat) : Bool :=
  if h.dtile then true
  else if h.dspace = 3 then decide (base + h.boxAt 0 * h.rows ≤ b.accSize)
  else if h.dspace = 1 then decide (base + h.tileBytes df ≤ b.locSize) && (h.denseRuns org df base).all (fun r => b.locCheck r.1 r.2 (!h.toTensor))
  else true

/-- The lowest byte of runs, and one past the highest. -/
def spanOf : List (Int × Nat) → Int × Int
  | [] => (0, 0)
  | r :: t => t.foldl (fun a x => (min a.1 x.1, max a.2 (x.1 + x.2))) (r.1, r.1 + r.2)

/-- A remote side lies in the window of a home endpoint (R174). -/
def Man.admits (m : Man) (lo hi : Int) : Bool := m.isCore || (decide (0 ≤ lo) && decide (hi ≤ m.wsize * 65536))

/-- The endpoint descriptor of R320: entry and convoy, or the cause. -/
def Block.endpOf (b : Block) (x : Nat) : Except Nat (Nat × Option Nat) :=
  if field x 9 23 != 0 || (bitAt x 8 && field x 4 4 != 0) then .error 3
  else
    match b.endp (if bitAt x 8 then .convoy (BitVec.ofNat 4 x) else .entry (BitVec.ofNat 8 x)) with
    | some e => .ok e
    | none => .error 3

/-- The cause of a failed check. -/
def errOf {α : Type} : Except Nat α → Option Nat
  | .error c => some c
  | .ok _ => none

/-- The first fault of several checks: an illegal operand stands in row 7 of R230, every other cause in row 8, inside which R230 and R322 give
no order: here the first of the list (DESIGN CHOICE, log 107). -/
def firstCause (es : List (Option Nat)) : Option Nat := if es.contains (some 3) then some 3 else es.findSome? id

/-- A condition as a check. -/
def orCause (ok : Bool) (c : Nat) : Option Nat := if ok then none else some c

/-- The collective extension and its legality (R172). -/
def State.collCheck (s : State) (w : Who) (h : Shape) (org : List Int) (off : Nat) (bar : Bool) : Except Nat Coll :=
  match w.b.recordAt off 128 with
  | none => .error 3
  | some bs =>
    let (c, ok) := collOf (bs.drop 64)
    let fmtOk := match c.rop with
      | 0 => true
      | 1 | 4 | 5 => h.fmt == 1
      | 2 => h.fmt == 3
      | _ => h.fmt == 0
    if !ok || !h.toTensor || h.tspace != 2 || !fmtOk then .error 3
    else
      match firstCause (c.ranks.flatMap (fun (k : Nat) =>
          let o := listMod org c.rdim (fun o => o + c.roff * k)
          match s.entry w.ctx (c.mbase + k) with
          | none => [orCause (h.blockedOk o) 3, some 10]
          | some m =>
            let (lo, hi) := spanOf (h.runs o)
            [orCause (!(m.isCore && c.rop != 0) && !(bar && !m.isCore) && h.blockedOk o) 3, errOf (s.checkEntry w.ctx (c.mbase + k) .coll),
             orCause (m.admits lo hi) 8])) with
      | some e => .error e
      | none => .ok c

/-- A TCPY writes to RLOC, and it has a side there. -/
def Shape.farOut (h : Shape) : Bool := if h.toTensor then h.tspace == 2 else (!h.dtile && h.dspace == 2)
def Shape.far (h : Shape) : Bool := h.tspace == 2 || (!h.dtile && h.dspace == 2)

/-- The endpoint of a TCPY, checked; `bar` says that a barrier word is named (R153, R162, R174, R320, R322). -/
def State.tcpyEnds (s : State) (w : Who) (h : Shape) (org : List Int) (dense : Dense) (df : Nat) (bar : Bool) (ent off : Nat) :
    Except Nat (Option Coll × Option (Nat × Option Nat)) :=
  if h.coll then
    let cv : Except Nat (Option (Nat × Option Nat)) :=
      if ent = 0 then .ok none else if !bitAt ent 8 then .error 3 else (w.b.endpOf ent).map some
    let coll := s.collCheck w h org off bar
    match firstCause [errOf cv, errOf coll], cv, coll with
    | none, .ok e, .ok c => .ok (some c, e)
    | c, _, _ => .error (c.getD 3)
  else if !h.far then (if ent = 0 then .ok (none, none) else .error 3)
  else
    match w.b.endpOf ent with
    | .error e => .error e
    | .ok (m, cv) =>
      let runs := if h.tspace = 2 then h.runs org
        else match dense with
          | .at b => (h.denseRuns org df b).map (fun r => ((r.1 : Int), r.2))
          | .tile .. => []
      let (lo, hi) := spanOf runs
      let kind := match s.entry w.ctx m with
        | some man => [orCause (!(h.farOut && bar && !man.isCore)) 3, orCause (man.admits lo hi) 8]
        | none => []
      match firstCause (errOf (s.checkEntry w.ctx m (if h.farOut then .write else .read)) :: kind) with
      | some e => .error e
      | none => .ok (none, some (m, cv))

/-- The follow-on multiply of a TCPY: none, one, or the cause (R148, R320). -/
def Who.followOn (w : Who) (o : TcpyOp) (h : Shape) : Except Nat (Option Mma) :=
  if !o.fo then .ok none
  else if h.toTensor || !h.dtile || h.coll then .error 3
  else (w.b.mmaOf (w.sAt o.dense 3)).map some

/-- TCPY (R320 to R324): every check of row 7 of R230 comes before those of row 8. -/
def execTcpy (o : TcpyOp) (s : State) : Host.Outcome State Fault Refusal :=
  s.onceLocal o.h o.acc fun s w m =>
    let org := w.origin o.org
    let off := w.s32 o.rcd
    let base := w.sAt o.dense 0
    match s.readShape w off org with
    | none => s.fail w m 3
    | some h =>
      match (if h.pairOk then w.b.denseOf h base else none) with
      | none => s.fail w m 3
      | some (dense, df) =>
        let bar := w.b.barOf (w.sAt o.dense 1) (!h.farOut)
        let ends := s.tcpyEnds w h org dense df (bitAt (w.sAt o.dense 1) 31) (w.sAt o.dense 2) off
        let fo := w.followOn o h
        match firstCause [errOf bar, errOf ends, errOf fo, orCause (w.b.denseFits h org df base && w.b.tensorLocal h org) 8],
            bar, ends, fo with
        | none, .ok br, .ok (coll, ep), .ok x => s.issueCmd w m o.h.k o.tag o.acc (.tcpy h org dense coll br x) ep
        | c, _, _, _ => s.fail w m (c.getD 3)

/-! ## TDRAIN (R149, R150, R335) -/

/-- A drain record: dense to tensor, from ACC, to GLB, HOST or LOC, with FMT 1 to 10; none is an illegal operand. -/
def State.drainShape (s : State) (w : Who) (off : Nat) (org : List Int) : Option Shape :=
  match s.readShape w off org with
  | none => none
  | some h =>
    if h.coll || !h.toTensor || h.dtile || h.dspace != 3 || h.fmt == 0 || !(h.tspace == 0 || h.tspace == 1 || h.tspace == 4) then none
    else some h

/-- The second record of a drain: none named, one, or an illegal operand. -/
def State.drainSecond (s : State) (w : Who) (o : TdrainOp) (h : Shape) : Except Nat (Option Shape) :=
  if w.sAt o.desc 1 = 0xFFFFFFFF then .ok none
  else
    match s.drainShape w (w.sAt o.desc 1) (w.origin o.org2) with
    | none => .error 3
    | some g => if g.boxAt 0 != h.rows || g.rows != h.boxAt 0 then .error 3 else .ok (some g)

/-- TDRAIN: every check of row 7 of R230 comes before those of row 8. -/
def execTdrain (o : TdrainOp) (s : State) : Host.Outcome State Fault Refusal :=
  s.onceLocal o.h o.acc fun s w m =>
    let org := w.origin o.org
    let org2 := w.origin o.org2
    let base := w.sAt o.desc 2
    match (if field base 16 16 != 0 then none else s.drainShape w (w.sAt o.desc 0) org) with
    | none => s.fail w m 3
    | some h =>
      let second := s.drainSecond w o h
      let bar := w.b.barOf (w.sAt o.desc 3) true
      let fits := w.b.tensorLocal h org && decide (base + h.boxAt 0 * h.rows ≤ w.b.accSize)
        && (match second with | .ok (some g) => w.b.tensorLocal g org2 | _ => true)
      match firstCause [errOf second, errOf bar, orCause fits 8], second, bar with
      | none, .ok h2, .ok br => s.issueCmd w m o.h.k o.tag o.acc (.tdrain h org h2 org2 base br o.clr) none
      | c, _, _ => s.fail w m (c.getD 3)

/-! ## ACCRD, ACCWR (R50, R295) -/

/-- The words of a lane: alignment of a pair, then the allocation. -/
def Who.accAccess (w : Who) (ty : Ty) (l i : Nat) : Except Flt Nat :=
  let n := sizeOf ty / 4
  if i % n != 0 then .error { cause := 3, lane := l, addr := dw i }
  else if w.b.accSize < i + n then .error { cause := 8, lane := l, addr := dw i }
  else .ok i

/-- The lanes' words are in use by a command (R143). -/
def Block.accBusy (b : Block) (ty : Ty) (xs : List (Nat × Nat)) (write : Bool) : Bool :=
  b.engaged (xs.map (fun x => ⟨.acc x.2 (sizeOf ty / 4), write⟩))

/-- ACCRD: held while a command that writes the words is unfinished. -/
def execAccrd (o : AccrdOp) (s : State) : Host.Outcome State Fault Refusal :=
  s.access o.h (baseReads false o.base) (vd o.d (wide o.ty)) false
    (fun w l => w.accAccess o.ty l (w.laddr l o.base o.imm))
    fun w _ xs =>
      if w.b.accBusy o.ty xs false then .next s
      else
        let vs := xs.map (fun x =>
          (x.1, if wide o.ty then pairOf (KMap.get 0 w.b.acc (x.2 + 1)) (KMap.get 0 w.b.acc x.2)
                else (KMap.get 0 w.b.acc x.2).setWidth 64))
        .next (s.finish w o.h.k (writeVals vs o.wb o.d (wide o.ty)))

/-- ACCWR: held while a command uses the words; the highest lane's value stands. -/
def execAccwr (o : AccwrOp) (s : State) : Host.Outcome State Fault Refusal :=
  s.access o.h (baseReads false o.base ++ vr o.ty o.data) [] false
    (fun w l => w.accAccess o.ty l (w.laddr l o.base o.imm))
    fun w _ xs =>
      if w.b.accBusy o.ty xs true then .next s
      else
        let put := fun (a : KMap Word) (x : Nat × Nat) =>
          let v := w.src x.1 (wide o.ty) o.data
          let a := KMap.set 0 a x.2 (loWord v)
          if wide o.ty then KMap.set 0 a (x.2 + 1) (hiWord v) else a
        .next ((s.modBlock w.core w.slot (fun b => { b with acc := xs.foldl put b.acc })).skip w o.h.k)

/-! ## COMMAND_COMPLETE (R94, R139, R148, R157, R323) -/

/-- The move of a command's unit, for TCPY and TDRAIN. -/
def CmdOp.move (o : CmdOp) (second : Bool) : Option Move :=
  match o with
  | .tcpy h org d _ _ _ =>
    some { h := h, org := org, dense := d, tr := none
           df := denseFmt h (match d with | .tile _ c => some c | .at _ => none) }
  | .tdrain h org h2 org2 base _ _ =>
    if second then h2.map (fun g => { h := g, org := org2, df := denseFmt g none, dense := .at base, tr := some (h.boxAt 0) })
    else some { h := h, org := org, df := denseFmt h none, dense := .at base, tr := none }
  | _ => none

/-- Units of a command's work. -/
def Run.units (x : Run) : Nat :=
  match x.c.op with
  | .cpy _ _ ls => ls.length
  | .tcpy h _ _ coll _ _ =>
    match x.c.op.move false with
    | some v => if v.remoteOut then h.rows * (remoteDests x v coll).length + 1 else h.rows
    | none => 0
  | .tdrain h _ h2 _ _ _ _ => h.rows + (match h2 with | some g => g.rows | none => 0) + 1
  | .xsend _ len _ _ => ceilDiv len 128
  | _ => 1

/-- One packet of an XSEND. R175 divides a collective into packets of up to 128 bytes; an XSEND, and a TCPY that is no collective, are
divided in the same way from the start of the transfer, which the spec does not say (DESIGN CHOICE, log 88). -/
def State.xsendUnit (s : State) (x : Run) (src len dst : Nat) (bar : BarRef) (i : Nat) : Did :=
  let n := min 128 (len - 128 * i)
  let m := (x.c.entry).getD 0
  let man := x.c.man m
  if !s.fits x.b.ctx m man n then .held s
  else
    let bs := match s.block x.core x.slot with | some b => Memory.readN b.mem (src + 128 * i) n | none => []
    let s := s.bumpCe x.core 2 n
    let (id, s) := s.send (s.cmdSender x) m man (.store [(dst + 128 * i, whole bs)]) x.c.acc.dom x.c.acc.scope x.c.acc.relf n
      { convoy := x.c.convoy, item := x.c.item, bar := bar, after := s.cmdAfter x man } (some x.c.id) none
    .done (s.modCmd x (fun c => { c with atSource := c.atSource ++ [id], unacked := c.unacked ++ [id] }))

/-- One unit of a command's work. -/
def State.unit (s : State) (x : Run) (i : Nat) : Did :=
  match x.c.op with
  | .cpy dir n ls =>
    match ls.drop i with
    | c :: _ => s.cpyUnit x dir n c
    | [] => .done s
  | .tcpy _ _ _ coll bar _ =>
    match x.c.op.move false with
    | none => .done s
    | some v => if v.remoteOut then s.remoteUnit x v coll bar i else s.moveRow x v i
  | .tdrain h _ _ _ base _ clr =>
    if i < h.rows then
      match x.c.op.move false with
      | some v => s.moveRow x v i
      | none => .done s
    else if i + 1 < x.units then
      match x.c.op.move true with
      | some v => s.moveRow x v (i - h.rows)
      | none => .done s
    else if clr then
      .done (s.modBlock x.core x.slot (fun b =>
        { b with acc := b.acc.filter (fun p => decide (p.1 < base) || decide (base + h.boxAt 0 * h.rows ≤ p.1)) }))
    else .done s
  | .tld t c a =>
    .done (s.modBlock x.core x.slot (fun b =>
      { b with tiles := putMasked b.tiles (32768 * t) (whole (Memory.readN b.mem a (c.rows * c.rowb))) }))
  | .tst t c a =>
    .done (s.modBlock x.core x.slot (fun b =>
      { b with mem := Memory.writeN b.mem a (getBytes b.tiles (32768 * t) (c.rows * c.rowb)) }))
  | .tzero t =>
    .done (s.modBlock x.core x.slot (fun b =>
      { b with tiles := b.tiles.filter (fun p => p.1 / 32768 != t) }))
  | .tacc t c base add => .done (s.taccUnit x t c base add)
  | .xsend src len dst bar => s.xsendUnit x src len dst bar i
  | .tmma _ => .done s

/-- The command's data goes to other endpoints. -/
def Run.remote (x : Run) : Bool :=
  match x.c.op with
  | .xsend .. => true
  | _ => match x.c.op.move false with | some v => v.remoteOut | none => false

/-- A command whose data has moved: its follow-on is next, its packets' custody is awaited, or it completes. RELF waits for
final custody, otherwise the first hop credits the tag (R157, R323). -/
def State.settleCmd (s : State) (core slot k : Nat) : State :=
  match s.run? core slot k with
  | none => s
  | some x =>
    if x.c.state != .landed || !x.remote then s
    else if x.c.unacked.isEmpty && x.c.atSource.isEmpty then s.completeCmd x
    else if x.c.atSource.isEmpty && !x.c.acc.relf && !x.c.credited then
      (s.modBlock core slot (fun b => b.modTag x.c.tag (fun t => { t with count := t.count - 1 }))).modCmd x
        (fun c => { c with credited := true })
    else s

/-- Every unit is done. -/
def State.landCmd (s : State) (x : Run) : State :=
  match x.c.op with
  | .tcpy _ _ _ _ _ (some _) => s.modCmd x (fun c => { c with state := .landed })
  | _ =>
    if x.remote then (s.modCmd x (fun c => { c with state := .landed })).settleCmd x.core x.slot x.c.id
    else s.completeCmd x

/-- Ask a remote source for rows, at most n of them; true once every byte asked for has come. -/
def State.askRows (s : State) (x : Run) (v : Move) (n : Nat) : Bool × State :=
  if x.c.asked < v.h.rows then
    (false, (List.range (min n (v.h.rows - x.c.asked))).foldl (fun s i => s.askRow x v (x.c.asked + i)) s)
  else (x.c.unacked.isEmpty, s)

/-- Do some units of a command. -/
def State.advanceCmd (s : State) (x : Run) (is : List Nat) : State :=
  match s.runUnits x (fun s i => s.unit x i) is with
  | (s, some f) => s.failCmd x f
  | (s, none) =>
    match s.run? x.core x.slot x.c.id with
    | some y => if x.units ≤ y.c.did.length then s.landCmd y else s
    | none => s

/-- The units of a command that a turn does: all that are left, or the one named. Packets to a remote side follow their sequence (R175),
and a drain clears its words last (R150). -/
def Run.turn (x : Run) (part : Option Nat) : List Nat :=
  let left := (List.range x.units).filter (fun i => !x.c.did.contains i)
  let last := match x.c.op with | .tdrain .. => true | _ => false
  match part with
  | none => left
  | some i =>
    if x.remote || !left.contains i || (last && i + 1 == x.units && left.length != 1) then left.take 1 else [i]

/-- The geometry of a tensor side as its page has it, and the multiples that it then demands (R48, R133, R139, R462). A box that is clipped
whole reads no page and touches no block: its rows count one by one (R138). -/
def State.beginShape (s : State) (x : Run) (h : Shape) (org : List Int) : Except Flt Shape :=
  if !h.pageGeom then .ok h
  else if h.allClipped org then .ok { h with geom := false }
  else if 2 ^ 52 ≤ h.tbase then .error { cause := 8, lane := 0, addr := dw h.tbase }
  else
    match s.lookup x.core x.b.ctx h.tbase with
    | .absent => .error { cause := 9, lane := 0, addr := dw h.tbase }
    | .refused => .error { cause := 8, lane := 0, addr := dw h.tbase }
    | .leaf p =>
      let h := { h with geom := p.geom }
      if h.blockedOk org then .ok h else .error { cause := 3, lane := 0, addr := dw h.tbase }

/-- What a command's records are as it begins. -/
def State.beginOp (s : State) (x : Run) : Except Flt CmdOp :=
  match x.c.op with
  | .tcpy h org d c b f => (s.beginShape x h org).map (fun h => .tcpy h org d c b f)
  | .tdrain h org h2 org2 base bar clr =>
    match s.beginShape x h org, h2 with
    | .error e, _ => .error e
    | .ok h, none => .ok (.tdrain h org none org2 base bar clr)
    | .ok h, some g => (s.beginShape x g org2).map (fun g => .tdrain h org (some g) org2 base bar clr)
  | o => .ok o

/-- The addresses that a command translates as it begins: TBASE of each tensor side whose geometry is its page's. -/
def CmdOp.bases (o : CmdOp) : List Nat :=
  let of := fun (h : Shape) (org : List Int) => if h.pageGeom && !h.allClipped org then [h.tbase] else []
  match o with
  | .tcpy h org _ _ _ _ => of h org
  | .tdrain h org h2 org2 _ _ _ => of h org ++ (match h2 with | some g => of g org2 | none => [])
  | _ => []

/-- A command begins. -/
def State.beginCmd (s : State) (x : Run) : State :=
  if x.c.begun then s
  else
    let s := x.c.op.bases.foldl (fun s a => s.touchCore x.core x.b.ctx a) s
    match s.beginOp x with
    | .error f => s.failCmd x f
    | .ok o => s.modCmd x (fun c => { c with op := o, begun := true })

/-- The engine works on a command that has begun. -/
def State.workCmd (s : State) (x : Run) (part : Option Nat) : State :=
  match x.c.op.move false with
  | some v =>
    if v.remoteIn then
      match s.askRows x v (if part.isSome then 1 else x.units) with
      | (true, s) => s.advanceCmd x (x.turn part)
      | (false, s) => s
    else s.advanceCmd x (x.turn part)
  | none => s.advanceCmd x (x.turn part)

/-- COMMAND_COMPLETE: the engine does unit `part` of command k, or all that are left, and the command completes when none is. A
multiply does `part` sub-blocks. -/
def execCommandComplete (core slot k : Nat) (part : Option Nat) (s : State) : Host.Outcome State Fault Refusal :=
  match s.run? core slot k with
  | none => .next s
  | some x =>
    if !s.mayRun x then .next s
    else
      match x.c.mma with
      | some m => .next (if s.mmaRuns x then s.subBlocks core slot k (part.getD m.total) else s)
      | none =>
        if x.c.state != .queued then .next (s.settleCmd core slot k)
        else
          let s := s.beginCmd x
          match s.run? core slot k with
          | none => .next s
          | some x => .next (s.workCmd x part)

end Sys2Proof.Machine
end

