-- ==== Sys2Proof/Machine/Serai.lean ====
section
/-! DEFINITION. The serai of a block: its allocator word, reservations, arrivals and releases (R166 to R171, R340). -/

namespace Sys2Proof.Machine

/-- USED and HEAD of the allocator word (R167). -/
def sawUsed (x : Nat) : Nat := field x 16 9
def sawHead (x : Nat) : Nat := field x 8 8

/-- An allocator word. -/
def sawMake (used head n : Nat) : Nat := at' 16 9 used + at' 8 8 head + at' 0 8 (n - 1)

/-- Slot j is in the reserved ring: from the tail for USED slots (R167, R169). -/
def inRing (n x j : Nat) : Bool := decide (j < n) && decide ((j + n - (sawHead x + n - sawUsed x % n) % n) % n < sawUsed x)

/-- Offset of slot j's barrier word. -/
def slotBar (o j : Nat) : Nat := o + 40 + 8 * j

/-- Slot j has reached its target: PHASE differs from RPH (R168). -/
def slotFull (x : Nat) : Bool := bwPhase x != bwRph x

/-- Prepare k slots from `first` for B bytes. -/
def Block.reserveSlots (b : Block) (o z n first left : Nat) : Nat → Block
  | 0 => b
  | k + 1 =>
    let off := slotBar o (first % n)
    let x := b.word64 off
    (b.putWord64 off (bwMake (bwPhase x) false (bwPhase x) (if k = 0 then left else z) 0)).reserveSlots o z n (first + 1) (left - z) k

/-- SLOTRSV at the target (R168): the reply and the block after it; none where the block has no serai. -/
def Block.slotrsv (b : Block) (bytes : Nat) : Option (Word × Block) :=
  match b.serai with
  | none => none
  | some (o, z, n) =>
    let x := b.word64 o
    let k := ceilDiv bytes z
    if bytes = 0 || n < sawUsed x + k then some (0xFFFFFFFF, b)
    else
      let first := sawHead x
      let b := b.reserveSlots o z n first bytes k
      some (wd (k * 256 + first), b.putWord64 o (sawMake (sawUsed x + k) ((first + k) % n) n))

/-- Released flag of slot j. -/
def Block.released (b : Block) (o j : Nat) : Bool := (b.mem.read (o + 8 + j / 8)).getLsbD (j % 8)

/-- Write the released flag of slot j. -/
def Block.setReleased (b : Block) (o j : Nat) (v : Bool) : Block :=
  let a := o + 8 + j / 8
  let bit := (1 : Byte) <<< (j % 8)
  { b with mem := b.mem.write a (if v then b.mem.read a ||| bit else b.mem.read a &&& ~~~bit) }

/-- Reclaim from the tail every released slot (R170). -/
def Block.reclaim (b : Block) (o n : Nat) : Nat → Block
  | 0 => b
  | fuel + 1 =>
    let x := b.word64 o
    let tail := (sawHead x + n - sawUsed x % n) % n
    if sawUsed x = 0 || !b.released o tail then b
    else ((b.setReleased o tail false).putWord64 o (sawMake (sawUsed x - 1) (sawHead x) n)).reclaim o n fuel

/-- SLOTREL and SLOTREL.FAULT (R170): the block after it, none where the use is illegal. -/
def Block.slotrel (b : Block) (j : Nat) (fault : Bool) : Option Block :=
  match b.serai with
  | none => none
  | some (o, _, n) =>
    if n ≤ j || !inRing n (b.word64 o) j then none
    else
      let w := b.word64 (slotBar o j)
      if (if fault then bwFault w else slotFull w && !bwFault w) then some ((b.setReleased o j true).reclaim o n n) else none

/-- The slot whose area holds a byte. -/
def Block.slotAt (b : Block) (off : Nat) : Option Nat :=
  match b.serai with
  | none => none
  | some (o, z, n) =>
    if o + seraiSlot n z 0 ≤ off && off < o + seraiSlot n z n then some ((off - o - seraiSlot n z 0) / z) else none

/-- An arrival of n bytes for slot j: the sub-code of a refusal, or the slot's word (R169). -/
def Block.slotCheck (b : Block) (j n : Nat) : Except Nat Nat :=
  match b.serai with
  | none => .error 8
  | some (o, _, k) =>
    let w := b.word64 (slotBar o j)
    if !inRing k (b.word64 o) j then .error 8
    else if bwFault w then .error 10
    else if slotFull w || decide (bwTarget w < bwCount w + n) then .error 9
    else .ok (slotBar o j)

/-- The slots that runs of bytes reach, once each. -/
def Block.slotsOf (b : Block) (rs : List (Nat × Nat)) : List Nat :=
  (rs.flatMap (fun r => (List.range r.2).filterMap (fun i => b.slotAt (r.1 + i)))).foldl
    (fun a j => if a.contains j then a else a ++ [j]) []

/-- The barrier word that a write of runs of bytes credits with its payload of n bytes, or the sub-code of its refusal: the
word of the slot it falls in, else the one it names (R158, R169, R340). A named word of a serai slot follows R169 too. -/
def Block.creditOf (b : Block) (rs : List (Nat × Nat)) (n : Nat) (bar : Option Nat) : Except Nat (Option (Nat × Nat)) :=
  match b.slotsOf rs with
  | [] =>
    match bar with
    | none => .ok none
    | some off =>
      match b.slotWord off with
      | none => .ok (some (off, n))
      | some j => (b.slotCheck j n).map (fun o => some (o, n))
  | [j] =>
    if rs.any (fun r => (List.range r.2).any (fun i => (b.slotAt (r.1 + i)).isNone)) then .error 8
    else
      match b.slotCheck j n, bar with
      | .error e, _ => .error e
      | .ok o, some off => if off = o then .ok (some (o, n)) else .error 8
      | .ok o, none => .ok (some (o, n))
  | _ => .error 8

/-- Set the fault bits that a lost packet leaves (R171): of the reserved slots it named, and of a named word. -/
def Block.loseArrival (b : Block) (rs : List (Nat × Nat)) (bar : Option Nat) : Block :=
  let b := (b.slotsOf rs).foldl (fun b j =>
    match b.serai with
    | some (o, _, n) => if inRing n (b.word64 o) j then b.faultWord (slotBar o j) else b
    | none => b) b
  match bar with
  | none => b
  | some off =>
    match b.slotWord off, b.serai with
    | some j, some (o, _, n) => if inRing n (b.word64 o) j then b.faultWord off else b
    | _, _ => b.faultWord off

/-- The serai of a block as it starts (R166). -/
def Block.startSerai (b : Block) : Block :=
  match b.serai with
  | some (o, _, n) => b.putWord64 o (sawMake 0 0 n)
  | none => b

end Sys2Proof.Machine
end

