-- ==== Sys2Proof/Machine/Remote.lean ====
section
/-! DEFINITION. Majors 0x13 and 0x14: remote load, store and atomic, bulk send, convoys, flagged arrivals, serai and chunks
(R152 to R176, R337 to R347). -/

namespace Sys2Proof.Machine

/-! ## A remote instruction of a group -/

/-- The endpoint named, checked under R153; a convoy that is not open is an illegal operand (R159). -/
def State.endCheck (s : State) (w : Who) (e : Endp) (r : Right) : Except Nat (Nat × Option Nat × Man) :=
  match w.b.endp e with
  | none => .error 3
  | some (m, cv) =>
    match s.checkEntry w.ctx m r with
    | .error c => .error c
    | .ok man => .ok (m, cv, man)

/-- A lane's offset, with the window check (R153). -/
def State.laneOffset (s : State) (w : Who) (e : Endp) (r : Right) (off : VSrc) (n l : Nat) : Except Flt Nat :=
  match s.endCheck w e r with
  | .error c => .error { cause := c, lane := l }
  | .ok (_, _, man) =>
    let o := (w.src l false off).toNat
    if man.inWindow o n then .ok o else .error { cause := 8, lane := l, addr := dw (man.wbase + o) }

/-- The entry and convoy of an endpoint that must be a core endpoint, checked under R153: a home endpoint is an illegal operand before any
right is looked at (R162, R230, R345). -/
def State.coreEntry (s : State) (w : Who) (ep : Option (Nat × Option Nat)) (r : Right) : Except Nat (Nat × Option Nat × Man) :=
  match ep with
  | none => .error 3
  | some (m, cv) =>
    match s.entry w.ctx m, s.checkEntry w.ctx m r with
    | some man, .error c => .error (if man.isCore then c else 3)
    | none, .error c => .error c
    | _, .ok man => if man.isCore then .ok (m, cv, man) else .error 3

/-- The scope at which an operation of a group on an endpoint acts (R72). -/
def State.opScope (s : State) (w : Who) (man : Man) (op : PktOp) (a : Acc) : Scope :=
  s.farScope (w.sender s w.live [] a false).who man op a.scope

/-- A packet that a group is about to send: lanes, what it asks, its payload bytes and what must precede it. -/
structure Draft where
  lanes : LaneMask
  op : PktOp
  payload : Nat
  after : List Nat

/-- What a remote instruction is beside its packets; `rel` and `acquire` say whether it is a release and a remote acquire. -/
structure RemKind where
  dest : RDest
  acc : Acc
  rel : Bool
  acquire : Bool
  custody : Bool
  chain : Bool := false
  bar : Option Nat := none

/-- Send drafts in order; each also follows the earlier drafts of the instruction that it meets where `chain` says so. A store's
number is among its threads' events. -/
def State.sendDrafts (s : State) (w : Who) (act : LaneMask) (m : Nat) (man : Man) (k : RemKind) (seat : Seat) (rop : Nat) :
    List Draft → List (Nat × LaneMask × PktOp) → List (Nat × LaneMask) × State
  | [], sent => (sent.map (fun x => (x.1, x.2.1)), s)
  | x :: t, sent =>
    let before := if k.chain then
        (sent.filter (fun y => (opRuns y.2.2).any (fun a => (opRuns x.op).any (fun b => runsMeet a.1 a.2 b.1 b.2)))).map (·.1)
      else []
    let ls := lanesOf x.lanes
    let from_ := w.sender s act ls k.acc (opWrites x.op)
    let (id, s) := s.send from_ m man x.op k.acc.dom k.acc.scope k.rel x.payload { seat with after := x.after ++ before } none (some rop)
    let sc := s.farScope from_.who man x.op k.acc.scope
    let s := if opWrites x.op then ls.foldl (fun s l => s.noteWrite (w.agent l) k.acc.dom sc id) s else s
    State.sendDrafts s w act m man k seat rop t (sent ++ [(id, x.lanes, x.op)])

/-- A remote instruction issues: its packets go to the source of their path, its result is awaited under the slot's token,
and its custody holds the group (R154 to R156). It is held while its bytes do not fit the allowance. -/
def State.remote (s : State) (w : Who) (k : Ctl) (act : LaneMask) (m : Nat) (cv : Option Nat) (man : Man) (x : RemKind)
    (ds : List Draft) : Host.Outcome State Fault Refusal :=
  let bytes := sumOf (·.payload) ds
  if ds.any (fun d => opWrites d.op) && !s.fits w.ctx m man bytes then .next s
  else
    let issue := s.record w act { cause := 0, lane := lowest act }
    let (item, s) := s.nextItem w.core w.slot cv
    let (rid, s) := s.fresh
    let (pkts, s) := s.sendDrafts w act m man x { convoy := cv, item := item, bar := x.bar, acquire := x.acquire } rid ds []
    let op := fun (r : Nat) => ({
      id := rid, pkts := pkts, dest := x.dest, result := r, dom := x.acc.dom, scope := x.acc.scope, acquire := x.acquire
      custody := x.custody && x.acc.dom != .ub, lanes := act, threads := w.live, issue := issue } : RemOp)
    .next (s.finishRemote w k (fun g =>
      let g := { g with ops := g.ops ++ [op g.nextId] }
      if x.dest == .nothing then g
      else { g with results := g.results ++ [{ id := g.nextId, tok := k.sett, remote := true }], nextId := g.nextId + 1 }))

/-! ## XLD, XST, XATOM (R337 to R339) -/

/-- XLD. -/
def execXld (o : XldOp) (s : State) : Host.Outcome State Fault Refusal :=
  let n := sizeOf o.ty
  s.access o.h (vr32 o.off) (vd o.d (wide o.ty)) (badMark loadMarks o.acc)
    (fun w l => s.laneOffset w o.ep .read o.off n l)
    fun w m xs =>
      match s.endCheck w o.ep .read with
      | .error _ => .next (s.skip w o.h.k)
      | .ok (e, cv, man) =>
        if m = 0 then .next (s.skip w o.h.k)
        else
          s.remote w o.h.k m e cv man
            { dest := .v o.d o.wb o.ty m, acc := o.acc, rel := false, acquire := isAcquire o.acc, custody := false }
            (xs.map (fun x => { lanes := (1 : LaneMask) <<< x.1, op := .load [x.2] n, payload := 0,
                                after := s.remoteLoadAfter w x.1 o.acc.dom man [(x.2, n)] }))

/-- XST. -/
def execXst (o : XstOp) (s : State) : Host.Outcome State Fault Refusal :=
  let n := sizeOf o.ty
  s.access o.h (vr32 o.off ++ vr o.ty o.data) [] (badMark storeMarks o.acc)
    (fun w l => s.laneOffset w o.ep .write o.off n l)
    fun w m xs =>
      match s.endCheck w o.ep .write with
      | .error _ => .next (s.skip w o.h.k)
      | .ok (e, cv, man) =>
        if m = 0 then .next (s.skip w o.h.k)
        else
          s.remote w o.h.k m e cv man
            { dest := .nothing, acc := o.acc, rel := isRelease o.acc, acquire := false, custody := true, chain := true }
            (xs.map (fun x =>
              let op := PktOp.store [(x.2, whole (leBytes n (w.src x.1 (wide o.ty) o.data).toNat))]
              { lanes := (1 : LaneMask) <<< x.1, op := op, payload := n
                after := s.remoteAfter w x.1 o.acc.dom (s.opScope w man op o.acc) (isRelease o.acc) man [(x.2, n)] }))

/-- The V reads of XATOM's operands: a CAS reads its new value behind its compare value (R337). -/
def xatomReads (o : XatomOp) : List VRead :=
  vr o.ty o.data ++ (match o.op, o.data with
    | .cas, .reg n => [⟨.reg (n + (if wide o.ty then 2 else 1)), wide o.ty⟩]
    | _, _ => [])

/-- The operand, or the compare and new values, of a lane. From a latch, CAS.B32 takes both from its 64 bits, and the new
value of CAS.B64 is free (log 15). -/
def Who.xatomArgs (w : Who) (o : XatomOp) (free l : Nat) : Dword × Dword :=
  (w.src l (wide o.ty) o.data,
    match o.op, o.data with
    | .cas, .reg n => w.src l (wide o.ty) (.reg (n + (if wide o.ty then 2 else 1)))
    | .cas, .latch n => if wide o.ty then Config.freeDword (free + l) else (hiWord (w.src l true (.latch n))).setWidth 64
    | _, _ => 0)

/-- The lanes of an XATOM gathered by the word that they name, in ascending lane order (R339). -/
def atomWords (xs : List (Nat × Nat)) : List (Nat × List Nat) :=
  xs.foldl (fun a x =>
    if a.any (fun y => y.1 == x.2) then a.map (fun y => if y.1 = x.2 then (y.1, y.2 ++ [x.1]) else y)
    else a ++ [(x.2, [x.1])]) []

/-- The target of an atomic of a group is irrevocable, whatever its entry grants (R199): an illegal operand, which R230 puts before the checks
of R153. -/
def State.farIrrev (s : State) (w : Who) (e : Endp) (off : Nat) : Bool :=
  match (w.b.endp e).bind (fun x => s.entry w.ctx x.1) with
  | some man => s.outside w.ctx man.pkg || s.homeIrrev w.ctx man off
  | none => false

/-- XATOM: returning exactly when the slot sets a token (R338). R154 does not say how many payload bytes it has: here the operand size
of each lane, a CAS's compare value not counted, and none for a FENCEF (log 70). -/
def execXatom (o : XatomOp) (s : State) : Host.Outcome State Fault Refusal :=
  let n := sizeOf o.ty
  let ret := o.h.k.sett.isSome
  s.access o.h (vr32 o.off ++ xatomReads o) (if ret then vd o.d (wide o.ty) else []) (badMark atomMarks o.acc)
    (fun w l =>
      let x := (w.src l false o.off).toNat
      if (w.b.endp o.ep).isSome && x % n != 0 then .error { cause := 3, lane := l, addr := dw x }
      else if s.farIrrev w o.ep x then .error { cause := 3, lane := l }
      else s.laneOffset w o.ep .atomic o.off n l)
    fun w m xs =>
      match s.endCheck w o.ep .atomic with
      | .error _ => .next (s.skip w o.h.k)
      | .ok (e, cv, man) =>
        if m = 0 then .next (s.skip w o.h.k)
        else
          let acq := o.acc.ord == .acq || o.acc.ord == .ar || (ret && isAcquire o.acc)
          let free := s.freeCtr
          State.remote { s with freeCtr := free + 32 } w o.h.k m e cv man
            { dest := if ret then .v o.d o.wb o.ty m else .nothing, acc := o.acc, rel := isRelease o.acc, acquire := acq,
              custody := true }
            ((atomWords xs).map (fun (x : Nat × List Nat) =>
              let op := PktOp.atom o.op o.ty (x.2.map (fun l => (x.1, w.xatomArgs o free l)))
              { lanes := maskOf (fun l => x.2.contains l), op := op, payload := n * x.2.length
                after := x.2.flatMap (fun l => s.remoteAfter w l o.acc.dom (s.opScope w man op o.acc) (isRelease o.acc) man [(x.1, n)]) }))

/-! ## XSEND (R157, R342) -/

/-- XSEND. -/
def execXsend (h : Hd) (acc : CAcc) (tag : BitVec 6) (desc : BitVec 6) (bar : BitVec 6) (s : State) :
    Host.Outcome State Fault Refusal :=
  s.onceLocal h acc fun s w m =>
    let src := w.sAt desc 1
    let len := w.sAt desc 2
    match w.b.endpOf (w.sAt desc 0), w.b.barOf (w.s32 bar) false with
    | .error c, _ => s.fail w m c
    | _, .error c => s.fail w m c
    | .ok ep, .ok br =>
      if len = 0 || 65536 < len then s.fail w m 3
      else if (match s.entry w.ctx ep.1 with | some man => !man.isCore | none => false) then s.fail w m 3
      else if !w.b.locCheck src len false then s.raise w m { cause := 8, lane := lowest m, addr := dw src }
      else
        match s.checkEntry w.ctx ep.1 .write with
        | .error c => s.fail w m c
        | .ok _ => s.issueCmd w m h.k tag acc (.xsend src len (w.sAt desc 3) br) (some ep)

/-! ## Convoys (R159, R160, R343) -/

/-- CVOPEN. -/
def execCvopen (h : Hd) (c : BitVec 4) (e : BitVec 6) (s : State) : Host.Outcome State Fault Refusal :=
  s.anyLane h fun w m =>
    let m' := w.s32 e
    let v := KMap.get {} w.b.convoys c.toNat
    if 256 ≤ m' || v.entry.isSome then s.fail w m 3
    else
      match s.entry w.ctx m' with
      | none => s.fail w m 10
      | some _ =>
        .next ((s.modBlock w.core w.slot (fun b =>
          { b with convoys := KMap.put b.convoys c.toNat { v with entry := some (BitVec.ofNat 8 m') } })).skip w h.k)

/-- CVCLOSE: traffic already issued keeps its order. -/
def execCvclose (h : Hd) (c : BitVec 4) (s : State) : Host.Outcome State Fault Refusal :=
  s.anyLane h fun w m =>
    let v := KMap.get {} w.b.convoys c.toNat
    if v.entry.isNone then s.fail w m 3
    else
      .next ((s.modBlock w.core w.slot (fun b =>
        { b with convoys := KMap.put b.convoys c.toNat { v with entry := none } })).skip w h.k)

/-- FENCEF (R162, R344). -/
def execFencef (h : Hd) (dom : Dom) (c : BitVec 4) (bar : BitVec 6) (n : BitVec 8) (s : State) :
    Host.Outcome State Fault Refusal :=
  s.anyLane h fun w m =>
    let off := w.s32 bar
    if dom == .ub || field off 19 13 != 0 || off % 8 != 0 then s.fail w m 3
    else
      match s.coreEntry w (w.b.endp (.convoy c)) .write with
      | .error e => s.fail w m e
      | .ok (e, cv, man) =>
        s.remote w h.k m e cv man
          { dest := .nothing, acc := ⟨dom, .fab, .rel⟩, rel := true, acquire := false, custody := true, bar := some off }
          [{ lanes := m, op := .arrive n.toNat, payload := 0
             after := ((lanesOf m).flatMap (fun l => s.threadPending w l dom ++ s.remoteAfter w l dom .fab true man [])) }]

/-! ## Serai (R345, R346) -/

/-- SLOTRSV. -/
def execSlotrsv (h : Hd) (d e b : BitVec 6) (s : State) : Host.Outcome State Fault Refusal :=
  s.anyLane h fun w m =>
    match w.b.endpOf (w.s32 e) with
    | .error c => s.fail w m c
    | .ok ep =>
      match s.coreEntry w (some ep) .reserve with
      | .error c => s.fail w m c
      | .ok (x, cv, man) =>
        s.remote w h.k m x cv man
          { dest := .s d, acc := ⟨.ub, .fab, .none⟩, rel := false, acquire := false, custody := false }
          [{ lanes := m, op := .reserve (w.s32 b), payload := 0, after := [] }]

/-- SLOTREL and SLOTREL.FAULT. -/
def State.slotFree (s : State) (h : Hd) (j : BitVec 6) (fault : Bool) : Host.Outcome State Fault Refusal :=
  s.anyLane h fun w m =>
    match w.b.slotrel (w.s32 j) fault with
    | none => s.fail w m 3
    | some b => .next ((s.setBlock w.core w.slot b).skip w h.k)

/-- SLOTREL. -/
def execSlotrel (h : Hd) (j : BitVec 6) (s : State) : Host.Outcome State Fault Refusal := s.slotFree h j false

/-- SLOTREL.FAULT. -/
def execSlotrelFault (h : Hd) (j : BitVec 6) (s : State) : Host.Outcome State Fault Refusal := s.slotFree h j true

/-! ## CHUNK (R176, R347) -/

/-- CHUNK: past it, the group is held once the halt chunk is reached. -/
def execChunk (k : Ctl) (c : BitVec 6) (s : State) : Host.Outcome State Fault Refusal :=
  s.withIssuer fun w =>
    let v := w.g.readS c.toNat false
    if w.ig.handler then s.fail w w.live 1
    else if (match w.b.chunk with | some x => decide (v.toNat < x.toNat) | none => false) then s.fail w w.live 3
    else
      let s := s.modBlock w.core w.slot (fun b => { b with chunk := some (loWord v) })
      let held := match w.b.halt with | some x => decide (x.toNat ≤ v.toNat) | none => false
      if held then
        .next ((s.modGroup w.core w.slot w.grp (fun g => g.modIg w.ig.id (fun ig => { ig.advance with wait := .chunk }))).schedule w)
      else .next (s.skip w k)

end Sys2Proof.Machine
end

