-- ==== Sys2Proof/Machine/Recovery.lean ====
section
/-! DEFINITION. Major 0x15: WAYMARK, LEGRD and IRREV (R184, R188 to R190, R200, R348 to R350). -/

namespace Sys2Proof.Machine

/-! ## The waymark area (R188, R190) -/

/-- The descriptor of a WAYMARK: SMASK, LOFF, LLEN, AOFF, ALEN. -/
structure WayDesc where
  smask : Dword
  loff : Nat
  llen : Nat
  aoff : Nat
  alen : Nat
  deriving DecidableEq, Repr

/-- Read the descriptor from a group's S registers. -/
def Group.wayDesc (g : Group) (d : BitVec 6) : WayDesc :=
  let r := fun (k : Nat) => (g.readS (d.toNat + k) false).toNat
  { smask := g.readS d.toNat true, loff := r 2, llen := r 3, aoff := r 4, alen := r 5 }

/-- Bytes of a group record before its V registers, and of all of it. -/
def wayHead (smask : Dword) : Nat := 64 + 64 * ceilDiv (popcount smask) 16
def wayRecord (smask : Dword) (vg : Nat) : Nat := wayHead smask + 1024 * vg

/-- Bytes of a block's area. -/
def Block.wayBytes (b : Block) (x : WayDesc) : Nat :=
  64 + b.groups.length * b.nodeRec.kern.wmgrp + x.llen + 4 * x.alen

/-- Where a block's area lies. -/
def Block.wayArea (b : Block) : Nat := b.nodeRec.wmbase + b.task.lin * b.nodeRec.kern.wmsize

/-- The terminator of a bundle. -/
def bundleTerminator (legacy : Bool) (b : Bundle) : Option Instr :=
  (([0, 1, 2] : List Nat).map (fun k => decodeSlot legacy (b.ctl k) (b.word k))).find? Instr.terminator

/-- The segment that the NEXT of the issuing bundle names; none for another terminator. -/
def State.nextSegment (s : State) (w : Who) : Option Nat :=
  match s.fetchBundle w.core w.ctx (bundleOf w.ig.pc) with
  | .error _ => none
  | .ok b =>
    match bundleTerminator w.kern.legacy b with
    | some (.nextSeg _ n) => some n.toNat
    | _ => none

/-- The checks of a WAYMARK in order (R184, R188). -/
def State.wayCheck (s : State) (w : Who) (d vg : BitVec 6) : Option Flt :=
  let x := w.g.wayDesc d
  let l := lowest w.live
  if (s.nextSegment w).isNone || w.g.allot < vg.toNat || x.loff % 64 != 0 || x.llen % 64 != 0 || x.aoff % 16 != 0
      || x.alen % 16 != 0 then some { cause := 3, lane := l }
  else if w.b.locSize < x.loff + x.llen then some { cause := 8, lane := l, addr := dw x.loff }
  else if w.b.accSize < x.aoff + x.alen then some { cause := 8, lane := l, addr := dw x.aoff }
  else if w.b.nodeRec.kern.wmgrp < wayRecord x.smask vg.toNat || w.b.nodeRec.kern.wmsize < w.b.wayBytes x then
    some { cause := 3, lane := l }
  else
    match s.pieces w.core w.ctx ⟨false, true, some 0⟩ w.b.wayArea (w.b.wayBytes x) with
    | .error r => some (refuseFlt r l 0)
    | .ok _ => none

/-! ## Reaching and passing a WAYMARK (R38, R184) -/

/-- The waymark that the threads of a group wait at. -/
def Group.wayOf (g : Group) : Option (BitVec 6 × Nat × Bool) :=
  g.igs.findSome? (fun ig => match ig.wait with | .way d v p => some (d, v, p) | _ => none)

/-- A wait at a waymark. -/
def Wait.isWay : Wait → Bool
  | .way .. => true
  | _ => false

/-- The issue groups at a waymark become one, which takes a fault. -/
def Group.joinWays (g : Group) : Group :=
  match g.igs.find? (fun ig => ig.wait.isWay) with
  | none => g
  | some a =>
    let m := g.heldAt Wait.isWay
    { g with igs := (g.igs.filter (fun ig => ig.id == a.id || !ig.wait.isWay)).map (fun ig =>
        if ig.id = a.id then { ig with mask := m, wait := .none } else ig) }

/-- The issue group at the waymark once its threads are joined. -/
def State.wayWho (s : State) (core slot grp : Nat) : Option Who × State :=
  match s.block core slot with
  | none => (none, s)
  | some b =>
    match (b.group grp).igs.find? (fun ig => ig.wait.isWay) with
    | none => (none, s)
    | some a =>
      let s := s.modGroup core slot grp Group.joinWays
      (s.whoOf core slot grp a.id, s)

/-- Another group of the block is parked with another range (R184). -/
def Block.wayDiffers (b : Block) (g : Group) (d : BitVec 6) : Bool :=
  let x := g.wayDesc d
  b.groups.any (fun h => h.idx != g.idx &&
    (match h.wayOf with
     | some (e, _, true) =>
       let y := h.wayDesc e
       x.loff != y.loff || x.llen != y.llen || x.aoff != y.aoff || x.alen != y.alen
     | _ => false))

/-- The waymark that every thread of a group has reached: passed without a pending seal, held while commands or custody are
outstanding, then parked or faulted (R184). -/
def State.tryWay (s : State) (core slot grp : Nat) : State :=
  match s.block core slot with
  | none => s
  | some b =>
    let g := b.group grp
    match g.wayOf with
    | none => s
    | some (d, _, parked) =>
      if parked || !g.allAt Wait.isWay then s
      else if !s.sealPending b.ctx then
        let (n, s) := s.fresh
        s.modGroup core slot grp (fun g => g.passAll Wait.isWay n)
      else if !b.cmds.isEmpty || g.ops.any (·.custody) then s
      else
        match b.tags.find? (fun t => t.2.fault) with
        | some (k, _) =>
          match s.wayWho core slot grp with
          | (some w, s) => s.tagTrap w w.live k
          | (none, s) => s
        | none =>
          if b.wayDiffers g d then
            match s.wayWho core slot grp with
            | (some w, s) => s.takeTrap w (s.record w w.live { cause := 3, lane := lowest w.live }) 0
            | (none, s) => s
          else
            s.modGroup core slot grp (fun g => { g with igs := g.igs.map (fun ig =>
              match ig.wait with
              | .way d v _ => { ig with wait := .way d v true }
              | _ => ig) })

/-- WAYMARK. -/
def execWaymark (k : Ctl) (d : BitVec 6) (vg : BitVec 6) (s : State) : Host.Outcome State Fault Refusal :=
  s.withIssuer fun w =>
    if w.ig.handler then s.fail w w.live 1
    else
      match s.wayCheck w d vg with
      | some f => s.raise w w.live f
      | none => .next (s.gatherAt w (.way d vg.toNat false) fun s => (s.tryWay w.core w.slot w.grp).holdPoint w k)

/-! ## LEGRD, IRREV -/

/-- A caravan halt that includes a block is in progress (R176, R349). -/
def State.halting (s : State) (core slot : Nat) (b : Block) : Bool := s.halts.any (fun h => !h.waiting && s.memberOf h core slot b)

/-- LEGRD's value (R349). -/
def State.legWord (s : State) (w : Who) : Nat :=
  (s.legOf w.ctx).toNat + (if s.sealPending w.ctx then 2 ^ 32 else 0)
    + (if s.halting w.core w.slot w.b then 2 ^ 33 else 0) + (if (s.domOf w.ctx).isSome then 2 ^ 34 else 0)

/-- LEGRD. -/
def execLegrd (h : Hd) (d : BitVec 6) (s : State) : Host.Outcome State Fault Refusal :=
  s.anyLane h fun w _ => .next (s.finish w h.k (fun g => g.writeS d.toNat true (dw (s.legWord w))))

/-- IRREV: a seal is requested. -/
def execIrrev (h : Hd) (s : State) : Host.Outcome State Fault Refusal :=
  s.anyLane h fun w _ =>
    .next (match (s.ctx w.ctx).domain with
      | some dm => (s.requestSeal dm).skip w h.k
      | none => s.skip w h.k)

end Sys2Proof.Machine
end

