-- ==== Sys2Proof/Machine/Itin.lean ====
section
/-! DEFINITION. Itineraries: the records that describe them, their admission, and readiness (R15 to R25, R353, R406 to
R409, R437 to R443). -/

namespace Sys2Proof.Machine

/-! ## Kernels (R406 to R408, R414) -/

/-- The reserved bits of a kernel header. -/
def kernelReserved (n : Nat) : Bool :=
  field n 423 601 != 0 || field n 269 19 != 0 || field n 138 6 != 0 || field n 120 8 != 0 || field n 44 20 != 0

/-- The fields of a kernel header. -/
def kernelFields (addr n : Nat) : Kernel where
  addr := addr
  codeSize := field n 352 32
  codeOff := field n 320 32
  segOff := field n 288 32
  nseg := field n 256 13
  serai := if bitAt n 232 then some (64 * field n 243 13, 64 * (field n 233 10 + 1), field n 224 8 + 1) else none
  wmgrp := field n 192 32
  wmsize := field n 160 32
  stackw := field n 144 16
  locKiB := field n 128 10
  stages := field n 113 7
  acc := field n 106 7
  tiles := field n 102 4
  regs := field n 96 6
  mode := wd (field n 64 32)
  extuse := bitAt n 43
  fused := bitAt n 42
  legacy := bitAt n 41

/-- The ranges that a header states (R406, R166, R188), and those of a legacy kernel (R415). -/
def kernelRanges (k : Kernel) (n : Nat) : Bool :=
  field n 0 32 == 0x4E494F56 && !bitAt n 40 && field n 32 8 == (if k.legacy then 2 else 3) && !kernelReserved n
    && modeLegal k.mode.toNat && decide (1 ≤ k.regs ∧ k.regs ≤ 32) && decide (k.tiles ≤ 8) && decide (k.acc ≤ 64)
    && decide (1 ≤ k.stages ∧ k.stages ≤ 64) && decide (k.locKiB ≤ 512) && decide (1 ≤ k.nseg ∧ k.nseg ≤ 4096)
    && decide (field n 416 7 ≤ 64) && field n 384 32 % 8 == 0 && k.codeSize % 32 == 0 && k.codeOff % 32 == 0
    && k.segOff % 4 == 0 && k.wmgrp % 64 == 0 && k.wmsize % 64 == 0 && (!k.extuse || decide (64 ≤ k.stackw))
    && !(k.legacy && (k.fused || decide (16 < k.regs)))
    && (match k.serai with | some (o, z, m) => decide (o + seraiSlot m z m ≤ k.locKiB * 1024) | none => true)

/-- Segment-table entry j of a kernel (R407): 0 where it cannot be read. -/
def State.segWord (s : State) (c : Nat) (k : Kernel) (j : Nat) : Option Nat := (s.vRead c (k.addr + k.segOff + 4 * j) 4).map leNat

/-- A segment-table entry is well formed (R407). -/
def State.segOk (s : State) (c : Nat) (k : Kernel) (j e : Nat) : Bool :=
  if !bitAt e 31 then j != 0
  else
    field e 25 6 == 0 && decide (field e 0 25 < k.codeSize / 32)
      && (match s.vRead c (k.addr + k.codeOff + 32 * field e 0 25) 8 with
          | some bs => bitAt (leNat bs) 63
          | none => false)

/-- Check every entry: the reason of R439 of the first that fails. -/
def State.segsBad (s : State) (c : Nat) (k : Kernel) : List Nat → Option Nat
  | [] => none
  | j :: t =>
    match s.segWord c k j with
    | none => some 7
    | some e => if s.segOk c k j e then State.segsBad s c k t else some 1

/-- A constant-table entry (R408). -/
def constOf (e : Nat) : Option KConst :=
  if field e 14 17 != 0 || field e 6 2 != 0 || (bitAt e 31 && field e 32 32 != 0) then none
  else some { reg := BitVec.ofNat 6 e, arg := if bitAt e 31 then some (field e 8 6) else none, value := wd (field e 32 32) }

/-- The constant table: entries, or the reason of R439. -/
def State.constsOf (s : State) (c at_ : Nat) : Nat → Except Nat (List KConst)
  | 0 => .ok []
  | n + 1 =>
    match State.constsOf s c at_ n with
    | .error e => .error e
    | .ok l =>
      match s.vRead c (at_ + 8 * n) 8 with
      | none => .error 7
      | some bs =>
        match constOf (leNat bs) with
        | none => .error 1
        | some k => if l.any (fun x => x.reg == k.reg) then .error 1 else .ok (l ++ [k])

/-- The kernel whose header lies at an address, or the reason of R439. -/
def State.kernelAt (s : State) (c addr : Nat) : Except Nat Kernel :=
  if addr % 128 != 0 then .error 1
  else
    match s.vRead c addr 128 with
    | none => .error 7
    | some bs =>
      let n := leNat bs
      let k := kernelFields addr n
      if !kernelRanges k n then .error 1
      else
        match s.segsBad c k (List.range k.nseg) with
        | some r => .error r
        | none =>
          match s.constsOf c (addr + field n 384 32) (field n 416 7) with
          | .error r => .error r
          | .ok cs => .ok { k with consts := cs }

/-! ## Room on a core (R23 to R25) -/

/-- Free granules and group slots of the four partitions. -/
abbrev Room := List (Nat × Nat)

/-- The partition that R24 chooses for a group of r granules. -/
def dealTo (room : Room) (r : Nat) : Option Nat :=
  let ok := fun (p : Nat × Nat) => decide (r ≤ p.1) && decide (0 < p.2)
  let best := room.foldl (fun m p => if ok p then max m p.1 else m) 0
  findIdx (fun p => ok p && p.1 == best) room

/-- Deal groups of the given granules in order: the partitions, or none. -/
def deal : Room → List Nat → Option (List Nat)
  | _, [] => some []
  | room, r :: t =>
    match dealTo room r with
    | none => none
    | some p => (deal (listMod room p (fun x => (x.1 - r, x.2 - 1))) t).map (p :: ·)

/-- An empty core. -/
def emptyRoom : Room := List.replicate 4 (128, 16)

/-- A kernel of a thread count can stand on an empty core (R25). -/
def kernelFits (k : Kernel) (threads : Nat) : Bool :=
  (deal emptyRoom (List.replicate (ceilDiv threads 32) k.regs)).isSome

/-- The call stack lies in the local allocation and clear of the serai (R404). -/
def stackOk (k : Kernel) (threads : Nat) : Bool :=
  let bytes := 128 * k.stackw * ceilDiv threads 32
  decide (bytes ≤ 1024 * k.locKiB)
    && (match k.serai with | some (o, z, m) => !runsMeet (1024 * k.locKiB - bytes) bytes o (seraiSlot m z m) | none => true)

/-! ## Records (R409, R437, R438) -/

/-- A launch record with its kernel: threads, waymark base, arguments. -/
def State.launchAt (s : State) (c addr : Nat) : Except Nat (Kernel × Nat × Nat × List Word) :=
  if addr % 64 != 0 then .error 1
  else
    match s.vRead c addr 64 with
    | none => .error 7
    | some bs =>
      let n := leNat bs
      let narg := field n 144 7
      let threads := field n 128 11
      if field n 151 361 != 0 || field n 139 5 != 0 || 64 < narg || threads = 0 || 1024 < threads || field n 64 64 % 64 != 0 then
        .error 1
      else
        match s.vRead c (addr + 64) (4 * narg), s.kernelAt c (field n 0 64) with
        | none, _ => .error 7
        | _, .error e => .error e
        | some as, .ok k =>
          let args := (List.range narg).map (fun i => wd (leNat ((as.drop (4 * i)).take 4)))
          if k.consts.any (fun x => match x.arg with | some a => decide (narg ≤ a) | none => false) then .error 1
          else if !stackOk k threads then .error 1
          else .ok (k, threads, field n 64 64, args)

/-- A tile operand (R438). -/
def tileOf (n nodes : Nat) : Option TileOpnd :=
  if field n 17 15 != 0 || field n 320 192 != 0 || nodes ≤ field n 0 16 then none
  else
    some { prod := field n 0 16, same := bitAt n 16
           m := (List.range 9).map (fun i => signedOf 16 (field n (32 + 16 * i) 16))
           b := (List.range 3).map (fun i => signedOf 32 (field n (176 + 32 * i) 32))
           e := (List.range 3).map (fun i => field n (272 + 16 * i) 16 + 1) }

/-- The edges and tile operands at EXTRA. -/
def State.extraAt (s : State) (c addr nedge ntile nodes : Nat) : Except Nat (List Nat × List TileOpnd) :=
  if nedge = 0 ∧ ntile = 0 then (if addr = 0 then .ok ([], []) else .error 1)
  else if addr % 64 != 0 || 32 < nedge || 8 < ntile then .error 1
  else
    let pad := ceilDiv (2 * nedge) 64 * 64
    match s.vRead c addr (pad + 64 * ntile) with
    | none => .error 7
    | some bs =>
      let es := (List.range nedge).map (fun i => leNat ((bs.drop (2 * i)).take 2))
      let ts := (List.range ntile).map (fun i => tileOf (leNat ((bs.drop (pad + 64 * i)).take 64)) nodes)
      if es.any (fun e => decide (nodes ≤ e)) || ts.any Option.isNone then .error 1 else .ok (es, ts.filterMap id)

/-- A node of its record's bits (R438), with the reason of its rejection. `queued` nodes carry no priority. -/
def State.nodeOf (s : State) (c n nodes : Nat) (queued : Bool) : Except Nat Node :=
  let stages := field n 151 7
  if field n 256 256 != 0 || field n 176 16 != 0 || field n 128 23 != 0 || (queued && field n 158 8 != 0) || 64 < stages then .error 1
  else
    match s.extraAt c (field n 192 64) (field n 166 6) (field n 172 4) nodes with
    | .error e => .error e
    | .ok (es, ts) =>
      match s.launchAt c (field n 0 64) with
      | .error e => .error e
      | .ok (k, threads, wm, args) =>
        let gx := field n 64 32
        let gy := field n 96 16 + 1
        let gz := field n 112 16 + 1
        if gx = 0 || 2 ^ 31 < gx || 2 ^ 31 < gx * gy * gz then .error 2
        else if !kernelFits k threads then .error 4
        else
          .ok { kern := k, lrec := field n 0 64, wmbase := wm, threads := threads, args := args, gx := gx, gy := gy, gz := gz
                stages := if stages = 0 then k.stages else stages, edges := es, tiles := ts }

/-- A node as a block of it starts: the header, the constant table and the argument words are read again (R406, R408). What a header
or a record that has become illegal means then is open: what was read at submission stands (log 73). -/
def State.nodeNow (s : State) (c : Nat) (n : Node) : Node :=
  match s.launchAt c n.lrec with
  | .ok (k, threads, _, args) => if k.addr = n.kern.addr ∧ threads = n.threads then { n with kern := k, args := args } else n
  | .error _ => n

/-- Every node of an array: the nodes, or the failing node and its reason. -/
def State.nodesAt (s : State) (c addr nodes : Nat) : Nat → Except (Nat × Nat) (List Node)
  | 0 => .ok []
  | i + 1 =>
    match State.nodesAt s c addr nodes i with
    | .error e => .error e
    | .ok l =>
      match s.vRead c (addr + 64 * i) 64 with
      | none => .error (i, 7)
      | some bs =>
        match s.nodeOf c (leNat bs) nodes true with
        | .error r => .error (i, r)
        | .ok n => .ok (l ++ [n])

/-- The nodes that a node waits for. -/
def Node.before (n : Node) : List Nat := n.edges ++ n.tiles.map (·.prod)

/-- Take out nodes all of whose predecessors are out, `fuel` times: those left lie on a cycle or behind one. -/
def leftOver (ns : List Node) : Nat → List Nat → List Nat
  | 0, left => left
  | fuel + 1, left => leftOver ns fuel (left.filter (fun i => match ns[i]? with
      | some n => n.before.any (fun p => left.contains p)
      | none => false))

/-- Eligible logical cores of a context (R441): the bits of DSET, or every live core. -/
def State.eligible (s : State) (c : Nat) : Option (List Nat) :=
  let all := List.range s.sys.liveCount
  let x := s.ctx c
  if x.dset == 0 then some all
  else (s.vRead c (x.dset.toNat * 128) 96).map (fun bs => let n := leNat bs; all.filter (fun i => bitAt n i))

/-- An itinerary of a header, or the failing node and the reason (R439). -/
def State.tryAdmit (s : State) (c q addr : Nat) : Except (Nat × Nat) Itin :=
  match s.vRead c addr 64 with
  | none => .error (0, 7)
  | some bs =>
    let n := leNat bs
    let count := field n 32 12 + 1
    let hold := bitAt n 48
    if addr % 64 != 0 || field n 0 32 != 0x4E495449 || field n 264 248 != 0 || field n 49 15 != 0 || field n 44 4 != 0
        || field n 64 64 % 64 != 0 || (!hold && field n 192 64 != 0) then .error (0, 1)
    else
      match s.nodesAt c (field n 64 64) count count, s.eligible c with
      | .error e, _ => .error e
      | _, none => .error (0, 7)
      | .ok ns, some cores =>
        match leftOver ns count (List.range count), ns with
        | i :: _, _ => .error (i, 3)
        | [], [] => .error (0, 1)
        | [], n0 :: _ =>
          if (s.ctx c).maxprio.toNat < field n 256 8 then .error (0, 5)
          else if hold && decide (32 * cores.length < n0.gx * n0.gy * n0.gz) then .error (0, 6)
          else
            .ok { id := s.nextId, ctx := c, queue := q, launched := false, addr := addr, crec := field n 128 64
                  prio := field n 256 8, hold := hold, holdbuf := field n 192 64, released := false, heldPosted := false
                  nodes := ns, retired := [], placed := [], cores := cores, stolen := [], admittedAt := s.time
                  leg := s.legOf c }

/-! ## Block-tasks and readiness (R16, R18 to R20) -/

/-- Blocks of a node. -/
def Node.blocks (n : Node) : Nat := n.gx * n.gy * n.gz

/-- Coordinates of a block (R15). -/
def Node.coord (n : Node) (lin : Nat) : Nat × Nat × Nat := (lin % n.gx, lin / n.gx % n.gy, lin / (n.gx * n.gy))

/-- When each retired block-task that satisfies `p` retired. -/
def Itin.retiredAt (t : Itin) (p : Task → Bool) : List Nat := (t.retired.filter (fun x => p x.1)).map (·.2)

/-- All of n block-tasks that satisfy `p` have retired: the time of the last. -/
def Itin.allRetired (t : Itin) (n : Nat) (p : Task → Bool) : Option Nat :=
  let l := t.retiredAt p
  if n ≤ l.length then some (l.foldl max 0) else none

/-- One dimension of a tile operand's box, clipped to [0, d). -/
def clipDim (q : Int) (e d : Nat) : Int × Int := (max q 0, min (q + e - 1) ((d : Int) - 1))

/-- A tile operand of a block is satisfied (R19): the time at which it came to be so. -/
def Itin.tileReady (t : Itin) (o : TileOpnd) (c : Nat × Nat × Nat) (stage : Nat) : Option Nat :=
  match t.nodes[o.prod]? with
  | none => none
  | some a =>
    let v : List Int := [c.1, c.2.1, c.2.2]
    let q := fun (d : Nat) => ((List.range 3).foldl (fun s k => s + listGet 0 o.m (3 * d + k) * listGet 0 v k) (listGet 0 o.b d) : Int)
    let bx := clipDim (q 0) (listGet 1 o.e 0) a.gx
    let by_ := clipDim (q 1) (listGet 1 o.e 1) a.gy
    let bz := clipDim (q 2) (listGet 1 o.e 2) a.gz
    let size := fun (r : Int × Int) => (r.2 - r.1 + 1).toNat
    let n := size bx * size by_ * size bz
    let inside := fun (x : Nat) (r : Int × Int) => decide (r.1 ≤ (x : Int)) && decide ((x : Int) ≤ r.2)
    if n = 0 || (o.same && decide (a.stages ≤ stage)) then some 0
    else
      t.allRetired n (fun k => k.node == o.prod && k.stage == (if o.same then stage else a.stages - 1)
        && inside (a.coord k.lin).1 bx && inside (a.coord k.lin).2.1 by_ && inside (a.coord k.lin).2.2 bz)

/-- Every condition of a list holds: the latest time. -/
def latest : List (Option Nat) → Option Nat
  | [] => some 0
  | none :: _ => none
  | some a :: t => (latest t).map (max a)

/-- When a block-task became ready; none while it is not (R20). -/
def Itin.readyTime (t : Itin) (k : Task) : Option Nat :=
  match t.nodes[k.node]? with
  | none => none
  | some n =>
    (latest (
      n.edges.map (fun a => match t.nodes[a]? with
        | some x => t.allRetired (x.blocks * x.stages) (fun y => y.node == a)
        | none => none)
      ++ n.tiles.map (fun o => t.tileReady o (n.coord k.lin) k.stage)
      ++ (if k.stage = 0 then [] else [t.allRetired 1 (fun y => y.node == k.node && y.lin == k.lin && y.stage + 1 == k.stage)]))).map
      (max t.admittedAt)

/-- Block-tasks of an itinerary. -/
def Itin.total (t : Itin) : Nat := sumOf (fun n => n.blocks * n.stages) t.nodes

/-- Every block-task has retired. -/
def Itin.finished (t : Itin) : Bool := t.retired.length == t.total

/-- Change the itinerary with a number. -/
def State.modItin (s : State) (id : Nat) (f : Itin → Itin) : State :=
  { s with itins := s.itins.map (fun t => if t.id = id then f t else t) }

end Sys2Proof.Machine
end

