-- ==== Sys2Proof/Machine/System.lean ====
section
/-! DEFINITION. Majors 0x16 and 0x17: LOCQ, LAUNCH, PRIO, RFE and the control registers (R68, R351 to R362). -/

namespace Sys2Proof.Machine

/-! ## LOCQ (R68, R427, R473) -/

/-- LOCQ's word. -/
def locWord (die cls : Nat) : Dword := dw (die * 256 + cls)

/-- LOCQ of a die of this package. -/
def State.locDie (s : State) (core die : Nat) : Dword := locWord die (dieClass (s.sys.dieOfCore core) die)

/-- The class of another package: 3 or 4 by the route in use; without one it is free between the two (log 16). -/
def State.locFar (s : State) (pkg : Nat) : Dword :=
  locWord 0xFF (s.farClass pkg)

/-- LOCQ's answer, or its fault. For a home endpoint on this package R68 does not say which home slice of the window gives DIE and
CLASS: here the slice of the first line of the endpoint's memory stack (log 71). Permissions are not checked; of an address with one of bits
[63:52] set, or whose leaf covers a granule that refuses the context, R68 names no fault: here it is a permission fault, as for a load (DESIGN
CHOICE, log 91). -/
def State.locq (s : State) (w : Who) (kind : LocKind) (a : BitVec 6) (l : Nat) : Except Flt Dword :=
  match kind with
  | .addr =>
    let va := w.s64 a
    match (if va < 2 ^ 52 then s.lookupLast (s.lastPage w.core w.g.part l) w.core w.ctx va else .refused) with
    | .absent => .error { cause := 9, lane := l, addr := dw va }
    | .refused => .error { cause := 8, lane := l, addr := dw va }
    | .leaf x =>
      match x.target (s.ctx w.ctx).pasid.toNat va with
      | .dev pa => .ok (s.locDie w.core (sliceDie pa))
      | _ => .ok (locWord 0xFE 4)
  | .core => if s.sys.liveCount ≤ w.s32 a then .error { cause := 3, lane := l } else .ok (s.locDie w.core (s.sys.dieOfCore (w.s32 a)))
  | .ent =>
    if 256 ≤ w.s32 a then .error { cause := 3, lane := l }
    else
      match s.entry w.ctx (w.s32 a) with
      | none => .error { cause := 10, lane := l }
      | some m =>
        if m.pkg != s.sys.pkg.toNat then .ok (s.locFar m.pkg)
        else if m.isCore then
          (if s.sys.liveCount ≤ m.unit then .error { cause := 3, lane := l } else .ok (s.locDie w.core (s.sys.dieOfCore m.unit)))
        else .ok (s.locDie w.core (sliceDie (m.unit % 32 * 2 ^ 36)))

/-- LOCQ of an address translates it as a load of its lane does (R65, R68). -/
def State.locTouch (s : State) (w : Who) (kind : LocKind) (a : BitVec 6) (l : Nat) : State :=
  match kind with
  | .addr => s.touchAt w.core w.g.part l w.ctx (w.s64 a)
  | .core | .ent => s

/-- LOCQ. -/
def execLocq (h : Hd) (kind : LocKind) (d a : BitVec 6) (s : State) : Host.Outcome State Fault Refusal :=
  s.anyLane h fun w m =>
    let s' := s.locTouch w kind a (lowest m)
    match s.locq w kind a (lowest m) with
    | .error f => s'.raise w m f
    | .ok x => .next ({ s' with freeCtr := s.freeCtr + 1 }.finish w h.k (fun g => g.writeS d.toNat false x))

/-! ## LAUNCH, PRIO (R353, R354) -/

/-- Itineraries that LAUNCH has submitted on a queue and that have not completed. -/
def State.launched (s : State) (c q : Nat) : Nat := s.itins.countP (fun t => t.ctx == c && t.queue == q && t.launched && !t.finished)

/-- The distributor's decision on a node record: the code, and the state with the node admitted. R353 gives its codes no order: 3 is tried
before 1, and 1 before 2 (DESIGN CHOICE, log 109). -/
def State.launch (s : State) (c q rec top : Nat) : Nat × State :=
  let x := KMap.get {} (s.ctx c).queues q
  if !x.en then (3, s)
  else if 2 ^ x.log2n.toNat ≤ s.launched c q then (1, s)
  else if field rec 166 10 != 0 then (2, s)
  else
    match s.nodeOf c rec 1 false, s.eligible c with
    | .ok n, some cores =>
      let (id, s) := s.fresh
      (0, { s with itins := s.itins ++ [{
        id := id, ctx := c, queue := q, launched := true, addr := 0, crec := 0, prio := min (field rec 158 8) top, hold := false
        holdbuf := 0, released := false, heldPosted := false, nodes := [n], retired := [], placed := [], cores := cores
        stolen := [], admittedAt := s.time, leg := s.legOf c }] })
    | _, _ => (2, s)

/-- LAUNCH: it waits until every earlier event of its threads, and what is before them, is performed for every agent; Sd is written
when the result is. -/
def execLaunch (k : Ctl) (d r q : BitVec 6) (s : State) : Host.Outcome State Fault Refusal :=
  s.withIssuer fun w =>
    let a := w.s32 r
    if w.ig.handler then s.fail w w.live 1
    else if a % 64 != 0 || 15 < w.s32 q then s.fail w w.live 3
    else if !w.b.locCheck a 64 false then s.raise w w.live { cause := 8, lane := lowest w.live, addr := dw a }
    else
      let known := (lanesOf w.ig.mask).flatMap (fun l => (w.g.thread l).known)
      if s.remoteIds known || w.g.ops.any (fun o => o.pkts.any (fun p => p.2 &&& w.ig.mask != 0)) then .next s
      else
        match s.drainFor w.core (fun e => known.contains e.id || (lanesOf w.ig.mask).any (fun l => e.of (w.agent l))) with
        | (false, s) => .next s
        | (true, s) =>
          let s := s.settle known
          let rec_ := match s.block w.core w.slot with | some b => leNat (Memory.readN b.mem a 64) | none => 0
          let issue := s.record w w.live { cause := 0, lane := lowest w.live }
          let (code, s) := s.launch w.ctx (w.s32 q) rec_ w.b.prio
          let (id, s) := s.fresh
          .next (s.finishRemote w k (fun g => { g with
            results := g.results ++ [{ id := g.nextId, tok := k.sett, remote := true }]
            nextId := g.nextId + 1
            ops := g.ops ++ [{ id := id, pkts := [], dest := .s d, result := g.nextId, dom := .ub, scope := .dev, acquire := false
                               custody := false, lanes := w.live, threads := w.live, issue := issue
                               got := [(0, dw code)] }] }))

/-- PRIO: for the block and for its groups that are saved alone. -/
def execPrio (k : Ctl) (p : BitVec 6) (s : State) : Host.Outcome State Fault Refusal :=
  s.withIssuer fun w =>
    if w.ig.handler then s.fail w w.live 1
    else if w.b.submitPrio < w.s32 p then s.fail w w.live 3
    else
      let s := { s with saved := s.saved.map (fun (x : Saved) =>
        if x.core = w.core ∧ x.slot = w.slot ∧ x.gen = w.b.gen then { x with blk := { x.blk with prio := w.s32 p } } else x) }
      .next ((s.modBlock w.core w.slot (fun b => { b with prio := w.s32 p })).skip w k)

/-! ## RFE (R358) -/

/-- RFE: outside handler mode an illegal instruction. -/
def State.rfe (s : State) (next : Bool) : Host.Outcome State Fault Refusal :=
  s.withIssuer fun w => if w.ig.handler then .next (s.returnTrap w next) else s.fail w w.live 1

/-- RFE.REGION. -/
def execRfeRegion (_ : Ctl) (s : State) : Host.Outcome State Fault Refusal := s.rfe false

/-- RFE.NEXT. -/
def execRfeNext (_ : Ctl) (s : State) : Host.Outcome State Fault Refusal := s.rfe true

/-! ## Control registers (R357, R359 to R362) -/

/-- The 512 bits of a trap record. -/
def TrapRec.bits (r : TrapRec) : Nat :=
  at' 448 64 r.addr.toNat + at' 384 64 r.iword.toNat + at' 352 32 r.leg.toNat + at' 320 32 r.block.toNat
    + at' 288 32 r.node.toNat + at' 256 32 r.lanes.toNat + at' 236 20 r.slotctl.toNat + at' 230 6 r.tag.toNat
    + at' 225 5 r.group.toNat + at' 220 5 r.lane.toNat + (if r.iret then 2 ^ 219 else 0) + (if r.eng then 2 ^ 218 else 0)
    + (if r.hm then 2 ^ 217 else 0) + at' 208 8 r.code.toNat + at' 204 4 r.sub.toNat + at' 198 6 r.cause.toNat
    + at' 128 64 r.pc.toNat + at' 64 64 r.region.toNat + r.clock.toNat

/-- TRAPINFO. -/
def trapInfo (r : TrapRec) : Nat :=
  2 ^ 31 + (if r.eng then 2 ^ 30 else 0) + (if nextOk r.cause.toNat then 2 ^ 29 else 0) + at' 24 5 r.lane.toNat
    + at' 20 4 r.sub.toNat + at' 12 6 r.cause.toNat + r.code.toNat

/-- A control register's value; none where it is reached outside handler mode. -/
def State.ctlValue (s : State) (w : Who) : CtlReg → Option Word
  | .mode => some w.g.mode
  | .trapinfo => match w.ig.handler, w.g.trap with | true, some t => some (wd (trapInfo t.record)) | _, _ => none
  | .floor => match w.ig.handler, w.g.trap with | true, some t => some t.floor | _, _ => none
  | .legid => some (match s.domOf w.ctx with | some d => wd d.num | none => 0xFFFF)

/-- CTLRD. -/
def execCtlrd (h : Hd) (d : BitVec 6) (r : CtlReg) (s : State) : Host.Outcome State Fault Refusal :=
  s.anyLane h fun w m =>
    match s.ctlValue w r with
    | none => s.fail w m 1
    | some x => .next (s.finish w h.k (fun g => g.writeS d.toNat false (x.setWidth 64)))

/-- CTLWR: MODE alone can be written (R120, R360). -/
def execCtlwr (h : Hd) (r : CtlReg) (n : BitVec 6) (s : State) : Host.Outcome State Fault Refusal :=
  s.anyLane h fun w m =>
    match r with
    | .mode => if modeLegal (w.s32 n) then .next (s.finish w h.k (fun g => { g with mode := wd (w.s32 n) })) else s.fail w m 3
    | _ => if (s.ctlValue w r).isNone then s.fail w m 1 else s.fail w m 3

/-- TRAPRD. -/
def execTraprd (h : Hd) (d : BitVec 6) (k : BitVec 4) (s : State) : Host.Outcome State Fault Refusal :=
  s.anyLane h fun w m =>
    match w.ig.handler, w.g.trap with
    | true, some t => .next (s.finish w h.k (fun g => g.writeS d.toNat false (dw (field t.record.bits (32 * k.toNat) 32))))
    | _, _ => s.fail w m 1

end Sys2Proof.Machine
end

