-- ==== Sys2Proof/Machine/Target.lean ====
section
/-! DEFINITION. Packets at their target: the endpoint, its checks, and what an accepted packet does (R123, R158 to R175,
R340, R447, R462, R463). -/

namespace Sys2Proof.Machine

/-! ## Endpoints (R163, R454, R462, R463) -/

/-- A context's ingress list admits a packet's source; from the own package the same context always is (R463). -/
def State.ingressOk (s : State) (c : Nat) (p : Packet) (inbound : Bool) : Bool :=
  (!inbound && p.srcCtx.toNat == c)
    || (List.range 16).any (fun k =>
        let e := (KMap.get (0 : Dword) (s.ctx c).ingress k).toNat
        bitAt e 63 && field e 6 12 == p.srcPkg.toNat && field e 0 6 == p.srcCtx.toNat)

/-- The context of an endpoint. -/
def EndAt.ctx : EndAt → Nat
  | .block _ _ b => b.ctx
  | .image x => x.ctx

/-- A context is ending or has ended. -/
def Ctx.over (x : Ctx) : Bool := x.state == .ending || x.state == .ended

/-- A core endpoint with the checks of contexts: an arrival for a block of a context that is ending or has ended draws sub-code 1, also where
the slot now serves another block (R454). -/
def State.coreEnd (s : State) (p : Packet) : Except Nat EndAt :=
  match s.slotEnd p.unit.toNat p.slot.toNat p.gen with
  | .error e => .error (if (s.ctx p.tctx.toNat).over then 1 else e)
  | .ok e =>
    if (s.ctx e.ctx).over then .error 1
    else if e.ctx != p.tctx.toNat then .error 4
    else .ok e

/-! ## Arrivals in local memory -/

/-- Runs of bytes lie in the allocation, and written ones outside the serai's control area (R163, R340). -/
def Block.runsOk (b : Block) (rs : List (Nat × Nat)) (write : Bool) : Except Nat Unit :=
  if rs.any (fun r => decide (b.locSize < r.1 + r.2)) then .error 3
  else if write && rs.any (fun r => b.inControl r.1 r.2) then .error 4
  else .ok ()

/-- A named barrier word is one that an arrival may credit. -/
def Block.barWordOk (b : Block) (bar : Option Nat) : Except Nat Unit :=
  match bar with
  | none => .ok ()
  | some off =>
    if b.locSize < off + 8 then .error 3
    else if b.inControl off 8 && (b.slotWord off).isNone then .error 4
    else .ok ()

/-- Atomics in local memory, in ascending lane order: the old values (R64, R339). -/
def localAtoms (op : AOp) (ty : Ty) : List (Nat × Dword × Dword) → Block → List Dword × Block
  | [], b => ([], b)
  | (o, x, n) :: t, b =>
    let old := dw (leNat (Memory.readN b.mem o (sizeOf ty)))
    let b := match atomNew op ty old x n with
      | some v => { b with mem := Memory.writeN b.mem o (leBytes (sizeOf ty) v.toNat) }
      | none => b
    let (r, b) := localAtoms op ty t b
    (old :: r, b)

/-- What a packet does to the block that it reaches: the answer, or the sub-code of a refusal, which has no effect. -/
def Block.arriveAt (b : Block) (p : Packet) : Except Nat (Answer × Block) :=
  match p.op with
  | .store rs =>
    match b.runsOk (opRuns p.op) true, b.barWordOk p.bar with
    | .error e, _ => .error e
    | _, .error e => .error e
    | .ok _, .ok _ =>
      match b.creditOf (opRuns p.op) p.payload p.bar with
      | .error e => .error e
      | .ok c =>
        let b := rs.foldl (fun (b : Block) r => { b with mem := Memory.writeMasked b.mem r.1 r.2 }) b
        .ok (.ack, match c with | some (off, n) => b.credit off n | none => b)
  | .load os n =>
    match b.runsOk (opRuns p.op) false with
    | .error e => .error e
    | .ok _ => .ok (.data (.values (os.map (fun o => dw (leNat (Memory.readN b.mem o n))))), b)
  | .atom op ty ops =>
    match b.runsOk (opRuns p.op) true with
    | .error e => .error e
    | .ok _ => let (olds, b) := localAtoms op ty ops b; .ok (.data (.values olds), b)
  | .reduce .. => .error 4
  | .reserve n =>
    match b.slotrsv n with
    | none => .error 1
    | some (w, b) => .ok (.data (.word w), b)
  | .arrive k =>
    match p.bar with
    | none => .error 4
    | some off =>
      match b.barWordOk p.bar, b.creditOf [] k p.bar with
      | .error e, _ => .error e
      | _, .error e => .error e
      | .ok _, .ok _ => .ok (.ack, b.credit off k)

/-! ## Arrivals at a home endpoint (R163, R173 to R175) -/

/-- The core number that stands for a package's own walker, which keeps no translations. -/
def walker : Nat := 4096

/-- The pages of a run in the target context, or the sub-code. -/
def State.homePieces (s : State) (p : Packet) (r w : Bool) (o n : Nat) : Except Nat (List Piece) :=
  match s.pieces walker p.tctx.toNat (needOf r w p.dom) (p.wbase + o) n with
  | .error (.permission _) => .error 4
  | .error (.floor _ _) => .error 5
  | .error (.absent _) => .error 6
  | .ok ps =>
    let c := p.tctx.toNat
    if ps.all (fun x => s.admitsTgt c (x.x.target (s.ctx c).pasid.toNat x.va)) then .ok ps else .error 4

/-- The pages of every run. -/
def State.homeRuns (s : State) (p : Packet) (r w : Bool) : List (Nat × Nat) → Except Nat (List (List Piece))
  | [] => .ok []
  | (o, n) :: t =>
    match s.homePieces p r w o n, State.homeRuns s p r w t with
    | .error e, _ => .error e
    | _, .error e => .error e
    | .ok ps, .ok l => .ok (ps :: l)

/-- In whose name a packet's stores are made: its issuer's recovery domain and context, whatever the target context's domain is. A packet
of a domain of which this package is no member was irrevocable at its source and has left its hold (R177, R179, R198). -/
def State.makerOf (s : State) (f : Flight) : Maker :=
  { ctx := f.p.srcCtx.toNat
    leg := f.p.leg
    dom := if f.inbound then
        (match f.p.rdom with
         | some d => (match s.domain? d with | some x => if x.members.contains f.p.srcPkg then some d else none | none => none)
         | none => none)
      else (s.ctx f.p.srcCtx.toNat).domain }

/-- A packet's store as its home takes it. -/
def Flight.store (f : Flight) (t : Tgt) (bs : List (Byte × Byte)) (irrev : Bool) : Store :=
  { id := f.p.id, who := f.who, dom := f.p.dom, scope := f.p.scope, rel := f.p.rel, place := .glob t, work := .bytes bs, after := [],
    lanes := 1, rels := f.rels, els := f.els, irrev := irrev, leg := f.p.leg, pc := f.p.issuer.pc, node := f.p.issuer.node
    block := f.p.issuer.block, tctx := some f.p.tctx.toNat }

/-- A page makes a packet's stores irrevocable. -/
def State.flightIrrev (s : State) (f : Flight) (x : Xlate) : Bool := (s.makerOf f).dom.isSome && (x.tgt != 0 || x.ext)

/-- Write the pieces of a run in the target context: at their homes, or in a hold where the page is irrevocable. -/
def State.homeStore (s : State) (f : Flight) (atomic : Bool) : List Piece → List (Byte × Byte) → Logged
  | [], _ => .ok s
  | x :: t, bs =>
    let tg := x.x.target (s.ctx f.p.tctx.toNat).pasid.toNat x.va
    let one := bs.take x.n
    let irrev := s.flightIrrev f x.x
    match s.putHome (s.makerOf f) (if irrev then (s.makerOf f).dom else none) (f.store tg one irrev) tg one atomic with
    | .ok s => State.homeStore s f atomic t (bs.drop x.n)
    | r => r

/-- Every run of a store. -/
def State.homeStores (s : State) (f : Flight) : List (List Piece × List (Byte × Byte)) → Logged
  | [] => .ok s
  | (ps, bs) :: t =>
    match s.homeStore f false ps bs with
    | .ok s => State.homeStores s f t
    | r => r

/-- The maker's own domain sees what its holds keep of a run (R198). -/
def State.homeLoad (s : State) (f : Flight) (ps : List Piece) : List Byte × State :=
  ps.foldl (fun (bs, s) x =>
    let (b, s) := s.readFor (s.makerOf f).dom (x.x.target (s.ctx f.p.tctx.toNat).pasid.toNat x.va) x.n
    (bs ++ b, s)) ([], s)

/-- The marks of the last stores to pieces. -/
def State.pieceMarks (s : State) (f : Flight) (ps : List Piece) : List Mark :=
  ps.flatMap (fun x => s.marksAt 0 (.glob (x.x.target (s.ctx f.p.tctx.toNat).pasid.toNat x.va)) x.n)

/-- Atomics at their homes in order: the old values. -/
def State.homeAtoms (s : State) (f : Flight) (op : AOp) (ty : Ty) :
    List (List Piece × Dword × Dword) → Logged × List Dword
  | [] => (.ok s, [])
  | (ps, x, n) :: t =>
    let (bs, s) := s.homeLoad f ps
    let old := dw (leNat bs)
    let r : Logged := match atomNew op ty old x n with
      | some v => s.homeStore f true ps (whole (leBytes (sizeOf ty) v.toNat))
      | none => .ok s
    match r with
    | .ok s => let (r, olds) := State.homeAtoms s f op ty t; (r, old :: olds)
    | r => (r, [])

/-- The operator and element type of a reducing ROP (R172). -/
def ropOf (rop : Nat) : AOp × Ty :=
  match rop with
  | 1 => (.add, .f32)
  | 2 => (.add, .bf16)
  | 3 => (.add, .i32)
  | 4 => (.min, .f32)
  | 5 => (.max, .f32)
  | 6 => (.min, .i32)
  | 7 => (.max, .i32)
  | 8 => (.and, .b32)
  | 9 => (.or, .b32)
  | _ => (.xor, .b32)

/-- Physical addresses of elements. A word of host memory or peer MMIO has no home agent and is not listed: where ordered mode's elements lie
on such a page their ranks are kept in no order there, each merges as it comes; R123 and R173 give the rank order without naming such pages, and
the model's choice is log 101. -/
def State.elemPas (s : State) (c : Nat) (ps : List (List Piece)) : List Nat :=
  ps.filterMap (fun l => match l with
    | x :: _ => match x.x.target (s.ctx c).pasid.toNat x.va with | .dev pa => some pa | _ => none
    | [] => none)

/-- Read, apply and write the word of a contribution. -/
def State.mergeElem (s : State) (f : Flight) (rop : Nat) (ps : List Piece) (v : List Byte) : Logged :=
  let (op, ty) := ropOf rop
  let s := match s.elemPas f.p.tctx.toNat [ps] with | pa :: _ => s.bumpMerges pa 1 | [] => s
  let (b, s) := s.homeLoad f ps
  s.homeStore f false ps (whole (leBytes v.length (opApply op ty (dw (leNat b)) (dw (leNat v))).toNat))

/-- A contribution joins the commutative updates of its word (R98). -/
def State.reduceElem (s : State) (f : Flight) (rop : Nat) (ps : List Piece) (v : List Byte) : Logged :=
  let (op, ty) := ropOf rop
  match ps with
  | [x] =>
    match x.x.target (s.ctx f.p.tctx.toNat).pasid.toNat x.va with
    | .dev pa =>
      match s.logFor (s.makerOf f) pa v.length with
      | .ok s => .ok ((s.addRed pa op ty (dw (leNat v))).storedPast (f.store (.dev pa) (whole v) false) (.dev pa) false)
      | r => r
    | _ => s.mergeElem f rop ps v
  | _ => s.mergeElem f rop ps v

/-- Every element of a reduction. A contribution of ordered mode merges at once: ranks come in ascending order (R123, R173). -/
def State.reduceAll (f : Flight) (rop : Nat) (ordered : Bool) :
    List (List Piece × List Byte) → State → Logged
  | [], s => .ok s
  | (ps, v) :: t, s =>
    match (if ordered then s.mergeElem f rop ps v else s.reduceElem f rop ps v) with
    | .ok s => State.reduceAll f rop ordered t s
    | r => r

/-- The ranks of CMASK. -/
def ranksOf (m : Dword) : List Nat := (List.range 64).filter (fun r => m.getLsbD r)

/-- Ranks merged so far at a word. -/
def State.ranksAt (s : State) (pa : Nat) : List Nat := ((s.ordered.find? (fun w => w.pa == pa)).map (·.ranks)).getD []

/-- The turn of a rank has come at every word of a packet (R173). -/
def State.rankTurn (s : State) (pas : List Nat) (rank : Nat) (cmask : Dword) : Bool :=
  pas.all (fun pa =>
    let done := s.ranksAt pa
    !done.contains rank && (ranksOf cmask).all (fun r => decide (rank ≤ r) || done.contains r))

/-- Note that a rank has merged; the round ends with the last rank of CMASK. -/
def State.noteRank (s : State) (rank : Nat) (cmask : Dword) (pa : Nat) : State :=
  let done := s.ranksAt pa ++ [rank]
  let rest := s.ordered.filter (fun w => w.pa != pa)
  { s with ordered := if (ranksOf cmask).all (fun r => done.contains r) then rest else rest ++ [{ pa := pa, ranks := done }] }

/-! ## Collective windows (R175) -/

/-- The window of a packet at a home agent. -/
def Window.of (w : Window) (p : Packet) (home : Nat) : Bool :=
  w.pkg == p.srcPkg && w.core == p.issuer.core && w.slot == p.issuer.slot && w.gen == p.issuer.gen
    && w.convoy == p.convoy.getD 16 && w.home == home

/-- A sequence that has been applied, or lies below the window. -/
def Window.repeats (w : Window) (seq : Word) : Bool :=
  let ahead := (seq - w.high).toNat
  if 1 ≤ ahead ∧ ahead < 2 ^ 31 then false else decide (1024 ≤ (w.high - seq).toNat) || w.marks.contains seq

/-- A sequence is applied. -/
def Window.mark (w : Window) (seq : Word) : Window :=
  let ahead := (seq - w.high).toNat
  let high := if 1 ≤ ahead ∧ ahead < 2 ^ 31 then seq else w.high
  { w with high := high, marks := (seq :: w.marks).filter (fun m => decide ((high - m).toNat < 1024)) }

/-- A collective packet has been applied before at its home agent. -/
def State.collRepeats (s : State) (p : Packet) (home : Nat) : Bool :=
  match p.coll, s.windows.find? (fun w => w.of p home) with
  | some seq, some w => w.repeats seq
  | _, _ => false

/-- A home agent discards a repeat: its DUP_DROPS (R175, R494). -/
def State.dropDup (s : State) (home : Nat) : State := s.bump (0x3C0000 + 0x100 * home + 24) 1

/-- Mark a collective packet applied, of a source in a domain or in none. -/
def State.collMark (s : State) (dom : Option Nat) (p : Packet) (home : Nat) : State :=
  match p.coll with
  | none => s
  | some seq =>
    if s.windows.any (fun w => w.of p home) then
      { s with windows := s.windows.map (fun w => if w.of p home then w.mark seq else w) }
    else
      { s with windows := s.windows ++ [{ dom := dom, pkg := p.srcPkg, core := p.issuer.core, slot := p.issuer.slot, gen := p.issuer.gen
                                          convoy := p.convoy.getD 16, home := home, high := seq, marks := [seq] }] }

/-! ## A packet is judged and performed -/

/-- How an arrival ends. -/
inductive Landed where
  /-- the answer, and the marks of the stores that it has read -/
  | answered (s : State) (a : Answer) (ms : List Mark)
  /-- it stays at the target's door -/
  | held (s : State)

/-- The end of a write at a home: one that its home or a hold keeps back leaves no part behind. -/
def Logged.landed (r : Logged) (s0 : State) (f : Flight) (a : Answer) (ms : List Mark) : Landed :=
  match r with
  | .ok s => .answered s a ms
  | .wait _ => .held (match (s0.makerOf f).dom with | some d => s0.requestSeal d | none => s0)
  | .over _ => .held (s0.overflowFor (s0.makerOf f) 0)

/-- A packet at a home endpoint. An atomic or reduction that would be irrevocable here is refused: its issuer takes an illegal operand, as
where it could know of the page (R199, log 75). The home agent whose window judges a collective packet is that of its first element: R175
does not say which where elements lie at several (DESIGN CHOICE, log 89). -/
def State.landHome (s : State) (f : Flight) : Landed :=
  let p := f.p
  let c := p.tctx.toNat
  let neg := fun (k : Nat) => Landed.answered s (.neg { sub := BitVec.ofNat 4 k }) []
  let irrev := Landed.answered s (.neg { sub := 4, irrev := true }) []
  let dom := (s.makerOf f).dom
  let barred := fun (ps : List (List Piece)) => ps.any (fun l => l.any (fun x => s.flightIrrev f x.x))
  match p.op with
  | .store rs =>
    match s.homeRuns p false true (opRuns p.op) with
    | .error e => neg e
    | .ok ps =>
      let home := ((s.elemPas c ps).head?.map homeOf).getD 0
      if s.collRepeats p home then .answered (s.dropDup home) .ack []
      else ((s.collMark dom p home).homeStores f (ps.zip (rs.map (·.2)))).landed s f .ack []
  | .load _ n =>
    match s.homeRuns p true false (opRuns p.op) with
    | .error e => neg e
    | .ok ps =>
      let ms := ps.flatMap (s.pieceMarks f)
      let (vs, s) := ps.foldl (fun (vs, s) l => let (b, s) := State.homeLoad s f l; (vs ++ [dw (leNat (b.take n))], s)) (([] : List Dword), s)
      .answered s (.data (.values vs)) ms
  | .atom op ty ops =>
    match s.homeRuns p true true (opRuns p.op) with
    | .error e => neg e
    | .ok ps =>
      if barred ps then irrev
      else
        let ms := ps.flatMap (s.pieceMarks f)
        let (r, olds) := s.homeAtoms f op ty (ps.zip (ops.map (·.2)))
        r.landed s f (.data (.values olds)) ms
  | .reduce rop ord es =>
    match s.homeRuns p false true (opRuns p.op) with
    | .error e => neg e
    | .ok ps =>
      let pas := s.elemPas c ps
      let home := (pas.head?.map homeOf).getD 0
      if barred ps then irrev
      else if s.collRepeats p home then .answered (s.dropDup home) .ack []
      else
        let work := ps.zip (es.map (·.2))
        match ord with
        | none => (State.reduceAll f rop false work (s.collMark dom p home)).landed s f .ack []
        | some (rank, cmask) =>
          if s.rankTurn pas rank cmask then
            let s' := pas.foldl (fun s pa => s.noteRank rank cmask pa) (s.collMark dom p home)
            (State.reduceAll f rop true work s').landed s f .ack []
          else .held s
  | .reserve _ => neg 1
  | .arrive _ => neg 4

/-- The bytes of local memory that an arrival writes: a flagged arrival its barrier word. -/
def localRuns (p : Packet) : List (Nat × Nat) :=
  match p.op with
  | .store rs => rs.map (fun r => (r.1, r.2.length))
  | .atom _ ty ops => ops.map (fun o => (o.1, sizeOf ty))
  | .arrive _ => match p.bar with | some off => [(off, 8)] | none => []
  | _ => []

/-- An arrival is now the last store of the local bytes that it wrote. -/
def State.localMarks (s : State) (f : Flight) (core slot : Nat) : State :=
  let atomic := match f.p.op with | .store _ => false | _ => true
  (localRuns f.p).foldl (fun s r =>
    (s.putMark { place := .loc slot r.1, core := core, len := r.2, id := f.p.id, rels := f.rels, els := f.els } atomic).2) s

/-- A packet at a core endpoint: a block, or the image of an absent one. One for an image whose bytes still wait at their homes waits
for them; what is before a store into an image is performed for every agent, as the image keeps no order of its own. -/
def State.landCore (s : State) (f : Flight) : Landed :=
  let neg := fun (k : Nat) => Landed.answered s (.neg { sub := BitVec.ofNat 4 k }) []
  match s.coreEnd f.p with
  | .error e => neg e
  | .ok (.block core slot b) =>
    match b.arriveAt f.p with
    | .error e => neg e
    | .ok (r, b) =>
      let ms := (opRuns f.p.op).flatMap (fun r => s.marksAt core (.loc slot r.1) r.2)
      .answered ((s.setBlock core slot b).localMarks f core slot) r ms
  | .ok (.image x) =>
    if s.deviceWaits x.ctx then .held s
    else
      let b := s.imageBlock x
      match b.arriveAt f.p with
      | .error e => neg e
      | .ok (r, b') =>
        .answered ((s.putImage x b b').settle (f.rels.flatMap (fun r => r.before.map (·.id)) ++ f.els.flatMap (fun e => e.2.map (·.id)))) r []

/-- Two packets travel on one convoy of one source. -/
def sameConvoy (p q : Packet) : Bool :=
  p.convoy.isSome && p.convoy == q.convoy && p.srcPkg == q.srcPkg && p.issuer.core == q.issuer.core
    && p.issuer.slot == q.issuer.slot && p.issuer.gen == q.issuer.gen

/-- An earlier item of the packet's convoy is not performed: packets on their way, or a command that still sends (R160). -/
def State.convoyBusy (s : State) (f : Flight) : Bool :=
  s.flights.any (fun g => g.inbound == f.inbound && g.pending && sameConvoy g.p f.p && decide (g.p.item < f.p.item))
    || (!f.inbound && (match s.block f.p.issuer.core f.p.issuer.slot with
        | some b => b.gen == f.p.issuer.gen && b.cmds.any (fun c => c.convoy.isSome && c.convoy == f.p.convoy
            && decide (c.item < f.p.item) && c.state == .queued)
        | none => false))

/-- What its home delivers before a packet has come (R100, R101, R160): on this package by number, for a packet of another package by
the tags that it carries. -/
def State.inTurn (s : State) (f : Flight) : Bool :=
  (if f.inbound then f.p.tags.all (fun t => s.delivered.contains t) else !f.p.after.any s.unperformed) && !s.convoyBusy f

/-- The bytes of a packet arrive at its target's die, those of another package at a home endpoint at the dies of the slices that they reach; a
store of this package at a home endpoint is counted as its home takes it (R495). -/
def State.landRx (s : State) (f : Flight) : State :=
  if f.p.toCore then
    s.bumpRx (if f.inbound then noDie else s.sys.dieOfCore f.p.issuer.core) (s.sys.dieOfCore f.p.unit.toNat) (opOut f.p.op)
  else if f.inbound && opOut f.p.op != 0 then (s.homeShares f.p).foldl (fun s x => s.bumpRx noDie x.1 x.2) s
  else s

/-- A packet at its target: the ingress check, its order, then its endpoint's judgement. A store of another package, and a release of
a command, is performed for every agent as it lands. -/
def State.land (s : State) (f : Flight) : Landed :=
  if !s.ingressOk f.p.tctx.toNat f.p f.inbound then .answered (s.landRx f) (.neg { sub := 4 }) []
  else if !s.inTurn f then .held s
  else
    match (if f.p.toCore then s.landCore f else s.landHome f) with
    | .answered s a ms =>
      let s := s.landRx f
      .answered (if f.inbound || (f.cmd.isSome && f.p.rel) then s.settle [f.p.id] else s) a ms
    | r => r

end Sys2Proof.Machine
end

