-- ==== Sys2Proof/Machine/Fabric.lean ====
section
/-! DEFINITION. Packets on their way: first-hop custody, gateways, resends, replies to the issuer, failures (R153 to R157,
R163 to R171, R198, R473, R474). -/

namespace Sys2Proof.Machine

/-! ## Flights -/

/-- The flight of a packet. -/
def State.flight? (s : State) (id : Nat) : Option Flight := s.flights.find? (fun f => f.p.id == id)

/-- Change a flight. -/
def State.modFlight (s : State) (id : Nat) (f : Flight → Flight) : State :=
  { s with flights := s.flights.map (fun x => if x.p.id = id then f x else x) }

/-- A flight ends. -/
def State.dropFlight (s : State) (id : Nat) : State := { s with flights := s.flights.filter (fun x => x.p.id != id) }

/-- Record a target's or a hop's answer. -/
def State.answer (s : State) (id : Nat) (a : Answer) : State := s.modFlight id (fun f => { f with answer := some a })

/-- Where the block that sent a packet is now: in its slot, in another that it has moved to, or in an image. -/
def State.issuerAt (s : State) (x : Issuer) : Option EndAt :=
  match s.cores.findSome? (fun k => (k.2.slots.find? (fun y => y.2.named k.1 y.1 x)).map (fun y => EndAt.block k.1 y.1 y.2)) with
  | some e => some e
  | none => (s.saved.find? (fun y => y.whole && y.blk.named y.core y.slot x)).map EndAt.image

/-- The block of an endpoint as the machine holds it. -/
def EndAt.blk : EndAt → Block
  | .block _ _ b => b
  | .image x => x.blk

/-- The block that sent a packet. -/
def State.senderBlock (s : State) (p : Packet) : Option Block := (s.issuerAt p.issuer).map EndAt.blk

/-- Change the group that sent a packet. -/
def State.modIssuer (s : State) (x : Issuer) (f : Group → Group) : State :=
  match s.issuerAt x with
  | some (.block core slot _) => s.modGroup core slot x.grp f
  | some (.image y) => { s with saved := s.saved.map (fun z => if z == y then { z with blk := z.blk.modGroup x.grp f } else z) }
  | none => s

/-- The bytes of a packet are no longer outstanding on its entry (R154). -/
def State.creditEntry (s : State) (p : Packet) : State :=
  if opWrites p.op then s.modCtx p.srcCtx.toNat (fun c => { c with sent := KMap.put c.sent p.entry (KMap.get 0 c.sent p.entry - p.payload) })
  else s

/-! ## What an answer does to the issuer -/

/-- Write a finished remote result: registers and latches of its lanes, and the token becomes ready (R339). -/
def Group.putResult (g : Group) (o : RemOp) : Group :=
  let g := match o.dest with
    | .v d wb ty latch =>
      o.got.foldl (fun (g : Group) (y : Nat × Dword) =>
        let v := loadValue ty (leBytes (sizeOf ty) y.2.toNat)
        let g := if latch.getLsbD y.1 then g.writeL y.1 wb.ldst v else g
        if wb.nowb then g else g.writeV y.1 d.toNat (wide ty) v) g
    | .s d => match o.got with
      | (_, x) :: _ => g.writeS d.toNat false x
      | [] => g
    | .nothing => g
  { g with results := g.results.filter (fun r => r.id != o.result || o.dest == RDest.nothing) }

/-- A remote operation is over: no packet is unanswered, and no negative reply of its result waits. -/
def Group.opOver (g : Group) (o : RemOp) : Bool :=
  o.pkts.isEmpty && (o.dest == .nothing || !g.negs.any (fun n => n.op == o.id))

/-- Finish every remote operation that is over. -/
def Group.finishOps (g : Group) : Group :=
  let g' := (g.ops.filter g.opOver).foldl Group.putResult g
  { g' with ops := g.ops.filter (fun o => !g.opOver o) }

/-- A packet is answered with values by lane. -/
def Group.packetDone (g : Group) (id : Nat) (vs : List Dword) : Group :=
  { g with ops := g.ops.map (fun o =>
      match o.pkts.find? (fun p => p.1 == id) with
      | none => o
      | some (_, m) =>
        let ls := match o.dest with | .v .. => lanesOf m | _ => [0]
        { o with pkts := o.pkts.filter (fun p => p.1 != id), got := (ls.zip vs).foldl (fun g x => KMap.put g x.1 x.2) o.got }) }

/-- The operation of a group that a packet belongs to. -/
def Group.opOf (g : Group) (id : Nat) : Option RemOp := g.ops.find? (fun o => o.pkts.any (fun p => p.1 == id))

/-- The operation's accesses read. -/
def pktReads : PktOp → Bool
  | .load .. => true
  | .atom .. => true
  | _ => false

/-- The L1s that serve a core: its own, or under fusion those of its cluster. -/
def State.l1sOf (s : State) (core : Nat) : List Nat :=
  let p := s.sys.physCore core
  if (s.core core).fused then (List.range 4).map (p / 4 * 4 + ·) else [p]

/-- Whether a lane of an atomic has written, by its place among the packet's operands and the old value that came back; without that only a
compare leaves it open, and the lane then counts as one that has not. -/
def Flight.wrote (f : Flight) (vs : List Dword) (i : Nat) : Bool :=
  match f.p.op with
  | .atom op ty ops =>
    match ops[i]?, vs[i]? with
    | some (_, x, n), some v => (atomNew op ty v x n).isSome
    | some _, none => op != .cas
    | none, _ => false
  | _ => false

/-- The mark that lanes of an atomic have left at its word for the next one: the releases of those that have written, and what fences put
before them (R64, R81, R82). -/
def Flight.lanesMark (f : Flight) (ls : List Nat) : List Mark :=
  if ls.isEmpty then []
  else [{ place := .glob (.dev 0), core := 0, len := 0, id := f.p.id, rels := f.rels.filter (fun r => ls.contains r.who.lane)
          els := f.els.filter (fun e => ls.contains e.1.lane) }]

/-- What a remote acquire of a thread has put before its later accesses is before the releases too that it has issued and that come after the
acquire (R79, R81). -/
def State.carryOn (s : State) (me : Agent) (d : Dom) (pkt : Nat) (acqs : List Before) : State :=
  let more := fun (rs : List Rel) => rs.map (fun (r : Rel) =>
    if { r.who with core := me.core, slot := me.slot, gen := me.gen } == me && r.dom == d then
      { r with before := unite r.before (acqs.map (fun b => b.past me r.scope)) } else r)
  let s := s.modCore me.core (fun k => { k with stores := k.stores.map (fun (e : Store) =>
    if e.after.contains pkt then { e with rels := more e.rels } else e) })
  { s with flights := s.flights.map (fun (f : Flight) => if f.p.after.contains pkt then { f with rels := more f.rels } else f) }

/-- Lanes of a group have read at an endpoint, those of an atomic one after the other, each after the lanes before it: their L1 keeps no copy
older than what they read (R85), and a remote acquire applies what the filter holds, at the scope at which the access acted (R72, R155); what
uses the values comes after the thread's own CO stores (R95). -/
def State.farRead (s : State) (f : Flight) (o : RemOp) (core slot : Nat) (b : Block) (m : LaneMask) (vs : List Dword) : State :=
  let agent := fun (l : Nat) => (⟨core, slot, b.gen, f.p.issuer.grp, l, b.ctx⟩ : Agent)
  let s := (s.l1sOf core).foldl (fun s pos => s.arriveAt pos (fun i => f.marks.any (fun k => k.id == i.store))) s
  let ls := lanesOf m
  ls.zipIdx.foldl (fun s x =>
    let me := agent x.1
    let before := ((ls.take x.2).zipIdx.filter (fun y => f.wrote vs y.2)).map (·.1)
    let ms := f.marks ++ f.lanesMark before
    let acqs := if o.acquire then ms.flatMap (fun k => k.rels.flatMap (s.syncs me o.dom f.p.scope)) else []
    let s := ((s.noteRead me o.dom f.p.scope o.acquire ms).carryOn me o.dom f.p.id acqs).noteFed me o.dom []
    if o.acquire then s.acquire me o.dom f.p.scope else s) s

/-- A positive answer reaches the group that sent a packet: results, acquires and custody (R155, R156, R339). -/
def State.groupDone (s : State) (f : Flight) (vs : List Dword) : State :=
  match s.issuerAt f.p.issuer with
  | none => s
  | some e =>
    let x := f.p.issuer
    match (e.blk.group x.grp).opOf f.p.id with
    | none => s
    | some o =>
      let m := ((o.pkts.find? (fun p => p.1 == f.p.id)).map (·.2)).getD 0
      let s := s.modIssuer x (fun g => (g.packetDone f.p.id vs).finishOps)
      match e with
      | .block core slot b => if pktReads f.p.op && !o.abandoned then s.farRead f o core slot b m vs else s
      | .image _ => s

/-- The command that sent a packet, in the block that sent it, wherever that stands now. -/
def State.senderRun (s : State) (p : Packet) (k : Nat) : Option Run :=
  match s.issuerAt p.issuer with
  | some (.block core slot _) => s.run? core slot k
  | _ => none

/-- A positive answer reaches the command that sent a packet. -/
def State.cmdDone (s : State) (f : Flight) (k : Nat) (vs : List Dword) : State :=
  match s.senderRun f.p k with
  | none => s
  | some x =>
      let got : List (Nat × Byte) := match f.p.op with
        | .load os _ => (os.zip vs).map (fun y => (y.1, (BitVec.ofNat 8 y.2.toNat : Byte)))
        | _ => []
      (s.modCmd x (fun c => { c with unacked := c.unacked.filter (· != f.p.id), atSource := c.atSource.filter (· != f.p.id)
                                     got := got.foldl (fun g y => KMap.put g y.1 y.2) c.got })).settleCmd x.core x.slot k

/-- A positive answer reaches the issuer, and the packet is forgotten. An irrevocable packet was acknowledged when it entered
its hold (R156). -/
def State.positive (s : State) (f : Flight) (vs : List Dword) : State :=
  let s := s.dropFlight f.p.id
  if f.p.irrev then s
  else
    let s := s.creditEntry f.p
    match f.cmd with
    | some k => s.cmdDone f k vs
    | none => s.groupDone f vs

/-- The lanes that a packet serves, while its operation awaits it. -/
def State.pktLanes (s : State) (p : Packet) : LaneMask :=
  match (s.senderBlock p).bind (fun b => (b.group p.issuer.grp).opOf p.id) with
  | some o => ((o.pkts.find? (fun q => q.1 == p.id)).map (·.2)).getD 0
  | none => 0

/-- The trap record of a remote store whose failure no group traps on (R156, R164): that of its issue, which names the lowest lane of
the packet (R357). -/
def State.lateRecord (s : State) (f : Flight) (cause : Nat) (iret : Bool) : TrapRec :=
  { f.issue with
    cause := BitVec.ofNat 6 cause
    iret := iret
    clock := s.coreClock f.p.issuer.core }

/-- The group of a packet has exited, or its block has retired. -/
def State.issuerRetired (s : State) (p : Packet) : Bool :=
  match s.senderBlock p with
  | some b => (b.group p.issuer.grp).liveMask == 0
  | none => true

/-- A negative reply joins those of its operation: it refuses more lanes, and its sub-code stands where they are the lowest. -/
def Group.addNeg (g : Group) (o : RemOp) (m : LaneMask) (r : Refused) : Group :=
  let n : NegReply := { sub := r.sub, irrev := r.irrev, threads := o.threads, refused := m, issue := o.issue, op := o.id
                        tok := (g.results.find? (fun r => r.id == o.result && o.dest != .nothing)).bind (·.tok) }
  if g.negs.any (fun y => y.op == o.id) then
    { g with negs := g.negs.map (fun y =>
        if y.op != o.id then y
        else if lowest m < lowest y.refused then { n with refused := y.refused ||| m }
        else { y with refused := y.refused ||| m }) }
  else { g with negs := g.negs ++ [n] }

/-- A negative reply to a packet of a group: a trap that waits for its wait or region entry, or for a UB store the end of the
context (R164); an irrevocable target is an illegal operand in any domain (R199). A reply to an abandoned result is discarded (R40). -/
def State.groupNegative (s : State) (f : Flight) (r : Refused) : State :=
  let x := f.p.issuer
  match (s.senderBlock f.p).bind (fun b => (b.group x.grp).opOf f.p.id) with
  | none =>
    if f.p.dom == .ub && opWrites f.p.op && (s.senderBlock f.p).isNone then s.endCtx f.p.srcCtx.toNat 12 (some (s.lateRecord f 12 true))
    else s
  | some o =>
    if o.abandoned then s.modIssuer x (fun g => (g.packetDone f.p.id []).finishOps)
    else if o.dest == .nothing && o.dom == .ub && !r.irrev then
      (s.endCtx f.p.srcCtx.toNat 12 (some (s.lateRecord f 12 (s.issuerRetired f.p)))).modIssuer x
        (fun g => (g.packetDone f.p.id []).finishOps)
    else
      s.modIssuer x (fun g => ((g.addNeg o (s.pktLanes f.p) r).packetDone f.p.id []).finishOps)

/-- A negative reply to a packet of a command (R139, R164), an illegal operand where the target is irrevocable (R199). -/
def State.cmdNegative (s : State) (f : Flight) (k : Nat) (r : Refused) : State :=
  let cause := if r.irrev then 3 else 11
  let sub : BitVec 4 := if r.irrev then 0 else r.sub
  match s.senderBlock f.p with
  | some _ =>
    match s.senderRun f.p k with
    | some x => s.failCmd x { cause := cause, lane := 0, sub := sub }
    | none => s
  | none => s.endCtx f.p.srcCtx.toNat cause (some { s.lateRecord f cause true with sub := sub })

/-- A negative reply reaches the issuer. One to a released irrevocable store ends the context with cause 12 (R156). -/
def State.negative (s : State) (f : Flight) (r : Refused) : State :=
  let s := s.dropFlight f.p.id
  if f.p.irrev then s.endCtx f.p.srcCtx.toNat 12 (some (s.lateRecord f 12 (s.issuerRetired f.p)))
  else
    let s := s.creditEntry f.p
    match f.cmd with
    | some k => s.cmdNegative f k r
    | none => s.groupNegative f r

/-! ## FIRST_HOP_CUSTODY (R156, R157, R198) -/

/-- The base die whose gateway carries a packet on its route (R198, R473). Where no route to its package is in use the rules name no gateway:
it is then the gateway of the base die below the sending core (DESIGN CHOICE, log 103). -/
def State.packetDie (s : State) (p : Packet) : Nat :=
  match s.routeInUse p.pkg.toNat with
  | some h => field h 0 4 / 2
  | none => p.gate

/-- Bytes that a packet takes in a hold: 128 for each 64-byte sector it touches. -/
def packetHold (p : Packet) : Nat :=
  let base := if p.toCore then 0 else p.wbase
  let secs := (opRuns p.op).flatMap (fun r => (List.range r.2).map (fun i => (base + r.1 + i) / 64))
  128 * max 1 secs.dedup.length

/-- Earlier items of the packet's convoy have all left their source. -/
def State.convoySent (s : State) (p : Packet) : Bool :=
  !s.flights.any (fun f => !f.inbound && f.at_ == .source && f.pending && sameConvoy f.p p && decide (f.p.item < p.item))
    && (match s.senderBlock p with
        | some b => !b.cmds.any (fun c => c.convoy.isSome && c.convoy == p.convoy && decide (c.item < p.item) && c.state == .queued)
        | none => true)

/-- A command's packet has left its source. -/
def State.leaveSource (s : State) (f : Flight) : State :=
  match f.cmd.bind (s.senderRun f.p) with
  | some x => (s.modCmd x (fun c => { c with atSource := c.atSource.filter (· != f.p.id) })).settleCmd x.core x.slot x.c.id
  | none => s

/-- Final custody of an irrevocable packet as it enters its hold. -/
def State.ackHeld (s : State) (f : Flight) : State :=
  let s := s.creditEntry f.p
  match f.cmd with
  | some k => s.cmdDone f k []
  | none => s.groupDone f []

/-- A packet on its way, or in a hold, to the package of another: that package delivers it first where a tag names it. -/
def State.onWay (s : State) (id : Nat) (p : Packet) : Bool :=
  s.flights.any (fun f => f.p.id == id && !f.inbound && f.pending && f.at_ != .source && f.p.pkg == p.pkg)

/-- What the packet's home delivers before it: what precedes it, and earlier items of its convoy, on their way to the same package
(R100, R101). -/
def State.tagsOf (s : State) (p : Packet) : List (BitVec 12 × Nat) :=
  (s.flights.filter (fun f => !f.inbound && f.pending && f.p.pkg == p.pkg
      && (p.after.contains f.p.id || (sameConvoy f.p p && decide (f.p.item < p.item))))).map (fun f => (s.sys.pkg, f.p.id))

/-- A packet has left its core. -/
def State.hasLeft (s : State) (id : Nat) : Bool := s.flights.any (fun f => f.p.id == id && !f.inbound && f.pending && f.at_ != .source)

/-- An SC store, and a release in RC, leave only once what precedes them is performed (R73). -/
def strictPacket (p : Packet) : Bool := p.dom == .sc || (p.dom == .rc && p.rel)

/-- A packet may leave its core: what precedes it is performed, or has left before it, for another package on its way there; so are the
earlier items of its convoy (R73, R100, R160). -/
def State.mayDepart (s : State) (p : Packet) : Bool :=
  p.after.all (fun id => !s.unperformed id || (!strictPacket p && (if p.pkg = s.sys.pkg then s.hasLeft id else s.onWay id p))) && s.convoySent p
    && !s.flights.any (fun f => !f.inbound && f.pending && sameConvoy f.p p && decide (f.p.item < p.item) && f.p.pkg != p.pkg)

/-- A packet as it is about to leave: in CO it comes after those of its core that have left before it (R73, R100). -/
def State.leaving (s : State) (f : Flight) : Packet :=
  if f.p.dom == .co && f.op.isSome then { f.p with after := unite f.p.after (s.coLeft f.p.issuer.core) } else f.p

/-- A packet for another package carries its tags; what its release and its sender's fences put before it is performed for every
agent of this package as it leaves (R79, R80). -/
def State.depart (s : State) (f : Flight) : State :=
  (s.settle (f.rels.flatMap (fun r => r.before.map (·.id)) ++ f.els.flatMap (fun e => e.2.map (·.id)))).modFlight f.p.id
    (fun x => { x with p := { f.p with tags := s.tagsOf f.p } })

/-- FIRST_HOP_CUSTODY: an irrevocable packet enters its outbound hold, any other the package network. -/
def execFirstHopCustody (id : Nat) (s : State) : Host.Outcome State Fault Refusal :=
  match s.flight? id with
  | none => .next s
  | some f =>
    let f := { f with p := s.leaving f }
    if f.inbound || f.at_ != .source || !s.mayDepart f.p then .next s
    else if f.p.pkg = s.sys.pkg then .next ((s.modFlight id (fun x => { x with p := f.p, at_ := .target })).leaveSource f)
    else
      match f.p.irrev, (s.ctx f.p.srcCtx.toNat).domain with
      | true, some d =>
        let die := s.packetDie f.p
        match s.hold die d f.p.issuer.core f.p.leg (.inr id) (packetHold f.p) with
        | .ok s => .next (((s.depart f).modFlight id (fun f => { f with irrevHeld := true, at_ := .gateway die })).ackHeld f)
        | .wait s => .next s
        | .over s => .next (s.legOverflow f.p.srcCtx.toNat 1)
      | _, _ => .next (((s.depart f).modFlight id (fun f => { f with at_ := .gateway f.p.gate })).leaveSource f)

/-! ## PACKET_HOP, CUSTODY_TIMEOUT, LINK_FAILURE (R171, R473, R474) -/

/-- Both ends hear of a packet that is lost: the sender by sub-code 7, the target by an error notice. -/
def State.lose (s : State) (f : Flight) : State :=
  let s := { s with out := s.out ++ [FabMsg.errorNotice f.p] }
  if f.inbound then s.dropFlight f.p.id else (s.answer f.p.id (.neg { sub := 7 })).modFlight f.p.id (fun x => { x with at_ := .gone })

/-- Port p. -/
def State.port (s : State) (p : Nat) : Port := KMap.get {} s.ports p

/-- Replace port p. -/
def State.setPort (s : State) (p : Nat) (y : Port) : State := { s with ports := KMap.put s.ports p y }

/-- A RAS record of a port. -/
def linkRas (kind sev port detail : Nat) : Ras := { kind := kind, sev := sev, detail := detail, ukind := 8, unit := port }

/-- A direction of a port: 0 transmit, 1 receive. -/
def Port.dir (y : Port) (d : Nat) : PortDir := if d = 0 then y.tx else y.rx

/-- Replace a direction. -/
def Port.setDir (y : Port) (d : Nat) (x : PortDir) : Port := if d = 0 then { y with tx := x } else { y with rx := x }

/-- A port receives flits: HELD stops its sending alone (R477). -/
def Port.receives (y : Port) : Bool := y.state == .up || y.state == .held

/-- A port enters HELD before counter 2^48 - 2 is used (R477). -/
def State.exhaust (s : State) (port dir : Nat) : State :=
  let y := s.port port
  (s.setPort port { y.setDir dir { y.dir dir with ctr := 2 ^ 48 - 2 } with state := .held, heldAt := s.time }).postRas
    (linkRas 10 1 port 0)

/-- n flits of a direction have used as many counter values: at 2^47 without a next key KEYLOW is set (R477). In clear no counter applies
(R476). -/
def State.count (s : State) (port dir n : Nat) : State :=
  if !s.sys.encreq then s
  else
    let y := s.port port
    let x := y.dir dir
    let low := x.next.isNone && decide (2 ^ 47 ≤ x.ctr + n) && !y.keylow
    let s := s.setPort port { y.setDir dir { x with ctr := x.ctr + n } with keylow := y.keylow || low }
    if low then s.postRas (linkRas 9 0 port 0) else s

/-- The IV of a flit: its counter, the package, the port, DIR and 31 zeros, from the highest bit down (R476). -/
def flitIv (ctr : Nat) (pkg : BitVec 12) (port dir : Nat) : BitVec 96 :=
  BitVec.ofNat 96 (ctr * 2 ^ 48 + pkg.toNat * 2 ^ 36 + port % 16 * 2 ^ 32 + dir % 2 * 2 ^ 31)

/-- Flits as a port sends them, given as headers and texts, each with its own counter value; none in clear (R476). -/
def State.protectAll (s : State) (port : Nat) (xs : List (List Byte × List Byte)) : List Flit :=
  match s.sys.encreq, (s.port port).tx.cur with
  | true, some k =>
    xs.mapIdx (fun i x =>
      let iv := flitIv ((s.port port).tx.ctr + i) s.sys.pkg port 0
      let y := Config.aesGcm k.bits iv x.1 x.2
      { key := k.idx, iv := iv, header := x.1, text := y.1, tag := y.2 })
  | _, _ => []

/-- A packet's flits as a port sends them. -/
def State.protect (s : State) (port : Nat) (p : Packet) : List Flit := s.protectAll port (Config.flits p)

/-- The package through whose gateway a route leads (R473). -/
def routeVia (h : Nat) : Option (BitVec 12) := if bitAt h 30 then some (BitVec.ofNat 12 (field h 4 12)) else none

/-- The port of a route. -/
def routePort (h : Nat) : Nat := field h 0 4

/-- Counter values that a port's transmit direction has left under its key: without a next key 2^48 - 2 is never used (R477). -/
def State.ctrRoom (s : State) (port : Nat) : Nat :=
  let x := (s.port port).tx
  (if x.next.isSome then 2 ^ 48 else 2 ^ 48 - 2) - x.ctr

/-- A port's counter reaches for n flits; in clear none is needed. -/
def State.flitRoom (s : State) (port n : Nat) : Bool := !s.sys.encreq || decide (n ≤ s.ctrRoom port)

/-- A port sends a message of n flits as far as its counter reaches for them, and enters HELD where it does not and has no next key
(R476, R477, R494). -/
def State.flitsOut (s : State) (port n : Nat) (msg : FabMsg) : State :=
  let fits := s.flitRoom port n
  let sent := if fits then n else s.ctrRoom port
  let s := if fits then { s with out := s.out ++ [msg] } else s
  let s := (s.count port 0 sent).bump (0x380000 + 0x100 * port) sent
  if fits || (s.port port).tx.next.isSome then s else s.exhaust port 0

/-- A port receives n flits (R476, R494). -/
def State.flitsIn (s : State) (port n : Nat) : State := (s.count port 1 n).bump (0x380000 + 0x100 * port + 8) n

/-- Send a flight on a route, given with its number. Where the port's counter does not reach, the packet stays until a custody timeout
takes it elsewhere (R474, R477). -/
def State.sendOn (s : State) (f : Flight) (r : Nat × Nat) : State :=
  let port := routePort r.2
  let s := s.flitsOut port (Config.flits f.p).length (.packet port (routeVia r.2) f.p (s.protect port f.p))
  s.modFlight f.p.id (fun x => { x with at_ := .link (port / 2) port, sentAt := s.time, route := r.1, port := port })

/-- The valid routes to a package whose ports are up, each with its number, route 0 first; a transit packet takes only those that lead
through one switch (R473). -/
def State.liveRoutes (s : State) (pkg : Nat) (transit : Bool) : List (Nat × Nat) :=
  ([0, 1].zip (s.routeHalves pkg)).filter (fun r => bitAt r.2 31 && s.portUp (routePort r.2) && !(transit && bitAt r.2 30))

/-- An irrevocable packet of the same source that left its hold earlier has not gone on its way (R198). -/
def State.behind (s : State) (f : Flight) : Bool :=
  f.p.irrev && (s.flights.takeWhile (fun g => g.p.id != f.p.id)).any (fun g => g.p.irrev && !g.inbound && !g.irrevHeld && g.pending
    && g.p.issuer.core == f.p.issuer.core && (match g.at_ with | .gateway _ => true | _ => false))

/-- Forward a flight from a gateway. -/
def State.forward (s : State) (f : Flight) : State :=
  match (s.liveRoutes f.p.pkg.toNat f.inbound).head? with
  | some r => s.sendOn f r
  | none => s.lose f

/-- A flight whose link fails is sent over another route where one is up, else it is lost (R171). -/
def State.reroute (s : State) (f : Flight) (port : Nat) : State :=
  match (s.liveRoutes f.p.pkg.toNat f.inbound).find? (fun r => routePort r.2 != port) with
  | some r => s.sendOn f r
  | none => s.lose f

/-- Sequences that a gateway has accepted from a source gateway. -/
def State.acceptedFrom (s : State) (gate : Nat) (p : Packet) : List Nat :=
  ((s.accepted.find? (fun a => a.1 == gate && a.2.1 == p.srcPkg && a.2.2.1 == p.gate)).map (·.2.2.2)).getD []

/-- A packet's sequence has been accepted, or lies below the 4,096 highest that have (R474). -/
def State.seqRepeats (s : State) (gate : Nat) (p : Packet) : Bool :=
  let l := s.acceptedFrom gate p
  l.contains p.seq || (decide (4096 ≤ l.length) && l.all (fun x => decide (p.seq < x)))

/-- Accept a sequence: of 4,096 kept, the lowest gives way. -/
def State.acceptSeq (s : State) (gate : Nat) (p : Packet) : State :=
  let l := p.seq :: s.acceptedFrom gate p
  let low := l.foldl min p.seq
  let l := if 4096 < l.length then l.filter (· != low) else l
  { s with accepted := s.accepted.filter (fun a => !(a.1 == gate && a.2.1 == p.srcPkg && a.2.2.1 == p.gate)) ++ [(gate, p.srcPkg, p.gate, l)] }

/-- A packet of a domain and of the leg that its rollback undoes, or a later one (R486). -/
def Domain.undoes (d : Domain) (p : Packet) : Bool :=
  d.stopped && p.leg != 0 && d.rolling != 0 && decide ((p.leg - d.rolling).toNat < 2 ^ 31)

/-- A rollback drops the packets of its domain that arrive with the leg that is rolled back (R486). -/
def State.dropsLeg (s : State) (p : Packet) : Bool :=
  match p.rdom.bind s.domain? with
  | some d => d.undoes p
  | none => false

/-- A packet from another package reaches the gateway of a port: each of its flits counts. The gateway acknowledges a packet that it accepts
to the hop before it, and a repeat again; what a rollback drops it does not accept (R474, R486, log 110). -/
def State.receive (s : State) (p : Packet) (port : Nat) : State :=
  let gate := port / 2
  let n := (Config.flits p).length
  if !s.sys.fabcfg || 16 ≤ port || !(s.port port).receives then s
  else
  let s := s.flitsIn port n
  if s.seqRepeats gate p then { s with out := s.out ++ [FabMsg.hopAck port p] }
  else if s.dropsLeg p then { s with delivered := s.delivered ++ [(p.srcPkg, p.srcId)] }
  else
    let s := s.acceptSeq gate p
    let (id, s) := s.fresh
    let f : Flight := { p := { p with id := id }, at_ := if p.pkg = s.sys.pkg then .target else .gateway gate, inbound := true
                        who := farAgent p }
    let s := { s with flights := s.flights ++ [f], out := s.out ++ [FabMsg.hopAck port p] }
    if p.pkg = s.sys.pkg then s else s.forward f

/-- PACKET_HOP: a gateway receives a packet of another package, or forwards one of this package; the next hop takes custody
of one that was sent. -/
def execPacketHop (h : Hop) (s : State) : Host.Outcome State Fault Refusal :=
  match h with
  | .inbound p port => .next (s.receive p port)
  | .own id =>
    match s.flight? id with
    | none => .next s
    | some f =>
      match f.at_ with
      | .gateway _ => if f.irrevHeld || !f.pending || s.behind f then .next s else .next (s.forward f)
      | .link _ _ => .next (if f.inbound then s.dropFlight id else s.modFlight id (fun f => { f with at_ := .away }))
      | _ => .next s

/-- CUSTODY_TIMEOUT: a packet that the next hop has not acknowledged within CTO of its sending is sent again on the other valid route, or
after RETRY of them the error notices go (R474). -/
def execCustodyTimeout (id : Nat) (s : State) : Host.Outcome State Fault Refusal :=
  match s.flight? id with
  | none => .next s
  | some f =>
    match f.at_ with
    | .link _ _ =>
      if s.time < f.sentAt + usec s.sys.cto then .next s
      else if s.sys.retry ≤ f.resends then .next (s.lose f)
      else
        let live := s.liveRoutes f.p.pkg.toNat f.inbound
        match (live.find? (fun r => r.1 != f.route)).or live.head? with
        | none => .next (s.lose f)
        | some r => .next ((s.modFlight id (fun f => { f with resends := f.resends + 1 })).sendOn f r
            |>.bump (0x380000 + 0x100 * routePort r.2 + 24) 1)
    | _ => .next s

/-- LINK_FAILURE: no route remains, or a hop that holds custody is lost. -/
def execLinkFailure (id : Nat) (s : State) : Host.Outcome State Fault Refusal :=
  match s.flight? id with
  | none => .next s
  | some f =>
    match f.at_ with
    | .gateway _ => .next (if f.irrevHeld || !f.pending then s else s.lose f)
    | .link _ port => .next (s.reroute f port)
    | .away => .next (s.lose f)
    | _ => .next s

/-! ## PACKET_ARRIVAL, SLOTRSV_REQUEST -/

/-- A packet at its target is judged. -/
def State.arrival (s : State) (f : Flight) : State :=
  match s.land f with
  | .held s => s
  | .answered s a ms =>
    if f.inbound then
      { s.dropFlight f.p.id with out := s.out ++ [FabMsg.answer f.p a], delivered := s.delivered ++ [(f.p.srcPkg, f.p.srcId)] }
    else s.modFlight f.p.id (fun x => { x with answer := some a, marks := ms })

/-- A serai reservation. -/
def isReserve : PktOp → Bool
  | .reserve _ => true
  | _ => false

/-- PACKET_ARRIVAL. -/
def execPacketArrival (id : Nat) (s : State) : Host.Outcome State Fault Refusal :=
  match s.flight? id with
  | none => .next s
  | some f => if f.at_ == .target && f.pending && !isReserve f.p.op then .next (s.arrival f) else .next s

/-- SLOTRSV_REQUEST: one atomic operation on the serai's control area (R168). -/
def execSlotrsvRequest (id : Nat) (s : State) : Host.Outcome State Fault Refusal :=
  match s.flight? id with
  | none => .next s
  | some f => if f.at_ == .target && f.pending && isReserve f.p.op then .next (s.arrival f) else .next s

/-! ## REMOTE_REPLY, CUSTODY_ACK, NEGATIVE_REPLY (R156, R164, R339) -/

/-- The values of a reply that fits what a packet asked. -/
def replyValues (op : PktOp) (r : Reply) : Option (List Dword) :=
  match op, r with
  | .load os _, .values vs => if vs.length = os.length then some vs else none
  | .atom _ _ ops, .values vs => if vs.length = ops.length then some vs else none
  | .reserve _, .word w => some [w.setWidth 64]
  | _, _ => none

/-- What the holds keep of a run of an endpoint on another package: the domain's own reads return it (R198). -/
def State.heldFar (s : State) (f : Flight) (off : Nat) (bs : List Byte) : List Byte :=
  let base := fun (p : Packet) => if p.toCore then 0 else p.wbase
  s.holds.foldl (fun bs h =>
    match h.what with
    | .inl _ => bs
    | .inr id =>
      match s.flight? id with
      | none => bs
      | some g =>
        if some h.dom = (s.ctx f.p.srcCtx.toNat).domain
            && s.pktsMeet g.p f.p.pkg.toNat f.p.unit.toNat f.p.slot.toNat f.p.gen.toNat f.p.tctx.toNat f.p.toCore f.p.wbase [(off, bs.length)] then
          match g.p.op with
          | .store rs => rs.foldl (fun bs r => overlay (base f.p + off) bs (base g.p + r.1) r.2) bs
          | _ => bs
        else bs) bs

/-- The values of a reply as the issuer sees them. -/
def State.heldValues (s : State) (f : Flight) (vs : List Dword) : List Dword :=
  match f.p.op with
  | .load os n => (os.zip vs).map (fun y => dw (leNat (s.heldFar f y.1 (leBytes n y.2.toNat))))
  | _ => vs

/-- A packet that another package holds, or has answered. -/
def Flight.outside (f : Flight) : Bool :=
  !f.inbound && f.answer.isNone && (match f.at_ with | .away => true | .link _ _ => true | _ => false)

/-- The packet's operation returns a result to registers. -/
def State.returns (s : State) (f : Flight) : Bool :=
  match (s.senderBlock f.p).bind (fun b => (b.group f.p.issuer.grp).opOf f.p.id) with
  | some o => o.dest != .nothing
  | none => false

/-- The bytes of a reply arrive at the die of the core that asked, from its target: a core, home slices or another package (R495). -/
def State.replyRx (s : State) (f : Flight) : State :=
  let die := s.sys.dieOfCore f.p.issuer.core
  if f.p.pkg != s.sys.pkg then s.bumpRx noDie die (opBack f.p.op)
  else if f.p.toCore then s.bumpRx (s.sys.dieOfCore f.p.unit.toNat) die (opBack f.p.op)
  else if opBack f.p.op = 0 then s
  else (s.homeShares f.p).foldl (fun s x => s.bumpRx x.1 die x.2) s

/-- REMOTE_REPLY: the reply of this package's target, or the one given by another package. -/
def execRemoteReply (id : Nat) (r : Reply) (s : State) : Host.Outcome State Fault Refusal :=
  match s.flight? id with
  | none => .next s
  | some f =>
    let given := match f.answer with
      | some (.data x) => replyValues f.p.op x
      | some _ => none
      | none => if f.outside then replyValues f.p.op r else none
    match given with
    | some vs =>
      .next ((s.positive f (s.heldValues f vs)).replyRx f)
    | none => .next s

/-- An operation whose final custody is acknowledged without data. -/
def acksOnly : PktOp → Bool
  | .load .. => false
  | .reserve _ => false
  | _ => true

/-- CUSTODY_ACK. -/
def execCustodyAck (id : Nat) (s : State) : Host.Outcome State Fault Refusal :=
  match s.flight? id with
  | none => .next s
  | some f =>
    let ok := match f.answer with
      | some .ack => true
      | some (.data _) => acksOnly f.p.op && !s.returns f
      | some (.neg _) => false
      | none => f.outside && acksOnly f.p.op && !s.returns f
    .next (if ok && !f.inbound then s.positive f [] else s)

/-- NEGATIVE_REPLY: sub-codes 1 to 10 alone are sent (R163), and that a target is irrevocable (R199). -/
def execNegativeReply (id : Nat) (r : Refused) (s : State) : Host.Outcome State Fault Refusal :=
  match s.flight? id with
  | none => .next s
  | some f =>
    match f.answer with
    | some (.neg k) => .next (if f.inbound then s else s.negative f k)
    | some _ => .next s
    | none => .next (if f.outside && (r.irrev || decide (1 ≤ r.sub.toNat ∧ r.sub.toNat ≤ 10)) then s.negative f r else s)

/-! ## ERROR_NOTICE_ARRIVAL (R171) -/

/-- The fault that an error notice leaves at an offset: of the reserved slot that holds it or whose word it is, else of the
barrier word there. -/
def Block.notice (b : Block) (off : Nat) : Block :=
  match b.slotAt off with
  | some _ => b.loseArrival [(off, 1)] none
  | none => if off % 8 = 0 ∧ off + 8 ≤ b.locSize ∧ (!b.inControl off 8 || (b.slotWord off).isSome) then b.loseArrival [] (some off) else b

/-- ERROR_NOTICE_ARRIVAL. -/
def execErrorNoticeArrival (core : Nat) (slot : BitVec 5) (gen : BitVec 32) (off : Nat) (s : State) :
    Host.Outcome State Fault Refusal :=
  match s.slotEnd core slot.toNat gen with
  | .error _ => .next s
  | .ok (.block c sl b) => .next (s.setBlock c sl (b.notice off))
  | .ok (.image x) => let b := s.imageBlock x; .next (s.putImage x b (b.notice off))

end Sys2Proof.Machine
end

