-- ==== Sys2Proof/Machine/Events.lean ====
section
/-! DEFINITION. Steps inside a core and at the home agents: write-back, trap delivery, stores that leave their queues,
invalidations, merges (R40, R53, R73, R91, R98, R179, R195, R196, R219, R347, R462). -/

namespace Sys2Proof.Machine

/-! ## RESULT_WRITEBACK, TRAP_DELIVERY -/

/-- Result `k` of a group is written: its token is ready (R219). The value of an instruction of the core stands in its
register since issue, where no instruction can read it before the token; that of a LAUNCH is written now. -/
def Group.writeBack (g : Group) (k : Nat) : Group :=
  match g.results.find? (fun r => r.id == k) with
  | none => g
  | some r =>
    if !r.remote then { g with results := g.results.filter (fun x => x.id != k) }
    else
      match g.ops.find? (fun o => o.result == k && o.dest != RDest.nothing && o.pkts.isEmpty) with
      | some o => if g.opOver o then { g.putResult o with ops := g.ops.filter (fun x => x.id != o.id) } else g
      | none => g

/-- RESULT_WRITEBACK. -/
def execResultWriteback (core slot grp k : Nat) (s : State) : Host.Outcome State Fault Refusal :=
  .next (s.modGroup core slot grp (fun g => g.writeBack k))

/-- A trap waits for the issue group: not an assertion, after which its context is stopped, and not while other threads of
its group are in handler mode (R356). -/
def Who.trapDue (w : Who) : Option TrapRec :=
  match w.ig.trap with
  | some r => if r.cause.toNat != 13 && (w.g.trap.isNone || w.ig.handler) && w.ig.wait == .none && w.ig.got.isEmpty then some r else none
  | none => none

/-- The record of a trap that waited: a start fault has PC and REGION zero (R194); a notice is made as it is delivered, and
its REGION is the point at which the issue group would go on (R195), the region it has not entered yet where it stands at one. -/
def State.dueRecord (s : State) (w : Who) (r : TrapRec) : TrapRec :=
  if r.cause == 5 then { r with clock := s.coreClock w.core }
  else
    let x := s.record w w.live { cause := r.cause.toNat, lane := lowest w.live }
    if w.ig.atEntry then { x with region := bundleOf w.ig.pc } else x

/-- Deliver the trap that waits for an issue group, before its next instruction. -/
def State.deliver (s : State) (w : Who) : State :=
  match w.trapDue with
  | none => s
  | some r =>
    let r := s.dueRecord w r
    let s := s.modGroup w.core w.slot w.grp (fun g => g.modIg w.ig.id (fun ig => { ig with trap := none }))
    s.takeTrap { w with ig := { w.ig with trap := none } } r 0

/-- TRAP_DELIVERY. -/
def execTrapDelivery (core slot grp ig : Nat) (s : State) : Host.Outcome State Fault Refusal :=
  match s.whoOf core slot grp ig with
  | none => .next s
  | some w => .next (if (s.ctx w.ctx).state = .live then s.deliver w else s)

/-! ## STORE_DRAIN, BANK_REQUEST_COMPLETE -/

/-- A queued store has no store before it that must be performed first. -/
def State.mayLeave (s : State) (core : Nat) (e : Store) : Bool :=
  !(s.pendingStores core).any (fun a => decide (a.id < e.id) && a.id != e.id && mustPrecede a e)

/-- Store `k` of a core to global or host memory is performed where its order allows. -/
def State.leave (s : State) (core k : Nat) : State :=
  match (s.core core).stores.find? (fun e => e.id == k) with
  | none => s
  | some e => if !e.place.isLoc && s.mayLeave core e then (s.drainOne e).2 else s

/-- The stores that make one bank request with a store (R53). -/
def State.request (s : State) (core : Nat) (e : Store) : List Store :=
  if e.req = 0 then [e] else (s.core core).stores.filter (fun x => x.req == e.req)

/-- The bank request of a queued store of local memory completes where its order allows. -/
def State.leaveRequest (s : State) (core k : Nat) : State :=
  match (s.core core).stores.find? (fun e => e.id == k && e.place.isLoc) with
  | none => s
  | some e =>
    let rs := s.request core e
    let held := fun (r : Store) => s.awaitsPacket r || (s.pendingStores core).any (fun a =>
      decide (a.id < r.id) && !rs.any (fun x => x.id == a.id) && mustPrecede a r)
    if rs.any held then s else (s.drainList rs).2

/-- STORE_DRAIN. -/
def execStoreDrain (core k : Nat) (s : State) : Host.Outcome State Fault Refusal := .next (s.leave core k)

/-- BANK_REQUEST_COMPLETE. -/
def execBankRequestComplete (core k : Nat) (s : State) : Host.Outcome State Fault Refusal := .next (s.leaveRequest core k)

/-! ## INVALIDATION_ARRIVAL, FILTER_AGE_EXPIRY -/

/-- INVALIDATION_ARRIVAL: the k-th invalidation of the L1 at a physical position. -/
def execInvalidationArrival (core k : Nat) (s : State) : Host.Outcome State Fault Refusal :=
  match (s.l1 core).invs[k]? with
  | none => .next s
  | some i => .next (s.arriveAt core (· == i))

/-- FILTER_AGE_EXPIRY: 4,096 aclk after its arrival a filter applies an invalidation (R91). -/
def execFilterAgeExpiry (core k : Nat) (dom : Dom) (s : State) : Host.Outcome State Fault Refusal :=
  match (s.l1 core).invs[k]? with
  | none => .next s
  | some i =>
    match i.arrived with
    | some t => .next (if t + 4096 ≤ s.clock then s.modL1 core (fun c => c.apply dom (· == i)) else s)
    | none => .next s

/-! ## HOME_AGENT_WRITE -/

/-- Contributions i and j of a word merge into the place of i (R98); with i = j it becomes the first. -/
def CuWord.mergeParts (w : CuWord) (i j : Nat) : CuWord :=
  match w.parts[i]?, w.parts[j]? with
  | some a, some b =>
    if i = j then { w with parts := a :: listDrop w.parts i }
    else { w with parts := listDrop (listSet w.parts i (opApply w.op w.ty a b)) j }
  | _, _ => w

/-- Contributions i and j of the k-th word in the CU state merge, which its home agent counts (R494). -/
def State.cuMerge (s : State) (k i j : Nat) : State :=
  match s.cu[k]? with
  | none => s
  | some w =>
    let t := { s with cu := listMod s.cu k (fun w => w.mergeParts i j) }
    if (w.mergeParts i j).parts.length < w.parts.length then t.bumpMerges w.pa 1 else t

/-- A store of a group reaches a home that refuses it: it is discarded and the context ends (R462). -/
def State.refuseStore (s : State) (core slot grp pa : Nat) : State :=
  match (s.core core).stores.find? (fun e => e.who.slot == slot && e.who.grp == grp && !e.irrev
      && (match e.place with | .glob (.dev a) => runsMeet a e.len pa 1 && !s.homeAdmits e.who.ctx a | _ => false)) with
  | some e => s.leave core e.id
  | none => s

/-- HOME_AGENT_WRITE: a write that its home holds tries again (R196), contributions merge, or a home refuses a store. -/
def execHomeAgentWrite (x : HomeWork) (s : State) : Host.Outcome State Fault Refusal :=
  match x with
  | .held k =>
    match s.homeHeld[k]? with
    | some h => .next (if s.mayLeave h.store.who.core h.store then (s.drainOne h.store).2 else s)
    | none => .next s
  | .cuMerge k i j => .next (s.cuMerge k i j)
  | .refused core slot grp pa _ => .next (s.refuseStore core slot grp pa)

end Sys2Proof.Machine
end

