-- ==== Sys2Proof/Machine/Links.lean ====
section
/-! DEFINITION. The mailbox's frame (R429) and the Dvored Link ports: errors, keys, training, retirement, and the fabric
commands (R171, R472 to R480). -/

namespace Sys2Proof.Machine

/-! ## Mailbox commands (R429) -/

/-- ARGk as latched when the command started. -/
def State.arg (s : State) (k : Nat) : Nat := (listGet 0 s.sys.latched k).toNat

/-- The command that runs has a code. -/
def State.running (s : State) (code : Nat) : Bool := s.sys.boot == .ready && s.sys.busy && s.sys.cmd.toNat == code

/-- The command completes with a result, and what waited behind it is served. -/
def State.done (s : State) (result : Nat) : State :=
  { s with sys := { s.sys.serveAttests with busy := false, result := BitVec.ofNat 8 result } }

/-- The command returns a value in ARGk. -/
def State.retArg (s : State) (k : Nat) (x : Nat) : State :=
  { s with sys := { s.sys with args := listSet s.sys.args k (dw x) } }

/-- A mailbox command: nothing happens unless it is the one that runs. -/
def State.command (s : State) (code : Nat) (f : State → State) : Host.Outcome State Fault Refusal :=
  .next (if s.running code then f s else s)

/-! ## Ports -/

/-- Link failure of every packet that a port holds: over another route, or lost (R171, R480). -/
def State.cleanPort (s : State) (p : Nat) : State :=
  (s.flights.filter (fun f => f.at_ == .link (p / 2) p)).foldl (fun s f => s.reroute f p) s

/-- A port is retired (R480, R497). -/
def State.retirePort (s : State) (p : Nat) (cause : BitVec 3) : State :=
  let y := s.port p
  if 16 ≤ p || y.state == .retired then s
  else ((s.setPort p { y with state := .retired, rcause := cause }).cleanPort p).postRas (linkRas 8 1 p cause.toNat)

/-- A direction holds a key. -/
def PortDir.keyed (x : PortDir) : Bool := x.cur.isSome || x.next.isSome

/-- Take the next key into use: the counter restarts and the next slot empties. Without one the current key stays, and its counter goes
on: no value is used again (R477). -/
def PortDir.switch (x : PortDir) : PortDir :=
  match x.next with
  | some k => { cur := some k, next := none, ctr := 0 }
  | none => x

/-- FLIT_ERROR: the flit is dropped and replayed; more than 16 within 1 ms retire the port, one that is held from sending too (R475). -/
def execFlitError (port : Nat) (s : State) : Host.Outcome State Fault Refusal :=
  let y := s.port port
  if 16 ≤ port || !y.receives then .next s
  else
    let drops := s.time :: y.drops.filter (fun t => decide (s.time < t + usec 1000))
    let tag := s.sys.encreq && (Config.freeWord s.freeCtr).getLsbD 0
    let s := { s.setPort port { y with drops := drops } with freeCtr := s.freeCtr + 1 }
    let s := (s.bump (0x380000 + 0x100 * port + 16) 1).bump (0x380000 + 0x100 * port + (if tag then 40 else 32)) 1
    .next (if 16 < drops.length then s.retirePort port 2 else s)

/-- PEER_LOST (R480). -/
def execPeerLost (port : Nat) (s : State) : Host.Outcome State Fault Refusal :=
  let y := s.port port
  .next (if y.state == .up || y.state == .held then s.retirePort port 4 else s)

/-- PORT_TRAIN: with encryption both directions must hold a key (R476, R480). -/
def execPortTrain (port : Nat) (s : State) : Host.Outcome State Fault Refusal :=
  let y := s.port port
  if 16 ≤ port || !s.sys.fabcfg || y.state != .down || (s.sys.encreq && !(y.tx.keyed && y.rx.keyed)) then .next s
  else
    .next ((s.setPort port { y with state := .up, rcause := 0, keylow := false, tx := y.tx.switch, rx := y.rx.switch }).postRas
      (linkRas 11 0 port 0))

/-- A live port that encrypts and whose direction has no next key. -/
def State.keyless (s : State) (port dir : Nat) : Bool :=
  decide (port < 16) && s.sys.encreq && ((s.port port).dir dir).next.isNone && (s.port port).state == .up

/-- KEYLOW: the counter has reached 2^47, also by flits of the link itself, and no next key is installed (R477). -/
def execKeylow (port dir : Nat) (s : State) : Host.Outcome State Fault Refusal :=
  let y := s.port port
  let x := y.dir dir
  if !s.keyless port dir || y.keylow then .next s
  else
    .next ((s.setPort port { y.setDir dir { x with ctr := max x.ctr (2 ^ 47) } with keylow := true }).postRas (linkRas 9 0 port 0))

/-- KEY_EXHAUSTED. -/
def execKeyExhausted (port dir : Nat) (s : State) : Host.Outcome State Fault Refusal :=
  .next (if s.keyless port dir then s.exhaust port dir else s)

/-- KEY_STARVE_TIMEOUT: no key within KSTO of the hold. -/
def execKeyStarveTimeout (port _dir : Nat) (s : State) : Host.Outcome State Fault Refusal :=
  let y := s.port port
  .next (if y.state == .held && y.heldAt + usec (1000 * s.sys.ksto) ≤ s.time then s.retirePort port 1 else s)

/-- KEY_SWITCH. -/
def execKeySwitch (port dir : Nat) (s : State) : Host.Outcome State Fault Refusal :=
  let y := s.port port
  .next (if port < 16 && y.state == .up && (y.dir dir).next.isSome then
      s.setPort port { y.setDir dir (y.dir dir).switch with keylow := if dir = 0 then false else y.keylow }
    else s)

/-! ## Fabric commands (R472, R473, R477 to R480) -/

/-- A value with a default: 0 takes v. -/
def orDefault (x v : Nat) : Nat := if x = 0 then v else x

/-- FABCFG. -/
def execFabcfg (s : State) : Host.Outcome State Fault Refusal :=
  s.command 13 fun s =>
    let cto := orDefault (s.arg 1) 20
    let retry := orDefault (s.arg 2) 4
    let ksto := orDefault (s.arg 3) 10
    if s.sys.fabcfg || 1000 < cto || 8 < retry || 1000 < ksto then s.done 2
    else
      { s with sys := { s.sys with fabcfg := true, pkg := BitVec.ofNat 12 (s.arg 0), encreq := bitAt (s.arg 0) 12, cto := cto,
                                   retry := retry, ksto := ksto } }.done 0

/-- ROUTESET. -/
def execRouteset (s : State) : Host.Outcome State Fault Refusal :=
  s.command 14 fun s =>
    let r := s.arg 1
    if 4096 ≤ s.arg 0 || s.arg 0 = s.sys.pkg.toNat || field r 16 14 != 0 || field r 48 14 != 0
        || (!bitAt r 30 && field r 4 12 != 0) || (!bitAt r 62 && field r 36 12 != 0) then s.done 2
    else { s with routes := KMap.put s.routes (s.arg 0) (dw r) }.done 0

/-- A key installed: in the next slot, or at once where its starved direction holds the port (R477). -/
def State.installKey (s : State) (port dir : Nat) (k : Key) : State :=
  let y := s.port port
  let x := y.dir dir
  if y.state == .held && x.ctr == 2 ^ 48 - 2 then
    s.setPort port { y.setDir dir { cur := some k, next := none, ctr := 0 } with state := .up, keylow := false }
  else s.setPort port (y.setDir dir { x with next := some k })

/-- KEYINST. -/
def execKeyinst (s : State) : Host.Outcome State Fault Refusal :=
  s.command 15 fun s =>
    let port := field (s.arg 0) 0 4
    let dir := field (s.arg 0) 4 1
    let idx : BitVec 8 := BitVec.ofNat 8 (field (s.arg 0) 8 8)
    let x := (s.port port).dir dir
    if x.next.isSome || (match x.cur with | some k => k.idx == idx | none => false) then s.done 2
    else
      let bits := s.arg 1 + 2 ^ 64 * s.arg 2 + 2 ^ 128 * s.arg 3 + 2 ^ 192 * s.arg 4
      (s.installKey port dir { idx := idx, bits := BitVec.ofNat 256 bits }).done 0

/-- The code of a port's state. -/
def portCode (x : PortState) : Nat := match x with | .down => 0 | .up => 1 | .held => 2 | .retired => 3

/-- LINKSTAT's word (R479). -/
def Port.word (y : Port) : Nat :=
  at' 61 3 (portCode y.state) + at' 58 3 y.rcause.toNat + (if y.tx.next.isSome then 2 ^ 57 else 0)
    + (if y.keylow then 2 ^ 56 else 0) + at' 48 8 ((y.tx.cur.map (·.idx.toNat)).getD 0) + at' 0 48 y.tx.ctr

/-- LINKSTAT. -/
def execLinkstat (s : State) : Host.Outcome State Fault Refusal :=
  s.command 16 fun s => if 16 ≤ s.arg 0 then s.done 2 else (s.retArg 0 (s.port (s.arg 0)).word).done 0

/-- LINKCTL 0; an ARG1 that is neither 0 nor 1 is a bad argument. -/
def execLinkctlRetire (s : State) : Host.Outcome State Fault Refusal :=
  s.command 17 fun s =>
    if s.arg 1 = 1 then s
    else if 16 ≤ s.arg 0 || s.arg 1 != 0 then s.done 2
    else (s.retirePort (s.arg 0) 3).done 0

/-- LINKCTL 1: a retired port goes down to train again with its installed keys. -/
def execLinkctlUp (s : State) : Host.Outcome State Fault Refusal :=
  s.command 17 fun s =>
    let y := s.port (s.arg 0)
    if s.arg 1 != 1 then s
    else if 16 ≤ s.arg 0 || (s.sys.encreq && !(y.tx.keyed && y.rx.keyed)) then s.done 2
    else (if y.state == .retired then s.setPort (s.arg 0) { y with state := .down, drops := [] } else s).done 0

end Sys2Proof.Machine
end

