-- ==== Sys2Proof/Machine/Distrib.lean ====
section
/-! DEFINITION. The distributors: admission, placement, stealing, release and retirement, the watchdog (R20 to R25, R56,
R240, R365, R436, R439 to R443, R449, R454, R470). -/

namespace Sys2Proof.Machine

/-! ## ITINERARY_ADMIT (R435, R436, R439, R449) -/

/-- The ring entry at HEAD of a queue. -/
def State.ringEntry (s : State) (c : Nat) (y : Queue) : Option Nat :=
  let a := y.base.toNat * 64 + 8 * (y.head.toNat % 2 ^ y.log2n.toNat)
  if y.host then some (leNat (Memory.readN s.hmem ((s.ctx c).pasid.toNat * 2 ^ 64 + a) 8))
  else
    match s.pieces 4096 c fetchNeed a 8 with
    | .ok _ => (s.vRead c a 8).map leNat
    | .error _ => none

/-- Change a queue. -/
def State.modQueue (s : State) (c q : Nat) (f : Queue → Queue) : State :=
  s.modCtx c (fun x => { x with queues := KMap.put x.queues q (f (KMap.get {} x.queues q)) })

/-- The queue stops: ERR is set, EN clears and QERR is posted (R436). -/
def State.stopQueue (s : State) (c q : Nat) : State :=
  (s.modQueue c q (fun y => { y with err := true, en := false })).postEvent c 6 q 0

/-- The completion record's address in an itinerary header. -/
def State.crecOf (s : State) (c addr : Nat) : Option Nat := (s.vRead c addr 64).map (fun bs => field (leNat bs) 128 64)

/-- Post the completion record of an itinerary (R449). -/
def State.complete (s : State) (c crec addr node reason status : Nat) : State :=
  s.post c (.completion crec addr (dw s.clock) node reason status)

/-- A queue of a context has an entry to take. -/
def State.hasEntry (s : State) (c q : Nat) : Bool := let y : Queue := KMap.get {} (s.ctx c).queues q; y.en && y.head != y.tail

/-- The itinerary priority of the entry at HEAD of a queue; the highest for one that cannot be read, which is rejected at once
(log 74). -/
def State.headPrio (s : State) (c q : Nat) : Nat :=
  match (s.ringEntry c (KMap.get {} (s.ctx c).queues q)).bind (fun a => s.vRead c a 64) with
  | some bs => field (leNat bs) 256 8
  | none => 255

/-- The entry at HEAD of a queue is the next to take across the context's queues: by itinerary priority, and by the lower queue number
among equals (R442). -/
def State.nextQueue (s : State) (c q : Nat) : Bool :=
  s.hasEntry c q && (List.range 16).all (fun r => r == q || !s.hasEntry c r || decide (s.headPrio c r < s.headPrio c q)
    || (s.headPrio c r == s.headPrio c q && decide (q < r)))

/-- ITINERARY_ADMIT: the entry at HEAD is taken, then admitted whole, rejected, or completed with the cause that ended the
context. -/
def execItineraryAdmit (ctx q : Nat) (s : State) : Host.Outcome State Fault Refusal :=
  let x := s.ctx ctx
  let y := KMap.get {} x.queues q
  if 64 ≤ ctx || 16 ≤ q || x.state = .free || !s.nextQueue ctx q then .next s
  else
    match s.ringEntry ctx y with
    | none => .next (s.stopQueue ctx q)
    | some addr =>
      let s := s.modQueue ctx q (fun y => { y with head := y.head + 1 })
      if x.state = .ending ∨ x.state = .ended then
        .next (match s.crecOf ctx addr with
          | some r => s.complete ctx r addr 0 x.cause.toNat 3
          | none => s)
      else
        match s.tryAdmit ctx q addr with
        | .ok t => .next { s with itins := s.itins ++ [t], nextId := s.nextId + 1 }
        | .error (node, reason) =>
          .next (match s.crecOf ctx addr with
            | some r => s.complete ctx r addr node reason 2
            | none => s)

/-! ## Acceptance (R23, R24, R56) -/

/-- A core that blocks are dispatched to (R426). -/
def State.coreLive (s : State) (core : Nat) : Bool :=
  decide (core < s.sys.liveCount) && !(s.core core).off && !s.sys.retired.contains core

/-- Free granules and group slots of a core's partitions. -/
def State.roomOf (s : State) (core : Nat) : Room :=
  (List.range 4).map (fun p => (partGranules - s.partUsed core p, 16 - (s.partGroups core p).length))

/-- Free granules of a core. -/
def State.freeGranules (s : State) (core : Nat) : Nat := sumOf (·.1) (s.roomOf core)

/-- The cores of a core's cluster. -/
def State.clusterCores (s : State) (core : Nat) : List Nat :=
  (List.range s.sys.liveCount).filter (fun k => s.sys.clusterOf k == s.sys.clusterOf core)

/-- The cluster runs, or may change to, the L1 mode of a kernel. -/
def State.fusedOk (s : State) (core : Nat) (fused : Bool) : Bool :=
  (s.clusterCores core).all (fun k => (s.core k).slots.all (fun x => x.2.nodeRec.kern.fused == fused))

/-- Block slot, local memory, tiles and accumulator space for one more block beside those of a list. -/
def blockRoom (bs : List Block) (k : Kernel) : Bool :=
  decide (bs.length < 32) && decide (sumOf (fun b => b.nodeRec.kern.locKiB) bs + k.locKiB ≤ 512)
    && decide (sumOf (fun b => b.nodeRec.kern.tiles) bs + k.tiles ≤ 8)
    && decide (sumOf (fun b => b.nodeRec.kern.acc) bs + k.acc ≤ 64)

/-- The partitions of a block's groups on a core that accepts it. -/
def State.accept (s : State) (core : Nat) (k : Kernel) (allots : List Nat) : Option (List Nat) :=
  if s.coreLive core && blockRoom ((s.core core).slots.map (·.2)) k && s.fusedOk core k.fused then deal (s.roomOf core) allots
  else none

/-! ## The ready pool (R182, R365, R442, R443, R454) -/

/-- Block-tasks of a context are dispatched: not while a seal of its domain is pending, nor before its cut is applied here (R182, R484). -/
def State.dispatches (s : State) (c : Nat) : Bool :=
  (s.ctx c).state == .live && !s.sealPending c
    && (match s.domOf c with | some d => !d.stopped && d.phase != .committed | none => true)

/-- The dies whose distributor has an eligible core of an itinerary. -/
def State.diesOf (s : State) (t : Itin) : List Nat :=
  let ds := (t.cores.filter s.coreLive).map s.sys.dieOfCore
  (List.range 32).filter ds.contains

/-- The distributor of a block-task: by its linear block index, unless it was stolen. -/
def Itin.dieOf (t : Itin) (dies : List Nat) (k : Task) : Option Nat :=
  match t.stolen.find? (fun x => x.1 == k) with
  | some x => some x.2
  | none => if dies.isEmpty then none else dies[k.lin % dies.length]?

/-- Every block-task of an itinerary. -/
def Itin.tasks (t : Itin) : List Task :=
  (List.range t.nodes.length).flatMap (fun i =>
    match t.nodes[i]? with
    | some n => (List.range n.blocks).flatMap (fun l => (List.range n.stages).map (fun g => ⟨i, l, g⟩))
    | none => [])

/-- A block-task that has not been placed and not retired. -/
def Itin.waits (t : Itin) (k : Task) : Bool := !t.placed.contains k && !t.retired.any (fun x => x.1 == k)

/-- Where an entry of a pool stands: effective priority, then node age, then linear block index. -/
structure Rank where
  eff : Nat
  itin : Nat
  node : Nat
  lin : Nat

/-- One rank comes before another. -/
def Rank.before (a b : Rank) : Bool :=
  decide (b.eff < a.eff) || (a.eff == b.eff && (decide (a.itin < b.itin) || (a.itin == b.itin &&
    (decide (a.node < b.node) || (a.node == b.node && decide (a.lin < b.lin))))))

/-- A ready block-task of a pool. -/
structure Cand where
  t : Itin
  k : Task
  rank : Rank

/-- Effective priority after waiting since a time (R442). -/
def State.effPrio (s : State) (c prio since : Nat) : Nat :=
  let k := (s.ctx c).agek.toNat
  if 20 < k then min 255 prio else min 255 (prio + (s.time - since) / usec 1 / 2 ^ k)

/-- The ready block-tasks of a distributor. -/
def State.pool (s : State) (die : Nat) : List Cand :=
  (s.itins.filter (fun t => s.dispatches t.ctx)).flatMap (fun t =>
    let dies := s.diesOf t
    (t.tasks.filter (fun k => t.waits k && t.dieOf dies k == some die)).filterMap (fun k =>
      (t.readyTime k).map (fun since => ⟨t, k, ⟨s.effPrio t.ctx t.prio since, t.id, k.node, k.lin⟩⟩)))

/-- The first of a list by rank. -/
def firstBy {α : Type} (rank : α → Rank) (l : List α) : Option α :=
  l.foldl (fun a x => match a with | none => some x | some y => if (rank x).before (rank y) then some x else some y) none

/-- The rank of a saved block or of saved groups. -/
def Saved.rank (x : Saved) : Rank := ⟨x.blk.prio, x.blk.itin, x.blk.task.node, x.blk.task.lin⟩

/-- Saved work of a distributor that may return now (R185, R445, R448). -/
def State.savedPool (s : State) (die : Nat) : List Saved :=
  s.saved.filter (fun x => s.sys.dieOfCore x.core == die && s.dispatches x.ctx && !s.haltedBlock x.core x.slot x.blk
    && (x.whole || (match s.block x.core x.slot with | some b => !b.leaving | none => false)))

/-! ## BLOCK_PLACE (R21, R142, R166, R365, R440, R467) -/

/-- Generation of a slot (R467). -/
def State.slotGen (s : State) (core slot : Nat) : Word :=
  KMap.get (wd (s.sys.bootCount.toNat % 4096 * 2 ^ 20)) (s.core core).gens slot

/-- Bind a slot: its generation advances. -/
def State.bindSlot (s : State) (core slot : Nat) : State :=
  let n := s.slotGen core slot + 1
  s.modCore core (fun k => { k with gens := KMap.put k.gens slot n })

/-- The lowest free block slot of a core. -/
def State.freeSlot (s : State) (core : Nat) : Option Nat :=
  (List.range 32).find? (fun i => (KMap.find (s.core core).slots i).isNone)

/-- The trap record of threads whose start segment is illegal (R194). -/
def startFault (b : Block) (grp : Nat) (live : LaneMask) (leg : Word) : TrapRec :=
  { cause := 5, group := BitVec.ofNat 5 grp, lanes := live, lane := BitVec.ofNat 5 (lowest live), leg := leg
    block := wd b.task.lin, node := wd b.task.node }

/-- The issue group with which a group starts at a segment: an illegal one takes its fault before the first instruction. -/
def startIg (b : Block) (grp : Nat) (live : LaneMask) (leg : Word) (allot id since : Nat) (entry : Option Dword) : IGroup :=
  { id := id, mask := live, pc := entry.getD 0 + 8, since := since, allot := allot
    trap := if entry.isNone then some (startFault b grp live leg) else none }

/-- Lanes of group g that are present in a block of n threads. -/
def presentMask (n g : Nat) : LaneMask := maskOf (fun l => decide (32 * g + l < n))

/-- The S registers that the constant table loads. -/
def constRegs (n : Node) : KMap Word :=
  n.kern.consts.foldl (fun m k => KMap.put m k.reg.toNat (match k.arg with | some a => listGet 0 n.args a | none => k.value)) []

/-- A group at block start (R21). -/
def startGroup (b : Block) (g part since : Nat) (leg : Word) (entry : Option Dword) : Group :=
  let n := b.nodeRec
  let m := presentMask n.threads g
  { idx := g, part := part, threads := lanes.map (fun l => { present := m.getLsbD l }), allot := n.kern.regs, mode := n.kern.mode
    s := constRegs n, igs := [startIg b g m leg n.kern.regs (since + g) (since + g) entry] }

/-- A block at its start (R21, R142, R166), with the partitions of its groups. -/
def startBlock (t : Itin) (k : Task) (n : Node) (gen : Word) (held : Bool) (born now : Nat) (parts : List Nat) (leg : Word)
    (entry : Option Dword) : Block :=
  let (x, y, z) := n.coord k.lin
  let b : Block := { ctx := t.ctx, itin := t.id, task := k, nodeRec := n, bx := x, by_ := y, bz := z, prio := t.prio
                     submitPrio := t.prio, gen := gen, held := held, born := born, since := now, groups := [] }
  ({ b with groups := parts.mapIdx (fun g p => startGroup b g p born leg entry) }).startSerai

/-- A cluster takes the L1 mode of a kernel: a change invalidates its four L1s (R56). -/
def State.setFused (s : State) (core : Nat) (fused : Bool) : State :=
  if (s.core core).fused == fused then s
  else
    let first := s.sys.physCore core / 4 * 4
    let s := (s.clusterCores core).foldl (fun s k => s.modCore k (fun c => { c with fused := fused })) s
    (List.range 4).foldl (fun s i => s.modL1 (first + i) (fun k => { k with sectors := [] })) s

/-- A held block-task of a co-scheduled start. -/
def Itin.holds (t : Itin) (k : Task) : Bool := t.hold && !t.released && k.node == 0 && k.stage == 0

/-- Every block-task of node 0, stage 0 is placed (R440). -/
def Itin.allHeld (t : Itin) : Bool :=
  match t.nodes with
  | n :: _ => (List.range n.blocks).all (fun l => t.placed.contains ⟨0, l, 0⟩)
  | [] => false

/-- The entry of HOLDBUF for a placed block. -/
def holdEntry (core slot : Nat) (gen : Word) : Nat := at' 32 32 gen.toNat + at' 16 5 slot + at' 0 16 core

/-- Place a block-task on a core, in a slot, with its partitions. -/
def State.place (s : State) (t : Itin) (k : Task) (core slot : Nat) (parts : List Nat) : State :=
  match (t.nodes[k.node]?).map (s.nodeNow t.ctx) with
  | none => s
  | some n =>
    let held := t.holds k
    let s := (s.setFused core n.kern.fused).bindSlot core slot
    let born := s.nextId
    let s := { s with nextId := s.nextId + 1 + parts.length }
    let gen := s.slotGen core slot
    let s := s.setBlock core slot (startBlock t k n gen held born s.time parts (s.legOf t.ctx) (s.segEntry core t.ctx n.kern 0))
    let s := s.modItin t.id (fun t => { t with placed := t.placed ++ [k] })
    if !held then s
    else
      let s := s.vWriteLogged t.ctx (t.holdbuf + 8 * k.lin) (leBytes 8 (holdEntry core slot gen))
      match s.itins.find? (fun x => x.id == t.id) with
      | some t' =>
        if t'.allHeld && !t'.heldPosted then
          (s.modItin t.id (fun t => { t with heldPosted := true })).postEvent t.ctx 1 0 t.addr
        else s
      | none => s

/-- The core that takes a block: most free granules, then the lowest number (R365). -/
def State.bestCore (s : State) (die : Nat) (cores : List Nat) (k : Kernel) (allots : List Nat) : Option (Nat × List Nat) :=
  let can := (cores.filter (fun c => s.sys.dieOfCore c == die)).filterMap (fun c => (s.accept c k allots).map (fun ps => (c, ps)))
  can.foldl (fun a x => match a with
    | none => some x
    | some y => if s.freeGranules y.1 < s.freeGranules x.1 ∨ (s.freeGranules y.1 = s.freeGranules x.1 ∧ x.1 < y.1) then some x
                else some y) none

/-- Allotments of the groups of a fresh block. -/
def Node.allots (n : Node) : List Nat := List.replicate (ceilDiv n.threads 32) n.kern.regs

/-- BLOCK_PLACE: the head of the distributor's pool is placed where a core accepts it. -/
def execBlockPlace (die : Nat) (s : State) : Host.Outcome State Fault Refusal :=
  match firstBy Cand.rank (s.pool die) with
  | none => .next s
  | some x =>
    if (s.savedPool die).any (fun y => y.rank.before x.rank) then .next s
    else
      match (x.t.nodes[x.k.node]?).map (s.nodeNow x.t.ctx) with
      | none => .next s
      | some n =>
        match s.bestCore die x.t.cores n.kern n.allots with
        | none => .next s
        | some (core, parts) =>
          match s.freeSlot core with
          | some slot => .next (s.place x.t x.k core slot parts)
          | none => .next s

/-! ## STEAL_REQUEST (R440, R443) -/

/-- One range of a pool: the block-tasks of a node and stage, by linear index, that may be stolen. -/
def State.ranges (s : State) (die : Nat) : List (Itin × List Task) :=
  let cs := (s.pool die).filter (fun x => (s.ctx x.t.ctx).steal && !x.t.holds x.k)
  let keys := (cs.map (fun x => (x.t.id, x.k.node, x.k.stage))).dedup
  keys.filterMap (fun k =>
    let r := cs.filter (fun x => x.t.id == k.1 && x.k.node == k.2.1 && x.k.stage == k.2.2)
    match r with
    | x :: _ => some (x.t, r.map (·.k))
    | [] => none)

/-- The largest range of a pool that a distributor can use, for it has an eligible core of the itinerary: the first of its length. -/
def State.largest (s : State) (thief die : Nat) : Option (Itin × List Task) :=
  ((s.ranges die).filter (fun r => (s.diesOf r.1).contains thief)).foldl
    (fun a x => match a with | none => some x | some y => if y.2.length < x.2.length then some x else some y) none

/-- Length of that range. -/
def State.rangeLen (s : State) (thief die : Nat) : Nat := match s.largest thief die with | some x => x.2.length | none => 0

/-- STEAL_REQUEST: an idle distributor takes the upper half of the largest remaining range that it can use; a range that has been taken,
or that it has no core for, gives nothing, and it tries the next-largest. -/
def execStealRequest (thief victim : Nat) (s : State) : Host.Outcome State Fault Refusal :=
  if thief == victim || 32 ≤ thief || !(s.pool thief).isEmpty || !(s.savedPool thief).isEmpty
      || !(List.range 32).all (fun d => d == thief || decide (s.rangeLen thief d ≤ s.rangeLen thief victim)) then .next s
  else
    match s.largest thief victim with
    | none => .next s
    | some (t, ks) =>
      let n := max 1 (ks.length / 2)
      let up := (ks.insertionSort (fun a b => a.lin ≤ b.lin)).drop (ks.length - n)
      .next ((s.modItin t.id (fun t => { t with stolen := up.map (fun k => (k, thief)) ++ t.stolen.filter (fun x => !up.contains x.1) })).bump
        (0x300000 + 0x1000 * thief + 64) 1)

/-! ## GROUP_RELEASE, BLOCK_TASK_RETIRE (R22, R140, R181, R240, R449) -/

/-- Every thread of a group has exited and every result is written. -/
def Group.over (g : Group) : Bool := g.liveMask == 0 && g.results.isEmpty && g.here

/-- GROUP_RELEASE: the granules, the group slot and the tokens go back. -/
def execGroupRelease (core slot grp : Nat) (s : State) : Host.Outcome State Fault Refusal :=
  .next ((s.modGroup core slot grp (fun g => if g.over then { g with place := .released } else g)).allStuck core)

/-- A packet of a block's threads keeps it from retiring: one for this package until it is performed, any other until its first hop has
it (R22). -/
def State.holdsRetire (s : State) (core slot : Nat) (b : Block) (f : Flight) : Bool :=
  !f.inbound && f.op.isSome && f.pending && b.named core slot f.p.issuer && (f.at_ == .source || f.p.pkg == s.sys.pkg)

/-- What a block's threads and commands have in flight is done (R22): a command outside UB also to its last custody. -/
def State.blockDone (s : State) (core slot : Nat) (b : Block) : Bool :=
  b.groups.all (fun g => g.liveMask == 0 && g.results.isEmpty && !g.ops.any (·.custody))
    && !b.cmds.any (fun c => !c.credited || c.acc.dom != .ub)
    && !(s.pendingStores core).any (fun e => e.who.slot == slot && e.who.gen == b.gen)
    && !s.flights.any (s.holdsRetire core slot b)

/-- The stores that a mark puts in order: itself, those before its releases, and those that fences put before it. -/
def Mark.ids (m : Mark) : List Nat :=
  m.id :: m.rels.flatMap (fun r => r.id :: r.before.map (·.id)) ++ m.els.flatMap (fun e => e.2.map (·.id))

/-- A mark lies in the local memory of a slot. -/
def Mark.inSlot (m : Mark) (core slot : Nat) : Bool := match m.place with | .loc sl _ => m.core == core && sl == slot | .glob _ => false

/-- The context holds its place in a slot no longer: block, alias, and current issue groups. -/
def State.freeBlock (s : State) (core slot : Nat) (b : Block) : State :=
  ({ s with marks := s.marks.filter (fun m => !m.inSlot core slot) } : State).modCore core (fun k => { k with
    slots := KMap.drop k.slots slot
    absent := k.absent.filter (fun a => !(a.state == .moved slot && a.ctx == b.ctx))
    parts := k.parts.map (fun p => p.letOut slot none) })

/-- A block-task's itinerary notes its retirement; with the last one it completes, and in a recovery domain a
seal is requested, whose cut forgets it. -/
def State.noteRetired (s : State) (b : Block) : State :=
  let s := s.modItin b.itin (fun t => { t with
    retired := t.retired ++ [(b.task, s.time)]
    placed := t.placed.filter (· != b.task)
    stolen := t.stolen.filter (fun x => x.1 != b.task) })
  match s.itins.find? (fun t => t.id == b.itin) with
  | none => s
  | some t =>
    if t.finished then
      let s := if t.launched then s else s.complete t.ctx t.crec t.addr 0 0 1
      match (s.ctx t.ctx).domain with
      | some d => s.requestSeal d
      | none => { s with itins := s.itins.filter (fun x => x.id != t.id) }
    else s

/-- The fault of a tag that no wait has delivered, with the issuer-retired flag (R140). -/
def Block.lateFault (b : Block) : Option TrapRec :=
  (b.tags.find? (fun t => t.2.fault)).map (fun t => { t.2.record with iret := true })

/-- Retire a block whose work is done: a release at .DEV of its accesses and of what is before them. -/
def State.retireBlock (s : State) (core slot : Nat) (b : Block) : State :=
  let s := (s.settle b.known).arriveAll (fun i => i.src.core == core && i.src.slot == slot && i.src.gen == b.gen && i.src.ctx == b.ctx)
  match b.lateFault with
  | some r => (s.freeBlock core slot b).endCtx b.ctx r.cause.toNat (some r)
  | none => (s.freeBlock core slot b).noteRetired b

/-- Nothing of a block of an ending context is under way any longer (R454). -/
def State.blockIdle (s : State) (core slot : Nat) (b : Block) : Bool :=
  b.cmds.isEmpty && b.groups.all (fun g => g.ops.all (fun o => o.pkts.isEmpty))
    && !(s.pendingStores core).any (fun e => e.who.slot == slot && e.who.gen == b.gen)

/-- HALTED is posted for each complete halt none of whose members is resident any longer (R448). -/
def State.tellHalted (s : State) : State :=
  let gone := fun (h : Halt) => h.saving && !s.cores.any (fun k => k.2.slots.any (fun x => s.memberOf h k.1 x.1 x.2))
  let ended := s.halts.filter gone
  ended.foldl (fun s h => s.postEvent h.ctx 2 0 0)
    { s with halts := s.halts.map (fun h => if gone h then { h with saving := false } else h) }

/-- BLOCK_TASK_RETIRE: a block whose work is done retires, in a stopped context too (R22, R454); one of an ending context leaves its slot
once nothing of it is under way. What it leaves behind may be groups that are all held in GROW (R36). -/
def execBlockTaskRetire (core slot : Nat) (s : State) : Host.Outcome State Fault Refusal :=
  match s.block core slot with
  | none => .next s
  | some b =>
    .next (match (s.ctx b.ctx).state with
      | .live | .stopped => if s.blockDone core slot b then ((s.retireBlock core slot b).allStuck core).tellHalted else s
      | .ending => if s.blockIdle core slot b then ((s.freeBlock core slot b).allStuck core).tellHalted else s
      | _ => s)

/-! ## WATCHDOG_EXPIRY (R470) -/

/-- The issue group that a watchdog's record names: the first of the lowest group that still runs. -/
def Block.firstRunning (b : Block) : Option (Group × IGroup) :=
  b.groups.findSome? (fun g => (g.igs.find? (fun ig => ig.mask &&& g.liveMask != 0)).map (fun ig => (g, ig)))

/-- The watchdog watches a context's blocks, those of a stopped one too: only the time evicted does not count (R470). -/
def Ctx.watched (x : Ctx) : Bool := x.state == .live || x.state == .stopped

/-- WATCHDOG_EXPIRY: cause 15 ends the context. -/
def execWatchdogExpiry (core slot : Nat) (s : State) : Host.Outcome State Fault Refusal :=
  match s.block core slot with
  | none => .next s
  | some b =>
    let ms := (s.ctx b.ctx).wdog.toNat
    if ms = 0 || !(s.ctx b.ctx).watched || s.time ≤ b.since + usec (1000 * ms) then .next s
    else
      match b.firstRunning with
      | some (g, ig) =>
        match s.whoOf core slot g.idx ig.id with
        | some w => .next (s.takeTrap w (s.record w w.live { cause := 15, lane := lowest w.live }) 0)
        | none => .next s
      | none => .next (s.endCtx b.ctx 15 (some
          { cause := 15, block := wd b.task.lin, node := wd b.task.node, leg := s.legOf b.ctx, iret := true, clock := s.coreClock core }))

end Sys2Proof.Machine
end

