-- ==== Sys2Proof/Machine/Image.lean ====
section
/-! DEFINITION. Save images: their bytes, their place in the save area, and region restart (R43, R151, R314, R445, R446). -/

namespace Sys2Proof.Machine

/-! ## The bytes of an image (R446) -/

/-- A mask as a number made of one field per lane. -/
def perLane (width : Nat) (f : Nat → Nat) : Nat := sumOf (fun l => at' (width * l) width (f l)) lanes

/-- The mask of groups. -/
def groupMask (gs : List Nat) : Nat := sumOf (fun g => 2 ^ g) gs.dedup

/-- The block header. -/
def imageHeader (b : Block) (core slot : Nat) (whole : Bool) (gs : List Nat) : Nat :=
  at' 160 32 (groupMask gs) + at' 144 8 b.prio + 2 ^ 136 + (if whole then 2 ^ 135 else 0) + at' 129 6 b.ctx
    + at' 123 6 b.groups.length + at' 117 6 b.task.stage + at' 112 5 slot + at' 96 16 core + at' 64 32 b.gen.toNat
    + at' 32 32 b.task.node + at' 0 32 b.task.lin

/-- The word of a tag (R327). -/
def Tag.word (t : Tag) : Nat := at' 0 16 t.count + if t.fault then 65536 else 0

/-- The word of a convoy. -/
def Convoy.word (c : Convoy) : Nat := match c.entry with | some e => 256 + e.toNat | none => 0

/-- A stopped multiply. -/
def stoppedWord (c : Cmd) : Nat :=
  match c.mma with
  | some m => at' 64 32 c.mode.toNat + at' 48 6 c.tag + at' 32 16 m.next + at' 0 32 m.desc.toNat
  | none => 0

/-- The bytes from 64 to 1,023 of a whole-block image. -/
def Block.imageTables (b : Block) : List Byte :=
  (List.range 64).flatMap (fun k => leBytes 4 (b.tag k).word)
    ++ (List.range 16).flatMap (fun k => leBytes 4 (KMap.get ({} : Convoy) b.convoys k).word)
    ++ leBytes 128 (sumOf (fun t => 2 ^ t) ((b.barrier.map (·.thread)).dedup))
    ++ (List.range 8).flatMap (fun k => leBytes 4 (listGet 0 b.tcfg k).toNat)
    ++ (((b.cmds.filter (fun (c : Cmd) => c.mma.isSome)).map stoppedWord ++ [0, 0, 0, 0]).take 4).flatMap (fun x => leBytes 16 x)
    ++ List.replicate 416 0

/-- A lane's resume PC: that of its issue group. -/
def Group.resumePc (g : Group) (l : Nat) : Nat :=
  match g.igs.find? (fun ig => ig.mask.getLsbD l) with
  | some ig => if (g.thread l).live then ig.pc.toNat else 0
  | none => 0

/-- A lane's return stack: entry 0 is the one pushed first, and byte 24 holds the depth. -/
def Thread.stackWord (t : Thread) : Nat :=
  sumOf (fun x => at' (12 * x.2) 12 x.1.toNat) t.stack.reverse.zipIdx + 2 ^ 192 * t.stack.length

/-- The header of a group record. -/
def Group.imageHead (g : Group) : Nat :=
  2 ^ 256 * perLane 8 (fun l => (g.thread l).preds.toNat) + at' 224 32 g.liveMask.toNat
    + at' 192 32 (match g.trap with | some t => t.lanes.toNat | none => 0) + at' 160 32 g.mode.toNat + at' 155 5 g.idx
    + at' 149 6 g.allot

/-- A group record. -/
def Group.imageBytes (g : Group) : List Byte :=
  leBytes 64 g.imageHead
    ++ leBytes 64 (match g.trap with | some t => t.record.bits | none => 0)
    ++ lanes.flatMap (fun l => leBytes 8 (g.resumePc l))
    ++ lanes.flatMap (fun l => leBytes 32 (g.thread l).stackWord)
    ++ (List.range 64).flatMap (fun k => leBytes 4 (g.readS k false).toNat)
    ++ (List.range (8 * g.allot)).flatMap (fun k => lanes.flatMap (fun l => leBytes 4 (g.readV l k false).toNat))

/-- The whole image of a block, or of some of its groups. -/
def Block.image (b : Block) (core slot : Nat) (whole : Bool) (gs : List Nat) : List Byte :=
  leBytes 64 (imageHeader b core slot whole gs)
    ++ (if whole then b.imageTables else List.replicate 960 0)
    ++ (b.groups.filter (fun g => gs.contains g.idx)).flatMap Group.imageBytes
    ++ (if whole then
          Memory.readN b.mem 0 (b.nodeRec.kern.locKiB * 1024)
            ++ (List.range (32768 * b.nodeRec.kern.tiles)).map (fun i => KMap.get 0 b.tiles i)
            ++ (List.range (1024 * b.nodeRec.kern.acc)).flatMap (fun i => leBytes 4 (KMap.get (0 : Word) b.acc i).toNat)
        else [])

/-- Bytes of an image. -/
def Block.imageSize (b : Block) (whole : Bool) (gs : List Nat) : Nat :=
  1024 + sumOf (fun g => if gs.contains g.idx then recBytes g else 0) b.groups
    + (if whole then b.nodeRec.kern.locKiB * 1024 + 32768 * b.nodeRec.kern.tiles + 4096 * b.nodeRec.kern.acc else 0)

/-! ## The save area (R441, R445) -/

/-- The runs of the save area in use: images of saved work, and images that a rollback would restore. -/
def State.imageRuns (s : State) (c : Nat) : List (Nat × Nat) :=
  (s.saved.filter (fun x => x.ctx == c)).map (fun x => (x.image, x.blk.imageSize x.whole x.groups))
    ++ (match s.domOf c with
        | some d => d.cut.filterMap (fun t => match t.kind, t.blk with
            | .image a, some b => if b.ctx = c then some (a, b.imageSize true (b.groups.map (·.idx))) else none
            | _, _ => none)
        | none => [])
    ++ (s.cores.flatMap (fun k => k.2.slots.filterMap (fun x =>
        if x.2.ctx = c && x.2.sealed = 2 then some (x.2.sealImage, x.2.imageSize true (x.2.groups.map (·.idx))) else none)))

/-- Where an image of n bytes fits: the lowest multiple of 64 in the save area that is clear of every run in use. -/
def State.imageAt (s : State) (c n : Nat) : Option Nat :=
  let x := s.ctx c
  let lo := x.savebase.toNat * 65536
  let hi := lo + x.saveunits.toNat * 65536
  let runs := s.imageRuns c
  let starts := lo :: runs.map (fun r => ceilDiv (r.1 + r.2) 64 * 64)
  let ok := starts.filter (fun a => decide (lo ≤ a) && decide (a + n ≤ hi) && !runs.any (fun r => runsMeet a n r.1 r.2))
  ok.foldl (fun m a => match m with | none => some a | some b => some (min a b)) none

/-! ## Groups that stop (R43, R314, R444) -/

/-- Threads that stopped their context by an assertion (R245). -/
def IGroup.asserts (ig : IGroup) : Bool := match ig.trap with | some r => r.cause == 13 | none => false

/-- An issue group whose threads stand where they may be saved: between segments, at a region entry they restart from, held at a
CHUNK, or at the assertion that stopped their context. -/
def IGroup.stands (ig : IGroup) : Bool := ig.atEntry || ig.wait == .chunk || ig.asserts

/-- The group's results are written but those that a refusal which waits to be delivered has taken, and no reply is awaited. -/
def Group.settled (g : Group) : Bool :=
  g.ops.all (fun (o : RemOp) => o.pkts.isEmpty) && g.results.all (fun r => g.ops.any (fun (o : RemOp) => o.result == r.id))

/-- A group that has stopped: nothing of it runs, its results are written and its operations are over. In handler mode only the
handler's threads must stand at a segment end (R444). -/
def Group.stopped (g : Group) : Bool :=
  g.place.stops && g.settled
    && g.igs.all (fun ig => ig.stands || ig.mask &&& g.liveMask == 0 || (g.trap.isSome && !ig.handler))

/-- Issue groups of the lanes of a mask at their region entries. -/
def regionGroups (g : Group) (id since : Nat) : List Nat → List IGroup → List IGroup
  | [], gs => gs
  | l :: t, gs =>
    let pc := (g.thread l).region + 8
    let bit := (1 : LaneMask) <<< l
    let gs' := if gs.any (fun x => x.pc == pc) then gs.map (fun x => if x.pc == pc then { x with mask := x.mask ||| bit } else x)
      else gs ++ [{ id := id + gs.length, mask := bit, pc := pc, since := since, allot := g.allot }]
    regionGroups g id since t gs'

/-- Region restart: threads inside a segment go back to their region entries; those that stand stay. -/
def Group.restart (g : Group) (n : Nat) : Group :=
  let g := g.settle
  let stay := g.igs.filter IGroup.stands
  let moved := g.liveMask &&& ~~~(stay.foldl (fun m ig => m ||| ig.mask) (0 : LaneMask))
  { g with igs := stay ++ regionGroups g n n (lanesOf moved) [] }

/-- The block-barrier arrivals of a group's threads that restart are withdrawn (R314). -/
def Block.withdraw (b : Block) (grp : Nat) : Block :=
  { b with barrier := b.barrier.filter (fun a => a.thread / 32 != grp) }

/-- Stop a group by region restart. -/
def State.restartGroup (s : State) (core slot grp : Nat) : State :=
  let n := s.nextId
  let s := { s with nextId := s.nextId + 33 }
  (s.modBlock core slot (fun b => (b.withdraw grp).modGroup grp (fun g => g.restart n))).modCore core (fun k => { k with
    parts := k.parts.map (fun p => p.letOut slot (some grp)) })

/-- EVICTION_STOP_TIMEOUT: no segment end within 2 microseconds. A group held for custody waits for it, and one in handler mode
stops at a segment end only. -/
def execEvictionStopTimeout (core slot grp : Nat) (s : State) : Host.Outcome State Fault Refusal :=
  match s.block core slot with
  | none => .next s
  | some b =>
    let g := b.group grp
    match g.place with
    | .stopping t =>
      .next (if t + usec 2 ≤ s.time && g.trap.isNone && !g.ops.any (·.custody) then s.restartGroup core slot grp else s)
    | _ => .next s

end Sys2Proof.Machine
end

