-- ==== Sys2Proof/Machine/Evict.lean ====
section
/-! DEFINITION. Eviction and its end: victims, saves, restores, caravan halts (R43, R147, R151, R176, R187, R347, R444 to
R448). -/

namespace Sys2Proof.Machine

/-! ## EVICTION_DECISION (R444, R445) -/

/-- What the head of a pool needs: its priority, its groups' allotments, the kernel of a whole block, and the cores it may take. -/
structure Want where
  eff : Nat
  allots : List Nat
  kern : Option Kernel
  cores : List Nat
  deriving DecidableEq, Repr

/-- A group that may be evicted. -/
structure EvictGroup where
  slot : Nat
  b : Block
  g : Group

/-- The block's save area can hold an image. -/
def State.canSave (s : State) (b : Block) (whole : Bool) (gs : List Nat) : Bool :=
  (s.imageAt b.ctx (b.imageSize whole gs)).isSome

/-- The order of eviction: ascending block priority, the youngest node, the highest linear index, the highest group. -/
def EvictGroup.before (a c : EvictGroup) : Bool :=
  let k := fun (x : EvictGroup) => (x.b.prio, (x.b.itin, x.b.task.node), x.b.task.lin, x.g.idx)
  let (p, n, l, i) := k a
  let (p', n', l', i') := k c
  decide (p < p') || (p == p' && (decide (n'.1 < n.1 ∨ (n'.1 = n.1 ∧ n'.2 < n.2)) || (n == n' && (decide (l' < l) || (l == l' && decide (i' ≤ i))))))

/-- Blocks of a core whose groups may give way to a priority. -/
def State.below (s : State) (core eff : Nat) : List (Nat × Block) :=
  (s.core core).slots.filter (fun x => decide (x.2.prio < eff) && !x.2.held && !x.2.leaving
    && ((s.ctx x.2.ctx).state == .live || (s.ctx x.2.ctx).state == .stopped))

/-- The groups of a block that may be evicted alone. -/
def Block.takable (b : Block) : List Group := b.groups.filter (fun g => g.place == .resident && g.liveMask != 0)

/-- The groups of a core that may be evicted, in order; none of the contexts `full`, whose save area has not held an image (R445). -/
def State.victims (s : State) (full : List Nat) (core eff : Nat) : List EvictGroup :=
  (((s.below core eff).filter (fun x => !full.contains x.2.ctx)).flatMap (fun x =>
    x.2.takable.map (fun g => (⟨x.1, x.2, g⟩ : EvictGroup)))).insertionSort (fun a b => a.before b = true)

/-- The blocks of a core that may be evicted whole, in order. -/
def State.wholeVictims (s : State) (full : List Nat) (core eff : Nat) : List (Nat × Block) :=
  let vs := ((s.below core eff).filterMap (fun x => match x.2.groups with
    | g :: _ => if full.contains x.2.ctx then none else some (⟨x.1, x.2, g⟩ : EvictGroup)
    | [] => none)).insertionSort (fun a b => a.before b = true)
  (vs.take (64 - (s.core core).absent.length)).map (fun v => (v.slot, v.b))

/-- Room after groups have left. -/
def Room.free (r : Room) (gs : List Group) : Room :=
  gs.foldl (fun r g => listMod r g.part (fun x => (x.1 + g.allot, x.2 + 1))) r

/-- Ways to split k evictions over four partitions, more from the lower ones first. -/
def splits (k : Nat) : Nat → List (List Nat)
  | 0 => [[]]
  | 1 => [[k]]
  | n + 1 => (List.range (k + 1)).flatMap (fun i => (splits i n).map (fun t => (k - i) :: t))

/-- The first e_p victims of each partition p; none where a partition has too few. -/
def firstVictims (vs : List EvictGroup) (es : List Nat) : Option (List EvictGroup) :=
  let l : List (Nat × List EvictGroup) := es.zipIdx.map (fun (e, p) => (e, (vs.filter (fun (v : EvictGroup) => v.g.part == p)).take e))
  if l.all (fun x => x.2.length == x.1) then some (l.flatMap (·.2)) else none

/-- The blocks that stay on a core, and its room once what has been asked to leave has left. -/
def State.staying (s : State) (core : Nat) : List (Nat × Block) := (s.core core).slots.filter (fun x => !x.2.leaving)
def State.soonRoom (s : State) (core : Nat) : Room :=
  Room.free (s.roomOf core) ((s.core core).slots.flatMap (fun x => x.2.groups.filter (fun g => g.place.stops || (x.2.leaving && g.here))))

/-- A core accepts a block, or groups alone, once what has been asked to leave has left. -/
def State.soonFits (s : State) (core : Nat) (w : Want) : Bool :=
  (match w.kern with
   | some k => s.coreLive core && blockRoom ((s.staying core).map (·.2)) k && s.fusedOk core k.fused
   | none => true) && (deal (s.soonRoom core) w.allots).isSome

/-- Groups whose eviction makes room on a core: the fewest, from the lowest partitions. -/
def State.groupPlan (s : State) (full : List Nat) (core : Nat) (w : Want) : Option (List EvictGroup) :=
  let ok := s.coreLive core && (match w.kern with
    | some k => blockRoom ((s.staying core).map (·.2)) k && s.fusedOk core k.fused
    | none => true)
  if !ok then none
  else
    let vs := s.victims full core w.eff
    let room := s.soonRoom core
    ((List.range vs.length).flatMap (fun k => splits (k + 1) 4)).findSome? (fun es =>
      match firstVictims vs es with
      | some l => if (deal (Room.free room (l.map (·.g))) w.allots).isSome then some l else none
      | none => none)

/-- Blocks whose eviction makes room on a core, in order. -/
def State.wholePlan (s : State) (full : List Nat) (core : Nat) (w : Want) : Option (List (Nat × Block)) :=
  match w.kern with
  | none => none
  | some k =>
    let vs := s.wholeVictims full core w.eff
    ((List.range vs.length).map (fun n => vs.take (n + 1))).find? (fun l =>
      let rest := ((s.staying core).filter (fun x => !l.any (fun y => y.1 == x.1))).map (·.2)
      s.coreLive core && blockRoom rest k && s.fusedOk core k.fused
        && (deal (Room.free (s.soonRoom core) (l.flatMap (fun y => y.2.groups.filter (fun g => g.here && !g.place.stops)))) w.allots).isSome)

/-- Ask a group to stop. -/
def State.askGroup (s : State) (core slot grp : Nat) : State :=
  s.modGroup core slot grp (fun g => if g.place == .resident then { g with place := .stopping s.time } else g)

/-- Ask a whole block to leave. -/
def State.askBlock (s : State) (core slot : Nat) : State :=
  s.modBlock core slot (fun b => { b with leaving := true, groups := b.groups.map (fun g =>
    if g.place == .resident && g.liveMask != 0 then { g with place := .stopping s.time } else g) })

/-- A plan: what it evicts, and its cost in groups. -/
inductive Plan where
  | groups (l : List EvictGroup)
  | blocks (l : List (Nat × Block))

/-- Groups that a plan evicts: those that are released, out already or over are not among them. -/
def Plan.cost : Plan → Nat
  | .groups l => l.length
  | .blocks l => sumOf (fun x => x.2.takable.length) l

/-- The contexts of a plan's victims whose images their save area cannot hold. -/
def State.unsaved (s : State) : Plan → List Nat
  | .groups l => ((l.filter (fun v => !s.canSave v.b false [v.g.idx])).map (·.b.ctx)).dedup
  | .blocks l => ((l.filter (fun x => !s.canSave x.2 true (x.2.groups.map (·.idx)))).map (·.2.ctx)).dedup

/-- The plan for a core. -/
def State.plan (s : State) (full : List Nat) (core : Nat) (w : Want) : Option Plan :=
  match s.groupPlan full core w with
  | some l => some (.groups l)
  | none => (s.wholePlan full core w).map .blocks

/-- The core and plan of least cost, the lowest core among equals. -/
def State.leastPlan (s : State) (full : List Nat) (w : Want) : Option (Nat × Plan) :=
  (w.cores.filterMap (fun c => (s.plan full c w).map (fun p => (c, p)))).foldl (fun a x => match a with
    | none => some x
    | some y => if x.2.cost < y.2.cost then some x else some y) none

/-- The plan whose victims can all be saved, and the contexts told on the way that their save area is full: each is left alone, and other
victims are looked for (R445). A context is named once: `fuel` is their number. -/
def State.bestPlan (s : State) (w : Want) : Nat → List Nat → List Nat × Option (Nat × Plan)
  | 0, full => (full, none)
  | fuel + 1, full =>
    match s.leastPlan full w with
    | none => (full, none)
    | some x => match s.unsaved x.2 with
      | [] => (full, some x)
      | cs => State.bestPlan s w fuel (full ++ cs)

/-- The cores that saved work may return to: its own while that is live; otherwise, for a whole block, another that its itinerary may
take (R445). -/
def State.returnCores (s : State) (x : Saved) : List Nat :=
  if !x.whole || s.coreLive x.core then [x.core]
  else match s.itins.find? (fun t => t.id == x.blk.itin) with
    | some t => t.cores.filter s.coreLive
    | none => []

/-- Allotments that saved work needs: those of the groups that return and are not over. -/
def Saved.allots (x : Saved) : List Nat :=
  (x.blk.groups.filter (fun g => g.liveMask != 0 && (x.whole || x.groups.contains g.idx))).map (·.allot)

/-- What the head of a distributor's pool needs where no core accepts it, nor will once what has been asked to leave has left. -/
def State.want (s : State) (die : Nat) : Option Want :=
  let fresh := (firstBy Cand.rank (s.pool die)).bind (fun x => x.t.nodes[x.k.node]?.map (fun n =>
    (x.rank, (⟨x.rank.eff, n.allots, some n.kern, x.t.cores.filter (fun c => s.sys.dieOfCore c == die)⟩ : Want))))
  let back := (firstBy Saved.rank (s.savedPool die)).map (fun x =>
    (x.rank, (⟨x.rank.eff, x.allots, if x.whole then some x.blk.nodeRec.kern else none, s.returnCores x⟩ : Want)))
  let w := match fresh, back with
    | some a, some b => if b.1.before a.1 then some b.2 else some a.2
    | some a, none => some a.2
    | none, some b => some b.2
    | none, none => none
  match w with
  | none => none
  | some w =>
    if w.cores.any (fun c => s.soonFits c w) then none else some w

/-- EVICTION_DECISION. -/
def execEvictionDecision (die : Nat) (s : State) : Host.Outcome State Fault Refusal :=
  match s.want die with
  | none => .next s
  | some w =>
    let (full, best) := s.bestPlan w 64 []
    let s' := full.foldl (fun s c => s.postEvent c 8 0 0) s
    match best with
    | none => .next s'
    | some (core, p) =>
      .next (match p with
        | .groups l => l.foldl (fun (s : State) (v : EvictGroup) => s.askGroup core v.slot v.g.idx) s'
        | .blocks l => l.foldl (fun (s : State) (x : Nat × Block) => s.askBlock core x.1) s')

/-! ## BLOCK_SAVE (R151, R445 to R447) -/

/-- A group or block that cannot be saved stays. -/
def State.keepGroup (s : State) (core slot : Nat) (grp : Option Nat) : State :=
  s.modBlock core slot (fun b => { b with leaving := if grp.isNone then false else b.leaving, groups := b.groups.map (fun g =>
    if g.place.stops && (grp.isNone || grp == some g.idx) then { g with place := .resident } else g) })

/-- EVICTS of the die of a core: groups that have been evicted, whoever asked (R494). -/
def State.countEvicts (s : State) (core n : Nat) : State := s.bump (0x300000 + 0x1000 * s.sys.dieOfCore core + 72) n

/-- Groups of a block that leave with it: those that are out already or over are not among them. -/
def Block.leavers (b : Block) : Nat :=
  b.groups.countP (fun g => g.liveMask != 0 && !(match g.place with | .evicted _ => true | _ => false))

/-- Save one stopped group alone. -/
def State.saveGroup (s : State) (core slot grp : Nat) (b : Block) : State :=
  match s.imageAt b.ctx (b.imageSize false [grp]) with
  | none => (s.keepGroup core slot (some grp)).postEvent b.ctx 8 0 0
  | some a =>
    let s := s.vWriteLogged b.ctx a (b.image core slot false [grp])
    let s := s.modGroup core slot grp (fun g => { (g.loseLatches 0xFFFFFFFF) with place := .evicted a })
    let x : Saved := { core := core, slot := slot, gen := b.gen, ctx := b.ctx, image := a, whole := false, groups := [grp], blk := b, at_ := s.time }
    { s with saved := s.saved ++ [x] }.countEvicts core 1

/-- Every group of a leaving block has stopped, is out already, or is over. -/
def Block.quiet (b : Block) : Bool :=
  b.groups.all (fun g => g.stopped || (match g.place with | .evicted _ => true | _ => false) || (g.liveMask == 0 && g.settled))

/-- Only multiplies that stand between sub-blocks remain of a block's commands. -/
def Block.cmdsStopped (b : Block) : Bool := b.cmds.all (fun (c : Cmd) => c.mma.isSome)

/-- The block leaves its slot for an image: its endpoint becomes absent, and aliases that led to it with it (R447). -/
def State.makeAbsent (s : State) (core slot : Nat) (b : Block) (a : Nat) : State :=
  let follow := fun (e : Absent) => if e.state == .moved slot && e.ctx == b.ctx then { e with state := .absent, image := a } else e
  let new : Absent := { slot := slot, gen := b.gen, ctx := b.ctx, image := a, state := .absent }
  let s := s.modCore core (fun k => { k with absent := k.absent.map follow ++ [new] })
  let s := s.freeBlock core slot b
  let x : Saved := { core := core, slot := slot, gen := b.gen, ctx := b.ctx, image := a, whole := true
                     groups := b.groups.map (·.idx), blk := b, at_ := s.time }
  { s with saved := s.saved.filter (fun x => !(x.core == core && x.slot == slot && x.gen == b.gen && !x.whole)) ++ [x] }

/-- What the marks of a block's local memory put in order is performed for every agent: its image keeps no order of its own (R81, R82). -/
def State.settleLoc (s : State) (core slot : Nat) : State := s.settle ((s.marks.filter (fun m => m.inSlot core slot)).flatMap Mark.ids)

/-- Save a whole block; it stays where its context's save area, of which the context is told, or its core's absent-block table is full
(R445, R447). -/
def State.saveBlock (s : State) (core slot : Nat) (b : Block) : State :=
  match s.imageAt b.ctx (b.imageSize true (b.groups.map (·.idx))) with
  | none => (s.keepGroup core slot none).postEvent b.ctx 8 0 0
  | some a =>
    if 64 ≤ (s.core core).absent.length then s.keepGroup core slot none
    else
      let s := s.settleLoc core slot
      let b := { b with groups := b.groups.map (fun g => g.loseLatches 0xFFFFFFFF) }
      ((s.vWriteLogged b.ctx a (b.image core slot true (b.groups.map (·.idx)))).makeAbsent core slot b a).countEvicts core b.leavers

/-- BLOCK_SAVE: a stopped group, or a whole block once its commands have drained. -/
def execBlockSave (v : Victim) (s : State) : Host.Outcome State Fault Refusal :=
  match s.block v.core v.slot, v.grp with
  | none, _ => .next s
  | some b, some grp => .next (if (b.group grp).stopped && !b.leaving then (s.saveGroup v.core v.slot grp b).allStuck v.core else s)
  | some b, none =>
    if !b.leaving || !b.quiet || !b.cmdsStopped then .next s
    else
      match s.drainFor v.core (fun e => e.who.slot == v.slot && e.who.gen == b.gen) with
      | (false, s) => .next s
      | (true, s) =>
        match s.block v.core v.slot with
        | some b => .next (((s.saveBlock v.core v.slot b).allStuck v.core).tellHalted)
        | none => .next s

/-! ## BLOCK_RESTORE (R24, R445, R447, R467) -/

/-- A group returns to a partition. -/
def Group.restore (g : Group) (part since : Nat) : Group :=
  { (g.loseLatches 0xFFFFFFFF) with place := .resident, part := part, igs := g.igs.map (fun ig => { ig with since := since }) }

/-- Groups saved alone return to their core. -/
def State.restoreGroups (s : State) (x : Saved) : State :=
  let gs := x.blk.groups.filter (fun g => x.groups.contains g.idx)
  match deal (s.roomOf x.core) (gs.map (·.allot)) with
  | none => s
  | some ps =>
    let (n, s) := s.fresh
    let s := (gs.zip ps).foldl (fun s y => s.modGroup x.core x.slot y.1.idx (fun g => g.restore y.2 n)) s
    { s with saved := s.saved.filter (· != x) }

/-- Manifest entries of a context that name a block of a package, by a name that it has or one that it had, follow it to its new place
(R445, R193). -/
def State.rewriteEntries (s : State) (c : Nat) (pkg : BitVec 12) (ns : List (Nat × Nat × Word)) (core' slot' : Nat) (gen' : Word) : State :=
  s.modCtx c (fun x => { x with manifest := x.manifest.map (fun (k, e) =>
    let m := manOf e
    if m.isCore && m.pkg == pkg.toNat && ns.any (fun n => n.1 == m.unit && n.2.1 == m.slot && n.2.2.toNat == m.gen) then
      (k, (BitVec.ofNat 256 (e.toNat - at' 63 5 m.slot - at' 68 16 m.unit - at' 128 32 m.gen
        + at' 63 5 slot' + at' 68 16 core' + at' 128 32 gen'.toNat) : Entry))
    else (k, e)) })

/-- The groups of a block that returns: those that are over stay released, the others take the partitions in order. -/
def returnGroups (since : Nat) : List Group → List Nat → List Group
  | [], _ => []
  | g :: t, ps =>
    if g.liveMask == 0 then { g with place := .released } :: returnGroups since t ps
    else g.restore (listGet 0 ps 0) since :: returnGroups since t (ps.drop 1)

/-- A whole block takes a free slot of a core, with the partitions of its groups. The L1 of another core than its former one keeps no copy
older than what the block has read and stored (R85). -/
def State.putBlock (s : State) (x : Saved) (core slot : Nat) (parts : List Nat) : State :=
  let b := s.imageBlock x
  let s := (s.setFused core b.nodeRec.kern.fused).bindSlot core slot
  let (n, s) := s.fresh
  let gen := s.slotGen core slot
  let b := { b with
    gen := gen, names := b.allNames x.core x.slot, leaving := false, sealed := 0, since := b.since + (s.time - x.at_)
    groups := returnGroups n b.groups parts }
  let s := s.setBlock core slot b
  let s := { s with saved := s.saved.filter (· != x) }
  let known := b.known
  let s := if core = x.core then s else (s.l1sOf core).foldl (fun s pos => s.arriveAt pos (fun i => known.contains i.store)) s
  if core = x.core then
    s.modCore core (fun k => { k with absent := k.absent.map (fun (e : Absent) =>
      if e.ctx == x.ctx && e.image == x.image && e.state == .absent then { e with state := .moved slot } else e) })
  else
    let s := s.modCore x.core (fun k => { k with absent := k.absent.filter (fun e => !(e.ctx == x.ctx && e.image == x.image)) })
    (s.rewriteEntries x.ctx s.sys.pkg b.names core slot gen).postEvent x.ctx 5 core b.task.lin

/-- Names that a block has had on a core, as its absent-block table keeps them (R447). -/
def Block.aliases (b : Block) (core image : Nat) (st : AbsentState) : List Absent :=
  (b.names.filter (fun n => n.1 == core)).map (fun n => { slot := n.2.1, gen := n.2.2, ctx := b.ctx, image := image, state := st })

/-- A block returns to its own slot with its own generation (R193). -/
def State.putBack (s : State) (x : Saved) (parts : List Nat) : State :=
  let b := s.imageBlock x
  let (n, s) := (s.setFused x.core b.nodeRec.kern.fused).fresh
  let b := { b with since := b.since + (s.time - x.at_), groups := returnGroups n b.groups parts }
  let s := s.setBlock x.core x.slot b
  let s := { s with saved := s.saved.filter (· != x) }
  let names := b.aliases x.core x.image (.moved x.slot)
  s.modCore x.core (fun k => { k with absent := k.absent.filter (fun e => !(e.ctx == x.ctx && e.image == x.image)) ++ names })

/-- Restore a whole block: to its former core while that is live, otherwise to another that its itinerary may take. -/
def State.restoreBlock (s : State) (x : Saved) (core : Nat) : State :=
  if !(s.returnCores x).contains core then s
  else if x.fixed && core = x.core then
    match s.accept core x.blk.nodeRec.kern x.allots, s.block core x.slot with
    | some ps, none => s.putBack x ps
    | _, _ => s
  else
    match s.accept core x.blk.nodeRec.kern x.allots, s.freeSlot core with
    | some ps, some slot => s.putBlock x core slot ps
    | _, _ => s

/-- BLOCK_RESTORE: the k-th saved work returns, in its place of the pool's order, once its image is written (R196). -/
def execBlockRestore (k core : Nat) (s : State) : Host.Outcome State Fault Refusal :=
  match s.saved[k]? with
  | none => .next s
  | some x =>
    let die := s.sys.dieOfCore x.core
    if s.deviceWaits x.ctx || !(s.savedPool die).contains x || (s.savedPool die).any (fun y => y.rank.before x.rank)
        || (s.pool die).any (fun y => y.rank.before x.rank) then .next s
    else .next (if x.whole then s.restoreBlock x core else s.restoreGroups x)

/-! ## Caravan halts (R176, R347, R448) -/

/-- Blocks of this package on a member list, resident or evicted whole, with their places. -/
def State.memberBlocks (s : State) (c : Nat) (ms : List Dword) : List (Nat × Nat × Block) :=
  (s.cores.flatMap (fun k => k.2.slots.map (fun x => (k.1, x.1, x.2)))
    ++ (s.saved.filter (·.whole)).map (fun x => (x.core, x.slot, x.blk))).filter (fun y =>
      y.2.2.ctx == c && s.onList ms y.1 y.2.1 y.2.2)

/-- Change the blocks of a member list, resident or evicted whole. -/
def State.modMembers (s : State) (c : Nat) (ms : List Dword) (f : Nat → Nat → Block → Block) : State :=
  let g := fun (core slot : Nat) (b : Block) => if b.ctx == c && s.onList ms core slot b then f core slot b else b
  { s with
    cores := s.cores.map (fun (n, k) => (n, { k with slots := k.slots.map (fun (i, b) => (i, g n i b)) }))
    saved := s.saved.map (fun (x : Saved) => if x.whole then { x with blk := g x.core x.slot x.blk } else x) }

/-- The largest declaration of the members of this package. R176 does not say what a member counts for that has declared nothing, or has
retired: here 0, and nothing (DESIGN CHOICE, log 102). -/
def State.maxChunk (s : State) (c : Nat) (ms : List Dword) : Nat :=
  (s.memberBlocks c ms).foldl (fun m x => max m ((x.2.2.chunk.map (·.toNat)).getD 0)) 0

/-- The packages of a member list. -/
def packagesOf (ms : List Dword) : List (BitVec 12) := (ms.map (fun m => m.setWidth 12)).dedup

/-- The other packages of a member list. -/
def State.otherPackages (s : State) (ms : List Dword) : List (BitVec 12) := (packagesOf ms).filter (· != s.sys.pkg)

/-- The halt chunk: one more than the largest declaration, once every package of the list has reported its members' (R176). -/
def Halt.agreed (h : Halt) : Option Word :=
  if (packagesOf h.members).all (fun p => h.heard.any (fun x => x.1 == p)) then
    some (wd (h.heard.foldl (fun m x => max m x.2.toNat) 0 + 1))
  else none

/-- The chunk at which a block is held: the least of the halts in progress that name it. -/
def State.haltFor (s : State) (core slot : Nat) (b : Block) : Option Word :=
  ((s.halts.filter (fun h => !h.waiting && s.memberOf h core slot b)).filterMap (·.chunk)).foldl
    (fun a x => match a with | none => some x | some y => some (if x.toNat < y.toNat then x else y)) none

/-- The halt of a context with these members. -/
def Halt.is (h : Halt) (c : Nat) (ms : List Dword) : Bool := h.ctx == c && h.members == ms

/-- Reports of packages' largest declarations reach a halt: the first of each stands. With the last of them the halt chunk is known, and
the members of this package begin to be held there. -/
def State.hearChunks (s : State) (c : Nat) (ms : List Dword) (rs : List (BitVec 12 × Word)) : State :=
  let hear := fun (h : Halt) => rs.foldl (fun (h : Halt) r =>
    if (packagesOf h.members).contains r.1 && !h.heard.any (fun x => x.1 == r.1) then { h with heard := h.heard ++ [r] } else h) h
  let s : State := { s with halts := s.halts.map (fun h =>
    if h.is c ms && h.chunk.isNone then (let h := hear h; { h with chunk := if h.waiting then none else h.agreed }) else h) }
  s.modMembers c ms (fun core slot b => { b with halt := s.haltFor core slot b })

/-- A halt begins on this package: its members' declarations are collected and reported. -/
def State.startHalt (s : State) (c : Nat) (ms : List Dword) : State :=
  let own := wd (s.maxChunk c ms)
  let heard := ((s.halts.find? (fun h => h.is c ms)).map (·.heard)).getD []
  let s : State := { s with
    halts := s.halts.filter (fun (x : Halt) => !x.is c ms)
      ++ [{ ctx := c, members := ms, chunk := none, waiting := false, complete := false, heard := heard }]
    out := s.out ++ [FabMsg.chunkReport c ((s.memberBlocks c ms).map (fun x => x.2.2.chunk.getD 0))] }
  s.hearChunks c ms (if (packagesOf ms).contains s.sys.pkg then [(s.sys.pkg, own)] else [])

/-- A halt of a context: it waits for the cut of a pending seal (R187); one that goes on already goes on. -/
def State.haltCtx (s : State) (c : Nat) (ms : List Dword) : State :=
  if s.halts.any (fun h => h.is c ms) then s
  else if s.sealPending c then
    { s with halts := s.halts ++ [{ ctx := c, members := ms, chunk := none, waiting := true, complete := false }] }
  else s.startHalt c ms

/-- Read a member list of n entries at a physical address. -/
def State.memberList (s : State) (a n : Nat) : List Dword :=
  (List.range n).map (fun i => dw (leNat (s.firmRead (a + 8 * i) 8)))

/-- HALT: the pause goes to every package of the list. R448 asks nothing of the context's state: one that is stopped is halted too. -/
def execHalt (s : State) : Host.Outcome State Fault Refusal :=
  s.command 5 fun s =>
    let c := s.arg 0
    let n := s.arg 2
    if 64 ≤ c || n = 0 || 64 < n || (s.ctx c).state == .free then s.done 2
    else
      let ms := s.memberList (s.arg 1) n
      ({ s with out := s.out ++ (s.otherPackages ms).map (fun p => FabMsg.pause c p ms) }.haltCtx c ms).done 0

/-- A block is held: every group is held at a CHUNK, or its threads have exited. -/
def Block.haltHeld (b : Block) : Bool := b.groups.all (fun g => g.liveMask == 0 || g.igs.any (fun ig => ig.wait == .chunk))

/-- The other packages of a halt are told once that this one's members are held. -/
def State.tellHeld (s : State) (h : Halt) : State :=
  if h.told || (s.otherPackages h.members).isEmpty then s
  else { s with
    halts := s.halts.map (fun x => if x == h then { x with told := true } else x)
    out := s.out ++ [.membersHeld h.ctx h.members] }

/-- CARAVAN_HALT_COMPLETE: every member is held, those of the packages `held` by their word and those of this package by their state: a
block that is no longer there has retired. The members are evicted whole, and HALTED is posted once each is (R448); one whose save found no
place is asked again. -/
def execCaravanHaltComplete (r : HaltReport) (s : State) : Host.Outcome State Fault Refusal :=
  match s.halts.find? (fun h => h.is r.ctx r.members && h.chunk.isSome && (!h.complete || h.saving)) with
  | none => .next s
  | some h =>
    if !(s.memberBlocks r.ctx r.members).all (fun x => x.2.2.haltHeld) then .next s
    else
      let s := s.tellHeld h
      if !(s.otherPackages r.members).all r.held.contains then .next s
      else
        let s : State := { s with halts := s.halts.map (fun (x : Halt) => if x.is r.ctx r.members then { x with complete := true, saving := true } else x) }
        let bs := s.cores.flatMap (fun (k : Nat × Core) =>
          (k.2.slots.filter (fun x => x.2.ctx == r.ctx && s.onList r.members k.1 x.1 x.2)).map (fun x => (k.1, x.1)))
        .next (bs.foldl (fun s x => s.askBlock x.1 x.2) s).tellHalted

/-- A group continues after its CHUNK, with the caravan-halt trap where it is enabled (R347). -/
def Group.afterHalt (g : Group) (trap : Bool) : Group :=
  { g with igs := g.igs.map (fun ig =>
      if trap && ig.mask &&& g.liveMask != 0 && g.igs.any (fun x => x.wait == .chunk) then
        { ig with wait := if ig.wait == .chunk then .none else ig.wait, trap := some { cause := 18 } }
      else { ig with wait := if ig.wait == .chunk then .none else ig.wait }) }

/-- A block of an ended halt. -/
def Block.unhalt (b : Block) (trap : Bool) : Block := { b with halt := none, groups := b.groups.map (fun g => g.afterHalt trap) }

/-- The words of a list, and every other name of the blocks of this package that it names. -/
def State.namesOf (s : State) (c : Nat) (ms : List Dword) : List Nat :=
  ms.map (·.toNat) ++ (s.memberBlocks c ms).flatMap (fun x =>
    (x.2.2.allNames x.1 x.2.1).map (fun n => s.memberWord n.1 n.2.1 n.2.2))

/-- A halt without the members of a list; none where no member is left. -/
def Halt.without (h : Halt) (ns : List Nat) : Option Halt :=
  let rest := h.members.filter (fun m => !ns.contains m.toNat)
  if rest.isEmpty then none else some { h with members := rest }

/-- A complete halt of a context names a block of a list. -/
def Halt.lifts (h : Halt) (c : Nat) (ns : List Nat) : Bool := h.ctx == c && h.complete && h.members.any (fun m => ns.contains m.toNat)

/-- The members of complete halts that a list names. -/
def State.lifted (s : State) (c : Nat) (ns : List Nat) : List Dword :=
  (s.halts.filter (fun h => h.lifts c ns)).flatMap (fun h => h.members.filter (fun m => ns.contains m.toNat))

/-- The listed members of complete halts may be restored, and each of their groups continues after its CHUNK. -/
def State.liftHalts (s : State) (c : Nat) (ns : List Nat) : State :=
  let go := s.lifted c ns
  let trap := (s.ctx c).halttrap
  let s : State := { s with halts := s.halts.filterMap (fun h => if h.lifts c ns then h.without ns else some h) }
  s.modMembers c go (fun core slot b => match s.haltFor core slot b with
    | some x => { b with halt := some x }
    | none => b.unhalt trap)

/-- UNHALT: this package's members are released, and the other packages of the list are told. -/
def execUnhalt (s : State) : Host.Outcome State Fault Refusal :=
  s.command 6 fun s =>
    let c := s.arg 0
    let n := s.arg 2
    let ms := s.memberList (s.arg 1) n
    let ns := s.namesOf c ms
    if 64 ≤ c || n = 0 || 64 < n || !s.halts.any (fun h => h.lifts c ns) then s.done 2
    else
      let go := s.lifted c ns
      (({ s with out := s.out ++ (s.otherPackages go).map (fun p => FabMsg.unpause c p go) } : State).liftHalts c ns).done 0

/-- CARAVAN_HALT_PAUSE: another package's word about a halt arrives: its HALT, with the declarations reported so far, or its UNHALT. -/
def execCaravanHaltPause (ctx : Nat) (x : HaltCall) (s : State) : Host.Outcome State Fault Refusal :=
  .next (
    if !(packagesOf x.members).contains s.sys.pkg then s
    else if x.lifted then s.liftHalts ctx (s.namesOf ctx x.members)
    else if (s.ctx ctx).state != .free then (s.haltCtx ctx x.members).hearChunks ctx x.members (x.chunks.filter (fun r => r.1 != s.sys.pkg))
    else s)

end Sys2Proof.Machine
end

