-- ==== Sys2Proof/Machine/Seal.lean ====
section
/-! DEFINITION. The seal of a recovery domain: request, agreement, drain, save and cut (R176, R181 to R190, R484, R485). -/

namespace Sys2Proof.Machine

/-! ## The members of a domain (R481, R485) -/

/-- Members that have not been lost, in ascending order. -/
def Domain.alive (d : Domain) : List (BitVec 12) := d.members.filter (fun m => !d.lost.contains m)

/-- The package coordinates the domain: it is the lowest member left. -/
def Domain.coordinates (d : Domain) (pkg : BitVec 12) : Bool := d.alive.head? == some pkg

/-- The witness: the next lowest. -/
def Domain.witness (d : Domain) : Option (BitVec 12) := d.alive[1]?

/-- Every member left is on a list. -/
def Domain.allIn (d : Domain) (l : List (BitVec 12)) : Bool := d.alive.all (fun m => l.contains m)

/-- Something of a member arrives. -/
def Domain.hear (d : Domain) (m : BitVec 12) (now : Nat) : Domain := { d with heard := d.heard.filter (fun x => x.1 != m) ++ [(m, now)] }

/-- Something of the coordinator arrives. -/
def Domain.hearFirst (d : Domain) (now : Nat) : Domain := match d.alive.head? with | some m => d.hear m now | none => d

/-- Nothing of a member has come for 50 ms of a seal (R484). -/
def Domain.silent (d : Domain) (m : BitVec 12) (now : Nat) : Bool :=
  decide (((d.heard.find? (fun x => x.1 == m)).map (·.2)).getD d.sealAt + usec 50000 ≤ now)

/-- The context lies in a domain. -/
def State.inDomain (s : State) (dom c : Nat) : Bool := (s.ctx c).domain == some dom

/-- Contexts of a domain. -/
def State.domCtxs (s : State) (dom : Nat) : List Nat := (s.ctxs.filter (fun x => x.2.domain == some dom)).map (·.1)

/-- Resident blocks of a domain. -/
def State.domBlocks (s : State) (dom : Nat) : List (Nat × Nat × Block) :=
  s.cores.flatMap (fun k => (k.2.slots.filter (fun x => s.inDomain dom x.2.ctx)).map (fun x => (k.1, x.1, x.2)))

/-- A caravan halt of a context of the domain has begun and has not completed. -/
def State.domHalting (s : State) (dom : Nat) : Bool :=
  s.halts.any (fun h => s.inDomain dom h.ctx && !h.waiting && !h.complete)

/-! ## Requests (R181, R484) -/

/-- SEAL_INTERVAL_EXPIRY: one request for an interval that has run out. -/
def execSealIntervalExpiry (dom : Nat) (s : State) : Host.Outcome State Fault Refusal :=
  match s.domain? dom with
  | none => .next s
  | some d => .next (if !d.pending && decide (d.since + usec (1000 * d.interval) ≤ s.time) then s.requestSeal dom else s)

/-- SEAL_REQUEST_MESSAGE: the coordinator sends PREP, or the request joins the pending seal. It waits until every member has
applied the previous seal, and until a caravan halt has completed. -/
def execSealRequestMessage (dom : Nat) (s : State) : Host.Outcome State Fault Refusal :=
  match s.domain? dom with
  | none => .next s
  | some d =>
    if d.stopped || !d.coordinates s.sys.pkg then .next s
    else
      let s := s.modDomain dom (fun x => if x.pending then x else { x with wanted := true, reqAt := s.time })
      if d.phase != .idle || d.applying || s.domHalting dom then .next s
      else
        .next { (s.modDomain dom (fun x => { x with
            phase := .requested, wanted := false, ready := [], acked := [], sealAt := s.time, heard := [] })) with
          out := s.out ++ [FabMsg.prep dom d.leg] }

/-- SEALREQ: a driver's request. -/
def execSealreq (s : State) : Host.Outcome State Fault Refusal :=
  s.command 21 fun s =>
    match s.domain? (s.arg 0) with
    | none => s.done 2
    | some d => (s.requestSeal d.num).done 0

/-! ## PREP, seal points, the wait limit (R182, R183, R185) -/

/-- SEAL_PREP: PREP of the current leg arrives. It waits while a caravan halt of the domain goes on here (R176). -/
def execSealPrep (dom : Nat) (leg : BitVec 32) (s : State) : Host.Outcome State Fault Refusal :=
  match s.domain? dom with
  | none => .next s
  | some d =>
    let ok := d.phase == .requested || (d.phase == .idle && !d.coordinates s.sys.pkg)
    .next (if !d.stopped && d.leg == leg && ok && !s.domHalting dom then
        s.modDomain dom (fun x => { x.hearFirst s.time with
          phase := .prep, wanted := false, told := false, reqAt := if d.pending then x.reqAt else s.time
          sealAt := if d.phase == .idle then s.time else x.sealAt, applying := false })
      else s)

/-- A wait marked .WM. -/
def Wait.marked : Wait → Bool
  | .tok _ wm => wm
  | .clk _ wm => wm
  | .sync wm => wm
  | .bar _ o => o.wm
  | _ => false

/-- An issue group's wait parks it. -/
def Wait.parks (x : Wait) : Bool := x.marked || (match x with | .way _ _ p => p | _ => false)

/-- A group is parked (R183); one in handler mode is not (R187). -/
def Group.parked (g : Group) : Bool :=
  g.liveMask == 0 || (match g.place with | .evicted _ => true | _ => false)
    || (g.trap.isNone && g.igs.all (fun ig => ig.wait.parks || ig.mask &&& g.liveMask == 0))

/-- A block is at a seal point. One held before its first issue counts as parked: it issues nothing, and is never evicted (R440,
log 20). -/
def Block.atSeal (b : Block) : Bool := b.held || b.groups.all Group.parked || (b.halt.isSome && b.haltHeld)

/-- The other members are told once that every block of this one is at a seal point. -/
def State.tellAtSeal (s : State) (d : Domain) : State :=
  if d.told || d.alive.all (· == s.sys.pkg) then s
  else { (s.modDomain d.num (fun x => { x with told := true })) with out := s.out ++ [.atSeal d.num d.leg] }

/-- SEAL_DRAIN_BEGIN: every resident block of the domain is at a seal point, here and, by their word, on the members `parked` (R183), and no
caravan halt goes on (R176). -/
def execSealDrainBegin (r : SealReport) (s : State) : Host.Outcome State Fault Refusal :=
  match s.domain? r.dom with
  | none => .next s
  | some d =>
    let s := s.modDomain r.dom (fun x => r.parked.foldl (fun x m => x.hear m s.time) x)
    if d.phase != .prep || s.domHalting r.dom || !(s.domBlocks r.dom).all (fun x => x.2.2.atSeal) then .next s
    else
      let s := s.tellAtSeal d
      .next (if d.alive.all (fun m => m == s.sys.pkg || r.parked.contains m) then s.modDomain r.dom (fun x => { x with phase := .drain })
        else s)

/-- SEAL_WAIT_LIMIT: resident blocks that are not at seal points are evicted. -/
def execSealWaitLimit (dom : Nat) (s : State) : Host.Outcome State Fault Refusal :=
  match s.domain? dom with
  | none => .next s
  | some d =>
    .next (if d.phase == .prep && decide (d.reqAt + usec d.waitLimit ≤ s.time) then
        (s.domBlocks dom).foldl (fun s x => if x.2.2.atSeal then s else s.askBlock x.1 x.2.1) s
      else s)

/-! ## The drain (R186) -/

/-- Nothing of a block's commands, operations and results is under way. -/
def Block.drained (b : Block) : Bool :=
  b.cmds.isEmpty && b.groups.all (fun g => g.results.all (·.remote) && g.ops.all (fun o => o.pkts.isEmpty))

/-- A flight holds up the drain of a domain: one of its contexts on this package, or one of a context on another that arrives under the leg. -/
def Flight.holdsDrain (f : Flight) (s : State) (d : Domain) : Bool :=
  f.pending && !f.irrevHeld &&
    (if f.inbound then f.at_ == .target && f.p.rdom == some d.num && f.p.leg == d.leg
     else s.inDomain d.num f.p.srcCtx.toNat && !f.p.irrev)

/-- The drain of a domain is over. -/
def State.drained (s : State) (d : Domain) : Bool :=
  (s.domBlocks d.num).all (fun x => x.2.2.drained)
    && (s.cores.map (·.1)).all (fun k => !(s.pendingStores k).any (fun e => s.inDomain d.num e.who.ctx))
    && s.homeHeld.all (fun h => h.dom != d.num)
    && s.flights.all (fun f => !f.holdsDrain s d)

/-! ## Waymark areas (R186, R188 to R190) -/

/-- The block header of an area. -/
def wayBlockHeader (b : Block) (x : WayDesc) (leg : Word) : Nat :=
  at' 256 32 x.alen + at' 224 32 x.aoff + at' 192 32 x.llen + at' 160 32 x.loff + at' 128 32 leg.toNat + at' 96 32 b.task.lin
    + at' 64 6 b.task.stage + at' 32 6 b.groups.length + 1

/-- The header of a group record, with the segment at which the group resumes. -/
def Group.wayHeader (g : Group) (x : WayDesc) (vg resume : Nat) : Nat :=
  2 ^ 256 * perLane 8 (fun l => (g.thread l).preds.toNat) + at' 192 64 x.smask.toNat + at' 160 32 g.liveMask.toNat
    + at' 128 32 g.mode.toNat + at' 116 12 resume + at' 111 5 g.idx + at' 105 6 g.allot + at' 99 6 vg

/-- The S registers of a mask. -/
def maskRegs (m : Dword) : List Nat := (List.range 64).filter (fun k => m.getLsbD k)

/-- A group record: header, S registers padded to 64 bytes, V registers of the live lanes. -/
def Group.wayRecordBytes (g : Group) (x : WayDesc) (vg resume : Nat) : List Byte :=
  let ss := (maskRegs x.smask).flatMap (fun k => leBytes 4 (g.readS k false).toNat)
  leBytes 64 (g.wayHeader x vg resume) ++ ss ++ List.replicate (wayHead x.smask - 64 - ss.length) 0
    ++ (List.range (8 * vg)).flatMap (fun k => lanes.flatMap (fun l =>
        leBytes 4 (if g.liveMask.getLsbD l then (g.readV l k false).toNat else 0)))

/-- The segment that a group resumes at: the successor of its WAYMARK's bundle. -/
def State.resumeSeg (s : State) (core slot : Nat) (g : Group) : Nat :=
  match g.igs.find? (fun ig => ig.wait.isWay) with
  | some ig => ((s.whoOf core slot g.idx ig.id).bind s.nextSegment).getD 0
  | none => 0

/-- The descriptor of a block's waymark; an exited block has none. -/
def Block.wayOf (b : Block) : Option WayDesc := b.groups.findSome? (fun g => g.wayOf.map (fun y => g.wayDesc y.1))

/-- A descriptor that saves no S register. -/
def WayDesc.none : WayDesc := { smask := 0, loff := 0, llen := 0, aoff := 0, alen := 0 }

/-- The record of each group at its place in the area. -/
def State.saveRecords (s : State) (core slot : Nat) (b : Block) : State :=
  b.groups.foldl (fun s g =>
    let (x, vg) := match g.wayOf with
      | some (d, vg, _) => (g.wayDesc d, vg)
      | .none => (WayDesc.none, 0)
    s.vWriteLogged b.ctx (b.wayArea + 64 + g.idx * b.nodeRec.kern.wmgrp) (g.wayRecordBytes x vg (s.resumeSeg core slot g))) s

/-- Write a block's waymark area. -/
def State.saveWay (s : State) (core slot : Nat) (b : Block) (x : WayDesc) (leg : Word) : State :=
  let s := (s.saveRecords core slot b).vWriteLogged b.ctx b.wayArea (leBytes 64 (wayBlockHeader b x leg))
  let a := b.wayArea + 64 + b.groups.length * b.nodeRec.kern.wmgrp
  let s := s.vWriteLogged b.ctx a (Memory.readN b.mem x.loff x.llen)
  let s := s.vWriteLogged b.ctx (a + x.llen)
    ((List.range x.alen).flatMap (fun i => leBytes 4 (KMap.get (0 : Word) b.acc (x.aoff + i)).toNat))
  s.modBlock core slot (fun b => { b with sealed := 1 })

/-- Every group is parked at a WAYMARK or exited, one at least at a WAYMARK. -/
def Block.allWay (b : Block) : Bool :=
  b.groups.any (fun g => g.wayOf.isSome) && b.groups.all (fun g => g.liveMask == 0 || (g.here && g.wayOf.isSome))

/-- Save one block of a domain; none where its image finds no room, whose context is told instead (R445). -/
def State.sealBlock (s : State) (core slot : Nat) (b : Block) (leg : Word) : Except Nat State :=
  if b.groups.all (fun g => g.liveMask == 0) then .ok ((s.retireBlock core slot b).allStuck core)
  else
    match b.allWay, b.wayOf with
    | true, some x => .ok (s.saveWay core slot b x leg)
    | _, _ =>
      let gs := b.groups.map (·.idx)
      match s.imageAt b.ctx (b.imageSize true gs) with
      | none => .error b.ctx
      | some a =>
        .ok ((s.vWriteLogged b.ctx a (b.image core slot true gs)).modBlock core slot (fun b => { b with sealed := 2, sealImage := a }))

/-- Save every block of a list. -/
def State.sealBlocks (s : State) (leg : Word) : List (Nat × Nat × Block) → Except Nat State
  | [] => .ok s
  | (core, slot, b) :: t =>
    match s.sealBlock core slot b leg with
    | .error c => .error c
    | .ok s => State.sealBlocks s leg t

/-- Every commutative update of memory is merged. -/
def State.mergeAll (s : State) : State := { (s.cu.foldl State.mergeWord s) with cu := [] }

/-- SEAL_SAVE: after the drain the blocks are saved and READY is sent. -/
def execSealSave (dom : Nat) (s : State) : Host.Outcome State Fault Refusal :=
  match s.domain? dom with
  | none => .next s
  | some d =>
    if d.phase != .drain || !s.drained d then .next s
    else
      match s.sealBlocks d.leg (s.domBlocks dom) with
      | .error c => .next (s.postEvent c 8 0 0)
      | .ok s =>
        let s := s.mergeAll
        match s.domain? dom with
        | some x =>
          .next (if x.phase == .drain && !x.stopped then
              { (s.modDomain dom (fun x => { x with phase := .saved })) with out := s.out ++ [FabMsg.ready dom d.leg] }
            else s)
        | none => .next s

/-! ## Agreement (R484) -/

/-- A seal of this coordinator gathers READY. -/
def Domain.gathering (d : Domain) : Bool := d.phase == .requested || d.phase == .prep || d.phase == .drain || d.phase == .saved

/-- SEAL_READY: with READY of every member the coordinator writes COMMIT; a domain without a witness cuts then. -/
def execSealReady (dom : Nat) (member : BitVec 12) (s : State) : Host.Outcome State Fault Refusal :=
  match s.domain? dom with
  | none => .next s
  | some d =>
    if d.stopped || !d.coordinates s.sys.pkg || !d.gathering || !d.alive.contains member || d.ready.contains member
        || (member == s.sys.pkg && d.phase != .saved) then .next s
    else
      let ready := d.ready ++ [member]
      let s := s.modDomain dom (fun x => { x.hear member s.time with ready := ready })
      if !d.allIn ready then .next s
      else
        let s := if d.witness.isNone then s.modDomain dom (fun x => { x with phase := .committed }) else s
        .next { s with out := s.out ++ [FabMsg.commit dom d.leg] }

/-- SEAL_COMMIT_WITNESS: the witness holds COMMIT, and acknowledges a repeated one again. -/
def execSealCommitWitness (dom : Nat) (leg : BitVec 32) (s : State) : Host.Outcome State Fault Refusal :=
  match s.domain? dom with
  | none => .next s
  | some d =>
    .next (if !d.stopped && d.witness == some s.sys.pkg && d.phase == .saved && d.leg == leg then
        { (s.modDomain dom (fun x => { x.hearFirst s.time with phase := .committed })) with out := s.out ++ [FabMsg.witnessAck dom leg] }
      else if d.witness == some s.sys.pkg && ((d.phase == .committed && d.leg == leg) || (leg != 0 && d.lastCut == leg)) then
        { (s.modDomain dom (fun x => x.hearFirst s.time)) with out := s.out ++ [FabMsg.witnessAck dom leg] }
      else s)

/-- The cut that a coordinator has made and that some member has not acknowledged. -/
def Domain.unapplied (d : Domain) : Option Word :=
  if d.phase == .committed then some d.leg else if d.applying then some d.lastCut else none

/-- SEAL_CUT: the witness's acknowledgement reaches the coordinator. It sends COMMIT, and again until every member has acknowledged it
(R484). -/
def execSealCut (dom : Nat) (s : State) : Host.Outcome State Fault Refusal :=
  match s.domain? dom with
  | none => .next s
  | some d =>
    .next (if !d.stopped && d.coordinates s.sys.pkg && d.witness.isSome && d.phase == .saved && d.allIn d.ready then
        { (s.modDomain dom (fun x =>
            { (match d.witness with | some m => x.hear m s.time | none => x) with phase := .committed })) with
          out := s.out ++ [FabMsg.commit dom d.leg] }
      else
        match d.coordinates s.sys.pkg, d.unapplied with
        | true, some leg => { s with out := s.out ++ [FabMsg.commit dom leg] }
        | _, _ => s)

/-! ## After the cut (R175, R186, R187, R193, R201) -/

/-- The leg after another (R178). -/
def nextLeg (l : Word) : Word := if l = 0xFFFFFFFF then 1 else l + 1

/-- What the block-tasks of a domain were at a cut. -/
def State.cutTasks (s : State) (dom : Nat) : List CutTask :=
  (s.itins.filter (fun t => s.inDomain dom t.ctx)).flatMap (fun t => t.retired.map (fun x =>
      ({ itin := t.id, task := x.1, kind := .retired, core := 0, slot := 0, blk := none } : CutTask)))
    ++ (s.domBlocks dom).filterMap (fun x =>
        let b := x.2.2
        if b.sealed = 0 then none
        else some { itin := b.itin, task := b.task, kind := if b.sealed = 1 then .waymark else .image b.sealImage
                    core := x.1, slot := x.2.1, blk := some b })
    ++ (s.saved.filter (fun x => x.whole && s.inDomain dom x.ctx)).map (fun x =>
        { itin := x.blk.itin, task := x.blk.task, kind := .image x.image, core := x.core, slot := x.slot, blk := some x.blk })

/-- A held packet leaves its hold: it goes on behind those that have left before it. -/
def State.sendHeld (s : State) (id : Nat) : State :=
  { s with flights := s.flights.filter (fun f => f.p.id != id)
      ++ (s.flights.filter (fun f => f.p.id == id)).map (fun f => { f with irrevHeld := false }) }

/-- A held store leaves its hold. Its write is of no leg, so it is not logged. -/
def State.releaseHeld (s : State) (h : Held) : State :=
  match h.what with
  | .inr id => s.sendHeld id
  | .inl e =>
    match e.place, e.work with
    | .glob t, .bytes bs =>
      if !s.admitsTgt e.who.ctx t then
        s.homeRefuses e.who false (match t with | .dev a | .host a | .mmio a => a) e.pc e.node e.block e.leg
      else (s.rawWrite t bs).invalidate none e.who e.id (sectorKeys t bs.length)
    | _, _ => s

/-- The holds of a domain's leg are released in their order of entry. -/
def State.releaseHolds (s : State) (dom : Nat) (leg : Word) : State :=
  let mine := fun (h : Held) => h.dom == dom && h.leg == leg
  let s' := (s.holds.filter mine).foldl State.releaseHeld s
  { s' with holds := s'.holds.filter (fun h => !mine h) }

/-- Records that waited for the cut of a leg reach the host. -/
def State.postWaiting (s : State) (dom : Nat) (leg : Word) : State :=
  (s.domCtxs dom).foldl (fun s c =>
    let rs := (s.ctx c).waiting
    rs.foldl (fun s r => s.writeRec c leg r) (s.modCtx c (fun x => { x with waiting := [] }))) s

/-- Parked groups of a domain continue: those at WAYMARKs pass them. -/
def State.passWays (s : State) (dom : Nat) : State :=
  (s.domBlocks dom).foldl (fun s x =>
    let (n, s) := s.fresh
    s.modBlock x.1 x.2.1 (fun b => { b with
      sealed := 0
      groups := b.groups.map (fun g => if g.here && g.wayOf.isSome then g.passAll Wait.isWay n else g) })) s

/-- Halts that waited for the cut begin. -/
def State.startHalts (s : State) (dom : Nat) : State :=
  (s.halts.filter (fun h => h.waiting && s.inDomain dom h.ctx)).foldl (fun s h => s.startHalt h.ctx h.members) s

/-- The cut is a release at .SYS of every access of the leg, and what follows it an acquire (R186): what the domain's contexts, the
device and other agents have stored, and what is before the ends of the domain's threads so far, is performed and every filter applies
it. -/
def State.cutOrders (s : State) (dom : Nat) : State :=
  let mine := fun (a : Agent) => !a.here || s.inDomain dom a.ctx
  let s := (s.domBlocks dom).foldl (fun s x => s.settle x.2.2.known) s
  s.cores.foldl (fun s k => s.applyAll k.1 mine) (s.arriveAll (fun i => mine i.src))

/-- What a member does once it knows of the cut, but for the leg's advance. -/
def State.afterCut (s : State) (dom : Nat) (leg : Word) : State :=
  let s := { s with logs := s.logs.filter (fun e => !(e.dom == dom && e.leg == leg)) }
  let s := ((s.releaseHolds dom leg).postWaiting dom leg).cutOrders dom
  (s.passWays dom).startHalts dom

/-- The domain's books after the cut of its leg; a request since the cut is for the next seal. The coordinator sees to it that every member
applies it; the witness, which would take that over, cannot know that it is done before the next PREP (R485, log 96). -/
def Domain.advance (d : Domain) (s : State) : Domain :=
  { d with
    leg := nextLeg d.leg
    phase := .idle
    told := false
    since := s.time
    applying := d.coordinates s.sys.pkg || d.witness == some s.sys.pkg
    lastCut := d.leg
    acked := []
    cut := s.cutTasks d.num
    cutWindows := s.windows.filter (fun w => w.dom == some d.num)
    cutOrdered := s.ordered
    cutItins := s.itins.filter (fun t => s.inDomain d.num t.ctx && !t.finished) }

/-- Apply a cut on this package. -/
def State.applyCut (s : State) (d : Domain) : State :=
  let s' := s.modDomain d.num (fun x => x.advance s)
  let s' := { s' with itins := s'.itins.filter (fun t => !(s.inDomain d.num t.ctx && t.finished)) }
  s'.afterCut d.num d.leg

/-- SEAL_APPLY: COMMIT of the leg reaches a member that has sent READY; one that has applied it acknowledges it again. -/
def execSealApply (dom : Nat) (leg : BitVec 32) (s : State) : Host.Outcome State Fault Refusal :=
  match s.domain? dom with
  | none => .next s
  | some d =>
    let ok := d.phase == .committed
      || (d.phase == .saved && !d.coordinates s.sys.pkg && d.witness != some s.sys.pkg)
    .next (if !d.stopped && d.leg == leg && ok then
        let s := (s.applyCut d).modDomain dom (fun x => x.hearFirst s.time)
        { s with out := s.out ++ [FabMsg.applyAck dom leg] }
      else if leg != 0 && d.lastCut == leg then
        { (s.modDomain dom (fun x => x.hearFirst s.time)) with out := s.out ++ [FabMsg.applyAck dom leg] }
      else s)

/-- SEAL_APPLY_ACK: once every member has acknowledged, the next seal may begin. -/
def execSealApplyAck (dom : Nat) (member : BitVec 12) (s : State) : Host.Outcome State Fault Refusal :=
  match s.domain? dom with
  | none => .next s
  | some d =>
    if !d.applying || !d.coordinates s.sys.pkg || !d.alive.contains member || d.acked.contains member then .next s
    else
      let acked := d.acked ++ [member]
      .next (s.modDomain dom (fun x => { x.hear member s.time with acked := if d.allIn acked then [] else acked, applying := !d.allIn acked }))

/-! ## MEMBER_SILENCE (R484, R485) -/

/-- A context ends, with a record that names the cause (R355). -/
def State.endBare (s : State) (cause c : Nat) : State :=
  s.endCtx c cause (some { cause := BitVec.ofNat 6 cause, leg := s.legOf c, clock := dw s.clock })

/-- Every context of a domain ends. -/
def State.endDomain (s : State) (dom cause : Nat) : State := (s.domCtxs dom).foldl (State.endBare · cause ·) s

/-- A seal runs as far as this package can see: it takes part in its steps, or as coordinator sees to its last one (R484). -/
def Domain.sealing (d : Domain) (pkg : BitVec 12) : Bool := d.phase != .idle || (d.applying && d.coordinates pkg)

/-- A seal may run that this package sees nothing of: its request waits for PREP, or it has applied the last cut, which others may not have
(log 96). -/
def Domain.mayBeSealing (d : Domain) : Bool := d.wanted || (d.lastCut != 0 && d.leg == nextLeg d.lastCut)

/-- What the loss of a member, which is a die fault (R484, R497), means to this package. A witness that knows of the cut completes step 4 for
the members that have not applied it, whether it has applied it itself or not, and coordinates from then on (R485). Where this package sees
no seal run, the loss begins no rollback, but for the witness of a seal that a request waits for. -/
def State.memberLost (s : State) (d : Domain) (member : BitVec 12) : State :=
  let y := { d with lost := d.lost ++ [member] }
  let s := (s.modDomain d.num (fun _ => y)).postRas { kind := 3, sev := 2, dom := some d.num, leg := d.leg }
  let first := d.members.head?
  if d.members.length ≥ 2 && (d.members.take 2).all (fun m => y.lost.contains m) then s.endDomain d.num 16
  else if first == some member && d.coordinates member then
    (if d.witness == some s.sys.pkg then
      (if d.phase == .committed then
        { (s.modDomain d.num (fun x => { x with ready := x.alive })) with out := s.out ++ [FabMsg.commit d.num d.leg] }
       else if d.phase == .idle && d.applying then
        { (s.modDomain d.num (fun x => { x with acked := [s.sys.pkg], applying := !x.allIn [s.sys.pkg] })) with
          out := s.out ++ [FabMsg.commit d.num d.lastCut] }
       else s.abortDomain d.num none false)
     else s)
  else if d.sealing s.sys.pkg then s.abortDomain d.num none false
  else s

/-- What a package can judge of the silence of a member: in a seal that it sees any, otherwise the coordinator and the witness alone (log 96). -/
def Domain.judges (d : Domain) (pkg member : BitVec 12) : Bool :=
  d.sealing pkg || (d.mayBeSealing && !d.coordinates pkg && (d.members.take 2).contains member)

/-- MEMBER_SILENCE: nothing heard of a member for 50 ms during a seal (R484). -/
def execMemberSilence (dom : Nat) (member : BitVec 12) (s : State) : Host.Outcome State Fault Refusal :=
  match s.domain? dom with
  | none => .next s
  | some d =>
    .next (if d.judges s.sys.pkg member && !d.stopped && member != s.sys.pkg && d.alive.contains member && d.silent member s.time then
        s.memberLost d member
      else s)

end Sys2Proof.Machine
end

