-- ==== Sys2Proof/Machine/Rollback.lean ====
section
/-! DEFINITION. Errors, rollback and injection (R41, R175, R191 to R195, R197, R485 to R488, R491, R497). -/

namespace Sys2Proof.Machine

/-! ## Whose state an error strikes (R177, R191) -/

/-- Contexts that own or share the granule of an address. -/
def State.granuleCtxs (s : State) (pa : Nat) : List Nat := (List.range 64).filter (fun c => s.homeAdmits c pa)

/-- Domains of contexts. -/
def State.domainsOf (s : State) (cs : List Nat) : List Nat := (cs.filterMap (fun c => (s.ctx c).domain)).dedup

/-- The error ends a context outside every domain (R177); the specification names no cause (log 17). -/
def State.errorEnds (s : State) (c : Nat) : State :=
  { s with freeCtr := s.freeCtr + 1 }.endBare ((Config.freeWord s.freeCtr).toNat % 64) c

/-- An uncorrectable error, or its like, in the state of contexts: each outside every domain ends, and each domain rolls
back, or ends where its log has overflowed or an entry is lost (R497). `r` is the record with its severity open. -/
def State.strike (s : State) (cs : List Nat) (r : Ras) (overflow : Nat → Option Nat) (injected : Bool) : State :=
  let ds := s.domainsOf cs
  let lone := cs.filter (fun c => (s.ctx c).domain.isNone && (s.ctx c).state != .free)
  let s := ds.foldl (fun s d => s.postRas { r with
    sev := if (overflow d).isSome then 2 else 1, dom := some d, leg := ((s.domain? d).map (·.leg)).getD 0 }) s
  let s := lone.foldl (fun s c => s.postRas { r with sev := 2, ctx := some c }) s
  let s := if ds.isEmpty && lone.isEmpty then s.postRas { r with sev := 2 } else s
  let s := lone.foldl State.errorEnds s
  ds.foldl (fun s d => s.abortDomain d (overflow d) injected) s

/-- The leg that a rollback beginning now would undo: the next one, where this package knows that the current one is cut. -/
def Domain.doomed (d : Domain) : Word := if d.phase == .committed then nextLeg d.leg else d.leg

/-- A sector has an entry in the log of a domain's leg that would be undone. -/
def State.logged (s : State) (d : Domain) (pa : Nat) : Bool :=
  s.logs.any (fun e => e.pa == pa / 64 * 64 && e.leg == d.doomed && e.dom == d.num)

/-- A sector is poisoned (R487). -/
def State.poisonAt (s : State) (pa : Nat) : State :=
  { s with poison := if s.poison.contains (pa / 64 * 64) then s.poison else (pa / 64 * 64) :: s.poison }

/-- An error in memory: where a domain's log has no entry for the sector, the sector is poisoned and the domain's contexts end
(R487). A sector with an entry is remembered: STOP may name a later leg than this member knows of, in whose log it has none. -/
def State.memoryError (s : State) (pa : Nat) (r : Ras) : State :=
  let cs := s.granuleCtxs pa
  let lost := (s.domainsOf cs).filter (fun d => match s.domain? d with | some x => !s.logged x pa | none => false)
  let s' := s.strike cs r (fun d => if lost.contains d then some 2 else none) false
  let s' := ((s.domainsOf cs).filter (fun d => !lost.contains d)).foldl (fun s d =>
    s.modDomain d (fun x => { x with struck := x.struck ++ [pa / 64 * 64] })) s'
  if lost.isEmpty then s' else (s'.poisonAt pa).postRas { r with kind := 7, sev := 2, detail := 0 }

/-- An error in a core's memory strikes the block of a slot. -/
def State.coreError (s : State) (core slot : Nat) (r : Ras) : State :=
  s.strike (match s.block core slot with | some b => [b.ctx] | none => []) r (fun _ => none) false

/-- The record of an error at a place. -/
def siteRas (x : ErrSite) (kind : Nat) : Ras :=
  match x with
  | .hbm pa => { kind := kind, sev := 0, detail := 0, ukind := 5, unit := homeOf pa, addr := pa }
  | .llc pa => { kind := kind, sev := 0, detail := 1, ukind := 4, unit := homeOf pa / 4 * 32 + (Config.sliceHash (pa / 256)).toNat, addr := pa }
  | .localMem core _ => { kind := kind, sev := 0, detail := 2, ukind := 3, unit := core }
  | .regFile core _ => { kind := kind, sev := 0, detail := 3, ukind := 3, unit := core }
  | .tile core _ => { kind := kind, sev := 0, detail := 4, ukind := 3, unit := core }
  | .accum core _ => { kind := kind, sev := 0, detail := 5, ukind := 3, unit := core }
  | .undoLog d pa => { kind := kind, sev := 0, detail := 0, ukind := 5, unit := homeOf pa, dom := some d, addr := pa / 64 * 64 }

/-- UNCORRECTABLE_ERROR. -/
def execUncorrectableError (site : ErrSite) (s : State) : Host.Outcome State Fault Refusal :=
  let r := siteRas site 2
  match site with
  | .hbm pa => .next (if s.sys.installed pa then s.memoryError pa r else s)
  | .llc pa => .next (if s.sys.installed pa then s.memoryError pa r else s)
  | .localMem core slot => .next (s.coreError core slot r)
  | .regFile core slot => .next (s.coreError core slot r)
  | .tile core slot => .next (s.coreError core slot r)
  | .accum core slot => .next (s.coreError core slot r)
  | .undoLog d _ =>
    match s.domain? d with
    | none => .next s
    | some x => .next ((s.postRas { r with sev := 2, leg := x.leg }).abortDomain d (some 2) false)

/-- CORRECTED_ERROR. One in an undo log is of the domain's current leg. -/
def execCorrectedError (site : ErrSite) (s : State) : Host.Outcome State Fault Refusal :=
  match site with
  | .undoLog d _ =>
    match s.domain? d with
    | none => .next s
    | some x => .next (s.postRas { siteRas site 1 with leg := x.leg })
  | .hbm _ | .llc _ | .localMem _ _ | .regFile _ _ | .tile _ _ | .accum _ _ => .next (s.postRas (siteRas site 1))

/-! ## Die faults (R191, R491) -/

/-- Contexts with resident blocks on a compute die. -/
def State.dieCtxs (s : State) (die : Nat) : List Nat :=
  (s.cores.flatMap (fun k => if s.sys.dieOfCore k.1 = die then k.2.slots.map (fun x => x.2.ctx) else [])).dedup

/-- A die fault with its detail: 0 logic, 1 rail. The cores of the die run no longer. -/
def State.dieFault (s : State) (die detail : Nat) : State :=
  let cs := s.dieCtxs die
  let s := s.postRas { kind := 3, sev := 2, detail := detail, ukind := 2, unit := die }
  let live := (List.range s.sys.liveCount).filter (fun c => s.sys.dieOfCore c == die)
  let s := live.foldl (fun s c => s.modCore c (fun k => { k with off := true })) s
  let s := (cs.filter (fun c => (s.ctx c).domain.isNone)).foldl State.errorEnds s
  (s.domainsOf cs).foldl (fun s d => s.abortDomain d none false) s

/-- DIE_FAULT. -/
def execDieFault (die : Nat) (s : State) : Host.Outcome State Fault Refusal := .next (if die < 32 then s.dieFault die 0 else s)

/-- RAIL_UNDERVOLT: the four compute dies of the base die fault. -/
def execRailUndervolt (base : Nat) (s : State) : Host.Outcome State Fault Refusal :=
  .next (if base < 8 then (List.range 4).foldl (fun s i => s.dieFault (4 * base + i) 1) s else s)

/-! ## ABORT, STOP, DONE (R486) -/

/-- The overflow that ends the contexts: the first that is known (R197). -/
def Domain.overflows (d : Domain) (x : Option Nat) : Option Nat := match d.overflow with | some k => some k | none => x

/-- ROLLBACK_ABORT: the coordinator stops the domain and sends STOP with the leg to undo, and with the overflow that a member has met. -/
def execRollbackAbort (r : RollbackCall) (s : State) : Host.Outcome State Fault Refusal :=
  match s.domain? r.dom with
  | none => .next s
  | some d =>
    if !d.coordinates s.sys.pkg then .next s
    else
      let all := d.overflows r.overflow
      let inj := r.injected && (!d.stopped || d.injected)
      .next { (s.modDomain r.dom (fun x => { x with
          stopped := true, wanted := false, rolling := 0, doneBy := [], overflow := all, injected := inj })) with
        out := s.out ++ [FabMsg.stop r.dom (if d.stopped && d.rolling != 0 then d.rolling else d.doomed) all inj] }

/-- A packet in flight that a rollback discards, in custody on its way through this package too: one of the domain's leg. -/
def Flight.undone (f : Flight) (dom : Nat) (leg : Word) : Bool := f.p.rdom == some dom && f.p.leg == leg

/-- What a core holds of a domain goes: blocks, stores and absent entries. -/
def State.clearCore (s : State) (dom : Nat) (k : Core) : Core :=
  let mine := (k.slots.filter (fun x => s.inDomain dom x.2.ctx)).map (·.1)
  { k with
    slots := k.slots.filter (fun x => !mine.contains x.1)
    stores := k.stores.filter (fun e => !s.inDomain dom e.who.ctx)
    absent := k.absent.filter (fun a => !s.inDomain dom a.ctx)
    parts := k.parts.map (fun p => mine.foldl (fun p sl => p.letOut sl none) p) }

/-- Write an undo-log entry back. -/
def State.undo (s : State) (e : LogEnt) : State := { s with mem := Memory.writeN s.mem e.pa e.old }

/-- Records of a rolled-back leg that stand: what the host or the device decided, not what the leg computed (log 18). -/
def HostRec.stands : HostRec → Bool
  | .completion _ _ _ _ _ status => status != 1
  | .event kind _ _ _ => kind == 6 || kind == 8

/-- A halt that a rollback keeps: one that waits, or one whose members the last cut holds. -/
def State.keepsHalt (s : State) (d : Domain) (h : Halt) : Bool :=
  !s.inDomain d.num h.ctx || h.waiting
    || (h.complete && d.cut.any (fun t => match t.blk with | some b => b.ctx == h.ctx && b.halt.isSome | none => false))

/-- The sectors that the held stores of a domain cover. -/
def State.heldKeys (s : State) (dom : Nat) : List Nat :=
  (s.holds.filter (fun h => h.dom == dom)).flatMap (fun h => match h.what with
    | .inl e => (match e.place with | .glob t => sectorKeys t e.len | .loc .. => [])
    | .inr _ => [])

/-- A mark of bytes that a rollback takes back: in a sector of a list, or in the local memory of one of the domain's blocks. -/
def State.undoneMark (s : State) (dom : Nat) (keys : List Nat) (m : Mark) : Bool :=
  match m.place with
  | .glob t => (sectorKeys t m.len).any keys.contains
  | .loc .. => (s.domBlocks dom).any (fun x => m.inSlot x.1 x.2.1)

/-- Undo a leg on this package, its log's entries from the last to the first. No L1 keeps a sector that is written back or that a discarded
store covers (R192). The log keeps its entries until RESUME: an error before it restarts the rollback, which writes them back again (R486). -/
def State.undoLeg (s : State) (d : Domain) (leg : Word) : State :=
  let dom := d.num
  let es := (s.logs.filter (fun e => e.dom == dom)).reverse
  let secs := es.map (·.pa)
  let keys := secs.map (· / 64) ++ s.heldKeys dom
  let s' := (es.foldl State.undo s).dropKeys keys
  { s' with
    marks := s.marks.filter (fun m => !s.undoneMark dom keys m)
    cu := s.cu.filter (fun w => !secs.contains (w.pa / 64 * 64))
    holds := s.holds.filter (fun h => h.dom != dom)
    homeHeld := s.homeHeld.filter (fun h => h.dom != dom)
    flights := s.flights.filter (fun f => !f.undone dom leg)
    windows := s.windows.filter (fun w => w.dom != some dom) ++ d.cutWindows
    ordered := s.ordered.filter (fun w => !secs.contains (w.pa / 64 * 64))
      ++ d.cutOrdered.filter (fun w => secs.contains (w.pa / 64 * 64))
    cores := s.cores.map (fun x => (x.1, s.clearCore dom x.2))
    saved := s.saved.filter (fun x => !s.inDomain dom x.ctx)
    halts := s.halts.filter (s.keepsHalt d)
    ctxs := s.ctxs.map (fun x => if x.2.domain == some dom then
      (x.1, { x.2 with sent := [], waiting := x.2.waiting.filter HostRec.stands }) else x) }

/-- The sectors that an error has struck and whose values the log of a leg does not hold: they are lost (R487). -/
def State.lostSectors (s : State) (d : Domain) (leg : Word) : List Nat :=
  d.struck.filter (fun pa => !s.logs.any (fun e => e.pa == pa && e.leg == leg && e.dom == d.num))

/-- Sectors of a domain are lost: they are poisoned. -/
def State.loseSectors (s : State) (d : Domain) (pas : List Nat) : State :=
  (pas.foldl (fun s pa => (s.poisonAt pa).postRas { siteRas (.hbm pa) 7 with sev := 2, dom := some d.num, leg := d.leg }) s).modDomain
    d.num (fun x => { x with struck := [] })

/-- ROLLBACK_STOP: a member first applies a cut that it had not applied, then undoes the leg and reports DONE. Where that cut has dropped the
entry that a struck sector needs, the sector is lost, and the coordinator is told of that instead, so that the rollback begins again (R486). -/
def execRollbackStop (r : RollbackCall) (leg : BitVec 32) (s : State) : Host.Outcome State Fault Refusal :=
  match s.domain? r.dom with
  | none => .next s
  | some d =>
    if leg != d.leg && leg != nextLeg d.leg then .next s
    else
      let s := if leg = d.leg then s else s.applyCut d
      match s.domain? r.dom with
      | none => .next s
      | some d =>
        let s := s.modDomain r.dom (fun x => { x with
          stopped := true, rolling := leg, phase := .idle, wanted := false, told := false, applying := false, acked := [],
          overflow := x.overflows r.overflow, injected := r.injected && (!x.stopped || x.injected) })
        let lost := s.lostSectors d leg
        let s := (s.undoLeg d leg).everyStuck
        .next (if lost.isEmpty then { s with out := s.out ++ [FabMsg.done r.dom] }
          else if (d.overflows r.overflow).isSome then { (s.loseSectors d lost) with out := s.out ++ [FabMsg.done r.dom] }
          else (s.loseSectors d lost).abortDomain r.dom (some 2) false)

/-- ROLLBACK_DONE: with DONE of every member the coordinator sends RESUME. -/
def execRollbackDone (dom : Nat) (member : BitVec 12) (s : State) : Host.Outcome State Fault Refusal :=
  match s.domain? dom with
  | none => .next s
  | some d =>
    if !d.stopped || !d.coordinates s.sys.pkg || d.rolling == 0 || !d.alive.contains member || d.doneBy.contains member then .next s
    else
      let done := d.doneBy ++ [member]
      let s := s.modDomain dom (fun x => { x with doneBy := done })
      .next (if d.allIn done then { s with out := s.out ++ [FabMsg.resume dom (nextLeg d.rolling)] } else s)

/-! ## RESUME (R193 to R195, R486) -/

/-- The header of a waymark area's group record, and the record's first address. -/
def State.wayGroupHead (s : State) (b : Block) (g : Nat) : Nat × Nat :=
  let a := b.wayArea + 64 + g * b.nodeRec.kern.wmgrp
  (leNat ((s.vRead b.ctx a 64).getD []), a)

/-- S registers read back from consecutive words. -/
def State.wayRegs (s : State) (c a : Nat) (m : KMap Word) (rs : List Nat) : KMap Word :=
  rs.zipIdx.foldl (fun m x => KMap.put m x.1 (wd (leNat ((s.vRead c (a + 4 * x.2) 4).getD [])))) m

/-- V registers read back from a record. -/
def State.wayVregs (s : State) (c a vg : Nat) : KMap Word :=
  let bs := (s.vRead c a (1024 * vg)).getD []
  (List.range (256 * vg)).foldl (fun m i => KMap.put m i (wd (leNat ((bs.drop (4 * i)).take 4)))) []

/-- A group as its record has it (R190, R194). -/
def State.wayGroup (s : State) (core : Nat) (b : Block) (g part since : Nat) (leg : Word) : Group :=
  let (h, a) := s.wayGroupHead b g
  let live : LaneMask := BitVec.ofNat 32 (field h 160 32)
  let mask := dw (field h 192 64)
  let allot := field h 105 6
  let x := startGroup b g part since leg (s.segEntry core b.ctx b.nodeRec.kern (field h 116 12))
  { x with
    allot := allot
    mode := wd (field h 128 32)
    threads := lanes.map (fun l => { present := (presentMask b.nodeRec.threads g).getLsbD l, exited := !live.getLsbD l
                                     preds := BitVec.ofNat 7 (field h (256 + 8 * l) 7) })
    s := s.wayRegs b.ctx (a + 64) x.s (maskRegs mask)
    v := s.wayVregs b.ctx (a + wayHead mask) (field h 99 6)
    igs := [startIg b g live leg allot (since + g) (since + g) (s.segEntry core b.ctx b.nodeRec.kern (field h 116 12))]
    place := if live == 0 then .released else .resident }

/-- The allotments of the live groups of a waymark area. -/
def State.wayAllots (s : State) (b : Block) : List Nat :=
  (List.range b.groups.length).filterMap (fun g =>
    let h := (s.wayGroupHead b g).1
    if field h 160 32 = 0 then none else some (field h 105 6))

/-- The partitions of a block's groups, those of the live ones as dealt. -/
def State.wayParts (s : State) (b : Block) : List Nat → List Nat → List (Nat × Nat)
  | [], _ => []
  | g :: t, ps =>
    if field (s.wayGroupHead b g).1 160 32 = 0 then (g, 0) :: State.wayParts s b t ps
    else (g, listGet 0 ps 0) :: State.wayParts s b t (ps.drop 1)

/-- A block as its waymark area has it (R189, R194). The area is read as the block's context reads memory, R included; what it cannot read
comes back as zeros (DESIGN CHOICE, log 90). -/
def State.wayBlock (s : State) (core : Nat) (b : Block) (gen : Word) (parts : List Nat) (since : Nat) (leg : Word) : Block :=
  let h := leNat ((s.vRead b.ctx b.wayArea 64).getD [])
  let llen := field h 192 32
  let alen := field h 256 32
  let a := b.wayArea + 64 + b.groups.length * b.nodeRec.kern.wmgrp
  let x : Block := ({ ctx := b.ctx, itin := b.itin, task := b.task, nodeRec := b.nodeRec, bx := b.bx, by_ := b.by_, bz := b.bz
                      prio := b.submitPrio, submitPrio := b.submitPrio, gen := gen, names := b.names, born := b.born, since := s.time
                      groups := [] } : Block).startSerai
  let bs := (s.vRead b.ctx (a + llen) (4 * alen)).getD []
  { x with
    groups := (s.wayParts b (List.range b.groups.length) parts).map (fun p => s.wayGroup core b p.1 p.2 since leg)
    mem := Memory.writeN x.mem (field h 160 32) ((s.vRead b.ctx a llen).getD [])
    acc := (List.range alen).foldl (fun m i =>
      KMap.set 0 m (field h 224 32 + i) (wd (leNat ((bs.drop (4 * i)).take 4)))) ([] : KMap Word) }

/-- The rollback notice of a resumed group's threads (R195). -/
def Group.notify (g : Group) : Group :=
  { g with igs := g.igs.map (fun ig => if ig.trap.isNone && ig.mask &&& g.liveMask != 0 then
      { ig with trap := some { cause := 17 } } else ig) }

/-- Itinerary `id` holds its blocks no longer. -/
def State.itinFree (s : State) (id : Nat) : Bool := s.itins.any (fun t => t.id == id && t.released)

/-- A resumed block, with notices where its context enables them; a RELEASE since the cut stands. -/
def Block.resumed (b : Block) (note free : Bool) : Block :=
  { b with leaving := false, sealed := 0, held := b.held && !free, groups := if note then b.groups.map Group.notify else b.groups }

/-- Where a resumed block goes: its former slot where that is free, else a free slot of a core that accepts it. -/
def State.resumeAt (s : State) (t : CutTask) (b : Block) (allots cores : List Nat) : Option (Nat × Nat × List Nat) :=
  let k := b.nodeRec.kern
  let own := if (s.block t.core t.slot).isNone then (s.accept t.core k allots).map (fun ps => (t.core, t.slot, ps)) else none
  if s.coreLive t.core then own
  else
    cores.findSome? (fun c => match s.accept c k allots, s.freeSlot c with
      | some ps, some sl => some (c, sl, ps)
      | _, _ => none)

/-- Put a resumed block into a slot: the former one with its generation and the names that led to it, another with a new one, which the
domain's manifest entries follow on this package and, by word, on the others (R193). -/
def State.putResumed (s : State) (t : CutTask) (b : Block) (core slot : Nat) (make : State → Word → Nat → Block) : State :=
  let s := s.setFused core b.nodeRec.kern.fused
  if core = t.core then
    let n := s.nextId
    let s := { s with nextId := s.nextId + 1 + b.groups.length }
    (s.setBlock core slot (make s b.gen n)).modCore core (fun k => { k with absent := k.absent ++ b.aliases core 0 (.moved slot) })
  else
    let s := s.bindSlot core slot
    let n := s.nextId
    let s := { s with nextId := s.nextId + 1 + b.groups.length }
    let gen := s.slotGen core slot
    let s := s.setBlock core slot { make s gen n with names := b.allNames t.core t.slot }
    let dom := ((s.ctx b.ctx).domain).getD 0
    let ns := b.allNames t.core t.slot
    let s := (s.domCtxs dom).foldl (fun s c => s.rewriteEntries c s.sys.pkg ns core slot gen) s
    let s : State := { s with out := s.out ++ [.moved dom (ns.map (fun n => ⟨s.sys.pkg, n.1, n.2.1, n.2.2, core, slot, gen⟩))] }
    s.postEvent b.ctx 5 core b.task.lin

/-- A block-task that was parked at WAYMARKs resumes; none while no core can take it. -/
def State.resumeWay (s : State) (t : CutTask) (b : Block) (cores : List Nat) (leg : Word) : Option State :=
  match s.resumeAt t b (s.wayAllots b) cores with
  | none => none
  | some (core, slot, ps) =>
    let note := (s.ctx b.ctx).rbnote
    some (s.putResumed t b core slot (fun s gen n => (s.wayBlock core b gen ps n leg).resumed note true))

/-- A slot was some block-task's at the cut. -/
def CutTask.had (u : CutTask) (core slot : Nat) : Bool :=
  u.core == core && u.slot == slot && (match u.blk with | some b => b.sealed != 0 | none => false)

/-- A block-task saved in an image: back in its slot where it was resident, or absent until that slot is free; one that was absent at
the cut is so again, and returns to its own slot unless that was another's at the cut (R193, log 19). One whose core is not live waits for
another that takes it, as the others do. -/
def State.resumeImage (s : State) (cut : List CutTask) (t : CutTask) (b : Block) (a : Nat) (cores : List Nat) : Option State :=
  let allots := (b.groups.filter (fun g => g.liveMask != 0)).map (·.allot)
  let gs := b.groups.map (·.idx)
  let x : Saved := { core := t.core, slot := t.slot, gen := b.gen, ctx := b.ctx, image := a, whole := true, groups := gs
                     blk := b.resumed (s.ctx b.ctx).rbnote (s.itinFree b.itin), at_ := s.time
                     fixed := b.sealed == 2 || !cut.any (fun u => u.had t.core t.slot) }
  let halted := s.haltedBlock t.core t.slot b
  match (if halted || (b.sealed != 2 && s.coreLive t.core) then none else s.resumeAt t b allots cores) with
  | some (core, slot, ps) =>
    some (s.putResumed t b core slot (fun s gen n =>
      let y := s.imageBlock x
      { y with gen := gen, groups := returnGroups n y.groups ps }))
  | none =>
    let e : Absent := { slot := t.slot, gen := b.gen, ctx := b.ctx, image := a, state := .absent }
    if !s.coreLive t.core && !halted then none
    else some { s.modCore t.core (fun k => { k with absent := k.absent ++ [e] ++ b.aliases t.core a .absent }) with saved := s.saved ++ [x] }

/-- Resume the block-tasks of a cut, those of WAYMARKs first. -/
def State.resumeTasks (s : State) (cut : List CutTask) (leg : Word) : List CutTask → Option State
  | [] => some s
  | t :: rest =>
    let cores := ((s.itins.find? (fun x => x.id == t.itin)).map (·.cores)).getD []
    match t.kind, t.blk with
    | .waymark, some b =>
      match s.resumeWay t b cores leg with
      | some s => State.resumeTasks s cut leg rest
      | none => none
    | .image a, some b =>
      match s.resumeImage cut t b a cores with
      | some s => State.resumeTasks s cut leg rest
      | none => none
    | _, _ => State.resumeTasks s cut leg rest

/-- The block-tasks of an itinerary that a cut holds in blocks. -/
def Domain.placedAt (d : Domain) (id : Nat) : List Task :=
  (d.cut.filter (fun t => t.itin == id && t.kind != .retired)).map (·.task)

/-- The itineraries of a domain after a rollback: those of the cut as it left them, and those that the host submitted since,
from the beginning. -/
def State.resumeItins (s : State) (d : Domain) : List Itin :=
  s.itins.filterMap (fun t =>
    if !s.inDomain d.num t.ctx then some t
    else
      match d.cutItins.find? (fun x => x.id == t.id) with
      | some x => some { x with placed := d.placedAt t.id, released := t.released }
      | none => if t.launched then none
                else some { t with retired := [], placed := [], stolen := [], heldPosted := false })

/-- What follows a resumption: the events and the record of the rollback. -/
def State.tellRollback (s : State) (d : Domain) (leg : Word) : State :=
  let s := (s.domCtxs d.num).foldl (fun s c => s.postEvent c 7 leg.toNat 0) s
  s.postRas { kind := 4, sev := 1, detail := if d.injected then 1 else 0, dom := some d.num, leg := leg }

/-- The domain's books at RESUME. -/
def Domain.resumeAs (d : Domain) (leg : Word) (now : Nat) : Domain :=
  { d with leg := leg, stopped := false, rolling := 0, doneBy := [], ready := [], overflow := none, injected := false, struck := [], since := now
           phase := .idle, wanted := false, applying := false }

/-- The manifest entries of a domain follow the blocks that other members have placed elsewhere (R193). -/
def State.followMoved (s : State) (dom : Nat) (xs : List MovedBlock) : State :=
  (xs.filter (fun x => x.pkg != s.sys.pkg)).foldl (fun s x =>
    (s.domCtxs dom).foldl (fun s c => s.rewriteEntries c x.pkg [(x.core, x.slot, x.gen)] x.toCore x.toSlot x.toGen) s) s

/-- ROLLBACK_RESUME: the leg advances and the domain's logs are empty; after an overflow the contexts end, otherwise the manifest entries
follow the blocks that have moved and the block-tasks resume. -/
def execRollbackResume (x : ResumeReport) (s : State) : Host.Outcome State Fault Refusal :=
  let dom := x.dom
  match s.domain? dom with
  | none => .next s
  | some d =>
    if !d.stopped || d.rolling == 0 then .next s
    else
      let leg := nextLeg d.rolling
      let s' := { s.modDomain dom (fun x => x.resumeAs leg s.time) with logs := s.logs.filter (fun e => e.dom != dom) }
      match d.overflow with
      | some k =>
        .next ((s'.postRas { kind := 5, sev := 2, detail := k, dom := some dom, leg := leg }).endDomain dom 16)
      | none =>
        let s' := { s' with itins := s'.resumeItins d }.followMoved dom x.moved
        match s'.resumeTasks d.cut leg (d.cut.filter (fun t => t.kind == .waymark) ++ d.cut.filter (fun t => t.kind != .waymark)) with
        | some s'' => .next (s''.tellRollback d leg)
        | none => .next s

/-! ## INJECT (R488) -/

/-- Arm an injection: kind, domain, target, delay. -/
def State.arm (s : State) (kind : Nat) (ok : Bool) : Host.Outcome State Fault Refusal :=
  s.command 22 fun s =>
    if s.arg 0 != kind then s
    else if !ok then s.done 2
    else
      let x : Inject := { kind := kind, dom := s.arg 1, target := s.arg 2, fireAt := s.time + usec (s.arg 3) }
      { s with injects := s.injects ++ [x] }.done 0

/-- A domain with contexts. -/
def State.peopled (s : State) (dom : Nat) : Bool := (s.domain? dom).isSome && !(s.domCtxs dom).isEmpty

/-- An address in the granules of a domain's contexts. -/
def State.domGranule (s : State) (dom pa : Nat) : Bool := (s.domCtxs dom).any (fun c => s.homeAdmits c pa)

/-- INJECT kind 1; a kind outside 1 to 5 is a bad argument. -/
def execInjectUe (s : State) : Host.Outcome State Fault Refusal :=
  if s.arg 0 = 0 || 5 < s.arg 0 then s.command 22 (fun s => s.done 2)
  else s.arm 1 (s.peopled (s.arg 1) && s.domGranule (s.arg 1) (s.arg 2))

/-- INJECT kind 2. -/
def execInjectDieFault (s : State) : Host.Outcome State Fault Refusal := s.arm 2 (s.peopled (s.arg 1) && decide (s.arg 2 < 32))

/-- INJECT kind 3. -/
def execInjectRollback (s : State) : Host.Outcome State Fault Refusal := s.arm 3 (s.peopled (s.arg 1))

/-- INJECT kind 4. -/
def execInjectPortRetire (s : State) : Host.Outcome State Fault Refusal := s.arm 4 (decide (s.arg 2 < 16))

/-- INJECT kind 5: on a device whose DEBUG is 1. -/
def execInjectKeyStarve (s : State) : Host.Outcome State Fault Refusal := s.arm 5 (s.sys.debug && decide (s.arg 2 < 16))

/-- Key starvation: the next flit would use the last counter and no next key is installed. -/
def State.starve (s : State) (port : Nat) : State :=
  let y := s.port port
  s.setPort port { y with tx := { y.tx with ctr := 2 ^ 48 - 2, next := none } }

/-- The domain's rollback is injected: its cause leaves data and units intact. -/
def State.injectRollback (s : State) (dom : Nat) (r : Option Ras) : State :=
  match s.domain? dom with
  | none => s
  | some d =>
    let s := match r with | some r => s.postRas { r with dom := some dom, leg := d.leg } | none => s
    s.abortDomain dom none true

/-- An injection acts. -/
def State.fire (s : State) (x : Inject) : State :=
  match x.kind with
  | 1 => s.injectRollback x.dom (some { siteRas (.hbm x.target) 2 with sev := 1 })
  | 2 =>
    if (s.dieCtxs x.target).any (s.inDomain x.dom) then
      s.injectRollback x.dom (some { kind := 3, sev := 2, detail := 0, ukind := 2, unit := x.target })
    else s
  | 3 => s.injectRollback x.dom none
  | 4 => s.retirePort x.target 3
  | _ => s.starve x.target

/-- INJECT_FIRE. -/
def execInjectFire (k : Nat) (s : State) : Host.Outcome State Fault Refusal :=
  match s.injects[k]? with
  | none => .next s
  | some x => .next (if x.fireAt ≤ s.time then { s with injects := listDrop s.injects k }.fire x else s)

end Sys2Proof.Machine
end

