-- ==== Sys2Proof/Machine/Boot.lean ====
section
/-! DEFINITION. Power, boot, images and attestation (R1, R418 to R426, R428, R430, R431, R489 to R491, R496, R498). -/

namespace Sys2Proof.Machine

/-! ## Boot (R419 to R421) -/

/-- A slot of the SPI NOR is valid. -/
def Sys.slotValid (y : Sys) (x : ImgSlot) : Bool := x.keyOk && x.sigOk && decide (y.fuseSvn ≤ x.svn)

/-- The slot that boots: true for B. The higher version, and A when the two are equal. -/
def Sys.bootSlot (y : Sys) : Option Bool :=
  match y.slotValid y.imgA, y.slotValid y.imgB with
  | true, true => some (decide (y.imgA.svn < y.imgB.svn))
  | true, false => some false
  | false, true => some true
  | false, false => none

/-- What outlasts a power cycle: fuses, the SPI NOR, the boot count. -/
def Sys.lasting (y : Sys) : Sys :=
  { grade := y.grade, stackGib := y.stackGib, fusedOff := y.fusedOff, fuseSvn := y.fuseSvn, debug := y.debug
    bootCount := y.bootCount, stepping := y.stepping, imgA := y.imgA, imgB := y.imgB, retireList := y.retireList }

/-- A count that saturates. -/
def satWord (x : Word) : Word := if x = 0xFFFFFFFF then x else x + 1

/-- The machine at the start of boot: registers at their reset values, nothing on the chips. What stays outside stays: host
memory, what has been sent, and the agenda. -/
def State.restart (s : State) : State :=
  let y := s.sys.lasting
  { sys := { y with bootCount := satWord y.bootCount, pwrlim := BitVec.ofNat 16 y.gradeLimit }
    mem := s.mem, hmem := s.hmem, mmioOut := s.mmioOut, out := s.out, agenda := s.agenda, freeCtr := s.freeCtr, nextId := s.nextId }

/-- POWER_UP. -/
def execPowerUp (s : State) : Host.Outcome State Fault Refusal := .next (if s.sys.powered then s else s.restart)

/-- FUNDAMENTAL_RESET. -/
def execFundamentalReset (s : State) : Host.Outcome State Fault Refusal := .next (if s.sys.powered then s.restart else s)

/-- An image as a slot holds it: its version, and whether key and signature are good (R420). -/
def slotOfImage (bs : List Byte) : Option ImgSlot :=
  (Config.imageParts bs).map (fun p =>
    { image := bs, svn := p.1, keyOk := Config.sha512 p.2.1 == Config.fusedKeyDigest
      sigOk := Config.verify p.2.1 p.2.2.1 (Config.sha512 p.2.2.2) })

/-- What FWSTAGE is asked to write: an image that verifies, or the RESULT that refuses it (R498). -/
def State.staged (s : State) : Except Nat ImgSlot :=
  let n := s.arg 1
  if n = 0 || 2 ^ 25 < n then .error 2
  else
    match slotOfImage (s.firmRead (s.arg 0) n) with
    | none => .error 2
    | some x => if !x.keyOk || !x.sigOk then .error 2 else if x.svn < s.sys.fuseSvn then .error 3 else .ok x

/-- FWSTAGE is writing the slot that does not run. -/
def State.staging (s : State) : Bool := s.running 24 && (match s.staged with | .ok _ => true | .error _ => false)

/-- POWER_LOSS: what is not lasting is lost; a slot that FWSTAGE was writing is invalid (R498). -/
def execPowerLoss (s : State) : Host.Outcome State Fault Refusal :=
  if !s.sys.powered then .next s
  else
    let y := s.sys
    let z := y.lasting
    let z := { z with
      powered := false
      imgA := if s.staging && y.slotB then ({} : ImgSlot) else z.imgA
      imgB := if s.staging && !y.slotB then ({} : ImgSlot) else z.imgB }
    .next { sys := z, hmem := s.hmem, mmioOut := s.mmioOut, out := s.out, agenda := s.agenda, freeCtr := s.freeCtr, nextId := s.nextId }

/-- A controller fails, with a cause (R421). -/
def State.bootFails (s : State) (die cause : Nat) : State :=
  { s with sys := { s.sys with
      ctrls := listSet s.sys.ctrls die .failed, fdie := BitVec.ofNat 4 die, failCause := BitVec.ofNat 8 cause } }

/-- A controller goes on to another state; from INIT on it answers on I3C (R421). -/
def Sys.goesTo (y : Sys) (die : BitVec 3) (x : BootState) : Sys :=
  { y with ctrls := listSet y.ctrls die.toNat x, i3cUp := if x == .init && !y.i3cUp.contains die then y.i3cUp ++ [die] else y.i3cUp }

/-- The state of a controller that boots; a failure holds every unit in reset. -/
def State.ctrl (s : State) (die : BitVec 3) : Option BootState :=
  if s.sys.powered && s.sys.boot != .failed then s.sys.ctrls[die.toNat]? else none

/-- Base die 0 selects the image and sends it to the other controllers (R420); with no valid slot it fails. -/
def State.selectImage (s : State) : State :=
  match s.sys.bootSlot with
  | none => s.bootFails 0 1
  | some b => { s with sys := { s.sys with slotB := b, fwsvn := (if b then s.sys.imgB else s.sys.imgA).svn }.goesTo 0 .init }

/-- The image has been sent: the controller of base die 0 has left VERIFY. -/
def Sys.imageSent (y : Sys) : Bool := y.ctrls.head? != some .rom && y.ctrls.head? != some .verify

/-- BOOT_VERIFY: a controller leaves ROM, and in VERIFY takes the image: base die 0 selects it, and every other verifies the one sent to
it. The value says that its digest is that of base die 0. -/
def execBootVerify (x : AtDie Bool) (s : State) : Host.Outcome State Fault Refusal :=
  match s.ctrl x.die with
  | some .rom => .next { s with sys := s.sys.goesTo x.die .verify }
  | some .verify =>
    .next (if x.die = 0 then s.selectImage
      else if !s.sys.imageSent then s
      else if x.val then { s with sys := s.sys.goesTo x.die .init }
      else s.bootFails x.die.toNat 2)
  | _ => .next s

/-- BOOT_INIT: a base die's memories are cleared. -/
def execBootInit (x : AtDie InitResult) (s : State) : Host.Outcome State Fault Refusal :=
  match s.ctrl x.die, x.val with
  | some .init, .ok =>
    .next { s with mem := s.mem.filter (fun m => homeOf m.1 / 4 != x.die.toNat), sys := s.sys.goesTo x.die .enum }
  | some .init, .hbmFailed => .next (s.bootFails x.die.toNat 3)
  | some .init, .linkFailed => .next (s.bootFails x.die.toNat 4)
  | _, _ => .next s

/-- A base die has a compute die with fewer live cores than the grade requires. -/
def Sys.isShort (y : Sys) (die : Nat) : Bool := (List.range 4).any (fun i => decide (y.dieCores (4 * die + i) < y.gradeCores))

/-- BOOT_ENUM: a base die's cores are counted, and field retirement takes effect (R426). -/
def execBootEnum (x : AtDie Bool) (s : State) : Host.Outcome State Fault Refusal :=
  match s.ctrl x.die with
  | some .enum =>
    .next (if x.val then s.bootFails x.die.toNat 6
      else if s.sys.isShort x.die.toNat then s.bootFails x.die.toNat 5
      else { s with sys := { s.sys with retired := s.sys.retireList }.goesTo x.die .ready })
  | _ => .next s

/-- The code of a boot state (R419). -/
def BootState.code : BootState → Nat
  | .rom => 1
  | .verify => 2
  | .init => 3
  | .enum => 4
  | .ready => 5
  | .failed => 15

/-- SYSSTAT as it reads (R418). -/
def Sys.statWord (y : Sys) : Nat :=
  at' 32 32 y.bootCount.toNat + at' 28 4 y.boot.code + at' 24 4 y.fdie.toNat + at' 16 8 y.failCause.toNat + (if y.slotB then 32768 else 0)
    + at' 8 7 y.fwsvn + (if y.debug then 128 else 0) + at' 0 7 y.fuseSvn

/-- DEVID as it reads (R418). -/
def Sys.devWord (y : Sys) : Nat := at' 24 8 7 + at' 16 8 y.stepping.toNat + at' 8 8 y.grade + at' 0 8 y.stackGib

/-! ## Power (R489, R490) -/

/-- aclk after a measurement: 25 MHz lower above the limit, 25 MHz higher below 98% of it, within 525 and 1,050 MHz. -/
def aclkAfter (mhz power limit : Nat) : Nat :=
  if limit < power then max 525 (mhz - 25)
  else if 100 * power < 98 * limit then min 1050 (mhz + 25)
  else mhz

/-- POWER_SAMPLE. -/
def execPowerSample (power : BitVec 16) (s : State) : Host.Outcome State Fault Refusal :=
  if !s.sys.powered then .next s
  else
    let old := s.sys.aclkMhz.toNat
    let new := aclkAfter old power.toNat s.sys.pwrlim.toNat
    let s := { s with sys := { s.sys with power := power, aclkMhz := BitVec.ofNat 16 new } }
    .next (if new = old then s else s.postRas { kind := 12, sev := 0, detail := new / 25 })

/-- A write of LIMIT: above the grade's limit or below half of it, it is discarded. -/
def State.setLimit (s : State) (v : Nat) : State :=
  if s.sys.gradeLimit < v ∨ 2 * v < s.sys.gradeLimit then s else { s with sys := { s.sys with pwrlim := BitVec.ofNat 16 v } }

/-- PWRLIM_WRITE. -/
def execPwrlimWrite (v : Dword) (s : State) : Host.Outcome State Fault Refusal :=
  .next (if s.sys.boot == .ready then s.setLimit (field v.toNat 0 16) else s)

/-- I3C is answered by every controller that has reached INIT (R421), one that has failed since among them (DESIGN CHOICE, log 97). -/
def Sys.i3cAnswers (y : Sys) : Bool := y.powered && !y.i3cUp.isEmpty

/-- I3C_PWRLIM_WRITE. -/
def execI3cPwrlimWrite (v : BitVec 16) (s : State) : Host.Outcome State Fault Refusal :=
  .next (if s.sys.i3cAnswers then s.setLimit v.toNat else s)

/-- I3C_RAS_READ: the last 16 records. -/
def execI3cRasRead (s : State) : Host.Outcome State Fault Refusal :=
  .next (if s.sys.i3cAnswers then { s with sys := { s.sys with i3c := s.sys.ras.flatMap (fun r => leBytes 32 r.toNat) } } else s)

/-! ## Attestation (R428, R430, R431) -/

/-- ATTEST. -/
def execAttest (s : State) : Host.Outcome State Fault Refusal :=
  s.command 1 fun s =>
    let nonce := s.sys.latched.flatMap (fun x => leBytes 8 x.toNat)
    { s with sys := { s.sys with report := s.sys.attestation nonce } }.done 0

/-- I3C_ATTEST: served from READY onwards, queued behind a mailbox command that runs. -/
def execI3cAttest (nonce : List Byte) (s : State) : Host.Outcome State Fault Refusal :=
  let y := { s.sys with attestWait := s.sys.attestWait ++ [nonce] }
  .next (if s.sys.boot == .ready then { s with sys := if y.busy then y else y.serveAttests } else s)

end Sys2Proof.Machine
end

