-- ==== Sys2Proof/Machine/Cross.lean ====
section
/-! DEFINITION. Cross-lane instructions: majors 0x09 and 0x0A (R279 to R285). The participants are the active lanes
of the issue group, which belong to one group. -/

namespace Sys2Proof.Machine

/-- The lanes of l's subgroup of n that a mask holds. -/
def subgroup (m : LaneMask) (n l : Nat) : List Nat := (lanesOf m).filter (fun j => j / n == l / n)

/-- The source lane of a shuffle (R281). -/
def shflSource (mode : ShMode) (n l b : Nat) : Option Nat :=
  let base := l / n * n
  match mode with
  | .idx => some (base + b % n)
  | .up => if l % n < b then none else some (l - b)
  | .down => if n ≤ l % n + b then none else some (l + b)
  | .xor => some (l ^^^ (b % n))

/-- A value as its SHFL type moves it (R281). -/
def shflValue (ty : Ty) (x : Dword) : Dword :=
  match ty with
  | .b8 => dw (x.toNat % 2 ^ 8)
  | .b16 => dw (x.toNat % 2 ^ 16)
  | _ => x

/-- SHFL with subgroups of n lanes. -/
def State.shuffle (s : State) (o : ShflOp) (n : Nat) : Host.Outcome State Fault Refusal :=
  s.vector o.h (vr o.ty o.a ++ opReads false o.b) (vd o.d (wide o.ty)) fun w m =>
    writeLanes m o.wb o.d (wide o.ty) (fun l =>
      let j := match shflSource o.mode n l (w.count l o.b) with
        | some j => if m.getLsbD j then j else l
        | none => l
      shflValue o.ty (w.src j (wide o.ty) o.a))

/-- SHFL. -/
def execShfl (o : ShflOp) (s : State) : Host.Outcome State Fault Refusal := s.shuffle o (2 ^ o.sz.toNat)

/-- SHFL16. -/
def execShfl16 (o : ShflOp) (s : State) : Host.Outcome State Fault Refusal := s.shuffle o 16

/-- A vote over a list of predicate values (R282). -/
def voteOf (op : VoteOp) (xs : List Bool) : Bool :=
  match op with
  | .all => xs.all id
  | .any => xs.any id
  | .uni => xs.all id || !xs.any id

/-- VOTE with subgroups of n lanes. -/
def State.vote (s : State) (o : VoteArgs) (n : Nat) : Host.Outcome State Fault Refusal :=
  s.vector o.h [] [] fun w m =>
    writePreds m o.p (fun l => voteOf o.op ((subgroup m n l).map (fun j => (w.g.thread j).psrc o.a)))

/-- VOTE. -/
def execVote (o : VoteArgs) (s : State) : Host.Outcome State Fault Refusal := s.vote o (2 ^ o.sz.toNat)

/-- VOTE16. -/
def execVote16 (o : VoteArgs) (s : State) : Host.Outcome State Fault Refusal := s.vote o 16

/-- The mask of the lanes of l's subgroup that hold a predicate, counted from `lo`. -/
def Who.ballot (w : Who) (m : LaneMask) (a : PSrc) (n l lo : Nat) : Nat :=
  (subgroup m n l).foldl (fun x j => if (w.g.thread j).psrc a then x + 2 ^ (j - lo) else x) 0

/-- BALLOT (R282). -/
def execBallot (o : BallotOp) (s : State) : Host.Outcome State Fault Refusal :=
  s.vector o.h [] (vd o.d false) fun w m =>
    writeLanes m o.wb o.d false (fun l => dw (w.ballot m o.a (2 ^ o.sz.toNat) l 0))

/-- BALLOT16 (R285): bit j stands for lane h + j of the reader's half. -/
def execBallot16 (o : BallotOp) (s : State) : Host.Outcome State Fault Refusal :=
  s.vector o.h [] (vd o.d false) fun w m =>
    writeLanes m o.wb o.d false (fun l => dw (w.ballot m o.a 16 l (l / 16 * 16)))

/-- REDUX (R283). -/
def execRedux (o : ReduxOp) (s : State) : Host.Outcome State Fault Refusal :=
  s.vector o.h (vr32 o.a) (vd o.d false) fun w m =>
    writeLanes m o.wb o.d false (fun l =>
      dw (combineWords o.op o.ty w.g.mode
        ((subgroup m (2 ^ o.sz.toNat) l).map (fun j => (w.src j false o.a).toNat))))

/-- SCAN (R283). -/
def execScan (o : ReduxOp) (s : State) : Host.Outcome State Fault Refusal :=
  s.vector o.h (vr32 o.a) (vd o.d false) fun w m =>
    writeLanes m o.wb o.d false (fun l =>
      dw (combineWords o.op o.ty w.g.mode
        (((subgroup m (2 ^ o.sz.toNat) l).filter (fun j => if o.exc then decide (j < l) else decide (j ≤ l))).map
          (fun j => (w.src j false o.a).toNat))))

/-- MATCH (R284). -/
def execMatchLanes (o : MatchOp) (s : State) : Host.Outcome State Fault Refusal :=
  s.vector o.h (vr o.ty o.a) (vd o.d false) fun w m =>
    writeLanes m o.wb o.d false (fun l =>
      dw ((subgroup m (2 ^ o.sz.toNat) l).foldl
        (fun x j => if w.src j (wide o.ty) o.a = w.src l (wide o.ty) o.a then x + 2 ^ j else x) 0))

/-- BCAST (R284): `k` none is .FIRST. -/
def execBcast (o : BcastOp) (s : State) : Host.Outcome State Fault Refusal :=
  s.vector o.h (vr o.ty o.a) (vd o.d (wide o.ty)) fun w m =>
    writeLanes m o.wb o.d (wide o.ty) (fun l =>
      let n := 2 ^ o.sz.toNat
      let j := match o.k with
        | some k => l / n * n + k.toNat % n
        | none => ((subgroup m n l).head?).getD l
      w.src (if m.getLsbD j then j else l) (wide o.ty) o.a)

end Sys2Proof.Machine
end

