-- ==== Sys2Proof/Machine/HostIf.lean ====
section
/-! DEFINITION. The host's windows: BAR2, and the registers of BAR0 (R152, R416 to R418, R429, R435, R436, R441, R451, R452,
R460, R461, R463, R466, R468, R469, R489). -/

namespace Sys2Proof.Machine

/-! ## BAR2 (R417) -/

/-- An address that BAR2 reaches: installed, and neither in the translation cache nor in an undo log. -/
def State.hostReaches (s : State) (pa : Nat) : Bool := s.sys.installed pa && !s.sys.inCache pa && !s.inLog pa

/-- The physical address of an offset of BAR2. -/
def State.win2 (s : State) (off : Nat) : Nat := s.sys.win2base.toNat * 2 ^ 36 + off

/-- The access lies in BAR2 of a device that is ready. -/
def State.bar2Open (s : State) (off n : Nat) : Bool := s.sys.boot == .ready && decide (off + n ≤ 2 ^ 36)

/-- What a host read returned. -/
def State.setReadback (s : State) (bs : List Byte) : State := { s with sys := { s.sys with readback := bs } }

/-- BAR2_READ: current values. -/
def execBar2Read (off n : Nat) (s : State) : Host.Outcome State Fault Refusal :=
  if !s.bar2Open off n || n = 0 then .next (s.setReadback (List.replicate n 0))
  else
    let a := s.win2 off
    let s := s.mergeLine a n
    .next (s.setReadback ((List.range n).map (fun i => if s.hostReaches (a + i) then s.mem.read (a + i) else 0)))

/-- A host write is an SC store at .SYS, performed as it arrives. -/
def State.hostStore (s : State) (a : Nat) (bs : List Byte) : State :=
  let ks := bs.zipIdx.map (fun x => if s.hostReaches (a + x.2) then (x.1, (0xFF : Byte)) else (0, 0))
  let (id, s) := s.fresh
  let e : Store := { id := id, who := hostAgent, dom := .sc, scope := .sys, rel := false, place := .glob (.dev a), work := .bytes ks
                     after := [], lanes := 1, irrev := false, leg := 0, pc := 0, node := 0, block := 0 }
  ((s.rawWrite (.dev a) ks).storedPast e (.dev a) false).settle [id]

/-- BAR2_WRITE. -/
def execBar2Write (off : Nat) (bytes : List Byte) (s : State) : Host.Outcome State Fault Refusal :=
  .next (if s.bar2Open off bytes.length && !bytes.isEmpty then s.hostStore (s.win2 off) bytes else s)

/-! ## Context registers (R441, R452, R463) -/

/-- A field of a written register. -/
def wf (v : Dword) (lo n : Nat) : BitVec n := BitVec.ofNat n (field v.toNat lo n)

/-- A written field that keeps its old value where the new one is not allowed. -/
def keep {n : Nat} (ok : Bool) (new old : BitVec n) : BitVec n := if ok then new else old

/-- A ring's LOG2N within 4 and a limit. -/
def ringLog (x hi : Nat) : Bool := decide (4 ≤ x ∧ x ≤ hi)

/-- AGEK allows a value. -/
def agekOk (x : Nat) : Bool := decide (x ≤ 20) || x == 31

/-- The registers of R452 and R441 without rows of their own. -/
def Ctx.writePlain (x : Ctx) (off : Nat) (v : Dword) : Ctx :=
  match off with
  | 0x018 => { x with ptroot := keep (x.state == .free) (wf v 19 33) x.ptroot }
  | 0x020 => { x with wdog := wf v 0 32 }
  | 0x028 => { x with telbase := wf v 5 59 }
  | 0x030 => { x with telHead := wf v 16 16, telLog2n := keep (field v.toNat 0 5 == 0 || ringLog (field v.toNat 0 5) 16) (wf v 0 5) x.telLog2n }
  | 0x038 => { x with manlen := keep (decide (field v.toNat 0 9 ≤ 256)) (wf v 0 9) x.manlen }
  | 0x040 => { x with invva := wf v 16 36 }
  | 0x1400 => { x with maxprio := wf v 32 8, steal := bitAt v.toNat 8, agek := keep (agekOk (field v.toNat 16 5)) (wf v 16 5) x.agek }
  | 0x1408 => { x with dset := wf v 7 57 }
  | 0x1410 => { x with savebase := wf v 16 48 }
  | 0x1418 => { x with saveunits := wf v 0 32 }
  | 0x1420 => { x with evbase := wf v 5 59 }
  | 0x1428 => { x with evHead := wf v 16 16, evLog2n := keep (ringLog (field v.toNat 0 5) 16) (wf v 0 5) x.evLog2n }
  | _ => x

/-- An ingress entry: reserved bits read zero. -/
def ingressWord (v : Dword) : Dword := dw (field v.toNat 0 18 + if bitAt v.toNat 63 then 2 ^ 63 else 0)

/-! ## Queues (R435, R436) -/

/-- QBASE and the fields of QCTL but EN, while EN is clear. -/
def Queue.writeFields (y : Queue) (v : Dword) : Queue :=
  if y.en then y
  else { y with host := bitAt v.toNat 7, log2n := keep (ringLog (field v.toNat 0 5) 16) (wf v 0 5) y.log2n }

/-- EN is set: HEAD takes TAIL's value and ERR clears. -/
def Queue.enable (y : Queue) : Queue := if y.en then y else { y with en := true, head := y.tail, err := false }

/-- A write of QCTL. -/
def Queue.writeCtl (y : Queue) (v : Dword) : Queue :=
  let z := y.writeFields v
  if bitAt v.toNat 8 then z.enable else { z with en := false }

/-- A register of a queue of a context, while the device is ready. -/
def State.onQueue (s : State) (ctx q : Nat) (f : State → State) : Host.Outcome State Fault Refusal :=
  .next (if s.sys.boot == .ready && decide (ctx < 64) && decide (q < 16) then f s else s)

/-- The doorbell: TAIL is written; more entries than the ring holds stop the queue. -/
def State.ring (s : State) (ctx q : Nat) (v : Word) : State :=
  let s := s.modQueue ctx q (fun y => { y with tail := v })
  let y := KMap.get {} (s.ctx ctx).queues q
  if y.en && decide (2 ^ y.log2n.toNat < (y.tail - y.head).toNat) then s.stopQueue ctx q else s

/-- QTAIL_WRITE. -/
def execQtailWrite (ctx q : Nat) (v : Word) (s : State) : Host.Outcome State Fault Refusal := s.onQueue ctx q (fun s => s.ring ctx q v)

/-- QUEUE_ENABLE. -/
def execQueueEnable (ctx q : Nat) (s : State) : Host.Outcome State Fault Refusal :=
  s.onQueue ctx q (fun s => s.modQueue ctx q Queue.enable)

/-- QUEUE_DISABLE: itineraries already taken run on. -/
def execQueueDisable (ctx q : Nat) (s : State) : Host.Outcome State Fault Refusal :=
  s.onQueue ctx q (fun s => s.modQueue ctx q (fun y => { y with en := false }))

/-! ## Invalidation (R460, R461) -/

/-- A register of a context, while the device is ready. -/
def State.onCtx (s : State) (ctx : Nat) (f : State → State) : Host.Outcome State Fault Refusal :=
  .next (if s.sys.boot == .ready && decide (ctx < 64) then f s else s)

/-- A write of INVCTL: one that finds BUSY, or a KIND that is not used, is discarded and sets ERR. INVVA is taken now. -/
def Ctx.startInv (x : Ctx) (size kind : BitVec 2) : Ctx :=
  if x.invBusy || decide (2 ≤ kind.toNat) then { x with invErr := true }
  else { x with invBusy := true, invSize := size, invKind := kind, invAt := x.invva }

/-- INVALIDATE_PAGE. -/
def execInvalidatePage (ctx : Nat) (size : BitVec 2) (s : State) : Host.Outcome State Fault Refusal :=
  s.onCtx ctx (fun s => s.modCtx ctx (fun x => x.startInv size 0))

/-- INVALIDATE_CONTEXT. -/
def execInvalidateContext (ctx : Nat) (size : BitVec 2) (s : State) : Host.Outcome State Fault Refusal :=
  s.onCtx ctx (fun s => s.modCtx ctx (fun x => x.startInv size 1))

/-- The range of virtual addresses that an invalidation names. -/
def Ctx.invRange (x : Ctx) : Nat × Nat :=
  if x.invKind = 1 then (0, 2 ^ 52)
  else
    let k := levelShift x.invSize.toNat
    (x.invAt.toNat * 65536 / 2 ^ k * 2 ^ k, 2 ^ k)

/-- A translation of a context overlaps a range. -/
def Xlate.meets (x : Xlate) (c : Nat) (r : Nat × Nat) : Bool := x.ctx == c && runsMeet x.va x.size r.1 r.2

/-- A core gives up the translations of a context that overlap a range: its TLB's and the last-page registers' of its lanes. -/
def Core.dropXlates (k : Core) (c : Nat) (r : Nat × Nat) : Core :=
  { k with
    tlb := k.tlb.filter (fun x => !x.meets c r)
    parts := k.parts.map (fun p => { p with last := p.last.filter (fun y => !y.2.meets c r) }) }

/-- Every core and die, and the walkers, give up the translations of a context that overlap a range (R461). -/
def State.dropXlates (s : State) (c : Nat) (r : Nat × Nat) : State :=
  { s with
    cores := s.cores.map (fun (n, k) => (n, k.dropXlates c r))
    dieTlb := s.dieTlb.map (fun (n, l) => (n, l.filter (fun x => !x.meets c r)))
    upper := s.upper.filter (fun u => !(u.ctx == c && runsMeet u.va u.size r.1 r.2)) }

/-- No store of a context that was translated waits to be performed; those in outbound holds do not count. -/
def State.storesDone (s : State) (c : Nat) : Bool :=
  (s.cores.map (·.1)).all (fun k => !(s.pendingStores k).any (fun e => e.who.ctx == c && !e.place.isLoc)) && !s.homeHeld.any (fun h => h.store.who.ctx == c)

/-- INVALIDATION_COMPLETE: translations are removed, and what used them is performed at .SYS: no store waits, and the invalidations of those
at their homes have reached every core, those of other contexts' packets that came through this one's translations too. An engine command
translates each unit as it moves it, so none holds a translation. -/
def execInvalidationComplete (ctx : Nat) (s : State) : Host.Outcome State Fault Refusal :=
  let x := s.ctx ctx
  if !x.invBusy || !s.storesDone ctx then .next s
  else
    let s := (s.dropXlates ctx x.invRange).arriveAll (fun i => i.tctx.getD i.src.ctx == ctx)
    .next (s.setCtx ctx { x with invBusy := false, invSeq := x.invSeq + 1 })

/-- INVCTL as it reads. -/
def Ctx.invWord (x : Ctx) : Nat :=
  (if x.invBusy then 2 ^ 63 else 0) + (if x.invErr then 2 ^ 62 else 0) + at' 32 16 x.invSeq.toNat + at' 2 2 x.invSize.toNat + at' 0 2 x.invKind.toNat

/-- The code of a context's state. -/
def ctxCode (x : CtxState) : Nat := match x with | .free => 0 | .live => 1 | .stopped => 2 | .ending => 3 | .ended => 4

/-- CTXSTAT as it reads. -/
def Ctx.statWord (x : Ctx) : Nat :=
  at' 8 8 x.cause.toNat + (if x.manerr then 128 else 0) + (if x.herr then 64 else 0) + ctxCode x.state

/-- CMDSTAT as it reads. -/
def Sys.cmdWord (y : Sys) : Nat := (if y.busy then 2 ^ 63 else 0) + (if y.overrun then 2 ^ 62 else 0) + y.result.toNat

/-! ## Reads of BAR0 (R416, R418, R429, R435, R441, R451, R452, R489, R494) -/

/-- The registers of a context's region at 0x0000 (R452). -/
def Ctx.plainWord (x : Ctx) (off : Nat) : Nat :=
  match off with
  | 0x000 => x.statWord
  | 0x008 => at' 24 20 x.pasid.toNat + (if x.halttrap then 2 ^ 18 else 0) + (if x.rbnote then 2 ^ 17 else 0)
      + (if x.bkpten then 2 ^ 16 else 0) + x.hseg.toNat
  | 0x010 => at' 7 57 x.handler.toNat
  | 0x018 => at' 19 33 x.ptroot.toNat
  | 0x020 => x.wdog.toNat
  | 0x028 => at' 5 59 x.telbase.toNat
  | 0x030 => at' 32 16 x.telTail.toNat + at' 16 16 x.telHead.toNat + x.telLog2n.toNat
  | 0x038 => x.manlen.toNat
  | 0x040 => at' 16 36 x.invva.toNat
  | 0x048 => x.invWord
  | _ => 0

/-- The scheduling registers (R441). -/
def Ctx.schedWord (x : Ctx) (off : Nat) : Nat :=
  match off with
  | 0x1400 => at' 32 8 x.maxprio.toNat + at' 16 5 x.agek.toNat + (if x.steal then 256 else 0)
  | 0x1408 => at' 7 57 x.dset.toNat
  | 0x1410 => at' 16 48 x.savebase.toNat
  | 0x1418 => x.saveunits.toNat
  | 0x1420 => at' 5 59 x.evbase.toNat
  | 0x1428 => at' 48 16 x.evDropped.toNat + at' 32 16 x.evTail.toNat + at' 16 16 x.evHead.toNat + x.evLog2n.toNat
  | _ => 0

/-- The registers of a queue (R435). -/
def Queue.word (y : Queue) (off : Nat) : Nat :=
  match off with
  | 0x00 => at' 6 58 y.base.toNat
  | 0x08 => (if y.err then 2 ^ 63 else 0) + (if y.en then 256 else 0) + (if y.host then 128 else 0) + y.log2n.toNat
  | 0x10 => y.tail.toNat
  | 0x18 => y.head.toNat
  | _ => 0

/-- The 64 bits at an offset of a context's region (R451); offsets that its table does not cover read zero. -/
def Ctx.word (x : Ctx) (off : Nat) : Nat :=
  if off < 0x100 then x.plainWord off
  else if 0x100 ≤ off ∧ off < 0x140 then field x.fault.bits (8 * (off - 0x100)) 64
  else if 0x200 ≤ off ∧ off < 0x280 then (KMap.get (0 : Dword) x.ingress ((off - 0x200) / 8)).toNat
  else if 0x1000 ≤ off ∧ off < 0x1400 then (KMap.get ({} : Queue) x.queues ((off - 0x1000) / 0x40)).word ((off - 0x1000) % 0x40)
  else if 0x1400 ≤ off ∧ off < 0x1440 then x.schedWord off
  else if 0x2000 ≤ off ∧ off < 0x4000 then
    field (KMap.get (0 : Entry) x.manifest ((off - 0x2000) / 32)).toNat (8 * ((off - 0x2000) % 32)) 64
  else 0

/-- The global registers (R418, R489). -/
def Sys.globalWord (y : Sys) (off : Nat) : Nat :=
  match off with
  | 0x000 => y.statWord
  | 0x008 => y.devWord
  | 0x010 => at' 36 28 y.win2base.toNat
  | 0x020 => at' 5 59 y.rasbase.toNat
  | 0x028 => at' 48 16 y.rasDropped.toNat + at' 32 16 y.rasTail.toNat + at' 16 16 y.rasHead.toNat + y.rasLog2n.toNat
  | 0x030 => y.pwrlim.toNat
  | 0x038 => at' 32 16 y.power.toNat + at' 16 16 y.aclkMhz.toNat
  | _ => 0

/-- The mailbox (R429). -/
def Sys.mailWord (y : Sys) (off : Nat) : Nat :=
  if off = 0x1000 then y.cmd.toNat
  else if 0x1008 ≤ off ∧ off ≤ 0x1040 then (listGet 0 y.args ((off - 0x1008) / 8)).toNat
  else if off = 0x1048 then y.cmdWord
  else 0

/-- A counter (R494): LOG_NOW is what the logs hold, every other has counted. -/
def State.counter (s : State) (off : Nat) : Nat :=
  if 0x3C0000 ≤ off ∧ off < 0x3C2000 ∧ off % 0x100 = 0 then s.logNow ((off - 0x3C0000) / 0x100)
  else (KMap.get (0 : Dword) s.sys.counters off).toNat

/-- Eight bytes of a table. -/
def tableWord (l : List Byte) (off : Nat) : Nat := leNat ((l.drop off).take 8)

/-- The 64 bits at an aligned offset of BAR0 (R416). -/
def State.bar0Word (s : State) (off : Nat) : Nat :=
  if off < 0x1000 then s.sys.globalWord off
  else if off < 0x2000 then s.sys.mailWord off
  else if 0x10000 ≤ off ∧ off < 0x11000 then tableWord s.sys.report (off - 0x10000)
  else if 0x11000 ≤ off ∧ off < 0x12000 then tableWord (fitBytes 4096 Config.certificate) (off - 0x11000)
  else if 0x12000 ≤ off ∧ off < 0x13000 then tableWord (fitBytes 32 Config.translationKey) (off - 0x12000)
  else if 0x20000 ≤ off ∧ off < 0x28000 then tableWord s.sys.enumTable (off - 0x20000)
  else if 0x1000000 ≤ off ∧ off < 0x2000000 then (s.ctx ((off - 0x1000000) / 0x40000)).word ((off - 0x1000000) % 0x40000)
  else if 0x2000000 ≤ off ∧ off < 0x4000000 then s.counter (off - 0x2000000)
  else 0

/-- An access of n bytes is as wide as the register at an offset, and naturally aligned (R416). -/
def regAccess (off n : Nat) : Bool := (n == 8 || (n == 4 && off == 0x1000)) && off % n == 0

/-- An address of BAR0 that answers: every one from READY on; before, SYSSTAT alone; in FAILED, DEVID and the certificate as well
(R418). -/
def Sys.bar0Answers (y : Sys) (off : Nat) : Bool :=
  y.powered && (y.boot == .ready || off == 0
    || (y.boot == .failed && (off == 8 || (decide (0x11000 ≤ off) && decide (off < 0x12000)))))

/-- What a host read of n bytes at an offset of BAR0 returns (R416, R418, log 77). -/
def State.bar0Read (s : State) (off n : Nat) : List Byte :=
  if regAccess off n && s.sys.bar0Answers off then leBytes n (s.bar0Word off) else List.replicate n 0

/-- A host read of a register whose reading changes it. -/
def State.readReg (s : State) (ok : Bool) (off : Nat) (after : State → State) : Host.Outcome State Fault Refusal :=
  .next (if s.sys.boot == .ready && ok then after (s.setReadback (s.bar0Read off 8)) else s.setReadback (List.replicate 8 0))

/-- Where a context's region begins in BAR0. -/
def ctxBase (c : Nat) : Nat := 0x1000000 + 0x40000 * c

/-- INVCTL_READ. -/
def execInvctlRead (ctx : Nat) (s : State) : Host.Outcome State Fault Refusal :=
  s.readReg (decide (ctx < 64)) (ctxBase ctx + 0x48) (fun s => s.modCtx ctx (fun x => { x with invErr := false }))

/-- CTXSTAT_READ. -/
def execCtxstatRead (ctx : Nat) (s : State) : Host.Outcome State Fault Refusal :=
  s.readReg (decide (ctx < 64)) (ctxBase ctx) (fun s => s.modCtx ctx (fun x => { x with manerr := false, herr := false }))

/-- CMDSTAT_READ. -/
def execCmdstatRead (s : State) : Host.Outcome State Fault Refusal :=
  s.readReg true 0x1048 (fun s => { s with sys := { s.sys with overrun := false } })

/-! ## The handler (R468, R469) -/

/-- The translations of the device's own walker. -/
def walkerCore : Nat := walker

/-- The handler of a header and a segment; none where the header, the segment or a field that must be zero refuses it. -/
def State.handlerAt (s : State) (c addr seg : Nat) : Option Kernel :=
  match s.vRead c addr 128 with
  | none => none
  | some bs =>
    let n := leNat bs
    let k := kernelFields addr n
    if field n 32 8 != 3 || k.legacy || bitAt n 40 || k.nseg ≤ seg || k.tiles != 0 || k.acc != 0 || k.stackw != 0 || k.wmsize != 0
        || k.wmgrp != 0 || k.serai.isSome || k.fused || (s.segEntry walkerCore c k seg).isNone then none
    else some k

/-- Install a handler, or refuse it. -/
def State.installHandler (s : State) (c : Nat) (x : Ctx) : State :=
  if x.handler == 0 then s.setCtx c x
  else
    match (s.setCtx c x).handlerAt c (x.handler.toNat * 128) x.hseg.toNat with
    | some k => s.setCtx c { x with hkern := k }
    | none => s.setCtx c { x with handler := 0, herr := true }

/-- A write of HANDLER. -/
def State.writeHandler (s : State) (c : Nat) (v : Dword) : State := s.installHandler c { s.ctx c with handler := wf v 7 57 }

/-- HANDLER_WRITE. -/
def execHandlerWrite (ctx : Nat) (v : Dword) (s : State) : Host.Outcome State Fault Refusal := s.onCtx ctx (fun s => s.writeHandler ctx v)

/-- The fields of CTXCFG. -/
def Ctx.writeCfg (x : Ctx) (v : Dword) : Ctx :=
  { x with
    pasid := keep (x.state == .free) (wf v 24 20) x.pasid
    halttrap := bitAt v.toNat 18
    rbnote := bitAt v.toNat 17
    bkpten := bitAt v.toNat 16
    hseg := wf v 0 12 }

/-- A write of CTXCFG: an HSEG that changes is checked against the installed header. -/
def State.writeCfg (s : State) (c : Nat) (v : Dword) : State :=
  let x := s.ctx c
  let y := x.writeCfg v
  if y.hseg = x.hseg then s.setCtx c y else s.installHandler c y

/-- CTXCFG_WRITE. -/
def execCtxcfgWrite (ctx : Nat) (v : Dword) (s : State) : Host.Outcome State Fault Refusal := s.onCtx ctx (fun s => s.writeCfg ctx v)

/-! ## The manifest (R152, R466) -/

/-- A valid entry's fields obey R152: a kind that is used, reserved bits zero, and each endpoint's own fields. -/
def entryOk (e : Entry) : Bool :=
  let n := e.toNat
  let m := manOf e
  let base := field n 8 55 == 0 && field n 102 10 == 0 && field n 244 12 == 0
  match m.kind with
  | 1 => base && m.wbase == 0 && m.wsize == 0
  | 2 => base && decide (m.unit < 32) && m.slot == 0 && m.gen == 0 && m.wsize != 0
  | _ => false

/-- A write of word 1, 2 or 3 of an entry goes to its staging copy. -/
def State.stageEntry (s : State) (c entry : Nat) (word : BitVec 2) (v : Dword) : State :=
  if word = 0 ∨ 256 ≤ entry then s
  else s.modCtx c (fun x =>
    let old := KMap.get (0 : BitVec 192) x.staged entry
    let k := 64 * (word.toNat - 1)
    { x with staged := KMap.put x.staged entry (BitVec.ofNat 192 (old.toNat - at' k 64 (field old.toNat k 64) + at' k 64 v.toNat)) })

/-- A write of word 0 installs it with the staged words; a valid entry that breaks the rules goes in invalid. -/
def State.installEntry (s : State) (c entry : Nat) (v : Dword) : State :=
  if 256 ≤ entry then s
  else s.modCtx c (fun x =>
    let e : Entry := KMap.get (0 : BitVec 192) x.staged entry ++ v
    let bad := bitAt v.toNat 0 && !entryOk e
    { x with manifest := KMap.put x.manifest entry (if bad then e &&& ~~~1 else e), manerr := x.manerr || bad })

/-- MANIFEST_STAGE. -/
def execManifestStage (ctx entry : Nat) (word : BitVec 2) (v : Dword) (s : State) : Host.Outcome State Fault Refusal :=
  s.onCtx ctx (fun s => s.stageEntry ctx entry word v)

/-- MANIFEST_INSTALL. -/
def execManifestInstall (ctx entry : Nat) (v : Dword) (s : State) : Host.Outcome State Fault Refusal :=
  s.onCtx ctx (fun s => s.installEntry ctx entry v)

/-! ## REGISTER_WRITE (R416, R418, R429, R451) -/

/-- A write of CMD: the command starts with the arguments of that moment, unless one runs (R429). -/
def State.writeCmd (s : State) (v : Nat) : State :=
  let y := s.sys
  if y.busy then { s with sys := { y with overrun := true } }
  else { s with sys := { y with busy := true, cmd := wd v, latched := y.args } }

/-- A write of ARGk. -/
def State.writeArg (s : State) (k : Nat) (v : Dword) : State :=
  if s.sys.busy then s else { s with sys := { s.sys with args := listSet s.sys.args k v } }

/-- The global registers and the mailbox. -/
def State.writeGlobal (s : State) (off : Nat) (v : Dword) : State :=
  let y := s.sys
  match off with
  | 0x010 => { s with sys := { y with win2base := wf v 36 28 } }
  | 0x020 => { s with sys := { y with rasbase := wf v 5 59 } }
  | 0x028 =>
    { s with sys := { y with rasHead := wf v 16 16, rasLog2n := keep (ringLog (field v.toNat 0 5) 12) (wf v 0 5) y.rasLog2n } }
  | 0x030 => s.setLimit (field v.toNat 0 16)
  | 0x1000 => s.writeCmd (field v.toNat 0 32)
  | _ => if 0x1008 ≤ off ∧ off ≤ 0x1040 ∧ off % 8 = 0 then s.writeArg ((off - 0x1008) / 8) v else s

/-- A queue's register. -/
def State.writeQueue (s : State) (c q off : Nat) (v : Dword) : State :=
  match off with
  | 0x00 => s.modQueue c q (fun y => if y.en then y else { y with base := wf v 6 58 })
  | 0x08 => s.modQueue c q (fun y => y.writeCtl v)
  | 0x10 => s.ring c q (wf v 0 32)
  | _ => s

/-- A register of a context's region. -/
def State.writeCtxReg (s : State) (c off : Nat) (v : Dword) : State :=
  if off = 0x008 then s.writeCfg c v
  else if off = 0x010 then s.writeHandler c v
  else if off = 0x048 then s.modCtx c (fun x => x.startInv (wf v 2 2) (wf v 0 2))
  else if 0x200 ≤ off ∧ off < 0x280 then
    s.modCtx c (fun x => { x with ingress := KMap.put x.ingress ((off - 0x200) / 8) (ingressWord v) })
  else if 0x1000 ≤ off ∧ off < 0x1400 then s.writeQueue c ((off - 0x1000) / 0x40) ((off - 0x1000) % 0x40) v
  else if 0x2000 ≤ off ∧ off < 0x4000 then
    let k := (off - 0x2000) / 32
    let word := (off - 0x2000) / 8 % 4
    if word = 0 then s.installEntry c k v else s.stageEntry c k (BitVec.ofNat 2 word) v
  else s.modCtx c (fun x => x.writePlain off v)

/-- REGISTER_WRITE: a write of n bytes at an offset of BAR0; one that is narrower than the register or misaligned is discarded, as is
one where no register lies (R416). -/
def execRegisterWrite (x : RegAt) (v : Dword) (s : State) : Host.Outcome State Fault Refusal :=
  if s.sys.boot != .ready || !regAccess x.off x.n || 0x4000000 ≤ x.off then .next s
  else if 0x1000000 ≤ x.off ∧ x.off < 0x2000000 then
    .next (s.writeCtxReg ((x.off - 0x1000000) / 0x40000) ((x.off - 0x1000000) % 0x40000) v)
  else .next (s.writeGlobal x.off v)

end Sys2Proof.Machine
end

