-- ==== Sys2Proof/Machine/Mailbox.lean ====
section
/-! DEFINITION. Mailbox commands of contexts, memory, domains, cores and firmware, and the end of a context (R426, R429, R432 to
R434, R440, R448, R453, R454, R464, R472, R481, R482, R492, R498). -/

namespace Sys2Proof.Machine

/-- MAILBOX_UNKNOWN_CODE: a code that no command has. -/
def execMailboxUnknownCode (code : Word) (s : State) : Host.Outcome State Fault Refusal :=
  .next (if s.running code.toNat && (code == 0 || decide (24 < code.toNat)) then s.done 1 else s)

/-! ## Contexts (R448, R453, R454) -/

/-- The threads of a group that asserted exit. -/
def Group.exitAsserted (g : Group) : Group :=
  let as := g.igs.filter (fun ig => match ig.trap with | some r => r.cause.toNat == 13 | none => false)
  let m := as.foldl (fun m ig => m ||| ig.mask) (0 : LaneMask)
  { (forLanes m g (fun g l => g.modThread l (fun t => { t with exited := true, stack := [] }))) with
    igs := g.igs.filter (fun ig => !as.any (fun a => a.id == ig.id))
    trap := dropLanes g.trap m }

/-- A block of a context that continues. -/
def Block.exitAsserted (b : Block) : Block := { b with groups := b.groups.map Group.exitAsserted }

/-- Change every block of a context, resident or saved. -/
def State.modCtxBlocks (s : State) (c : Nat) (f : Block → Block) : State :=
  { s with
    cores := s.cores.map (fun k => (k.1, { k.2 with slots := k.2.slots.map (fun x => (x.1, if x.2.ctx = c then f x.2 else x.2)) }))
    saved := s.saved.map (fun (x : Saved) => if x.ctx = c then { x with blk := f x.blk } else x) }

/-- The resident blocks of a context. -/
def State.ctxBlocks (s : State) (c : Nat) : List (Nat × Nat) :=
  s.cores.flatMap (fun k => (k.2.slots.filter (fun x => x.2.ctx == c)).map (fun x => (k.1, x.1)))

/-- CTXRESUME: the asserting threads exit, and the context is live again; what they leave may be groups that are all held in GROW (R36). -/
def execCtxresume (s : State) : Host.Outcome State Fault Refusal :=
  s.command 7 fun s =>
    let c := s.arg 0
    if 64 ≤ c || (s.ctx c).state != .stopped then s.done 2
    else
      let s := (s.modCtxBlocks c Block.exitAsserted).modCtx c (fun x => { x with state := .live })
      ((s.ctxBlocks c).foldl (fun s x => s.trySync x.1 x.2) s).everyStuck.done 0

/-- CTXEND: cause 20. -/
def execCtxend (s : State) : Host.Outcome State Fault Refusal :=
  s.command 8 fun s =>
    let c := s.arg 0
    if 64 ≤ c || (s.ctx c).state == .free then s.done 2 else (s.endCtx c 20 none).done 0

/-- RELEASE: a held node 0 that is fully placed begins to issue. -/
def execRelease (s : State) : Host.Outcome State Fault Refusal :=
  s.command 9 fun s =>
    match s.itins.find? (fun t => t.addr == s.arg 0 && t.ctx == s.arg 1 && t.hold && !t.released && !t.launched) with
    | none => s.done 2
    | some t =>
      if !t.allHeld then s.done 2
      else
        ((s.modItin t.id (fun t => { t with released := true })).modCtxBlocks t.ctx (fun b =>
          if b.itin = t.id then { b with held := false } else b)).done 0

/-- CTXCREATE: PTROOT's top table lies in an installed granule that has an owner (log 21). -/
def execCtxcreate (s : State) : Host.Outcome State Fault Refusal :=
  s.command 10 fun s =>
    let c := s.arg 0
    let root := (s.ctx c).ptroot.toNat * 2 ^ 19
    if 64 ≤ c || (s.ctx c).state != .free || !s.sys.installed root || !(s.granule (granuleOf root)).v then s.done 2
    else (s.modCtx c (fun x => { x with state := .live })).done 0

/-- CTXFREE: every translation goes and every register takes its reset value; the context leaves its domain (R482). -/
def execCtxfree (s : State) : Host.Outcome State Fault Refusal :=
  s.command 11 fun s =>
    let c := s.arg 0
    if 64 ≤ c || (s.ctx c).state != .ended then s.done 2 else ((s.dropXlates c (0, 2 ^ 52)).setCtx c {}).done 0

/-- Nothing of an ending context is resident, held or on its way. -/
def State.ctxIdle (s : State) (c : Nat) : Bool :=
  (s.ctxBlocks c).isEmpty
    && s.holds.all (fun h => match h.what with
        | .inl e => e.who.ctx != c
        | .inr id => match s.flight? id with | some f => f.p.srcCtx.toNat != c | none => true)
    && s.flights.all (fun f => f.inbound || f.p.srcCtx.toNat != c || !f.pending)

/-- Itineraries of an ended context complete with its cause; those of LAUNCH have no record. -/
def State.endItins (s : State) (c : Nat) : State :=
  let ts := s.itins.filter (fun t => t.ctx == c)
  let s := ts.foldl (fun s t => if t.launched || t.finished then s else s.complete c t.crec t.addr 0 (s.ctx c).cause.toNat 3) s
  { s with itins := s.itins.filter (fun t => t.ctx != c) }

/-- CONTEXT_ENDED. -/
def execContextEnded (ctx : Nat) (s : State) : Host.Outcome State Fault Refusal :=
  if (s.ctx ctx).state != .ending || !s.ctxIdle ctx then .next s
  else
    let s := s.endItins ctx
    let s := { s with
      saved := s.saved.filter (fun x => x.ctx != ctx)
      halts := s.halts.filter (fun h => h.ctx != ctx)
      cores := s.cores.map (fun (k : Nat × Core) => (k.1, { k.2 with absent := k.2.absent.filter (fun a => a.ctx != ctx) })) }
    .next ((s.modCtx ctx (fun x => { x with state := .ended })).postEvent ctx 4 (s.ctx ctx).cause.toNat 0)

/-! ## Granules (R464) -/

/-- A granule that the firmware has reserved: of the translation cache or of an undo log. -/
def State.reserved (s : State) (g : Nat) : Bool := s.sys.inCache (g * 2 ^ 21) || s.inLog (g * 2 ^ 21)

/-- The granules of a home agent with a share list entry, beside some. -/
def State.sharers (s : State) (home : Nat) (but : List Nat) : Nat :=
  s.granules.countP (fun g => g.1 / 2 ^ 15 == home && g.2.sh && !but.contains g.1)

/-- ACCSET. A count of 0 is a bad argument (DESIGN CHOICE, log 92). -/
def execAccset (s : State) : Host.Outcome State Fault Refusal :=
  s.command 12 fun s =>
    let home := s.arg 0
    let n := s.arg 2
    let owner := s.arg 3
    let gs := (List.range n).map (fun i => home * 2 ^ 15 + s.arg 1 + i)
    let x : Granule := { v := bitAt owner 7, sh := bitAt owner 6, owner := BitVec.ofNat 6 owner, share := if bitAt owner 6 then dw (s.arg 4) else 0 }
    if 32 ≤ home || n = 0 || s.sys.stackGib * 512 < s.arg 1 + n || gs.any s.reserved then s.done 2
    else if x.sh && decide (64 < s.sharers home gs + n) then s.done 5
    else { s with granules := gs.foldl (fun m g => KMap.put m g x) s.granules }.done 0

/-! ## Recovery domains (R472, R481, R482) -/

/-- The arguments of a DOMCREATE; none where one is bad. A list without this package is bad (DESIGN CHOICE, log 92). -/
def State.domArgs (s : State) : Option DomPending :=
  let n := s.arg 2
  let raw := (List.range (min n 256)).map (fun i => leNat (s.firmRead (s.arg 1 + 2 * i) 2))
  let ms : List (BitVec 12) := raw.map (BitVec.ofNat 12)
  let interval := orDefault (s.arg 3) 50
  let limit := orDefault (s.arg 4) 1000
  let cap := orDefault (s.arg 5) 1024
  if 1024 ≤ s.arg 0 || n = 0 || 256 < n || raw.any (fun x => decide (4096 ≤ x))
      || !(raw.zip (raw.drop 1)).all (fun x => decide (x.1 < x.2)) || !ms.contains s.sys.pkg || 10000 < interval
      || limit < 100 || 1000000 < limit || cap % 64 != 0 || cap < 256 || 16384 < cap then none
  else some { num := s.arg 0, args := { members := ms, interval := interval, waitLimit := limit, capacity := cap }, since := s.time }

/-- Add a run of granules to a list in ascending order. -/
def insertRun (r : Nat × Nat) : List (Nat × Nat) → List (Nat × Nat)
  | [] => [r]
  | x :: t => if r.1 ≤ x.1 then r :: x :: t else x :: insertRun r t

/-- The granules of a home agent that are owned or reserved for logs, as runs in ascending order. -/
def State.takenRuns (s : State) (home : Nat) : List (Nat × Nat) :=
  let owned := (s.granules.filter (fun (g : Nat × Granule) => g.2.v && g.1 / 2 ^ 15 == home)).map (fun g => (g.1, 1))
  let logs := (s.domains.flatMap (fun (d : Domain) => d.logAt)).filter (fun (r : Nat × Nat) => r.1 / 2 ^ 15 == home)
  (owned ++ logs).foldr insertRun []

/-- The runs left free from a granule up to a limit, in ascending order. -/
def freeRuns (hi : Nat) : Nat → List (Nat × Nat) → List (Nat × Nat)
  | lo, [] => if lo < hi then [(lo, hi - lo)] else []
  | lo, (a, n) :: t => (if lo < min a hi then [(lo, min a hi - lo)] else []) ++ freeRuns hi (max lo (a + n)) t

/-- n granules of runs, from the end of each and from the first run on; none where they are fewer. -/
def takeRuns : Nat → List (Nat × Nat) → Option (List (Nat × Nat))
  | 0, _ => some []
  | _, [] => none
  | n, (a, k) :: t => if n ≤ k then some [(a + (k - n), n)] else (takeRuns (n - k) t).map ((a, k) :: ·)

/-- Where the log of a new domain lies on a stack: in the highest granules with V = 0 that no other log has (log 13). -/
def State.logPlace (s : State) (cap home : Nat) : Option (List (Nat × Nat)) :=
  let top := (if home = 0 then s.sys.cacheBase else s.sys.stackGib * 2 ^ 30) / 2 ^ 21
  takeRuns (cap / 2) (freeRuns (home * 2 ^ 15 + top) (home * 2 ^ 15) (s.takenRuns home)).reverse

/-- Every stack has room for a log of C MiB in granules with V = 0 (R481). -/
def State.logRoom (s : State) (cap : Nat) : Bool := (List.range 32).all (fun h => (s.logPlace cap h).isSome)

/-- DOMCREATE: the command stays BUSY until its partners have answered. -/
def execDomcreate (s : State) : Host.Outcome State Fault Refusal :=
  s.command 18 fun s =>
    if s.domPending.isSome then s
    else
      match s.domArgs with
      | none => s.done 2
      | some x =>
        if (s.domain? x.num).isSome then s.done 2
        else if !s.logRoom x.args.capacity then s.done 5
        else { s with domPending := some x, out := s.out ++ [FabMsg.domcreate x.num x.args] }

/-- A domain as it begins: at leg 1, its logs reserved on every stack. -/
def DomPending.make (x : DomPending) (s : State) : Domain :=
  { num := x.num, members := x.args.members, lost := [], leg := 1, interval := x.args.interval, waitLimit := x.args.waitLimit
    capacity := x.args.capacity, logAt := (List.range 32).flatMap (fun h => (s.logPlace x.args.capacity h).getD [])
    phase := .idle, ready := [], acked := [], applying := false, wanted := false, since := s.time, reqAt := 0, stopped := false, doneBy := []
    rolling := 0, overflow := none, injected := false, cut := [], cutWindows := [], cutOrdered := [], cutItins := [] }

/-- DOMCREATE_MATCH: the arguments arrive that the other members have issued so far. One that differs decides the outcome; with those of
every other member, all equal, the domain becomes active. -/
def execDomcreateMatch (dom : Nat) (others : List DomArgs) (s : State) : Host.Outcome State Fault Refusal :=
  match s.domPending with
  | none => .next s
  | some x =>
    if x.num != dom then .next s
    else if others.any (fun y => y != x.args) then .next ({ s with domPending := none }.done 2)
    else if others.length + 1 < x.args.members.length then .next s
    else .next ({ s with domPending := none, domains := s.domains ++ [x.make s] }.done 0)

/-- DOMCREATE_TIMEOUT: 10 s after the first member's issue some other has not issued a matching command. -/
def execDomcreateTimeout (r : DomLate) (s : State) : Host.Outcome State Fault Refusal :=
  match s.domPending with
  | none => .next s
  | some x =>
    .next (if x.num = r.dom && 1 < x.args.members.length && decide (x.since + usec 10000000 ≤ s.time + r.lead) then
        { s with domPending := none }.done 2
      else s)

/-- DOMJOIN. -/
def execDomjoin (s : State) : Host.Outcome State Fault Refusal :=
  s.command 19 fun s =>
    let c := s.arg 0
    if 64 ≤ c || (s.ctx c).state != .live || (s.ctx c).domain.isSome || s.itins.any (fun t => t.ctx == c) || !(s.ctxBlocks c).isEmpty
        || s.saved.any (fun x => x.ctx == c) || (s.domain? (s.arg 1)).isNone then s.done 2
    else (s.modCtx c (fun x => { x with domain := some (s.arg 1) })).done 0

/-- DOMFREE: the domain goes with its logs. -/
def execDomfree (s : State) : Host.Outcome State Fault Refusal :=
  s.command 20 fun s =>
    let d := s.arg 0
    if (s.domain? d).isNone || !(s.domCtxs d).isEmpty then s.done 2 else
      { s with domains := s.domains.filter (fun x => x.num != d), logs := s.logs.filter (fun e => e.dom != d) }.done 0

/-! ## Fuses and the translation cache (R432 to R434) -/

/-- FUSEADV: the counter advances and older cache entries go. -/
def execFuseadv (s : State) : Host.Outcome State Fault Refusal :=
  s.command 2 fun s =>
    let t := field (s.arg 0) 0 7
    let y := s.sys
    if t < y.fuseSvn ∨ y.fwsvn < t then s.done 2
    else
      (({ s with sys := { y with fuseSvn := t, tcache := y.tcache.filter (fun e => decide (t ≤ e.svn)) } }).postRas
        { kind := 15, sev := 0, detail := t }).done 0

/-- Where an image of n bytes fits in the cache: the lowest multiple of 64 KiB clear of every entry (log 22). -/
def Sys.cacheAt (y : Sys) (es : List CacheEnt) (n : Nat) : Option Nat :=
  let lo := y.cacheBase
  let starts := lo :: es.map (fun e => ceilDiv (e.addr + e.size) 65536 * 65536)
  let ok := starts.filter (fun a => decide (a + n ≤ lo + 2 ^ 28) && !es.any (fun e => runsMeet a n e.addr e.size))
  ok.foldl (fun m a => match m with | none => some a | some b => some (min a b)) none

/-- What the translation key signs. -/
def cacheMessage (image : List Byte) (svn : Nat) : List Byte :=
  fitBytes 64 (Config.sha512 image) ++ leBytes 1 svn ++ leBytes 8 image.length

/-- CACHEPUT: the digest is the 64 bytes at its address. -/
def execCacheput (s : State) : Host.Outcome State Fault Refusal :=
  s.command 3 fun s =>
    let n := s.arg 1
    let svn := field (s.arg 2) 0 7
    let digest := s.firmRead (s.arg 3) 64
    let es := s.sys.tcache.filter (fun e => e.digest != digest)
    if svn < s.sys.fuseSvn then s.done 3
    else if n = 0 || 2 ^ 28 < n || !s.sys.installed (s.arg 0) || !s.sys.installed (s.arg 0 + n - 1) then s.done 2
    else if 4096 ≤ es.length then s.done 5
    else
      match s.sys.cacheAt es n with
      | none => s.done 5
      | some a =>
        let image := s.firmRead (s.arg 0) n
        let e : CacheEnt := { digest := digest, svn := svn, addr := a, size := n
                              sig := fitBytes 64 (Config.signTranslation (cacheMessage image svn)) }
        (({ s with mem := Memory.writeN s.mem a image, sys := { s.sys with tcache := es ++ [e] } }).retArg 0 a).done 0

/-- CACHEGET: an entry older than the counter is a miss, and goes. -/
def execCacheget (s : State) : Host.Outcome State Fault Refusal :=
  s.command 4 fun s =>
    let digest := s.firmRead (s.arg 0) 64
    match s.sys.tcache.find? (fun e => e.digest == digest) with
    | none => s.done 4
    | some e =>
      if e.svn < s.sys.fuseSvn then { s with sys := { s.sys with tcache := s.sys.tcache.filter (· != e) } }.done 4
      else ((s.retArg 0 e.addr).retArg 1 e.size).done 0

/-! ## Core retirement (R426, R492) -/

/-- Cores of a cluster that are live and not on a retirement list. -/
def State.clusterLeft (s : State) (core : Nat) (list : List Nat) : Nat := (s.clusterCores core).countP (fun k => !list.contains k)

/-- CORERET with ARG1 1; an ARG1 that is neither 0 nor 1 is a bad argument. The list takes effect at the next boot. -/
def execCoreretRetire (s : State) : Host.Outcome State Fault Refusal :=
  s.command 23 fun s =>
    let c := s.arg 0
    let l := s.sys.retireList
    if s.arg 1 = 0 then s
    else if s.arg 1 != 1 || s.sys.liveCount ≤ c || s.clusterLeft c (c :: l) < 2 then s.done 2
    else if !l.contains c && decide (8 ≤ l.length) then s.done 5
    else
      ({ s with sys := { s.sys with retireList := if l.contains c then l else l ++ [c] } }.postRas
        { kind := 13, sev := 0, detail := 1, ukind := 3, unit := c }).done 0

/-- CORERET with ARG1 0. -/
def execCoreretReturn (s : State) : Host.Outcome State Fault Refusal :=
  s.command 23 fun s =>
    let c := s.arg 0
    let l := s.sys.retireList
    if s.arg 1 != 0 then s
    else if s.sys.liveCount ≤ c || !l.contains c then s.done 2
    else
      ({ s with sys := { s.sys with retireList := l.filter (· != c) } }.postRas
        { kind := 13, sev := 0, detail := 0, ukind := 3, unit := c }).done 0

/-! ## Firmware update (R498) -/

/-- FWSTAGE: a good image goes into the slot that does not run. -/
def execFwstage (s : State) : Host.Outcome State Fault Refusal :=
  s.command 24 fun s =>
    let y := s.sys
    match s.staged with
    | .error r => s.done r
    | .ok x =>
      (({ s with sys := if y.slotB then { y with imgA := x } else { y with imgB := x } }).postRas
        { kind := 14, sev := 0, detail := x.svn }).done 0

end Sys2Proof.Machine
end

