-- ==== Sys2Proof/Machine/Order.lean ====
section
/-! DEFINITION. FENCE and BRIDGE (R80, R303, R304). -/

namespace Sys2Proof.Machine

/-- The pairs of domains that a FENCE orders. -/
def fencePairs (d : Option Dom) : List (Dom × Dom) :=
  match d with
  | some d => [(d, d)]
  | none => allDoms.flatMap (fun x => allDoms.map (fun y => (x, y)))

/-- Order pairs of domains at a scope for each thread of a mask. -/
def State.bridges (s : State) (w : Who) (m : LaneMask) (ps : List (Dom × Dom)) (sc : Scope) : State :=
  forLanes m s (fun s l => ps.foldl (fun s p => s.bridge1 w p.1 p.2 sc l) s)

/-- FENCE. -/
def execFence (o : FenceOp) (s : State) : Host.Outcome State Fault Refusal :=
  s.withIssuer fun w => .next ((s.bridges w (w.active o.h.g) (fencePairs o.dom) o.scope).skip w o.h.k)

/-- BRIDGE. -/
def execBridge (o : BridgeOp) (s : State) : Host.Outcome State Fault Refusal :=
  s.withIssuer fun w => .next ((s.bridges w (w.active o.h.g) [(o.x, o.y)] o.scope).skip w o.h.k)

end Sys2Proof.Machine
end

