-- ==== Sys2Proof/Machine/Scalar.lean ====
section
/-! DEFINITION. Uniform scalar instructions and MOVSR: major 0x05 (R258 to R260). -/

namespace Sys2Proof.Machine

/-- The shape of a uniform instruction of two operands (R259). -/
def State.ubin (s : State) (o : SBin) (f : Dword → Dword → Dword) : Host.Outcome State Fault Refusal :=
  s.uniform o.k fun w g =>
    g.writeS o.d.toNat (wide o.ty) (f (w.g.readS o.a.toNat (wide o.ty)) (w.sop o.ty o.b))

/-- The shape of a uniform shift: b is a 32-bit count. -/
def State.ushift (s : State) (o : SBin) (f : Dword → Nat → Dword) : Host.Outcome State Fault Refusal :=
  s.uniform o.k fun w g => g.writeS o.d.toNat (wide o.ty) (f (w.g.readS o.a.toNat (wide o.ty)) (w.scount o.b))

/-- SADD: as IADD. -/
def execSadd (o : SBin) (s : State) : Host.Outcome State Fault Refusal :=
  s.ubin o fun a b => arith o.ty o.m (intOf o.ty a + intOf o.ty b)

/-- SSUB: as ISUB. -/
def execSsub (o : SBin) (s : State) : Host.Outcome State Fault Refusal :=
  s.ubin o fun a b => arith o.ty o.m (intOf o.ty a - intOf o.ty b)

/-- SMUL: (a * b) mod 2^W. -/
def execSmul (o : SBin) (s : State) : Host.Outcome State Fault Refusal :=
  s.ubin o fun a b => arith o.ty false (intOf o.ty a * intOf o.ty b)

/-- SAND. -/
def execSand (o : SBin) (s : State) : Host.Outcome State Fault Refusal := s.ubin o fun a b => trunc o.ty (a &&& b)

/-- SOR. -/
def execSor (o : SBin) (s : State) : Host.Outcome State Fault Refusal := s.ubin o fun a b => trunc o.ty (a ||| b)

/-- SXOR. -/
def execSxor (o : SBin) (s : State) : Host.Outcome State Fault Refusal := s.ubin o fun a b => trunc o.ty (a ^^^ b)

/-- SSHL: as SHL. -/
def execSshl (o : SBin) (s : State) : Host.Outcome State Fault Refusal := s.ushift o (shl o.ty)

/-- SSHR: as SHR under .B types, as SAR under .I types. -/
def execSshr (o : SBin) (s : State) : Host.Outcome State Fault Refusal :=
  s.ushift o (if isSigned o.ty then sar o.ty else shr o.ty)

/-- SMOV. -/
def execSmov (o : SMov) (s : State) : Host.Outcome State Fault Refusal :=
  s.uniform o.k fun w g => g.writeS o.d.toNat (wide o.ty) (w.sop o.ty o.b)

/-- SMOVI: the extended immediate. -/
def execSmovi (o : SMov) (s : State) : Host.Outcome State Fault Refusal :=
  s.uniform o.k fun w g => g.writeS o.d.toNat (wide o.ty) (w.sop o.ty o.b)

/-- SCMP: 1 or 0 as 32 bits (R259). -/
def execScmp (o : ScmpOp) (s : State) : Host.Outcome State Fault Refusal :=
  s.uniform o.k fun w g =>
    g.writeS o.d.toNat false
      (if condInt o.cond (intOf o.ty (w.g.readS o.a.toNat (wide o.ty))) (intOf o.ty (w.sop o.ty o.b)) then 1 else 0)

/-- The value of a special name for a lane (R260). -/
def State.special (s : State) (w : Who) (lane : Nat) (n : SrName) : Dword :=
  match n with
  | .lane => dw lane
  | .group => dw w.g.idx
  | .blockx => dw w.b.bx
  | .blocky => dw w.b.by_
  | .blockz => dw w.b.bz
  | .stage => dw w.b.task.stage
  | .node => dw w.b.task.node
  | .core => dw w.core
  | .clock => s.coreClock w.core
  | .leg => (s.legOf w.ctx).setWidth 64

/-- MOVSR (R260). -/
def execMovsr (o : MovsrOp) (s : State) : Host.Outcome State Fault Refusal :=
  s.vector o.h [] (vd o.d (o.name == .clock)) fun w m =>
    writeLanes m o.wb o.d (o.name == .clock) (fun l => s.special w l o.name)

end Sys2Proof.Machine
end

