-- ==== Sys2Proof/Machine/Dispatch.lean ====
section
/-! DEFINITION. exec: one direct call of a meaning for each constructor of Instr. -/

namespace Sys2Proof.Machine

/-- The effect of one instruction or event. An instruction acts on the issue group in focus and moves it past its slot. -/
def exec (i : Instr) (s : State) : Host.Outcome State Fault Refusal :=
  match i with
  | .nop k => Sys2Proof.Machine.execNop k s
  | .nextSeg k seg => Sys2Proof.Machine.execNextSeg k seg s
  | .nextp k p t f => Sys2Proof.Machine.execNextp k p t f s
  | .nextx k x imm => Sys2Proof.Machine.execNextx k x imm s
  | .call k callee cont => Sys2Proof.Machine.execCall k callee cont s
  | .ret k imm => Sys2Proof.Machine.execRet k imm s
  | .exit k => Sys2Proof.Machine.execExit k s
  | .waitTok h wm mask => Sys2Proof.Machine.execWaitTok h wm mask s
  | .waitClk h wm n => Sys2Proof.Machine.execWaitClk h wm n s
  | .trap h code => Sys2Proof.Machine.execTrap h code s
  | .assert h x p => Sys2Proof.Machine.execAssert h x p s
  | .bkpt h code => Sys2Proof.Machine.execBkpt h code s
  | .iadd o => Sys2Proof.Machine.execIadd o s
  | .isub o => Sys2Proof.Machine.execIsub o s
  | .iadd3 o => Sys2Proof.Machine.execIadd3 o s
  | .imul o => Sys2Proof.Machine.execImul o s
  | .imulhi o => Sys2Proof.Machine.execImulhi o s
  | .imad o => Sys2Proof.Machine.execImad o s
  | .imin o => Sys2Proof.Machine.execImin o s
  | .imax o => Sys2Proof.Machine.execImax o s
  | .iabs o => Sys2Proof.Machine.execIabs o s
  | .ineg o => Sys2Proof.Machine.execIneg o s
  | .and o => Sys2Proof.Machine.execAnd o s
  | .or o => Sys2Proof.Machine.execOr o s
  | .xor o => Sys2Proof.Machine.execXor o s
  | .not o => Sys2Proof.Machine.execNot o s
  | .lop3 o => Sys2Proof.Machine.execLop3 o s
  | .shl o => Sys2Proof.Machine.execShl o s
  | .shr o => Sys2Proof.Machine.execShr o s
  | .sar o => Sys2Proof.Machine.execSar o s
  | .rotl o => Sys2Proof.Machine.execRotl o s
  | .funnel o => Sys2Proof.Machine.execFunnel o s
  | .bfx o => Sys2Proof.Machine.execBfx o s
  | .bfi o => Sys2Proof.Machine.execBfi o s
  | .popc o => Sys2Proof.Machine.execPopc o s
  | .clz o => Sys2Proof.Machine.execClz o s
  | .ctz o => Sys2Proof.Machine.execCtz o s
  | .brev o => Sys2Proof.Machine.execBrev o s
  | .permb o => Sys2Proof.Machine.execPermb o s
  | .sel o => Sys2Proof.Machine.execSel o s
  | .mov o => Sys2Proof.Machine.execMov o s
  | .movi o => Sys2Proof.Machine.execMovi o s
  | .movk o => Sys2Proof.Machine.execMovk o s
  | .icmp o => Sys2Proof.Machine.execIcmp o s
  | .pset o => Sys2Proof.Machine.execPset o s
  | .pmov o => Sys2Proof.Machine.execPmov o s
  | .sadd o => Sys2Proof.Machine.execSadd o s
  | .ssub o => Sys2Proof.Machine.execSsub o s
  | .smul o => Sys2Proof.Machine.execSmul o s
  | .sand o => Sys2Proof.Machine.execSand o s
  | .sor o => Sys2Proof.Machine.execSor o s
  | .sxor o => Sys2Proof.Machine.execSxor o s
  | .sshl o => Sys2Proof.Machine.execSshl o s
  | .sshr o => Sys2Proof.Machine.execSshr o s
  | .smov o => Sys2Proof.Machine.execSmov o s
  | .smovi o => Sys2Proof.Machine.execSmovi o s
  | .scmp o => Sys2Proof.Machine.execScmp o s
  | .movsr o => Sys2Proof.Machine.execMovsr o s
  | .fadd o => Sys2Proof.Machine.execFadd o s
  | .fsub o => Sys2Proof.Machine.execFsub o s
  | .fmul o => Sys2Proof.Machine.execFmul o s
  | .ffma o => Sys2Proof.Machine.execFfma o s
  | .fmin o => Sys2Proof.Machine.execFmin o s
  | .fmax o => Sys2Proof.Machine.execFmax o s
  | .fcmp o => Sys2Proof.Machine.execFcmp o s
  | .fclass o => Sys2Proof.Machine.execFclass o s
  | .frnd o => Sys2Proof.Machine.execFrnd o s
  | .frcp o => Sys2Proof.Machine.execFrcp o s
  | .frsq o => Sys2Proof.Machine.execFrsq o s
  | .fsqrt o => Sys2Proof.Machine.execFsqrt o s
  | .fexp2 o => Sys2Proof.Machine.execFexp2 o s
  | .flog2 o => Sys2Proof.Machine.execFlog2 o s
  | .fsin o => Sys2Proof.Machine.execFsin o s
  | .fcos o => Sys2Proof.Machine.execFcos o s
  | .ftanh o => Sys2Proof.Machine.execFtanh o s
  | .cvt o => Sys2Proof.Machine.execCvt o s
  | .cvtsr o => Sys2Proof.Machine.execCvtsr o s
  | .qenc o => Sys2Proof.Machine.execQenc o s
  | .qdec o => Sys2Proof.Machine.execQdec o s
  | .pack2 o => Sys2Proof.Machine.execPack2 o s
  | .unpack2 o => Sys2Proof.Machine.execUnpack2 o s
  | .shfl o => Sys2Proof.Machine.execShfl o s
  | .vote o => Sys2Proof.Machine.execVote o s
  | .ballot o => Sys2Proof.Machine.execBallot o s
  | .redux o => Sys2Proof.Machine.execRedux o s
  | .scan o => Sys2Proof.Machine.execScan o s
  | .matchLanes o => Sys2Proof.Machine.execMatchLanes o s
  | .bcast o => Sys2Proof.Machine.execBcast o s
  | .shfl16 o => Sys2Proof.Machine.execShfl16 o s
  | .vote16 o => Sys2Proof.Machine.execVote16 o s
  | .ballot16 o => Sys2Proof.Machine.execBallot16 o s
  | .ld o => Sys2Proof.Machine.execLd o s
  | .st o => Sys2Proof.Machine.execSt o s
  | .ldx o => Sys2Proof.Machine.execLdx o s
  | .stx o => Sys2Proof.Machine.execStx o s
  | .pref o => Sys2Proof.Machine.execPref o s
  | .cctlIv h base imm => Sys2Proof.Machine.execCctlIv h base imm s
  | .cctlIvall h => Sys2Proof.Machine.execCctlIvall h s
  | .ldl o => Sys2Proof.Machine.execLdl o s
  | .stl o => Sys2Proof.Machine.execStl o s
  | .accrd o => Sys2Proof.Machine.execAccrd o s
  | .accwr o => Sys2Proof.Machine.execAccwr o s
  | .atom o => Sys2Proof.Machine.execAtom o s
  | .atoml o => Sys2Proof.Machine.execAtoml o s
  | .red o => Sys2Proof.Machine.execRed o s
  | .fence o => Sys2Proof.Machine.execFence o s
  | .bridge o => Sys2Proof.Machine.execBridge o s
  | .barinit o => Sys2Proof.Machine.execBarinit o s
  | .bararrive o => Sys2Proof.Machine.execBararrive o s
  | .barwait o => Sys2Proof.Machine.execBarwait o s
  | .bartest o => Sys2Proof.Machine.execBartest o s
  | .blksync o => Sys2Proof.Machine.execBlksync o s
  | .cpy o => Sys2Proof.Machine.execCpy o s
  | .tcpy o => Sys2Proof.Machine.execTcpy o s
  | .cpywait h any mask => Sys2Proof.Machine.execCpywait h any mask s
  | .tagff h d mask => Sys2Proof.Machine.execTagff h d mask s
  | .tagrd h d tag => Sys2Proof.Machine.execTagrd h d tag s
  | .tcfg h tile v => Sys2Proof.Machine.execTcfg h tile v s
  | .tld o => Sys2Proof.Machine.execTld o s
  | .tst o => Sys2Proof.Machine.execTst o s
  | .tzero h tag tile => Sys2Proof.Machine.execTzero h tag tile s
  | .tmma h tag desc => Sys2Proof.Machine.execTmma h tag desc s
  | .tdrain o => Sys2Proof.Machine.execTdrain o s
  | .tacc h add tag tile base => Sys2Proof.Machine.execTacc h add tag tile base s
  | .tstat h d => Sys2Proof.Machine.execTstat h d s
  | .xld o => Sys2Proof.Machine.execXld o s
  | .xst o => Sys2Proof.Machine.execXst o s
  | .xatom o => Sys2Proof.Machine.execXatom o s
  | .xsend h acc tag desc bar => Sys2Proof.Machine.execXsend h acc tag desc bar s
  | .cvopen h c e => Sys2Proof.Machine.execCvopen h c e s
  | .cvclose h c => Sys2Proof.Machine.execCvclose h c s
  | .fencef h dom c bar n => Sys2Proof.Machine.execFencef h dom c bar n s
  | .slotrsv h d e b => Sys2Proof.Machine.execSlotrsv h d e b s
  | .slotrel h j => Sys2Proof.Machine.execSlotrel h j s
  | .slotrelFault h j => Sys2Proof.Machine.execSlotrelFault h j s
  | .chunk k c => Sys2Proof.Machine.execChunk k c s
  | .waymark k d vg => Sys2Proof.Machine.execWaymark k d vg s
  | .legrd h d => Sys2Proof.Machine.execLegrd h d s
  | .irrev h => Sys2Proof.Machine.execIrrev h s
  | .grow k n => Sys2Proof.Machine.execGrow k n s
  | .shrink k n => Sys2Proof.Machine.execShrink k n s
  | .locq h kind d a => Sys2Proof.Machine.execLocq h kind d a s
  | .launch k d r q => Sys2Proof.Machine.execLaunch k d r q s
  | .prio k p => Sys2Proof.Machine.execPrio k p s
  | .rfeRegion k => Sys2Proof.Machine.execRfeRegion k s
  | .rfeNext k => Sys2Proof.Machine.execRfeNext k s
  | .ctlrd h d r => Sys2Proof.Machine.execCtlrd h d r s
  | .ctlwr h r x => Sys2Proof.Machine.execCtlwr h r x s
  | .traprd h d k => Sys2Proof.Machine.execTraprd h d k s
  | .extensionWord ctl w => Sys2Proof.Machine.execExtensionWord ctl w s
  | .illegalWord ctl w why => Sys2Proof.Machine.execIllegalWord ctl w why s
  | .resultWriteback core slot grp k => Sys2Proof.Machine.execResultWriteback core slot grp k s
  | .trapDelivery core slot grp ig => Sys2Proof.Machine.execTrapDelivery core slot grp ig s
  | .growGrant core part => Sys2Proof.Machine.execGrowGrant core part s
  | .waitClkExpiry core slot grp ig => Sys2Proof.Machine.execWaitClkExpiry core slot grp ig s
  | .storeDrain core k => Sys2Proof.Machine.execStoreDrain core k s
  | .invalidationArrival core k => Sys2Proof.Machine.execInvalidationArrival core k s
  | .filterAgeExpiry core k dom => Sys2Proof.Machine.execFilterAgeExpiry core k dom s
  | .bankRequestComplete core k => Sys2Proof.Machine.execBankRequestComplete core k s
  | .homeAgentWrite w => Sys2Proof.Machine.execHomeAgentWrite w s
  | .commandComplete core slot k part => Sys2Proof.Machine.execCommandComplete core slot k part s
  | .tmmaSubblock core slot k => Sys2Proof.Machine.execTmmaSubblock core slot k s
  | .followOnStart core slot k => Sys2Proof.Machine.execFollowOnStart core slot k s
  | .firstHopCustody id => Sys2Proof.Machine.execFirstHopCustody id s
  | .packetHop h => Sys2Proof.Machine.execPacketHop h s
  | .custodyTimeout id => Sys2Proof.Machine.execCustodyTimeout id s
  | .packetArrival id => Sys2Proof.Machine.execPacketArrival id s
  | .slotrsvRequest id => Sys2Proof.Machine.execSlotrsvRequest id s
  | .remoteReply id r => Sys2Proof.Machine.execRemoteReply id r s
  | .custodyAck id => Sys2Proof.Machine.execCustodyAck id s
  | .negativeReply id sub => Sys2Proof.Machine.execNegativeReply id sub s
  | .linkFailure id => Sys2Proof.Machine.execLinkFailure id s
  | .errorNoticeArrival core slot gen off => Sys2Proof.Machine.execErrorNoticeArrival core slot gen off s
  | .flitError port => Sys2Proof.Machine.execFlitError port s
  | .peerLost port => Sys2Proof.Machine.execPeerLost port s
  | .portTrain port => Sys2Proof.Machine.execPortTrain port s
  | .keylow port dir => Sys2Proof.Machine.execKeylow port dir s
  | .keyExhausted port dir => Sys2Proof.Machine.execKeyExhausted port dir s
  | .keyStarveTimeout port dir => Sys2Proof.Machine.execKeyStarveTimeout port dir s
  | .keySwitch port dir => Sys2Proof.Machine.execKeySwitch port dir s
  | .itineraryAdmit ctx q => Sys2Proof.Machine.execItineraryAdmit ctx q s
  | .blockPlace die => Sys2Proof.Machine.execBlockPlace die s
  | .stealRequest thief victim => Sys2Proof.Machine.execStealRequest thief victim s
  | .groupRelease core slot grp => Sys2Proof.Machine.execGroupRelease core slot grp s
  | .blockTaskRetire core slot => Sys2Proof.Machine.execBlockTaskRetire core slot s
  | .evictionDecision die => Sys2Proof.Machine.execEvictionDecision die s
  | .evictionStopTimeout core slot grp => Sys2Proof.Machine.execEvictionStopTimeout core slot grp s
  | .blockSave v => Sys2Proof.Machine.execBlockSave v s
  | .blockRestore k core => Sys2Proof.Machine.execBlockRestore k core s
  | .watchdogExpiry core slot => Sys2Proof.Machine.execWatchdogExpiry core slot s
  | .contextEnded ctx => Sys2Proof.Machine.execContextEnded ctx s
  | .caravanHaltPause ctx members => Sys2Proof.Machine.execCaravanHaltPause ctx members s
  | .caravanHaltComplete x => Sys2Proof.Machine.execCaravanHaltComplete x s
  | .sealIntervalExpiry dom => Sys2Proof.Machine.execSealIntervalExpiry dom s
  | .sealRequestMessage dom => Sys2Proof.Machine.execSealRequestMessage dom s
  | .sealPrep dom leg => Sys2Proof.Machine.execSealPrep dom leg s
  | .sealDrainBegin x => Sys2Proof.Machine.execSealDrainBegin x s
  | .sealWaitLimit dom => Sys2Proof.Machine.execSealWaitLimit dom s
  | .sealSave dom => Sys2Proof.Machine.execSealSave dom s
  | .sealApplyAck dom member => Sys2Proof.Machine.execSealApplyAck dom member s
  | .sealReady dom member => Sys2Proof.Machine.execSealReady dom member s
  | .sealCommitWitness dom leg => Sys2Proof.Machine.execSealCommitWitness dom leg s
  | .sealCut dom => Sys2Proof.Machine.execSealCut dom s
  | .sealApply dom leg => Sys2Proof.Machine.execSealApply dom leg s
  | .memberSilence dom member => Sys2Proof.Machine.execMemberSilence dom member s
  | .uncorrectableError site => Sys2Proof.Machine.execUncorrectableError site s
  | .correctedError site => Sys2Proof.Machine.execCorrectedError site s
  | .dieFault die => Sys2Proof.Machine.execDieFault die s
  | .railUndervolt base => Sys2Proof.Machine.execRailUndervolt base s
  | .rollbackAbort x => Sys2Proof.Machine.execRollbackAbort x s
  | .rollbackStop x leg => Sys2Proof.Machine.execRollbackStop x leg s
  | .rollbackDone dom member => Sys2Proof.Machine.execRollbackDone dom member s
  | .rollbackResume dom => Sys2Proof.Machine.execRollbackResume dom s
  | .powerSample power => Sys2Proof.Machine.execPowerSample power s
  | .powerUp => Sys2Proof.Machine.execPowerUp s
  | .fundamentalReset => Sys2Proof.Machine.execFundamentalReset s
  | .bootVerify x => Sys2Proof.Machine.execBootVerify x s
  | .bootInit x => Sys2Proof.Machine.execBootInit x s
  | .bootEnum x => Sys2Proof.Machine.execBootEnum x s
  | .bar2Read off n => Sys2Proof.Machine.execBar2Read off n s
  | .bar2Write off bytes => Sys2Proof.Machine.execBar2Write off bytes s
  | .registerWrite x v => Sys2Proof.Machine.execRegisterWrite x v s
  | .qtailWrite ctx q v => Sys2Proof.Machine.execQtailWrite ctx q v s
  | .queueEnable ctx q => Sys2Proof.Machine.execQueueEnable ctx q s
  | .queueDisable ctx q => Sys2Proof.Machine.execQueueDisable ctx q s
  | .invalidatePage ctx size => Sys2Proof.Machine.execInvalidatePage ctx size s
  | .invalidateContext ctx size => Sys2Proof.Machine.execInvalidateContext ctx size s
  | .invalidationComplete ctx => Sys2Proof.Machine.execInvalidationComplete ctx s
  | .invctlRead ctx => Sys2Proof.Machine.execInvctlRead ctx s
  | .ctxstatRead ctx => Sys2Proof.Machine.execCtxstatRead ctx s
  | .cmdstatRead => Sys2Proof.Machine.execCmdstatRead s
  | .handlerWrite ctx v => Sys2Proof.Machine.execHandlerWrite ctx v s
  | .ctxcfgWrite ctx v => Sys2Proof.Machine.execCtxcfgWrite ctx v s
  | .manifestStage ctx entry word v => Sys2Proof.Machine.execManifestStage ctx entry word v s
  | .manifestInstall ctx entry v => Sys2Proof.Machine.execManifestInstall ctx entry v s
  | .pwrlimWrite v => Sys2Proof.Machine.execPwrlimWrite v s
  | .i3cPwrlimWrite v => Sys2Proof.Machine.execI3cPwrlimWrite v s
  | .domcreateMatch dom agree => Sys2Proof.Machine.execDomcreateMatch dom agree s
  | .domcreateTimeout dom => Sys2Proof.Machine.execDomcreateTimeout dom s
  | .injectFire k => Sys2Proof.Machine.execInjectFire k s
  | .mailboxUnknownCode code => Sys2Proof.Machine.execMailboxUnknownCode code s
  | .i3cAttest nonce => Sys2Proof.Machine.execI3cAttest nonce s
  | .i3cRasRead => Sys2Proof.Machine.execI3cRasRead s
  | .attest => Sys2Proof.Machine.execAttest s
  | .fuseadv => Sys2Proof.Machine.execFuseadv s
  | .cacheput => Sys2Proof.Machine.execCacheput s
  | .cacheget => Sys2Proof.Machine.execCacheget s
  | .halt => Sys2Proof.Machine.execHalt s
  | .unhalt => Sys2Proof.Machine.execUnhalt s
  | .ctxresume => Sys2Proof.Machine.execCtxresume s
  | .ctxend => Sys2Proof.Machine.execCtxend s
  | .release => Sys2Proof.Machine.execRelease s
  | .ctxcreate => Sys2Proof.Machine.execCtxcreate s
  | .ctxfree => Sys2Proof.Machine.execCtxfree s
  | .accset => Sys2Proof.Machine.execAccset s
  | .fabcfg => Sys2Proof.Machine.execFabcfg s
  | .routeset => Sys2Proof.Machine.execRouteset s
  | .keyinst => Sys2Proof.Machine.execKeyinst s
  | .linkstat => Sys2Proof.Machine.execLinkstat s
  | .linkctlRetire => Sys2Proof.Machine.execLinkctlRetire s
  | .linkctlUp => Sys2Proof.Machine.execLinkctlUp s
  | .domcreate => Sys2Proof.Machine.execDomcreate s
  | .domjoin => Sys2Proof.Machine.execDomjoin s
  | .domfree => Sys2Proof.Machine.execDomfree s
  | .sealreq => Sys2Proof.Machine.execSealreq s
  | .injectUe => Sys2Proof.Machine.execInjectUe s
  | .injectDieFault => Sys2Proof.Machine.execInjectDieFault s
  | .injectRollback => Sys2Proof.Machine.execInjectRollback s
  | .injectPortRetire => Sys2Proof.Machine.execInjectPortRetire s
  | .injectKeyStarve => Sys2Proof.Machine.execInjectKeyStarve s
  | .coreretRetire => Sys2Proof.Machine.execCoreretRetire s
  | .coreretReturn => Sys2Proof.Machine.execCoreretReturn s
  | .fwstage => Sys2Proof.Machine.execFwstage s
  | .powerLoss => Sys2Proof.Machine.execPowerLoss s

end Sys2Proof.Machine
end

