-- ==== Sys2Proof/Machine/Names.lean ====
section
/-! DEFINITION. The registers that an instruction names, as its fields do: what an interlock compares with a result that is still to be
written (R219, R387). -/

namespace Sys2Proof

open Sys2Proof.Machine

/-- Registers that an instruction reads or writes: the first of each run, and how many. -/
structure Names where
  v : List (Nat × Nat) := []
  s : List (Nat × Nat) := []

/-- The names of two parts together. -/
def Names.and (a b : Names) : Names := ⟨a.v ++ b.v, a.s ++ b.s⟩

/-- Registers of one value: a pair where it is wide. -/
def regSpan (wd : Bool) : Nat := if wd then 2 else 1

/-- The V register of a source. -/
def VSrc.names (wd : Bool) : VSrc → Names
  | .reg n => { v := [(n.toNat, regSpan wd)] }
  | .latch _ => {}

/-- The registers of an operand. -/
def Opnd.names (wd : Bool) : Opnd → Names
  | .v x => x.names wd
  | .s n => { s := [(n.toNat, regSpan wd)] }
  | .imm _ => {}

/-- The registers of a memory base. -/
def Base.names (wd : Bool) : Base → Names
  | .v x => x.names wd
  | .s n => { s := [(n.toNat, regSpan wd)] }

/-- n S registers from a field. -/
def sNames (x : BitVec 6) (n : Nat) : Names := { s := [(x.toNat, n)] }

/-- The register of a uniform source. -/
def SOp.names (wd : Bool) : SOp → Names
  | .s n => sNames n (regSpan wd)
  | .imm _ => {}

/-- A V destination that is written back. -/
def dNames (wb : Wb) (d : BitVec 8) (wd : Bool) : Names := if wb.nowb then {} else (VSrc.reg d).names wd

/-- The shapes of vector instructions. -/
def IUn.names (o : IUn) : Names := (dNames o.wb o.d (wide o.ty)).and (o.a.names (wide o.ty))
def IBin.names (o : IBin) (b : Bool) : Names := ((dNames o.wb o.d (wide o.ty)).and (o.a.names (wide o.ty))).and (o.b.names b)
def ITern.names (o : ITern) (c : Bool) : Names :=
  (((dNames o.wb o.d (wide o.ty)).and (o.a.names (wide o.ty))).and (o.b.names (wide o.ty))).and (o.c.names c)
def FUn.names (o : FUn) : Names := (dNames o.wb o.d false).and (o.a.names false)
def FBin.names (o : FBin) : Names := ((dNames o.wb o.d false).and (o.a.names false)).and (o.b.names false)
def FTern.names (o : FTern) : Names :=
  (((dNames o.wb o.d false).and (o.a.names false)).and (o.b.names false)).and (o.c.names false)
def CvtOp.names (o : CvtOp) : Names := (dNames o.wb o.d (wide o.dt)).and (o.a.names (wide o.st))
def ShflOp.names (o : ShflOp) : Names := ((dNames o.wb o.d (wide o.ty)).and (o.a.names (wide o.ty))).and (o.b.names false)
def ReduxOp.names (o : ReduxOp) : Names := (dNames o.wb o.d (wide o.ty)).and (o.a.names (wide o.ty))

/-- The shapes of uniform instructions. -/
def SBin.names (o : SBin) (b : Bool) : Names :=
  ((sNames o.d (regSpan (wide o.ty))).and (sNames o.a (regSpan (wide o.ty)))).and (o.b.names b)
def SMov.names (o : SMov) : Names := (sNames o.d (regSpan (wide o.ty))).and (o.b.names (wide o.ty))

/-- The shapes of memory instructions; `g` says that the base is an address of 64 bits. -/
def LdOp.names (o : LdOp) (g : Bool) : Names := (dNames o.wb o.d (wide o.ty)).and (o.base.names g)
def StOp.names (o : StOp) (g : Bool) : Names := (o.base.names g).and (o.data.names (wide o.ty))
def AArg.names (wd : Bool) : AArg → Names
  | .one b _ => b.names wd
  | .cas c n => (c.names wd).and (n.names wd)
def AtomOp.names (o : AtomOp) (g : Bool) : Names := ((dNames o.wb o.d (wide o.ty)).and (o.base.names g)).and (o.arg.names (wide o.ty))
def BarOp.names (o : BarOp) (d : Bool) : Names :=
  (if d then dNames o.wb o.d false else {}).and ((o.base.names false).and (o.data.names false))

/-- The data of an XATOM: a CAS reads its new value behind its compare value (R337). -/
def XatomOp.dataNames (o : XatomOp) : Names :=
  match o.op, o.data with
  | .cas, .reg n => { v := [(n.toNat, 2 * regSpan (wide o.ty))] }
  | _, x => x.names (wide o.ty)

/-- The V and S registers that an instruction names. -/
def Instr.names : Instr → Names
  | .iadd o | .isub o | .imul o | .imulhi o | .imin o | .imax o | .and o | .or o | .xor o | .bfx o => o.names (wide o.ty)
  | .shl o | .shr o | .sar o | .rotl o => o.names false
  | .iadd3 o | .imad o | .bfi o | .permb o => o.names (wide o.ty)
  | .funnel o => o.names false
  | .iabs o | .ineg o | .not o | .popc o | .clz o | .ctz o | .brev o => o.names
  | .lop3 o => ((dNames o.wb o.d (wide o.ty)).and (o.a.names (wide o.ty))).and (o.b.names (wide o.ty))
  | .sel o => ((dNames o.wb o.d (wide o.ty)).and (o.a.names (wide o.ty))).and (o.b.names (wide o.ty))
  | .mov o => (dNames o.wb o.d (wide o.ty)).and (o.b.names (wide o.ty))
  | .movi o => dNames o.wb o.d (wide o.ty)
  | .movk o => (VSrc.reg o.d).names (wide o.ty)
  | .icmp o => (o.a.names (wide o.ty)).and (o.b.names (wide o.ty))
  | .pmov o => o.a.names false
  | .sadd o | .ssub o | .smul o | .sand o | .sor o | .sxor o => o.names (wide o.ty)
  | .sshl o | .sshr o => o.names false
  | .smov o | .smovi o => o.names
  | .scmp o => ((sNames o.d 1).and (sNames o.a (regSpan (wide o.ty)))).and (o.b.names (wide o.ty))
  | .movsr o => dNames o.wb o.d (o.name == .clock)
  | .fadd o | .fsub o | .fmul o | .fmin o | .fmax o => o.names
  | .ffma o => o.names
  | .fcmp o => (o.a.names false).and (o.b.names false)
  | .fclass o | .frcp o | .frsq o | .fsqrt o | .fexp2 o | .flog2 o | .fsin o | .fcos o | .ftanh o => o.names
  | .frnd o => (dNames o.wb o.d false).and (o.a.names false)
  | .cvt o | .cvtsr o => o.names
  | .qenc o | .qdec o => (dNames o.wb o.d false).and (o.a.names false)
  | .pack2 o => ((dNames o.wb o.d false).and (o.a.names false)).and (o.b.names false)
  | .unpack2 o => (dNames o.wb o.d true).and (o.a.names false)
  | .shfl o | .shfl16 o => o.names
  | .ballot o | .ballot16 o => dNames o.wb o.d false
  | .redux o | .scan o => o.names
  | .matchLanes o => (dNames o.wb o.d false).and (o.a.names (wide o.ty))
  | .bcast o => (dNames o.wb o.d (wide o.ty)).and (o.a.names (wide o.ty))
  | .ld o => o.names true
  | .ldl o => o.names false
  | .st o => o.names true
  | .stl o => o.names false
  | .ldx o => ((dNames o.wb o.d false).and (o.base.names true)).and (o.idx.names false)
  | .stx o => ((o.base.names true).and (o.data.names false)).and (o.idx.names false)
  | .pref o => o.base.names true
  | .cctlIv _ x _ => x.names true
  | .accrd o => (dNames o.wb o.d (wide o.ty)).and (o.base.names false)
  | .accwr o => (o.base.names false).and (o.data.names (wide o.ty))
  | .atom o => o.names true
  | .atoml o => o.names false
  | .red o => (o.base.names true).and (o.data.names (wide o.ty))
  | .barinit o => (o.base.names false).and (o.data.names false)
  | .bararrive o | .barwait o | .bartest o => o.names true
  | .cpy o => ((o.src.names (o.dir == .gl)).and (o.dst.names (o.dir == .lg))).and (match o.cnt with | .v x => x.names false | .imm _ => {})
  | .tcpy o => ((sNames o.rcd 1).and (sNames o.org 4)).and (sNames o.dense (if o.fo then 4 else 3))
  | .cpywait _ _ m => sNames m 2
  | .tagff _ d m => (sNames d 1).and (sNames m 2)
  | .tagrd _ d _ | .tstat _ d | .ctlrd _ d _ | .traprd _ d _ => sNames d 1
  | .legrd _ d => sNames d 2
  | .tcfg _ _ v => sNames v 1
  | .tld o | .tst o => sNames o.addr 1
  | .tmma _ _ d => sNames d 1
  | .tdrain o => ((sNames o.desc 4).and (sNames o.org 4)).and (sNames o.org2 4)
  | .tacc _ _ _ _ b => sNames b 1
  | .xld o => (dNames o.wb o.d (wide o.ty)).and (o.off.names false)
  | .xst o => (o.off.names false).and (o.data.names (wide o.ty))
  | .xatom o => ((if o.h.k.sett.isSome then dNames o.wb o.d (wide o.ty) else {}).and (o.off.names false)).and o.dataNames
  | .xsend _ _ _ d b => (sNames d 4).and (sNames b 1)
  | .cvopen _ _ e => sNames e 1
  | .fencef _ _ _ b _ => sNames b 1
  | .slotrsv _ d e b => ((sNames d 1).and (sNames e 1)).and (sNames b 1)
  | .slotrel _ j | .slotrelFault _ j => sNames j 1
  | .chunk _ c => sNames c 1
  | .waymark _ d _ => sNames d 6
  | .locq _ k d a => (sNames d 1).and (sNames a (if k == .addr then 2 else 1))
  | .launch _ d r q => ((sNames d 1).and (sNames r 1)).and (sNames q 1)
  | .prio _ p => sNames p 1
  | .ctlwr _ _ n => sNames n 1
  | .nextx _ n _ => sNames n 1
  | .assert _ n _ => sNames n 2
  | _ => {}

end Sys2Proof
end

