-- ==== Sys2Proof/Machine/Issue.lean ====
section
/-! DEFINITION. How a partition issues: waking, choosing the current issue group, region entries, waits, interlocks and the
fetched slot (R26 to R31, R39, R40, R156, R164, R184, R219, R230, R384, R387, R390, R502, R503). -/

namespace Sys2Proof.Machine

/-! ## Who may issue -/

/-- A group that issues or waits on a core: not saved, and not between segments once it is asked to stop (R43). -/
def Group.active (g : Group) (ig : IGroup) : Bool :=
  (g.place == .resident || (g.place.stops && !ig.atEntry)) && (g.trap.isNone || ig.handler)

/-- Negative replies and operations that count at a region entry: in handler mode those of the handler alone (R502). -/
def Group.counts (g : Group) (handler : Bool) (op : Nat) : Bool :=
  match handler, g.trap with
  | true, some t => decide (t.opBase ≤ op)
  | _, _ => true

/-- The negative reply that a region entry delivers to an issue group (R164, R399). -/
def Group.negEntry (g : Group) (ig : IGroup) : Option NegReply :=
  g.negs.find? (fun n => g.negFor ig n && g.counts ig.handler n.op)

/-- A custody hold stands at a region entry (R156). -/
def Group.custodyHeld (g : Group) (handler : Bool) : Bool := g.ops.any (fun o => o.custody && g.counts handler o.id)

/-! ## Waking -/

/-- The issue group waits no longer, and `f` changes it. -/
def State.unwait (s : State) (w : Who) (f : IGroup → IGroup) : State :=
  s.modGroup w.core w.slot w.grp (fun g => g.modIg w.ig.id (fun ig => f { ig with wait := .none }))

/-- A copy of the issuer that waits no longer. -/
def Who.awake (w : Who) : Who := { w with ig := { w.ig with wait := .none } }

/-- Let one issue group's wait end where its condition holds. -/
def State.wake (s : State) (w : Who) : State :=
  match w.ig.wait with
  | .none => s
  | .chunk => s
  | .sync _ => s
  | .tok mask _ =>
    match w.g.negAt w.ig mask with
    | some n => s.takeNeg w n
    | none => if w.g.tokPending mask then s else s.unwait w IGroup.advance
  | .slot mask =>
    match w.g.negAt w.ig mask with
    | some n => s.takeNeg w n
    | none => if w.g.tokPending mask then s else s.unwait w (fun ig => { ig with waited := true })
  | .clk till _ => if till ≤ s.clock then s.unwait w id else s
  | .bar ls o =>
    if s.barReady w.core w.slot w.agent ls then ({ s.unwait w id with switch := false }).barPass w.awake o ls else s
  | .cpy mask any m =>
    match w.b.faultTag mask with
    | some k => (s.unwait w id).tagTrap w.awake m k
    | none => if w.b.tagsDone mask any then (s.passTags w mask any).unwait w IGroup.advance else s
  | .grow _ _ => s.tryResize w.core w.slot w.grp
  | .way _ _ _ => s.tryWay w.core w.slot w.grp
  | .custody =>
    if (w.g.negEntry w.ig).isSome || !w.g.custodyHeld w.ig.handler then s.unwait w id else s

/-- The places of a partition's issue groups: slot, group, issue group. -/
def State.partIgs (s : State) (core part : Nat) : List (Nat × Nat × Nat) :=
  (s.core core).slots.flatMap (fun x => x.2.groups.flatMap (fun g =>
    if g.part = part then g.igs.map (fun ig => (x.1, g.idx, ig.id)) else []))

/-- Wake the issue groups of a partition. -/
def State.wakeAll (s : State) (core part : Nat) : State :=
  (s.partIgs core part).foldl (fun s x =>
    match s.whoOf core x.1 x.2.1 x.2.2 with
    | none => s
    | some w => if s.ctxIssues w.ctx && !w.b.held && w.g.active w.ig then s.wake w else s) s

/-! ## The current issue group (R384) -/

/-- The issue groups of a partition that may issue. -/
def State.runnables (s : State) (core part : Nat) : List Who :=
  (s.partIgs core part).filterMap (fun x =>
    match s.whoOf core x.1 x.2.1 x.2.2 with
    | some w => if s.mayIssue w then some w else none
    | none => none)

/-- The one that has waited longest. -/
def oldest : List Who → Option Who
  | [] => none
  | w :: t =>
    match oldest t with
    | none => some w
    | some v => if v.ig.since < w.ig.since then some v else some w

/-- The current issue group where it may issue, else the oldest-waiting. -/
def State.choose (s : State) (core part : Nat) : Option Who :=
  let rs := s.runnables core part
  match (listGet {} (s.core core).parts part).cur with
  | some (slot, grp, id) =>
    match rs.find? (fun w => w.slot == slot && w.grp == grp && w.ig.id == id) with
    | some w => some w
    | none => oldest rs
  | none => oldest rs

/-! ## Composite issue (R30, R384, log 41) -/

/-- An issue group outside legacy mode and handlers, which may issue together with others at a scheduling point. -/
def Who.fresh (w : Who) : Bool := !w.ig.handler && w.ig.trap.isNone && !w.kern.legacy

/-- The threads of `v` may be added to those of others that issue with `w`: one block and one place of a segment, other groups, lanes that
none of them occupies, equal allotments (R30). -/
def Who.joins (w v : Who) (others : List Who) : Bool :=
  v.fresh && v.slot == w.slot && v.ig.pc == w.ig.pc && v.ig.allot == w.ig.allot
    && others.all (fun x => x.grp != v.grp && x.live &&& v.live == 0)

/-- The composite issue that a partition forms around a newly chosen issue group, of those that `pick` names by their place among the
runnable ones. -/
def Who.composite (w : Who) (rs : List Who) (pick : LaneMask) : Option Comp :=
  if !w.fresh then none
  else
    let all := (rs.zipIdx.filter (fun x => pick.getLsbD (x.2 % 32))).foldl (fun a x => if w.joins x.1 a then a ++ [x.1] else a) [w]
    if all.length < 2 then none
    else some { slot := w.slot, gen := w.b.gen, pc := w.ig.pc, lead := (w.grp, w.ig.id), igs := all.map (fun x => (x.grp, x.ig.id)) }

/-- What is left of a composite issue: the slot goes on while a constituent has it to issue, then the next slot begins, unless one has met
a scheduling point or issues no longer. -/
def Comp.next (c : Comp) (rs : List Who) : Option Comp :=
  let ms := rs.filter c.holds
  if ms.any (fun w => w.ig.pc == c.pc) then some c
  else
    match ms with
    | w :: _ =>
      if !c.broken && ms.length == c.igs.length && ms.all (fun x => x.ig.pc == w.ig.pc && !x.ig.atEntry)
      then some { c with pc := w.ig.pc, drawn := none } else none
    | [] => none

/-- A partition's composite issue comes to its next state; with its end its constituents have met a scheduling point (R28). -/
def State.compTurn (s : State) (core part : Nat) : State :=
  match (listGet {} (s.core core).parts part).comp with
  | none => s
  | some c =>
    let rs := s.runnables core part
    let n := c.next rs
    let s := s.modPart core part (fun p => { p with comp := n })
    if n.isSome then s
    else (rs.filter c.holds).foldl (fun s w =>
      let (since, s) := s.fresh
      (s.modGroup core w.slot w.grp (fun g => g.reschedule w.ig.id since)).clearCur w) s

/-- The issue group of a partition's turn: the next constituent of its composite issue, or the one chosen, around which it may form one at
a scheduling point (R384). -/
def State.chooseComp (s : State) (core part : Nat) : Option (Who × Option Comp) :=
  let p : Part := listGet {} (s.core core).parts part
  let rs := s.runnables core part
  match p.comp.bind (fun c => rs.find? (fun w => c.holds w && w.ig.pc == c.pc)) with
  | some w => some (w, p.comp)
  | none =>
    match s.choose core part with
    | none => none
    | some w => some (w, if p.cur == some (w.slot, w.grp, w.ig.id) then none else w.composite rs s.joint)

/-- Make an issue group the current one of its partition. -/
def State.setCur (s : State) (w : Who) : State :=
  { s.modPart w.core w.part (fun p => { p with cur := some (w.slot, w.grp, w.ig.id) }) with
    focus := (w.core, w.part) }

/-- A partition's composite issue is now `c`. -/
def State.setComp (s : State) (core part : Nat) (c : Option Comp) : State :=
  s.modPart core part (fun p => { p with comp := c })

/-! ## Interlocks on remote results (R387) -/

/-- A remote result that is still to be written. -/
def Group.outstanding (g : Group) (o : RemOp) : Bool :=
  o.dest != .nothing && !g.negs.any (fun n => n.op == o.id) && g.results.any (fun r => r.id == o.result)

/-- The instruction writes a V result, and with it a latch (R223). -/
def writesLatch (r : Raw) (i : Instr) : Bool :=
  let m := r.major.toNat
  i.writesReg && decide (m ≤ 0x14) && (m != 5 || r.minor == 0x0B) && m != 0x11 && m != 0x12 && !(m == 0x13 && r.minor == 8)

/-- The word reads latch l. -/
def readsLatch (r : Raw) (l : BitVec 2) : Bool :=
  [(0, r.src0), (1, r.src1), (2, r.src2)].any (fun x => r.latched x.1 && x.2.setWidth 2 == l)

/-- A slot is held by a remote result: it names a register of the destination, or reads or writes a latch that the result still writes
(R387, log 23). -/
def heldBy (r : Raw) (i : Instr) (o : RemOp) : Bool :=
  match o.dest with
  | .v d wb ty latch =>
    (!wb.nowb && i.names.v.any (fun f => runsMeet f.1 f.2 d.toNat (regSpan (wide ty))))
      || (latch != 0 && ((writesLatch r i && r.ldst == wb.ldst) || readsLatch r wb.ldst))
  | .s d => i.names.s.any (fun f => runsMeet f.1 f.2 d.toNat 1)
  | .nothing => false

/-- The slot is held by an interlock. -/
def Who.interlocked (w : Who) (r : Raw) (i : Instr) : Bool := w.g.ops.any (fun o => w.g.outstanding o && heldBy r i o)

/-! ## The slot about to issue -/

/-- Row 1 of R230 at fetch: the bundle, and a segment entry reached without a terminator (R27). -/
def IGroup.bundleOk (ig : IGroup) (b : Bundle) : Bool := b.ok && !(b.segEntry && !ig.jumped)

/-- The issue group passes the region entry of its bundle (R39). -/
def State.enterRegion (s : State) (w : Who) : State :=
  s.modGroup w.core w.slot w.grp (fun g =>
    forLanes w.live (g.modIg w.ig.id (fun ig => { ig with entered := true }))
      (fun g l => g.modThread l (fun t => { t with region := bundleOf w.ig.pc })))

/-- The wait named by a slot control (R218). -/
def waitMask (c : BitVec 20) : BitVec 8 := c.extractLsb' 5 8

/-- A row 4 fault is raised without waiting (R503). -/
def waitsFirst : Instr → Bool
  | .illegalWord _ _ .slotControl => false
  | _ => true

/-- A word that its encoding alone makes a fault names no register: no interlock holds it (R230, R503). -/
def namesRegs : Instr → Bool
  | .illegalWord _ _ _ => false
  | .extensionWord _ _ => false
  | _ => true

/-- What a partition does with its current issue group. -/
inductive Issued where
  /-- the slot's instruction is executed -/
  | run (s : State) (i : Instr)
  /-- a trap or a wait took its place -/
  | done (s : State)
  /-- an interlock holds the slot -/
  | held (s : State)
  | idle (s : State)

/-- The issue groups that issue a slot together and have not issued it yet. -/
def State.fellows (s : State) (w : Who) : List Who :=
  match s.compOf w with
  | some c => (s.runnables w.core w.part).filter (fun v => c.holds v && v.ig.pc == w.ig.pc)
  | none => [w]

/-- A slot's WAIT holds an issue group of its own. -/
def Who.slotPending (w : Who) (mask : BitVec 8) : Bool := !w.ig.waited && w.g.tokPending mask

/-- A WAIT that actually waits, for all that issue the slot together: those whose tokens are pending wait, the others have met a
scheduling point, and they issue together no longer; it is counted once (R219, R390, R393). -/
def State.waitSlot (s : State) (w : Who) (mask : BitVec 8) : State :=
  (((s.fellows w).foldl (fun s v => if v.slotPending mask then s.waitOn v (.slot mask) else s.schedule v) s).setComp w.core w.part none).bump
    (w.partCtr s + 0x28) 1

/-- The slot of a fetched bundle: its WAIT, which under composite issue must find every constituent's tokens ready (R219), then its
interlocks, then its instruction. A row 4 fault heeds neither, and a fault of rows 2, 3 and 5 its WAIT alone (R503). -/
def State.slotTurn (s : State) (w : Who) (b : Bundle) : Issued :=
  let k := slotOf w.ig.pc
  let r := Raw.split (b.ctl k) (b.word k)
  let i := r.decode w.kern.legacy
  let mask := waitMask (b.ctl k)
  if mask != 0 && !w.ig.waited && waitsFirst i && (w.g.negAt w.ig mask).isSome then
    match w.g.negAt w.ig mask with
    | some n => .done (s.takeNeg w n)
    | none => .done s
  else if mask != 0 && waitsFirst i && (s.fellows w).any (fun v => v.slotPending mask) then .done (s.waitSlot w mask)
  else if namesRegs i && w.interlocked r i then .held s
  else .run s i

/-- The bundle at the issue group's PC: its checks at fetch, its region entry, then its slot. -/
def State.bundleTurn (s : State) (w : Who) (b : Bundle) : Issued :=
  let k := slotOf w.ig.pc
  if !w.ig.bundleOk b then .run s (.illegalWord (b.ctl k) (b.word k) .bundleAtFetch)
  else if b.regionEntry && k == 0 && !w.ig.entered then
    match w.g.negEntry w.ig with
    | some n => .done (s.takeNeg w n)
    | none =>
      if w.g.custodyHeld w.ig.handler then .done (s.waitOn w .custody)
      else
        let s := s.enterRegion w
        match s.whoOf w.core w.slot w.grp w.ig.id with
        | some w => s.slotTurn w b
        | none => .done s
  else s.slotTurn w b

/-- The pages of the issue group's bundle. -/
def State.codePieces (s : State) (w : Who) : Except Refuse (List Piece) :=
  s.pieces w.core w.ctx fetchNeed (bundleOf w.ig.pc).toNat 32

/-- A fetch keeps its translations, and its bundle in the instruction cache of 64 KiB (R3, R65, R396). The cache's organisation is the
model's (DESIGN CHOICE, log 79): one bundle an entry, any in any place, the least recently fetched giving way; every fetch reads the home. -/
def State.noteFetch (s : State) (w : Who) : State :=
  match s.codePieces w with
  | .error _ => s
  | .ok ps =>
    let at_ := ps.filterMap (fun p => match p.x.target (s.ctx w.ctx).pasid.toNat p.va with | .dev a => some a | _ => none)
    (s.fillAll w.core ps).modCore w.core (fun k => { k with icache := ((at_.take 1) ++ k.icache.filter (fun a => !at_.contains a)).take 2048 })

/-- The first address of the bundle that its home refuses (R462). -/
def State.fetchRefused (s : State) (w : Who) : Option Nat :=
  match s.codePieces w with
  | .error _ => none
  | .ok ps => s.codeRefused w.ctx ps

/-- The turn of an issue group: a trap that waits, the fetch, the bundle. A home that refuses the fetch ends the context (R462). -/
def State.igTurn (s : State) (w : Who) : Issued :=
  if w.trapDue.isSome then .done (s.deliver w)
  else
    match s.fetchBundle w.core w.ctx (bundleOf w.ig.pc), s.fetchRefused w with
    | .error r, _ =>
      let s := s.touchCore w.core w.ctx (bundleOf w.ig.pc).toNat
      .done (s.takeTrap w (s.record w w.live (refuseFlt r (lowest w.live) 0)) 0)
    | .ok _, some pa =>
      .done (s.homeRefuses (w.agent (lowest w.live)) false pa w.ig.pc (wd w.b.task.node) (wd w.b.task.lin) (s.legOf w.ctx))
    | .ok b, none => (s.noteFetch w).bundleTurn w b

/-- What a slot that issues counts (R32, R393): lanes beyond the first constituent of a composite issue; and at the first slot of a
bundle the fetches that its lanes share. -/
def State.countIssue (s : State) (w : Who) (c : Option Comp) : State :=
  let further := match c with | some c => c.lead != (w.grp, w.ig.id) | none => false
  let n := (lanesOf w.live).length
  let s := if further then s.bump (w.partCtr s + 0x40) n else s
  if slotOf w.ig.pc = 0 then s.bump (w.partCtr s + 0x48) (if further then n else n - 1) else s

/-- An issue group still stands runnable at the slot where it stood: the slot has not issued. -/
def State.standsStill (t : State) (w : Who) : Bool :=
  match t.whoOf w.core w.slot w.grp w.ig.id with
  | some v => v.ig.pc == w.ig.pc && v.ig.wait == .none && v.ig.handler == w.ig.handler && v.ig.trap == w.ig.trap
  | none => false

/-- What becomes of a slot that the issuer of s has executed: it counts where it has issued, a slot that was held when it is tried again. -/
def State.slotIssued (s : State) : Host.Outcome State Fault Refusal → Host.Outcome State Fault Refusal
  | .next t =>
    match s.issuer with
    | some w => .next (if t.standsStill w then t else t.countIssue w (s.compOf w))
    | none => .next t
  | x => x

/-- The turn of a partition. -/
def State.partTurn (s : State) (core part : Nat) (switch : Bool) : Issued :=
  let s := (s.wakeAll core part).compTurn core part
  match s.chooseComp core part with
  | none => .idle s
  | some (w, c) =>
    ({ (s.setCur w).setComp core part c with switch := switch }).igTurn w

/-! ## What happens without an agenda (log 1) -/

/-- The commands of the mailbox: each acts only while the code in CMD is its own (R429). -/
def mailboxCommands (code : Word) : List Instr :=
  [.attest, .fuseadv, .cacheput, .cacheget, .halt, .unhalt, .ctxresume, .ctxend, .release, .ctxcreate, .ctxfree, .accset, .fabcfg,
   .routeset, .keyinst, .linkstat, .linkctlRetire, .linkctlUp, .domcreate, .domjoin, .domfree, .sealreq, .injectUe, .injectDieFault,
   .injectRollback, .injectPortRetire, .injectKeyStarve, .coreretRetire, .coreretReturn, .fwstage, .mailboxUnknownCode code]

/-- What a block and its groups may do beside issuing. -/
def Block.events (b : Block) (core slot : Nat) : List Instr :=
  b.groups.flatMap (fun g =>
      g.results.map (fun r => Instr.resultWriteback core slot g.idx r.id)
        ++ (if g.over then [Instr.groupRelease core slot g.idx] else [])
        ++ (match g.place with
            | .stopping _ => [Instr.evictionStopTimeout core slot g.idx, .blockSave ⟨core, slot, some g.idx⟩]
            | _ => []))
    ++ b.cmds.flatMap (fun (c : Cmd) =>
        [Instr.commandComplete core slot c.id none, .tmmaSubblock core slot c.id, .followOnStart core slot c.id])
    ++ (if b.leaving then [Instr.blockSave ⟨core, slot, none⟩] else [])
    ++ [.blockTaskRetire core slot, .watchdogExpiry core slot]

/-- What a core may do beside issuing. -/
def Core.events (k : Core) (core : Nat) : List Instr :=
  k.slots.flatMap (fun x => x.2.events core x.1)
    ++ k.stores.map (fun e => if e.place.isLoc then Instr.bankRequestComplete core e.id else .storeDrain core e.id)
    ++ (if k.slots.isEmpty then [] else (List.range 4).map (fun p => Instr.growGrant core p))

/-- What becomes of a packet. -/
def Flight.events (f : Flight) : List Instr :=
  [.firstHopCustody f.p.id, .packetArrival f.p.id, .slotrsvRequest f.p.id, .packetHop (.own f.p.id)]
    ++ (match f.answer with
        | some (.neg k) => [Instr.negativeReply f.p.id k]
        | some (.data r) => [.remoteReply f.p.id r, .custodyAck f.p.id]
        | some .ack => [.custodyAck f.p.id]
        | none => [])

/-- Steps of the machine that wait for nothing but their turn. Those that another package, an error or a choice of the machine
brings about stand in the agenda only. -/
def State.pendingEvents (s : State) : List Instr :=
  s.cores.flatMap (fun k => k.2.events k.1)
  ++ s.l1s.flatMap (fun x => (x.2.invs.zipIdx.filter (fun i => i.1.arrived.isNone)).map (fun i => Instr.invalidationArrival x.1 i.2))
  ++ (List.range s.homeHeld.length).map (fun k => Instr.homeAgentWrite (.held k))
  ++ s.flights.flatMap Flight.events
  ++ s.ctxs.flatMap (fun c =>
      c.2.queues.map (fun q => Instr.itineraryAdmit c.1 q.1)
        ++ (if c.2.invBusy then [Instr.invalidationComplete c.1] else [])
        ++ (if c.2.state == .ending then [Instr.contextEnded c.1] else []))
  ++ s.halts.map (fun h => Instr.caravanHaltComplete ⟨h.ctx, h.members, []⟩)
  ++ s.domains.flatMap (fun d => [Instr.sealIntervalExpiry d.num, .sealWaitLimit d.num, .sealDrainBegin ⟨d.num, []⟩, .sealSave d.num])
  ++ (List.range s.injects.length).map Instr.injectFire
  ++ (if s.itins.any (fun t => t.tasks.any t.waits) then (List.range 32).map Instr.blockPlace else [])
  ++ s.saved.zipIdx.flatMap (fun x => (s.returnCores x.1).map (Instr.blockRestore x.2))
  ++ (if s.sys.busy then mailboxCommands s.sys.cmd else [])

/-- The partitions, lowest first. -/
def State.partitions (s : State) : List (Nat × Nat) := s.cores.flatMap (fun k => (List.range 4).map (fun p => (k.1, p)))

/-- An issue group of the partition may issue after waking. -/
def State.canIssue (s : State) (p : Nat × Nat) : Bool :=
  match (s.wakeAll p.1 p.2).choose p.1 p.2 with
  | some _ => true
  | none => false

/-- n aclk pass; no filter holds an invalidation for more than 4,096 of them (R91). -/
def State.tick (s : State) (n : Nat) : State :=
  { s with
    clock := s.clock + n
    time := s.time + n * aclkUnits s.sys.aclkMhz.toNat
    l1s := s.l1s.map (fun (p, k) => (p, k.expire (s.clock + n))) }

/-- A step of the machine or its surroundings, not an instruction of a program. -/
def isEvent : Instr → Bool
  | .extensionWord _ _ => false
  | .illegalWord _ _ _ => false
  | i => i.ctl.isNone

/-- A core gives up the k-th of its translations. -/
def State.dropXlate (s : State) (core k : Nat) : State := s.modCore core (fun c => { c with tlb := listDrop c.tlb k })

/-- A compute die gives up the k-th of its translations. -/
def State.dropDieXlate (s : State) (die k : Nat) : State :=
  { s with dieTlb := KMap.put s.dieTlb die (listDrop (KMap.get [] s.dieTlb die) k) }

/-- A lane's last-page register is given up. -/
def State.dropPage (s : State) (core part lane : Nat) : State :=
  s.modCore core (fun k => { k with parts := listMod k.parts part (fun p => { p with last := KMap.drop p.last lane }) })

/-- The L1 at a physical position gives up a sector. -/
def State.l1Drop (s : State) (pos sector : Nat) : State :=
  s.modL1 pos (fun k => { k with sectors := k.sectors.filter (fun e => e.1 != sector) })

end Sys2Proof.Machine
end

