-- ==== Sys2Proof/Machine/Wire.lean ====
section
/-! DEFINITION. The flits of the messages that are no packets: answers, acknowledgements, notices and what controllers tell each other
(R476). The rule protects every flit; how many a message has, which port it takes and what becomes of one without a port stand open
(DESIGN CHOICE, log 110). -/

namespace Sys2Proof.Machine

/-- The members of a domain that are left, and the first of them. -/
def State.membersOf (s : State) (dom : Nat) : List (BitVec 12) := ((s.domain? dom).map Domain.alive).getD []

/-- The packages of the members of a context's caravan halts. -/
def State.haltPackages (s : State) (c : Nat) : List (BitVec 12) := (s.halts.filter (fun h => h.ctx == c)).flatMap (fun h => packagesOf h.members)

/-- The packages that a message goes to. COMMIT goes to the witness before the cut, and to every member after it (R484). -/
def State.sentTo (s : State) : FabMsg → List (BitVec 12)
  | .packet .. | .hopAck .. | .flits .. => []
  | .answer p _ => [p.srcPkg]
  | .errorNotice p => [p.pkg, p.srcPkg]
  | .wordFault pkg .. | .pause _ pkg _ | .unpause _ pkg _ => [pkg]
  | .ready dom _ | .witnessAck dom _ | .applyAck dom _ | .sealReq dom | .abort dom .. | .done dom => (s.membersOf dom).take 1
  | .prep dom _ | .atSeal dom _ | .stop dom .. | .resume dom _ | .moved dom _ => s.membersOf dom
  | .commit dom _ =>
    match s.domain? dom with
    | some d => if d.phase == .saved then d.witness.toList else d.alive
    | none => []
  | .chunkReport c _ => s.haltPackages c
  | .membersHeld _ ms => packagesOf ms
  | .domcreate _ x => x.members

/-- The flits of the next message, which nothing constrains. -/
def State.nextFlits (s : State) : List (List Byte × List Byte) := Config.msgFlits s.freeCtr

/-- A port sends the flits of a message. -/
def State.flitsOn (s : State) (port : Nat) (via : Option (BitVec 12)) : State :=
  let xs := s.nextFlits
  ({ s with freeCtr := s.freeCtr + 1 } : State).flitsOut port xs.length (.flits port via (s.protectAll port xs))

/-- The flits of a message to a package, on the route in use. -/
def State.flitsTo (s : State) (pkg : BitVec 12) : State :=
  match s.routeInUse pkg.toNat with
  | some h => s.flitsOn (routePort h) (routeVia h)
  | none => s

/-- The flits of a message that the package has sent: an acknowledgement to the hop before goes back on its port, any other to each other
package that it is for. -/
def State.sendFlits (s : State) (m : FabMsg) : State :=
  match m with
  | .hopAck port _ => s.flitsOn port none
  | m => ((s.sentTo m).dedup.filter (· != s.sys.pkg)).foldl State.flitsTo s

/-- A step from s that ended in t has sent what is new in `out`. -/
def State.wire (s t : State) : State := (t.out.drop s.out.length).foldl State.sendFlits t

/-- The outcome of a step from s, its messages sent. -/
def State.wired (s : State) : Host.Outcome State Fault Refusal → Host.Outcome State Fault Refusal
  | .next t => .next (s.wire t)
  | x => x

/-- A message comes in on a port. -/
def State.hearOn (s : State) (port : Nat) : State :=
  if (s.port port).receives then ({ s with freeCtr := s.freeCtr + 1 } : State).flitsIn port s.nextFlits.length else s

/-- A message comes in from a package, on the route in use to it. -/
def State.hearFrom (s : State) (pkg : BitVec 12) : State :=
  match s.routeInUse pkg.toNat with
  | some h => if pkg == s.sys.pkg then s else s.hearOn (routePort h)
  | none => s

/-- What another package or hop says of a flight comes in on the port of its last sending. -/
def State.hearOf (s : State) (id : Nat) : State :=
  match s.flight? id with
  | some f => if f.outside then s.hearOn f.port else s
  | none => s

/-- The messages that an event brings: the packages that its arguments name, or the one that a step of the seal protocol comes from, send
it (R484, R486). -/
def State.hears (s : State) (i : Instr) : State :=
  match i with
  | .packetHop (.own id) =>
    match s.flight? id with
    | some f => (match f.at_ with | .link _ q => s.hearOn q | _ => s)
    | none => s
  | .remoteReply id _ | .custodyAck id | .negativeReply id _ => s.hearOf id
  | .sealReady _ m | .sealApplyAck _ m | .rollbackDone _ m => s.hearFrom m
  | .sealPrep dom _ | .sealApply dom _ | .sealCommitWitness dom _ => ((s.membersOf dom).take 1).foldl State.hearFrom s
  | .rollbackStop x _ => ((s.membersOf x.dom).take 1).foldl State.hearFrom s
  | .rollbackResume x => ((s.membersOf x.dom).take 1).foldl State.hearFrom s
  | .sealCut dom => ((s.domain? dom).bind (fun d => if d.phase == .saved then d.witness else none)).toList.foldl State.hearFrom s
  | .sealDrainBegin r => r.parked.foldl State.hearFrom s
  | .caravanHaltPause _ x => (x.chunks.map (·.1)).foldl State.hearFrom s
  | .caravanHaltComplete r => r.held.foldl State.hearFrom s
  | _ => s

end Sys2Proof.Machine
end

