-- ==== Sys2Proof/Machine/Turn.lean ====
section
/-! DEFINITION. The turns of a step: a partition that issues, an event, the step without an agenda (log 1), and the probe that
withFetchWord sets up (log 24). -/

namespace Sys2Proof.Machine

/-- The turn of a partition, with the instruction that it issues executed, and counted once it has issued; what it sends leaves on the
fabric. -/
def State.issueStep (s : State) (core part : Nat) (switch : Bool) : Host.Outcome State Fault Refusal :=
  s.wired (match s.partTurn core part switch with
    | .run s i => s.slotIssued (exec i s)
    | .done s | .held s | .idle s => .next s)

/-- An event of the agenda, with the messages that bring it and that it sends; an instruction of a program is none. -/
def State.eventStep (s : State) (i : Instr) : Host.Outcome State Fault Refusal :=
  if isEvent i then s.wired (exec i (s.hears i)) else .fault .notAnEvent

/-- An event changes the state. -/
def State.changedBy (s : State) (i : Instr) : Bool :=
  match exec i s with
  | .next t => t != s
  | _ => false

/-- The state after an event that changes it. -/
def State.moves (s : State) (es : List Instr) : Option Instr := es.find? s.changedBy

/-- The partition after the one in focus that can issue; true where the round begins anew. -/
def State.nextPartition (s : State) : Option ((Nat × Nat) × Bool) :=
  match (s.partitions.filter (fun p => s.focus.1 < p.1 || (s.focus.1 == p.1 && s.focus.2 < p.2))).find? s.canIssue with
  | some p => some (p, false)
  | none => (s.partitions.find? s.canIssue).map (·, true)

/-- The step without an agenda: what waits only for its turn, else the partitions by turns, with an aclk for each round, else time. -/
def State.idleStep (s : State) : Host.Outcome State Fault Refusal :=
  match s.moves s.pendingEvents with
  | some e => s.eventStep e
  | none =>
    match s.nextPartition with
    | none => .next (s.tick 1)
    | some (p, round) => (if round then s.tick 1 else s).issueStep p.1 p.2 false

/-- One turn. -/
def State.turn (s : State) (t : Turn) : Host.Outcome State Fault Refusal :=
  match t with
  | .event i => s.eventStep i
  | .issue core part switch => s.issueStep core part switch
  | .l1Drop pos sector => .next (s.l1Drop pos sector)
  | .tlbDrop core k => .next (s.dropXlate core k)
  | .dieDrop die k => .next (s.dropDieXlate die k)
  | .pageDrop core part lane => .next (s.dropPage core part lane)
  | .upperDrop k => .next { s with upper := listDrop s.upper k }
  | .choose pick joint => .next { s with pick := pick, joint := joint }
  | .clock n => .next (s.tick n)

/-! ## A machine that issues a given word -/

/-- Physical bytes of the probe: page tables of three levels, a segment table, and a bundle. -/
def probeBytes (ctl w0 w2 : Nat) : List (Nat × List Byte) :=
  [(0x80000, leBytes 8 0x100001), (0x100000, leBytes 8 0x100801), (0x100800, leBytes 8 0x200033),
   (0x200100, leBytes 4 0x80000000),
   (0x201000, leBytes 8 ctl ++ leBytes 8 w0 ++ leBytes 8 0x0007000000000000 ++ leBytes 8 w2)]

/-- The probe's kernel: one segment, and every resource of a core. -/
def probeKernel (legacy : Bool) : Kernel :=
  { addr := 0, codeSize := 32, codeOff := 0x1000, segOff := 0x100, nseg := 1, regs := 32, locKiB := 64, tiles := 8, acc := 64
    legacy := legacy }

/-- The probe's node. -/
def probeNode (legacy : Bool) : Node :=
  { kern := probeKernel legacy, wmbase := 0, threads := 32, args := [], gx := 1, gy := 1, gz := 1, stages := 1, edges := [], tiles := [] }

/-- The probe's block: one group of 32 threads, at the entry of its segment. -/
def probeBlock (legacy : Bool) : Block :=
  let b : Block := { ctx := 0, itin := 0, task := ⟨0, 0, 0⟩, nodeRec := probeNode legacy, bx := 0, by_ := 0, bz := 0, prio := 0
                     submitPrio := 0, gen := 1, born := 0, since := 0, groups := [] }
  { b with groups := [startGroup b 0 0 0 0 (some 0x1000)] }

end Sys2Proof.Machine
end

