-- ==== Sys2Proof/Machine/Step.lean ====
section
/-! DEFINITION. step: one turn of the agenda, or without one the next thing that can happen (log 1). -/

namespace Sys2Proof.Machine

/-- One step of the machine. -/
def step (s : State) : Host.Outcome State Fault Refusal :=
  match s.agenda with
  | t :: rest => ({ s with agenda := rest }).turn t
  | [] => s.idleStep

/-- The machine with an instruction where partition 0 of core 0 issues next (log 24): context 0 is live, a block of it stands in slot
0 of core 0, and its next bundle holds the word. -/
def State.withFetchWord (s : State) (nbits w : Nat) : State :=
  let d := BitVec.ofNat 64 (w % 2 ^ nbits)
  let legacy := d.extractLsb' 58 6 == 0x0A
  let ctl := match decodeSlot legacy 0 d with
    | .illegalWord _ _ .slotControl => 0x8000000000010000
    | _ => 0x8000000000000000
  let w2 := if wordTerminator d then 0x0007000000000000 else 0x0067000000000000
  { s with
    sys := { s.sys with powered := true, ctrls := List.replicate 8 .ready }
    mem := (probeBytes ctl d.toNat w2).foldl (fun m x => Memory.writeN m x.1 x.2) s.mem
    granules := KMap.put s.granules 1 { v := true, sh := false, owner := 0, share := 0 }
    ctxs := KMap.put s.ctxs 0 { state := .live, ptroot := 1 }
    dieTlb := []
    upper := []
    cores := KMap.put s.cores 0 { slots := [(0, probeBlock legacy)] }
    agenda := [.issue 0 0 false] }

end Sys2Proof.Machine
end

