-- ==== Sys2Proof/Safety.lean ====
section
/-! DEFINITION. The terms that the statements are made of: the issuing group in a later state, what an instruction leaves alone,
the results of the lanes, and how a trap is entered. -/

namespace Sys2Proof.Machine

/-! ## The issuing group afterwards -/

/-- The issuer's block in a state, `w.b` where its slot is empty. -/
def Who.blockIn (w : Who) (t : State) : Block := (t.block w.core w.slot).getD w.b

/-- The issuer's group in a state. -/
def Who.grpIn (w : Who) (t : State) : Group := (w.blockIn t).group w.grp

/-- The issue group in a state; none where it is gone. -/
def Who.igIn (w : Who) (t : State) : Option IGroup := (w.grpIn t).igs.find? (fun x => x.id == w.ig.id)

/-- V register n of a lane, 32 bits. -/
def Group.vreg (g : Group) (lane n : Nat) : Word := KMap.get 0 g.v (n * 32 + lane)

/-- S register n, 32 bits. -/
def Group.sreg (g : Group) (n : Nat) : Word := KMap.get 0 g.s n

/-! ## What an instruction leaves alone -/

/-- Of the machine, only the cores' contents, the count of numbers given out and the counters of R494 may differ. -/
structure OnlyCores (s t : State) : Prop where
  rest : { t with
    cores := s.cores, nextId := s.nextId, sys := { t.sys with counters := s.sys.counters } } = s
  memory : ∀ a, t.mem.read a = s.mem.read a
  host : ∀ a, t.hmem.read a = s.hmem.read a

/-- Of the cores, only the issuer's block and which issue groups a partition holds may differ. -/
structure OnlyBlock (w : Who) (s t : State) : Prop extends OnlyCores s t where
  core : ∀ c, { t.core c with slots := (s.core c).slots, parts := (s.core c).parts } = s.core c
  parts : ∀ c p, { listGet ({} : Part) (t.core c).parts p with cur := none, comp := none } =
    { listGet ({} : Part) (s.core c).parts p with cur := none, comp := none }
  blocks : ∀ c k, c ≠ w.core ∨ k ≠ w.slot → t.block c k = s.block c k

/-- Of the block, only the issuer's group may differ: local memory, accumulators, tiles, tags and the rest stay. -/
structure OnlyGroup (w : Who) (s t : State) : Prop extends OnlyBlock w s t where
  block : ∃ b, t.block w.core w.slot = some b ∧ { b with groups := w.b.groups } = w.b ∧
    b.groups.length = w.b.groups.length ∧ ∀ g, g ≠ w.grp → b.group g = w.b.group g

/-- Of the group, only registers, threads, issue groups, tokens and remote latch writes may differ. -/
def SameGroup (g g' : Group) : Prop :=
  { g' with v := g.v, s := g.s, threads := g.threads, igs := g.igs, results := g.results, ops := g.ops, nextId := g.nextId } = g

/-- A thread but for its latches and predicates. -/
def SameThread (t t' : Thread) : Prop := { t' with latches := t.latches, preds := t.preds } = t

/-- The issue group stands at the next slot and is otherwise as it was, and the group's other issue groups stand. -/
structure Advanced (w : Who) (t : State) : Prop where
  own : ∃ x, w.igIn t = some x ∧ x.pc = nextPc w.ig.pc ∧ x.mask = w.ig.mask ∧ x.allot = w.ig.allot ∧
    x.handler = w.ig.handler ∧ x.wait = w.ig.wait ∧ x.trap = w.ig.trap ∧ x.waited = false
  others : ∀ id, id ≠ w.ig.id →
    (w.grpIn t).igs.find? (fun x => x.id == id) = w.g.igs.find? (fun x => x.id == id)

/-- The token that a slot sets is pending; without one nothing is (R219). -/
def TokenSet (w : Who) (k : Ctl) (t : State) : Prop :=
  match k.sett with
  | some n => (w.grpIn t).results = w.g.results ++ [{ id := w.g.nextId, tok := some n }]
  | none => (w.grpIn t).results = w.g.results

/-- A lane's latches are `x`, or a YIELD that switched has lost them (R28, R384). -/
def LatchesAre (w : Who) (k : Ctl) (s t : State) (l : Nat) (x : List (Option Dword)) : Prop :=
  ((w.grpIn t).thread l).latches = x ∨
    (k.yield = true ∧ s.switch = true ∧ ((w.grpIn t).thread l).latches = [none, none, none, none])

/-- A slot of the issuer has completed and touched nothing outside its group; S registers, V registers, predicates and latches are
said elsewhere. -/
structure SlotDone (w : Who) (k : Ctl) (s t : State) : Prop where
  frame : OnlyGroup w s t
  group : SameGroup w.g (w.grpIn t)
  advanced : Advanced w t
  token : TokenSet w k t

/-! ## Sources -/

/-- Rows 6 and 7 of R230 find nothing: every latch that an active lane reads is valid (R223), and where a lane is active every V
register named lies within the allotment (R35). -/
def Readable (w : Who) (m : LaneMask) (rs : List VRead) (ds : List VName) : Prop :=
  (∀ l, m.getLsbD l = true → ∀ r ∈ rs, (w.src? l r.wide r.x).isSome) ∧
  (m ≠ 0 → (∀ r ∈ rs, ∀ n, r.x = .reg n → n.toNat + (if r.wide then 1 else 0) < 8 * w.ig.allot) ∧
    (∀ d ∈ ds, d.n.toNat + (if d.wide then 1 else 0) < 8 * w.ig.allot))

/-! ## Results -/

/-- A V destination holds a value: the register, or the pair with the low word in the even register (R222). -/
def Group.holds (g : Group) (lane : Nat) (d : BitVec 8) (wide : Bool) (x : Nat) : Prop :=
  (g.vreg lane d.toNat).toNat = x % 2 ^ 32 ∧ (wide = true → (g.vreg lane (d.toNat + 1)).toNat = x / 2 ^ 32 % 2 ^ 32)

/-- Register n is named by a destination. -/
def named (d : BitVec 8) (wide : Bool) (n : Nat) : Prop := n = d.toNat ∨ (wide = true ∧ n = d.toNat + 1)

/-- A vector instruction with a V destination has completed: every active lane's destination holds its value unless NOWB, its
latch LDST takes it (R223), and no other register, predicate or thread has changed. -/
structure LaneResults (w : Who) (h : Hd) (wb : Wb) (d : BitVec 8) (wide : Bool) (x : Nat → Nat) (s t : State) : Prop
    extends SlotDone w h.k s t where
  result : ∀ l, (w.active h.g).getLsbD l = true → wb.nowb = false → (w.grpIn t).holds l d wide (x l)
  keep : ∀ l n, l < 32 → (w.active h.g).getLsbD l = false ∨ wb.nowb = true ∨ ¬ named d wide n →
    (w.grpIn t).vreg l n = w.g.vreg l n
  sregs : (w.grpIn t).s = w.g.s
  latch : ∀ l, (w.active h.g).getLsbD l = true →
    LatchesAre w h.k s t l (listSet (w.g.thread l).latches wb.ldst.toNat (some (dw (x l % 2 ^ (if wide then 64 else 32)))))
  latchKeep : ∀ l, (w.active h.g).getLsbD l = false → LatchesAre w h.k s t l (w.g.thread l).latches
  threads : ∀ l, SameThread (w.g.thread l) ((w.grpIn t).thread l) ∧ ((w.grpIn t).thread l).preds = (w.g.thread l).preds

/-- A vector instruction with a predicate destination has completed (R255). -/
structure PredResults (w : Who) (h : Hd) (p : BitVec 3) (x : Nat → Bool) (s t : State) : Prop extends SlotDone w h.k s t where
  result : ∀ l, (w.active h.g).getLsbD l = true → ((w.grpIn t).thread l).preds.getLsbD p.toNat = x l
  keep : ∀ l q, (w.active h.g).getLsbD l = false ∨ q ≠ p.toNat →
    ((w.grpIn t).thread l).preds.getLsbD q = (w.g.thread l).preds.getLsbD q
  vregs : (w.grpIn t).v = w.g.v
  sregs : (w.grpIn t).s = w.g.s
  threads : ∀ l, SameThread (w.g.thread l) ((w.grpIn t).thread l)
  latches : ∀ l, LatchesAre w h.k s t l (w.g.thread l).latches

/-- A uniform instruction has completed: its S destination, or pair, holds the value, and no other register has changed. -/
structure UniformResult (w : Who) (k : Ctl) (d : BitVec 6) (wide : Bool) (x : Nat) (s t : State) : Prop
    extends SlotDone w k s t where
  result : ((w.grpIn t).sreg d.toNat).toNat = x % 2 ^ 32 ∧
    (wide = true → ((w.grpIn t).sreg (d.toNat + 1)).toNat = x / 2 ^ 32 % 2 ^ 32)
  keep : ∀ n, n ≠ d.toNat → (wide = true → n ≠ d.toNat + 1) → (w.grpIn t).sreg n = w.g.sreg n
  vregs : (w.grpIn t).v = w.g.v
  threads : ∀ l, SameThread (w.g.thread l) ((w.grpIn t).thread l) ∧ ((w.grpIn t).thread l).preds = (w.g.thread l).preds
  latches : ∀ l, LatchesAre w k s t l (w.g.thread l).latches

/-- A slot has completed and changed no register, predicate or latch of any thread. -/
structure NoResult (w : Who) (k : Ctl) (s t : State) : Prop extends SlotDone w k s t where
  vregs : (w.grpIn t).v = w.g.v
  sregs : (w.grpIn t).s = w.g.s
  threads : ∀ l, SameThread (w.g.thread l) ((w.grpIn t).thread l) ∧ ((w.grpIn t).thread l).preds = (w.g.thread l).preds
  latches : ∀ l, LatchesAre w k s t l (w.g.thread l).latches

/-! ## What the opcode tables say of each instruction, as numbers -/

/-- W bits of an exact integer (R236). -/
def modW (ty : Ty) (x : Int) : Nat := (x % 2 ^ widthOf ty).toNat

/-- An exact integer held to the type's range, as W bits (R214). -/
def clampW (ty : Ty) (x : Int) : Nat :=
  if isSigned ty then modW ty (max (-(2 ^ (widthOf ty - 1))) (min (2 ^ (widthOf ty - 1) - 1) x))
  else modW ty (max 0 (min (2 ^ widthOf ty - 1) x))

/-- Modulo 2^W, or with .SAT held to the range (R247). -/
def sumW (ty : Ty) (sat : Bool) (x : Int) : Nat := if sat then clampW ty x else modW ty x

/-- A vector instruction with a V destination: guard and slot control, destination, the V sources it reads, and each lane's result. -/
structure VecOp where
  h : Hd
  wb : Wb
  d : BitVec 8
  wide : Bool
  reads : List VRead
  value : State → Who → Nat → Nat

/-- A lane's source a under a type, as the integer its type reads. -/
def Who.ia (w : Who) (l : Nat) (ty : Ty) (a : VSrc) : Int := intOf ty (w.src l (wide ty) a)

/-- A lane's operand b or c, as the integer its type reads. -/
def Who.ib (w : Who) (l : Nat) (ty : Ty) (b : Opnd) : Int := intOf ty (w.opnd l ty b)

/-- A lane's source a as W raw bits. -/
def Who.na (w : Who) (l : Nat) (ty : Ty) (a : VSrc) : Nat := (w.src l (wide ty) a).toNat % 2 ^ widthOf ty

/-- A lane's operand as W raw bits. -/
def Who.nb (w : Who) (l : Nat) (ty : Ty) (b : Opnd) : Nat := (w.opnd l ty b).toNat % 2 ^ widthOf ty

/-- A unary instruction of a type, into its own width or one register. -/
def unInt (o : IUn) (wd : Bool) (f : Int → Nat) : VecOp :=
  ⟨o.h, o.wb, o.d, wd, vr o.ty o.a, fun _ w l => f (w.ia l o.ty o.a)⟩

/-- A binary instruction on exact integers. -/
def binInt (o : IBin) (f : Int → Int → Nat) : VecOp :=
  ⟨o.h, o.wb, o.d, wide o.ty, vr o.ty o.a ++ opReads (wide o.ty) o.b, fun _ w l => f (w.ia l o.ty o.a) (w.ib l o.ty o.b)⟩

/-- A ternary instruction on exact integers. -/
def ternInt (o : ITern) (f : Int → Int → Int → Nat) : VecOp :=
  ⟨o.h, o.wb, o.d, wide o.ty, vr o.ty o.a ++ opReads (wide o.ty) o.b ++ opReads (wide o.ty) o.c,
   fun _ w l => f (w.ia l o.ty o.a) (w.ib l o.ty o.b) (w.ib l o.ty o.c)⟩

/-- Major 0x01 (R247). -/
def intOps : Instr → Option VecOp
  | .iadd o => some (binInt o fun a b => sumW o.ty o.m (a + b))
  | .isub o => some (binInt o fun a b => sumW o.ty o.m (a - b))
  | .iadd3 o => some (ternInt o fun a b c => sumW o.ty o.m (a + b + c))
  | .imul o => some (binInt o fun a b => sumW o.ty o.m (a * b))
  | .imulhi o => some (binInt o fun a b => modW o.ty (a * b / 2 ^ widthOf o.ty))
  | .imad o => some (ternInt o fun a b c => sumW o.ty o.m (a * b + c))
  | .imin o => some (binInt o fun a b => modW o.ty (if a ≤ b then a else b))
  | .imax o => some (binInt o fun a b => modW o.ty (if a ≤ b then b else a))
  | .iabs o => some (unInt o (wide o.ty) fun a => sumW o.ty o.m a.natAbs)
  | .ineg o => some (unInt o (wide o.ty) fun a => sumW o.ty o.m (-a))
  | _ => none

/-- A unary instruction on raw bits. -/
def unRaw (o : IUn) (wd : Bool) (f : Nat → Nat) : VecOp :=
  ⟨o.h, o.wb, o.d, wd, vr o.ty o.a, fun _ w l => f (w.na l o.ty o.a)⟩

/-- A binary instruction on raw bits. -/
def binRaw (o : IBin) (f : Nat → Nat → Nat) : VecOp :=
  ⟨o.h, o.wb, o.d, wide o.ty, vr o.ty o.a ++ opReads (wide o.ty) o.b, fun _ w l => f (w.na l o.ty o.a) (w.nb l o.ty o.b)⟩

/-- A binary instruction whose b is a 32-bit count (R235). -/
def binShift (o : IBin) (f : Nat → Nat → Nat) : VecOp :=
  ⟨o.h, o.wb, o.d, wide o.ty, vr o.ty o.a ++ opReads false o.b, fun _ w l => f (w.na l o.ty o.a) (w.count l o.b)⟩

/-- A ternary instruction whose c is a 32-bit count (R235). -/
def ternShift (o : ITern) (f : Nat → Nat → Nat → Nat) : VecOp :=
  ⟨o.h, o.wb, o.d, wide o.ty, vr o.ty o.a ++ opReads (wide o.ty) o.b ++ opReads false o.c,
   fun _ w l => f (w.na l o.ty o.a) (w.nb l o.ty o.b) (w.count l o.c)⟩

/-- The number whose bit i is p i, below W. -/
def bitsOf' (n : Nat) (p : Nat → Bool) : Nat := ((List.range n).map (fun i => if p i then 2 ^ i else 0)).sum

/-- Major 0x02 (R248 to R250). -/
def logicOps : Instr → Option VecOp
  | .and o => some (binRaw o fun a b => a &&& b)
  | .or o => some (binRaw o fun a b => a ||| b)
  | .xor o => some (binRaw o fun a b => a ^^^ b)
  | .not o => some (unRaw o (wide o.ty) fun a => 2 ^ widthOf o.ty - 1 - a)
  | .lop3 o => some ⟨o.h, o.wb, o.d, wide o.ty, vr o.ty o.a ++ opReads (wide o.ty) o.b, fun _ w l =>
      bitsOf' (widthOf o.ty) fun i => o.table.getLsbD
        ((if (w.na l o.ty o.a).testBit i then 1 else 0)
          + (if (w.g.readV l o.d.toNat (wide o.ty)).toNat.testBit i then 2 else 0)
          + (if (w.nb l o.ty o.b).testBit i then 4 else 0))⟩
  | .shl o => some (binShift o fun a n => a * 2 ^ n % 2 ^ widthOf o.ty)
  | .shr o => some (binShift o fun a n => a / 2 ^ n)
  | .sar o => some (binShift o fun a n => modW o.ty (signedOf (widthOf o.ty) a / 2 ^ n))
  | .rotl o => some (binShift o fun a n =>
      let k := n % widthOf o.ty
      a * 2 ^ k % 2 ^ widthOf o.ty + a / 2 ^ (widthOf o.ty - k))
  | .funnel o => some (ternShift o fun a b c =>
      let x := b * 2 ^ widthOf o.ty + a
      let m := min c (widthOf o.ty)
      if o.m then x / 2 ^ m % 2 ^ widthOf o.ty else x * 2 ^ m / 2 ^ widthOf o.ty % 2 ^ widthOf o.ty)
  | _ => none

/-- Position and length of a field, cut at W (R252). -/
def fieldPos (ty : Ty) (c : Nat) : Nat := min (c % 256) (widthOf ty)
def fieldLen (ty : Ty) (c : Nat) : Nat := min (c / 256 % 256) (widthOf ty - fieldPos ty c)

/-- Major 0x03 (R251 to R254) and MOVSR (R260): CLOCK is the package's count and the core's own offset (R17, log 4). -/
def moveOps : Instr → Option VecOp
  | .bfx o => some (binShift o fun a c =>
      let n := fieldLen o.ty c
      let f := a / 2 ^ fieldPos o.ty c % 2 ^ n
      if isSigned o.ty then modW o.ty (if n ≠ 0 ∧ f.testBit (n - 1) then (f : Int) - 2 ^ n else f) else f)
  | .bfi o => some (ternShift o fun a b c =>
      bitsOf' (widthOf o.ty) fun i =>
        if fieldPos o.ty c ≤ i ∧ i < fieldPos o.ty c + fieldLen o.ty c then a.testBit (i - fieldPos o.ty c) else b.testBit i)
  | .popc o => some (unRaw o false fun a => (List.range (widthOf o.ty)).countP fun i => a.testBit i)
  | .clz o => some (unRaw o false fun a => (List.range (widthOf o.ty)).countP fun i => decide (a < 2 ^ i))
  | .ctz o => some (unRaw o false fun a => (List.range (widthOf o.ty)).countP fun i => decide (a % 2 ^ (i + 1) = 0))
  | .brev o => some (unRaw o (wide o.ty) fun a => bitsOf' (widthOf o.ty) fun i => a.testBit (widthOf o.ty - 1 - i))
  | .permb o => some ⟨o.h, o.wb, o.d, wide o.ty, vr o.ty o.a ++ opReads (wide o.ty) o.b ++ opReads (wide o.ty) o.c, fun _ w l =>
      ((List.range 4).map fun i => 2 ^ (8 * i) *
        permByte ((w.opnd l o.ty o.b).toNat % 2 ^ 32 * 2 ^ 32 + (w.src l (wide o.ty) o.a).toNat % 2 ^ 32)
          ((w.opnd l o.ty o.c).toNat / 2 ^ (8 * i) % 256)).sum⟩
  | .sel o => some ⟨o.h, o.wb, o.d, wide o.ty, vr o.ty o.a ++ opReads (wide o.ty) o.b, fun _ w l =>
      if (w.g.thread l).psrc o.p then (w.src l (wide o.ty) o.a).toNat else (w.opnd l o.ty o.b).toNat⟩
  | .mov o => some ⟨o.h, o.wb, o.d, wide o.ty, opReads (wide o.ty) o.b, fun _ w l => (w.opnd l o.ty o.b).toNat⟩
  | .movi o => some ⟨o.h, o.wb, o.d, wide o.ty, [], fun _ _ _ =>
      modW o.ty (if isSigned o.ty then o.imm.toInt else o.imm.toNat)⟩
  | .movk o => some ⟨o.h, o.wb, o.d, wide o.ty, [], fun _ w l =>
      let x := (w.g.readV l o.d.toNat (wide o.ty)).toNat
      x - x / 2 ^ (8 * o.k.toNat) % 256 * 2 ^ (8 * o.k.toNat) + o.imm.toNat * 2 ^ (8 * o.k.toNat)⟩
  | .movsr o => some ⟨o.h, o.wb, o.d, o.name == .clock, [], fun s w l => match o.name with
      | .lane => l
      | .group => w.g.idx
      | .blockx => w.b.bx
      | .blocky => w.b.by_
      | .blockz => w.b.bz
      | .stage => w.b.task.stage
      | .node => w.b.task.node
      | .core => w.core
      | .clock => (s.clock + Config.clockOffset w.core) % 2 ^ 64
      | .leg => (s.legOf w.b.ctx).toNat⟩
  | _ => none

/-- A vector instruction with a predicate destination. -/
structure PredOp where
  h : Hd
  p : BitVec 3
  reads : List VRead
  value : Who → Nat → Bool


/-- Major 0x04 (R255 to R257). A bit number of PMOV below 32. -/
def predOps : Instr → Option PredOp
  | .icmp o => some ⟨o.h, o.p, vr o.ty o.a ++ opReads (wide o.ty) o.b, fun w l =>
      combine o.comb (condInt o.cond (w.ia l o.ty o.a) (w.ib l o.ty o.b)) ((w.g.thread l).pred o.p)⟩
  | .pset o => some ⟨o.h, o.p, [], fun w l =>
      match o.op with
      | .and => (w.g.thread l).psrc o.a && (w.g.thread l).psrc o.b
      | .or => (w.g.thread l).psrc o.a || (w.g.thread l).psrc o.b
      | _ => xor ((w.g.thread l).psrc o.a) ((w.g.thread l).psrc o.b)⟩
  | .pmov o => if o.bit.toNat < 32 then some ⟨o.h, o.p, vr32 o.a, fun w l => (w.src l false o.a).getLsbD o.bit.toNat⟩ else none
  | .fcmp o => some ⟨o.h, o.p, vr o.ty o.a ++ opReads false o.b, fun w l =>
      combine o.comb (condVal o.cond (floatIn w.g.mode o.ty false false (w.src l false o.a) 0)
        (floatIn w.g.mode o.ty false false (w.opnd l .b32 o.b) 0)) ((w.g.thread l).pred o.p)⟩
  | .vote o => some ⟨o.h, o.p, [], fun w l =>
      voteOf o.op ((subgroup (w.active o.h.g) (2 ^ o.sz.toNat) l).map (fun j => (w.g.thread j).psrc o.a))⟩
  | .vote16 o => some ⟨o.h, o.p, [], fun w l =>
      voteOf o.op ((subgroup (w.active o.h.g) 16 l).map (fun j => (w.g.thread j).psrc o.a))⟩
  | _ => none

/-- R270's table, as FP32 codes: the results of FRCP, FRSQ, FSQRT, FEXP2, FLOG2, FSIN, FCOS and FTANH on zeros, infinities, NaNs and numbers
below zero. -/
def specialCase (n : Nat) : Val → Option Nat
  | .nan _ => some 0x7FC00000
  | .inf true => [0x80000000, 0x7FC00000, 0x7FC00000, 0, 0x7FC00000, 0x7FC00000, 0x7FC00000, 0xBF800000][n]?
  | .inf false => [0, 0, 0x7F800000, 0x7F800000, 0x7F800000, 0x7FC00000, 0x7FC00000, 0x3F800000][n]?
  | .fin true 0 _ => [0xFF800000, 0xFF800000, 0x80000000, 0x3F800000, 0xFF800000, 0x80000000, 0x3F800000, 0x80000000][n]?
  | .fin false 0 _ => [0x7F800000, 0x7F800000, 0, 0x3F800000, 0xFF800000, 0, 0x3F800000, 0][n]?
  | .fin true _ _ => if n = 1 ∨ n = 2 ∨ n = 4 then some 0x7FC00000 else none
  | .fin false _ _ => none

/-- R269's bound of a special function of `a` whose exact value is `v`: an ulp is the spacing of FP32 there. -/
def specialBound (n : Nat) (a v : Val) : Val :=
  let ulp := match v with | .fin _ m e => max ((Nat.log2 m : Int) + e) (-126) - 23 | _ => -149
  let abs : Val := .fin false 1 (-22)
  match n with
  | 1 => .fin false 1 ulp
  | 3 | 7 => .fin false 2 ulp
  | 4 => if !a.lt (.fin false 1 (-1)) && !Val.lt (.fin false 2 0) a then abs else .fin false 2 ulp
  | _ => abs

/-- A uniform instruction: slot control, S destination and result. -/
structure UniOp where
  k : Ctl
  d : BitVec 6
  wide : Bool
  value : Who → Nat

/-- An S source as the integer its type reads. -/
def Who.sa (w : Who) (ty : Ty) (a : BitVec 6) : Int := intOf ty (w.g.readS a.toNat (wide ty))

/-- A uniform operand as the integer its type reads. -/
def Who.sb (w : Who) (ty : Ty) (b : SOp) : Int := intOf ty (w.sop ty b)

/-- S operands as W raw bits. -/
def Who.sra (w : Who) (ty : Ty) (a : BitVec 6) : Nat := (w.g.readS a.toNat (wide ty)).toNat % 2 ^ widthOf ty
def Who.srb (w : Who) (ty : Ty) (b : SOp) : Nat := (w.sop ty b).toNat % 2 ^ widthOf ty

/-- Major 0x05 but MOVSR (R259). -/
def uniOps : Instr → Option UniOp
  | .sadd o => some ⟨o.k, o.d, wide o.ty, fun w => sumW o.ty o.m (w.sa o.ty o.a + w.sb o.ty o.b)⟩
  | .ssub o => some ⟨o.k, o.d, wide o.ty, fun w => sumW o.ty o.m (w.sa o.ty o.a - w.sb o.ty o.b)⟩
  | .smul o => some ⟨o.k, o.d, wide o.ty, fun w => modW o.ty (w.sa o.ty o.a * w.sb o.ty o.b)⟩
  | .sand o => some ⟨o.k, o.d, wide o.ty, fun w => w.sra o.ty o.a &&& w.srb o.ty o.b⟩
  | .sor o => some ⟨o.k, o.d, wide o.ty, fun w => w.sra o.ty o.a ||| w.srb o.ty o.b⟩
  | .sxor o => some ⟨o.k, o.d, wide o.ty, fun w => w.sra o.ty o.a ^^^ w.srb o.ty o.b⟩
  | .sshl o => some ⟨o.k, o.d, wide o.ty, fun w => w.sra o.ty o.a * 2 ^ w.scount o.b % 2 ^ widthOf o.ty⟩
  | .sshr o => some ⟨o.k, o.d, wide o.ty, fun w =>
      if isSigned o.ty then modW o.ty (signedOf (widthOf o.ty) (w.sra o.ty o.a) / 2 ^ w.scount o.b)
      else w.sra o.ty o.a / 2 ^ w.scount o.b⟩
  | .smov o => some ⟨o.k, o.d, wide o.ty, fun w => (w.sop o.ty o.b).toNat⟩
  | .smovi o => some ⟨o.k, o.d, wide o.ty, fun w => (w.sop o.ty o.b).toNat⟩
  | .scmp o => some ⟨o.k, o.d, false, fun w => if condInt o.cond (w.sa o.ty o.a) (w.sb o.ty o.b) then 1 else 0⟩
  | _ => none

/-- Majors 0x06 and 0x07 with a V destination (R261 to R270): each element goes through the exact value and one rounding. -/
def floatOps : Instr → Option VecOp
  | .fadd o => some (binF o fun mode a b => floatOut mode o.ty (.sum (rndArith mode) [a, b]))
  | .fsub o => some (binF o fun mode a b => floatOut mode o.ty (.sum (rndArith mode) [a, b.negate]))
  | .fmul o => some (binF o fun mode a b => floatOut mode o.ty (a.mul b))
  | .ffma o => some ⟨o.h, o.wb, o.d, false, vr o.ty o.a ++ opReads false o.b ++ opReads false o.c, fun _ w l =>
      (packElems o.ty fun e => floatOut w.g.mode o.ty (.sum (rndArith w.g.mode)
        [(floatIn w.g.mode o.ty o.mods.negA o.mods.absA (w.src l false o.a) e).mul
            (floatIn w.g.mode o.ty o.mods.negB o.mods.absB (w.opnd l .b32 o.b) e),
         floatIn w.g.mode o.ty o.mods.negC false (w.opnd l .b32 o.c) e])).toNat⟩
  | .fmin o => some (binF o fun _ a b => (fmtOf o.ty).round 0 0 (fminmax false a b))
  | .fmax o => some (binF o fun _ a b => (fmtOf o.ty).round 0 0 (fminmax true a b))
  | .fclass o => some ⟨o.h, o.wb, o.d, false, vr o.ty o.a, fun _ w l =>
      (packElems o.ty fun e => 2 ^ classBit (fmtOf o.ty) (elemBits o.ty (w.src l false o.a) e)).toNat⟩
  | .frnd o => some ⟨o.h, o.wb, o.d, false, vr o.ty o.a, fun _ w l =>
      (packElems o.ty fun e => (fmtOf o.ty).roundZ (ftzOf w.g.mode (fmtOf o.ty)) 0 0
        (integral (match o.rm with | some .rtz => 1 | some .rpi => 2 | some .rmi => 3 | some _ => 0 | none => rndArith w.g.mode)
          (floatIn w.g.mode o.ty o.negA o.absA (w.src l false o.a) e))).toNat⟩
  | .frcp o => some (unF o (specialOut 0 o.ty))
  | .frsq o => some (unF o (specialOut 1 o.ty))
  | .fsqrt o => some (unF o (specialOut 2 o.ty))
  | .fexp2 o => some (unF o (specialOut 3 o.ty))
  | .flog2 o => some (unF o (specialOut 4 o.ty))
  | .fsin o => some (unF o (specialOut 5 o.ty))
  | .fcos o => some (unF o (specialOut 6 o.ty))
  | .ftanh o => some (unF o (specialOut 7 o.ty))
  | _ => none
where
  /-- Two float operands, element by element. -/
  binF (o : FBin) (f : Word → Val → Val → Nat) : VecOp :=
    ⟨o.h, o.wb, o.d, false, vr o.ty o.a ++ opReads false o.b, fun _ w l =>
      (packElems o.ty fun e => f w.g.mode (floatIn w.g.mode o.ty o.mods.negA o.mods.absA (w.src l false o.a) e)
        (floatIn w.g.mode o.ty o.mods.negB o.mods.absB (w.opnd l .b32 o.b) e)).toNat⟩
  /-- One float operand, element by element. -/
  unF (o : FUn) (f : Word → Val → Nat) : VecOp :=
    ⟨o.h, o.wb, o.d, false, vr o.ty o.a, fun _ w l =>
      (packElems o.ty fun e => f w.g.mode (floatIn w.g.mode o.ty o.mods.negA o.mods.absA (w.src l false o.a) e)).toNat⟩

/-- Cross-lane instructions with a V destination (R281 to R285): only the active lanes of a lane's subgroup take part. -/
def crossOps : Instr → Option VecOp
  | .shfl o => some (shuffled o (2 ^ o.sz.toNat))
  | .shfl16 o => some (shuffled o 16)
  | .ballot o => some ⟨o.h, o.wb, o.d, false, [], fun _ w l =>
      bitsOf' 32 fun j => ((w.active o.h.g).getLsbD j && j / 2 ^ o.sz.toNat == l / 2 ^ o.sz.toNat) && (w.g.thread j).psrc o.a⟩
  | .ballot16 o => some ⟨o.h, o.wb, o.d, false, [], fun _ w l =>
      bitsOf' 16 fun j => (w.active o.h.g).getLsbD (l / 16 * 16 + j) && (w.g.thread (l / 16 * 16 + j)).psrc o.a⟩
  | .redux o => some ⟨o.h, o.wb, o.d, false, vr32 o.a, fun _ w l =>
      combineWords o.op o.ty w.g.mode
        ((subgroup (w.active o.h.g) (2 ^ o.sz.toNat) l).map fun j => (w.src j false o.a).toNat) % 2 ^ 64⟩
  | .scan o => some ⟨o.h, o.wb, o.d, false, vr32 o.a, fun _ w l =>
      combineWords o.op o.ty w.g.mode
        (((subgroup (w.active o.h.g) (2 ^ o.sz.toNat) l).filter fun j => if o.exc then decide (j < l) else decide (j ≤ l)).map
          fun j => (w.src j false o.a).toNat) % 2 ^ 64⟩
  | .matchLanes o => some ⟨o.h, o.wb, o.d, false, vr o.ty o.a, fun _ w l =>
      bitsOf' 32 fun j => ((w.active o.h.g).getLsbD j && j / 2 ^ o.sz.toNat == l / 2 ^ o.sz.toNat)
        && w.src j (wide o.ty) o.a == w.src l (wide o.ty) o.a⟩
  | .bcast o => some ⟨o.h, o.wb, o.d, wide o.ty, vr o.ty o.a, fun _ w l =>
      let n := 2 ^ o.sz.toNat
      let j := match o.k with
        | some k => l / n * n + k.toNat % n
        | none => ((subgroup (w.active o.h.g) n l).head?).getD l
      (w.src (if (w.active o.h.g).getLsbD j then j else l) (wide o.ty) o.a).toNat⟩
  | _ => none
where
  /-- The source lane gives its value where it is an active lane of the subgroup of n, else the lane keeps its own (R281). -/
  shuffled (o : ShflOp) (n : Nat) : VecOp :=
    ⟨o.h, o.wb, o.d, wide o.ty, vr o.ty o.a ++ opReads false o.b, fun _ w l =>
      let j := (shflSource o.mode n l (w.count l o.b)).getD l
      (shflValue o.ty (w.src (if (w.active o.h.g).getLsbD j then j else l) (wide o.ty) o.a)).toNat⟩

/-- A vector instruction with a V destination, whatever its major. -/
def vecOps (i : Instr) : Option VecOp :=
  [intOps i, logicOps i, moveOps i, floatOps i, crossOps i, pairOps i].findSome? id
where
  /-- PACK2 and UNPACK2 (R278): no stochastic rounding. -/
  pairOps : Instr → Option VecOp
    | .pack2 o => some ⟨o.h, o.wb, o.d, false, vr32 o.a ++ vr32 o.b, fun _ w l =>
        packOne w.g.mode o.dt o.rm (w.src l false o.a) + 2 ^ 16 * packOne w.g.mode o.dt o.rm (w.src l false o.b)⟩
    | .unpack2 o => some ⟨o.h, o.wb, o.d, true, vr32 o.a, fun _ w l =>
        fp32.round 0 0 ((fmtOf o.st).decode ((w.src l false o.a).toNat % 2 ^ 16))
          + 2 ^ 32 * fp32.round 0 0 ((fmtOf o.st).decode ((w.src l false o.a).toNat / 2 ^ 16 % 2 ^ 16))⟩
    | _ => none

/-- A conversion of major 0x08 that may draw from the partition's generator: whether it does, and each lane's result from
the generator's new state. -/
structure CvOp where
  o : CvtOp
  wide : Bool
  srcWide : Bool
  /-- it works on whole halves (R276, R277) -/
  halves : Bool
  draws : Who → Bool
  value : Who → Word → Nat → Nat

/-- CVT, CVTSR, QENC and QDEC (R273 to R277). -/
def cvOps : Instr → Option CvOp
  | .cvt o => some ⟨o, wide o.dt, wide o.st, false, fun w => rmOf o.rm w.g.mode == 4 && narrowing o.dt o.st,
      fun w g l => (convert w.g.mode o.dt o.st (rmOf o.rm w.g.mode) (draw g l) (w.src l (wide o.st) o.a)).toNat⟩
  | .cvtsr o => some ⟨o, wide o.dt, wide o.st, false, fun _ => narrowing o.dt o.st,
      fun w g l => (convert w.g.mode o.dt o.st 4 (draw g l) (w.src l (wide o.st) o.a)).toNat⟩
  | .qenc o => some ⟨o, false, false, true, fun w => rmOf o.rm w.g.mode == 4, fun w g l =>
      leNat (((w.encodeHalf o (rmOf o.rm w.g.mode) g (l / 16 * 16)).drop (4 * (l % 16))).take 4)⟩
  | .qdec o => some ⟨o, false, false, true, fun _ => false, fun w _ l =>
      fp32.round 0 0 (sqDecode (sqBits o.st) (w.halfBytes o (l / 16 * 16)) (l % 16))⟩
  | _ => none

/-- What an instruction names of V registers: its guard, its sources and its destinations. -/
structure VUse where
  h : Hd
  reads : List VRead
  dests : List VName

/-- The instructions of the vector majors with a V result or a predicate result. -/
def vOperands (i : Instr) : Option VUse :=
  match vecOps i, cvOps i, i, predOps i with
  | some p, _, _, _ => some ⟨p.h, p.reads, [⟨p.d, p.wide⟩]⟩
  | none, some p, _, _ => some ⟨p.o.h, [⟨p.o.a, p.srcWide⟩], [⟨p.o.d, p.wide⟩]⟩
  | none, none, .pmov o, _ => some ⟨o.h, vr32 o.a, []⟩
  | none, none, _, some p => some ⟨p.h, p.reads, []⟩
  | none, none, _, none => none

/-! ## Traps (R40, R355 to R357) -/

/-- What the record of a trap of the issuer says (R357): the slot, its word, its lanes, the lowest lane's region. -/
structure RecordAt (w : Who) (s : State) (m : LaneMask) (c l : Nat) (r : TrapRec) : Prop where
  cause : r.cause = BitVec.ofNat 6 c
  pc : r.pc = w.ig.pc
  lanes : r.lanes = m
  lane : r.lane = BitVec.ofNat 5 l
  group : r.group = BitVec.ofNat 5 w.grp
  word : (r.slotctl, r.iword) = s.wordAt w.core w.b.ctx w.ig.pc
  task : r.block = wd w.b.task.lin ∧ r.node = wd w.b.task.node
  region : r.region = (w.g.thread l).region
  leg : r.leg = s.legOf w.b.ctx
  clock : r.clock = s.coreClock w.core
  flags : r.iret = false ∧ r.eng = false ∧ r.hm = false

/-- The context has a handler that the group's allotment and the block's memory can hold (R468). -/
def State.hasHandler (s : State) (w : Who) : Bool :=
  (s.ctx w.b.ctx).handler != 0 && decide ((s.ctx w.b.ctx).hkern.regs ≤ w.g.allot)
    && decide ((s.ctx w.b.ctx).hkern.locKiB ≤ w.b.nodeRec.kern.locKiB)

/-- Where a trap enters the context's handler (R355, R356, R468); none where no handler runs: a second trap in handler mode, a
cause that stops or ends the context, no handler, or no legal entry. -/
def State.handlerEntry (s : State) (w : Who) (cause : Nat) : Option Dword :=
  if w.ig.handler || cause == 13 || driverCause cause || !s.hasHandler w then none
  else s.segEntry w.core w.b.ctx (s.ctx w.b.ctx).hkern (s.ctx w.b.ctx).hseg.toNat

/-- The issue group has entered the handler: its registers, MODE and allotment stand, its results and latches are gone. -/
structure Handled (w : Who) (r : TrapRec) (floor : Word) (a : Dword) (s t : State) : Prop where
  frame : OnlyGroup w s t
  group : { w.grpIn t with
    threads := w.g.threads, igs := w.g.igs, results := w.g.results, ops := w.g.ops, negs := w.g.negs, trap := w.g.trap } = w.g
  results : (w.grpIn t).results = []
  threads : ∀ l, { (w.grpIn t).thread l with latches := (w.g.thread l).latches } = w.g.thread l
  latches : ∀ l, l < 32 → ((w.grpIn t).thread l).latches = [none, none, none, none]
  trap : ∃ k, (w.grpIn t).trap = some k ∧ k.record = r ∧ k.floor = floor ∧ k.kern = (s.ctx w.b.ctx).hkern ∧ k.lanes = w.ig.mask
  own : ∃ x, w.igIn t = some x ∧ x.pc = a + 8 ∧ x.mask = w.ig.mask ∧ x.handler = true ∧ x.wait = .none ∧ x.trap = none
    ∧ x.allot = w.g.allot
  others : ∀ id, id ≠ w.ig.id →
    (w.grpIn t).igs.find? (fun x => x.id == id) = w.g.igs.find? (fun x => x.id == id)

/-- A cause has ended a context: it is ENDING with the cause and the fault record, unless it had left the live states before. -/
structure EndsCtx (c cause : Nat) (r : TrapRec) (s t : State) : Prop where
  rest : { t with ctxs := s.ctxs, cores := s.cores } = s
  own : t.ctx c = if (s.ctx c).state = .live ∨ (s.ctx c).state = .stopped then
      { s.ctx c with state := .ending, cause := BitVec.ofNat 8 cause, fault := r }
    else s.ctx c
  others : ∀ d, d ≠ c → t.ctx d = s.ctx d

/-- The fault record of a trap that no handler takes: HM where it came in handler mode or the handler does not fit. -/
def State.endRecord (s : State) (w : Who) (r : TrapRec) : TrapRec :=
  if w.ig.handler || (!driverCause r.cause.toNat && (s.ctx w.b.ctx).handler != 0 && !s.hasHandler w) then { r with hm := true }
  else r

/-- An assertion has stopped the context (R245): the record is its fault record, no result of the group is abandoned, and no register
has changed. -/
structure Stops (w : Who) (r : TrapRec) (s t : State) : Prop where
  own : (s.ctx w.b.ctx).state = .live →
    (t.ctx w.b.ctx).state = .stopped ∧ (t.ctx w.b.ctx).cause = 13 ∧ (t.ctx w.b.ctx).fault = r
  others : ∀ c, c ≠ w.b.ctx → t.ctx c = s.ctx c
  group : { w.grpIn t with igs := w.g.igs } = w.g
  blocks : ∀ c k, c ≠ w.core ∨ k ≠ w.slot → t.block c k = s.block c k

/-- A trap has been taken: in the handler, by stopping the context, or by ending it. -/
def Traps (w : Who) (r : TrapRec) (floor : Word) (s t : State) : Prop :=
  match s.handlerEntry w r.cause.toNat with
  | some a => Handled w r floor a s t
  | none =>
    if w.ig.handler = false ∧ r.cause = 13 then Stops w r s t
    else EndsCtx w.b.ctx r.cause.toNat (s.endRecord w r) s t ∧ (w.grpIn t).v = w.g.v ∧ (w.grpIn t).s = w.g.s
        ∧ (w.grpIn t).results = []

/-- An instruction traps at its slot. -/
def Raises (i : Instr) (w : Who) (lanes : LaneMask) (cause lane : Nat) (addr : Dword) (s : State) : Prop :=
  ∃ r t, exec i s = .next t ∧ RecordAt w s lanes cause lane r ∧ r.addr = addr ∧ Traps w r 0 s t

/-! ## Waiting and leaving -/

/-- The slot of an issue group may issue: its WAIT finds no token pending of any that issue the slot together, and no negative reply of its own,
and no interlock holds it (R219, R387). -/
def SlotReady (s : State) (w : Who) (b : Bundle) : Prop :=
  let c := b.ctl (slotOf w.ig.pc)
  let i := decodeSlot w.kern.legacy c (b.word (slotOf w.ig.pc))
  (waitMask c = 0 ∨ waitsFirst i = false ∨
    (w.ig.waited = true ∨ w.g.negAt w.ig (waitMask c) = none) ∧ ∀ v ∈ s.fellows w, v.slotPending (waitMask c) = false) ∧
  (namesRegs i = true → w.interlocked (Raw.split c (b.word (slotOf w.ig.pc))) i = false)

/-- The issue group waits: at a PC, its latches lost (R28), its registers and the rest as they were. -/
structure Waits (w : Who) (x : Wait) (pc : Dword) (s t : State) : Prop where
  frame : OnlyGroup w s t
  group : { w.grpIn t with threads := w.g.threads, igs := w.g.igs, ops := w.g.ops } = w.g
  own : ∃ y, w.igIn t = some y ∧ y.wait = x ∧ y.pc = pc ∧ y.mask = w.ig.mask ∧ y.allot = w.ig.allot ∧ y.handler = w.ig.handler
  others : ∀ id, id ≠ w.ig.id →
    (w.grpIn t).igs.find? (fun y => y.id == id) = w.g.igs.find? (fun y => y.id == id)
  threads : ∀ l, { (w.grpIn t).thread l with latches := (w.g.thread l).latches } = w.g.thread l
  latches : ∀ l, w.ig.mask.getLsbD l = true → ((w.grpIn t).thread l).latches = [none, none, none, none]

/-- A segment terminator (R238, R239): the threads that it admits, the segment that each names (none for EXIT), and its return
stack afterwards. -/
structure TermOp where
  ok : Thread → Bool
  target : Who → Nat → Option Nat
  stack : Thread → List (BitVec 12)

/-- NEXT, NEXTP, NEXTX, CALL, RET, EXIT. -/
def termOps : Instr → Option TermOp
  | .nextSeg _ n => some ⟨fun _ => true, fun _ _ => some n.toNat, fun t => t.stack⟩
  | .nextp _ p a b => some ⟨fun _ => true, fun w l => some (if (w.g.thread l).pred p then a.toNat else b.toNat), fun t => t.stack⟩
  | .nextx _ n imm => some ⟨fun _ => true, fun w _ => some ((w.g.sreg n.toNat).toNat + imm.toNat), fun t => t.stack⟩
  | .call _ callee cont => some ⟨fun t => decide (t.stack.length < 16), fun _ _ => some callee.toNat,
      fun t => cont.setWidth 12 :: t.stack⟩
  | .ret _ imm => some ⟨fun t => !t.stack.isEmpty, fun w l => some ((((w.g.thread l).stack.head?).getD 0).toNat + imm.toNat),
      fun t => t.stack.tail⟩
  | .exit _ => some ⟨fun _ => true, fun _ _ => none, fun _ => []⟩
  | _ => none

/-- No issue group of a core is held at GROW, SHRINK or WAYMARK. -/
abbrev State.noneGather (s : State) (core : Nat) : Prop :=
  ∀ x ∈ (s.core core).slots, ∀ g ∈ x.2.groups, ∀ ig ∈ g.igs, ig.wait.gathers = false

/-- Nothing of the core waits at GROW, SHRINK or WAYMARK, and nobody is at the block barrier. -/
def Calm (w : Who) (s : State) : Prop :=
  w.b.barrier = [] ∧ s.noneGather w.core

/-- The threads of the issue group have gone to their successors (R29, R238): `succ l` is the entry bundle of lane l's, none where
it exits. Threads of one successor form one issue group. -/
structure Departed (w : Who) (p : TermOp) (succ : Nat → Option Dword) (s t : State) : Prop where
  frame : OnlyGroup w s t
  group : { w.grpIn t with threads := w.g.threads, igs := w.g.igs, ops := w.g.ops, trap := w.g.trap } = w.g
  igs : ∃ new, (w.grpIn t).igs = w.g.igs.filter (fun x => x.id != w.ig.id) ++ new ∧ (new.map (·.pc)).Nodup ∧
    (∀ x ∈ new, x.wait = .none ∧ x.allot = w.g.allot ∧ x.handler = w.ig.handler ∧ x.jumped = true ∧ x.entered = false ∧
      ∀ l, x.mask.getLsbD l = true ↔ w.live.getLsbD l = true ∧ ∃ a, succ l = some a ∧ x.pc = a + 8) ∧
    (∀ l a, w.live.getLsbD l = true → succ l = some a → ∃ x ∈ new, x.pc = a + 8)
  gone : ∀ l, w.live.getLsbD l = true →
    ((w.grpIn t).thread l).exited = (succ l).isNone ∧ ((w.grpIn t).thread l).stack = p.stack (w.g.thread l)
  latches : ∀ l, w.ig.mask.getLsbD l = true → ((w.grpIn t).thread l).latches = [none, none, none, none]
  threads : ∀ l, let x := w.g.thread l
    { (w.grpIn t).thread l with exited := x.exited, stack := x.stack, latches := x.latches } = x
  stay : ∀ l, w.live.getLsbD l = false → { (w.grpIn t).thread l with latches := (w.g.thread l).latches } = w.g.thread l
  trap : w.ig.handler = false → (w.grpIn t).trap = w.g.trap

/-! ## A slot that also acts outside its group -/

/-- The issuer, its block replaced. -/
def Who.withBlock (w : Who) (b : Block) : Who := { w with b := b, g := b.group w.grp }

/-- The state with the issuer's block replaced. -/
def Who.put (w : Who) (s : State) (b : Block) : State := s.setBlock w.core w.slot b

/-- Nothing of the issuer's core is waiting to be performed, in its queues or on its way to an endpoint, its group awaits no remote answer,
no bank request of its issue group has completed (R53), and nothing that stands before its accesses is still to be performed (R80). -/
structure Quiet (w : Who) (s : State) : Prop where
  stores : s.pendingStores w.core = []
  ops : w.g.ops = []
  got : w.ig.got = []
  packets : ∀ d, s.coreFlights w.core d = []
  ahead : ∀ l, ∀ p ∈ (w.g.thread l).ahead, s.unperformed p.2.id = false

/-- The 8-byte bank words that lanes touch with n bytes each, in order: each is one request (R53). -/
def bankList (m : LaneMask) (off : Nat → Nat) (n : Nat) : List Nat := ((lanesOf m).flatMap fun l => bankWords (off l) n).dedup

/-- Nothing but caches may differ outside the cores: L1s, translations, the marks of last stores, counters, and the numbers and free
values used. -/
def CachesRest (s t : State) : Prop :=
  { t with
    cores := s.cores, nextId := s.nextId, freeCtr := s.freeCtr, l1s := s.l1s, dieTlb := s.dieTlb, upper := s.upper, marks := s.marks
    sys := { t.sys with counters := s.sys.counters } } = s

/-- Partitions differ in their lanes' last pages alone (R65). -/
def SameParts (k k' : Core) : Prop :=
  ∀ p, { listGet ({} : Part) k'.parts p with last := (listGet ({} : Part) k.parts p).last } = listGet ({} : Part) k.parts p

/-- Only what cores cache or have been told of may differ. -/
structure CachesOnly (s t : State) : Prop where
  rest : CachesRest s t
  cores : ∀ c, { t.core c with tlb := (s.core c).tlb, icache := (s.core c).icache, parts := (s.core c).parts } = s.core c
  parts : ∀ c, SameParts (s.core c) (t.core c)

/-- Beside that, only the issuer's block may differ: it is now `b`. -/
structure BlockOnly (w : Who) (b : Block) (s t : State) : Prop where
  rest : CachesRest s t
  blocks : ∀ c k, t.block c k = if c = w.core ∧ k = w.slot then some b else s.block c k
  cores : ∀ c, { t.core c with slots := (s.core c).slots, tlb := (s.core c).tlb, parts := (s.core c).parts } = s.core c
  parts : ∀ c, SameParts (s.core c) (t.core c)

/-- `v` is the issuer `w`, but that what orders the accesses of its threads may differ: what stands before them, what they have done,
what fenced stores they have read, and which of their stores their loads have had early (R79 to R84, R95). -/
structure Reordered (w v : Who) : Prop where
  place : { v with b := w.b, g := w.g } = w
  block : { v.b with groups := w.b.groups } = w.b ∧ v.b.groups.length = w.b.groups.length ∧ v.g = v.b.group v.grp
  groups : ∀ g, g ≠ w.grp → v.b.group g = w.b.group g
  group : { v.g with threads := w.g.threads } = w.g
  threads : ∀ l, let t := w.g.thread l
    { v.g.thread l with ahead := t.ahead, past := t.past, seen := t.seen, fed := t.fed } = t

/-- A group is `g` but for what orders the accesses of its threads. -/
def Group.reordered (g g' : Group) : Prop :=
  { g' with threads := g.threads } = g ∧ ∀ l, { g'.thread l with
    ahead := (g.thread l).ahead, past := (g.thread l).past, seen := (g.thread l).seen, fed := (g.thread l).fed } = g.thread l

/-! ## Loads and stores (R286 to R294, R301, R308) -/

/-- No access of memory finds anything but memory: no partial update, held store or cached sector. -/
structure Plain (s : State) : Prop where
  cu : s.cu = []
  holds : s.holds = []
  sectors : ∀ p, (s.l1 p).sectors = []

/-- The bytes of memory that a piece of an access names; none for peer MMIO. -/
def State.pieceBytes (s : State) (c : Nat) (p : Piece) : Option (List Byte) :=
  match p.x.target (s.ctx c).pasid.toNat p.va with
  | .dev pa => if s.homeAdmits c pa then some (Memory.readN s.mem pa p.n) else none
  | .host a => some (Memory.readN s.hmem a p.n)
  | .mmio _ => none

/-- The bytes of pieces, in order. -/
def State.piecesBytes (s : State) (c : Nat) : List Piece → Option (List Byte)
  | [] => some []
  | p :: t =>
    match s.pieceBytes c p, s.piecesBytes c t with
    | some a, some b => some (a ++ b)
    | _, _ => none

/-- A load of global or host memory: the pages that a lane's access names, or its fault, and its result from the bytes. -/
structure LoadOp where
  h : Hd
  wb : Wb
  d : BitVec 8
  wide : Bool
  acc : Acc
  reads : List VRead
  pieces : State → Who → Nat → Except Flt (List Piece)
  value : State → Who → Nat → List Byte → Nat

/-- Bytes as a load's type extends them (R292): I8 and I16 by their sign, the rest by zeros. -/
def extended (ty : Ty) (bs : List Byte) : Nat :=
  match ty with
  | .i8 => (signedOf 8 (leNat bs) % 2 ^ 32).toNat
  | .i16 => (signedOf 16 (leNat bs) % 2 ^ 32).toNat
  | _ => leNat bs

/-- LD and LDX (R292, R293). -/
def loadOps : Instr → Option LoadOp
  | .ld o => some ⟨o.h, o.wb, o.d, wide o.ty, o.acc, baseReads true o.base,
      fun s w l => s.laneAccess w l (needOf true false o.acc.dom) (rank o.acc.dom) (w.gaddr l o.base o.imm) (sizeOf o.ty),
      fun _ _ _ bs => extended o.ty bs⟩
  | .ldx o => some ⟨o.h, o.wb, o.d, false, o.acc, baseReads true o.base ++ vr32 o.idx,
      fun s w l => (ldxElem o s w l).map (·.ps),
      fun s w l bs => match ldxElem o s w l with
        | .ok e => (elemValue e.fmt e.within bs).toNat
        | .error _ => 0⟩
  | _ => none
where
  /-- The element that a lane of an LDX names (R61). -/
  ldxElem (o : LdxOp) (s : State) (w : Who) (l : Nat) : Except Flt Elem :=
    s.elem w l (needOf true false o.acc.dom) (rank o.acc.dom) o.ty (w.base l true o.base) (w.src l false o.idx).toNat

/-- What a lane's store puts into its queue: where, what, and whether it is irrevocable. -/
abbrev Put := Place × Work × Bool

/-- Pieces of a store of bytes (R289). -/
def State.puts (s : State) (c : Nat) : List Piece → List (Byte × Byte) → List Put
  | [], _ => []
  | p :: t, bs =>
    (.glob (p.x.target (s.ctx c).pasid.toNat p.va), .bytes (bs.take p.n), s.irrevPage c p.x) :: s.puts c t (bs.drop p.n)

/-- A store: what a lane puts into its queue, or its fault. -/
structure StoreOp where
  h : Hd
  acc : Acc
  reads : List VRead
  puts : State → Who → Nat → Except Flt (List Put)

/-- ST, STL, RED, BARINIT (R291, R292, R301, R308); what STL stores into each 8-byte bank word is a request of its own (R53). -/
def storeOps : Instr → Option StoreOp
  | .st o => some ⟨o.h, o.acc, baseReads true o.base ++ vr o.ty o.data, fun s w l =>
      (s.laneAccess w l (needOf false true o.acc.dom) (rank o.acc.dom) (w.gaddr l o.base o.imm) (sizeOf o.ty)).map fun ps =>
        s.puts w.b.ctx ps (whole (leBytes (sizeOf o.ty) (w.src l (wide o.ty) o.data).toNat))⟩
  | .stl o => some ⟨o.h, o.acc, baseReads false o.base ++ vr o.ty o.data, fun _ w l =>
      (w.locAccess l (w.laddr l o.base o.imm) (sizeOf o.ty) true).map fun a =>
        (bankWords a (sizeOf o.ty)).map fun k =>
          (.loc w.slot (inBank a (sizeOf o.ty) k).1, .bytes (((whole (leBytes (sizeOf o.ty) (w.src l (wide o.ty) o.data).toNat)).drop
            ((inBank a (sizeOf o.ty) k).1 - a)).take (inBank a (sizeOf o.ty) k).2), false)⟩
  | .red o => some ⟨o.h, o.acc, baseReads true o.base ++ vr o.ty o.data, fun s w l =>
      (s.atomAddr w l (needOf false true o.acc.dom) (rank o.acc.dom) (w.gaddr l o.base o.imm) (sizeOf o.ty)).map fun ps =>
        [(s.wordPlace w.b.ctx ps, .red o.op o.ty [w.src l (wide o.ty) o.data], false)]⟩
  | .barinit o => some ⟨o.h, o.acc, baseReads false o.base ++ vr32 o.data, fun _ w l =>
      let n := (w.src l false o.data).toNat
      if n = 0 ∨ 2 ^ 30 ≤ n then .error { cause := 3, lane := l }
      else (w.barAccess l (w.laddr l o.base o.imm)).map fun a =>
        [(.loc w.slot a, .bytes (whole (leBytes 8 (n * 2 ^ 30))), false)]⟩
  | _ => none

/-- A further lane's store: contributions of a RED to a word that a lower lane named join its own (R64), any other store stands alone. -/
def joinPut (acc : List (List Nat × Put)) (x : Nat × Put) : List (List Nat × Put) :=
  match x.2.2.1 with
  | .red _ _ vs =>
    if acc.any (fun y => y.2.1 == x.2.1) then
      acc.map fun y => if y.2.1 == x.2.1 then
        (y.1 ++ [x.1], y.2.1, (match y.2.2.1 with | .red op ty us => .red op ty (us ++ vs) | k => k), y.2.2.2)
        else y
    else acc ++ [([x.1], x.2)]
  | .bytes _ => acc ++ [([x.1], x.2)]

/-- The stores that lanes make, each with its lanes. -/
def joined (xs : List (Nat × Put)) : List (List Nat × Put) := xs.foldl joinPut []

/-- Stores have joined the queue of the issuer's core, in order of lanes; no memory has changed (R73). An access of host space or peer MMIO
acts at .SYS (R72). The issuer is now `v`. -/
structure Enqueued (w v : Who) (acc : Acc) (xs : List (List Nat × Put)) (s t : State) : Prop where
  rest : CachesRest s t
  order : Reordered w v
  blocks : ∀ c k, t.block c k = if c = w.core ∧ k = w.slot then some v.b else s.block c k
  cores : ∀ c, { t.core c with
      slots := (s.core c).slots, stores := (s.core c).stores, tlb := (s.core c).tlb, parts := (s.core c).parts } = s.core c
  parts : ∀ c, SameParts (s.core c) (t.core c)
  other : ∀ c, c ≠ w.core → (t.core c).stores = (s.core c).stores
  queue : ∃ new, (t.core w.core).stores = (s.core w.core).stores ++ new ∧
    new.map (fun e => (e.who, e.place, e.work, e.irrev)) = xs.map (fun x => (w.agent (x.1.headD 0), x.2.1, x.2.2.1, x.2.2.2)) ∧
    new.map (fun e => e.lanes) = xs.map (fun x => maskOf fun l => x.1.contains l) ∧
    ∀ e ∈ new, e.dom = acc.dom ∧ e.scope = e.place.scope acc.scope ∧ e.rel = isRelease acc ∧ e.leg = s.legOf w.b.ctx ∧ e.pc = w.ig.pc

/-- A word at a target; 0 for peer MMIO. -/
def State.wordOf (s : State) (t : Tgt) (n : Nat) : Dword :=
  match t with
  | .dev a => dw (leNat (Memory.readN s.mem a n))
  | .host a => dw (leNat (Memory.readN s.hmem a n))
  | .mmio _ => 0

/-- The value of a word after the lanes of a list have operated on it in order (R64). -/
def Who.atomAfter (w : Who) (o : AtomOp) (ls : List Nat) (x : Dword) : Dword :=
  ls.foldl (fun x l => (atomNew o.op o.ty x (w.atomArgs l o.ty o.arg).1 (w.atomArgs l o.ty o.arg).2).getD x) x

/-! ## Commands (R317) -/

/-- An instruction that issues a command: the operation and the endpoint, where its operands pass every check. -/
structure CmdReq where
  h : Hd
  tag : BitVec 6
  acc : CAcc
  reads : List VRead
  op : State → Who → Option (CmdOp × Option (Nat × Option Nat))

/-- The operation of a TCPY (R320 to R322). -/
def tcpyReq (o : TcpyOp) (s : State) (w : Who) : Option (CmdOp × Option (Nat × Option Nat)) :=
  match s.readShape w (w.s32 o.rcd) (w.origin o.org) with
  | none => none
  | some h =>
    let base := w.sAt o.dense 0
    match w.b.denseOf h base with
    | none => none
    | some (dense, df) =>
      if !h.pairOk || !w.b.tensorLocal h (w.origin o.org) || !w.b.denseFits h (w.origin o.org) df base then none
      else
        match w.b.barOf (w.sAt o.dense 1) (!h.farOut),
            s.tcpyEnds w h (w.origin o.org) dense df (bitAt (w.sAt o.dense 1) 31) (w.sAt o.dense 2) (w.s32 o.rcd) with
        | .ok bar, .ok (coll, ep) =>
          if !o.fo then some (.tcpy h (w.origin o.org) dense coll bar none, ep)
          else if h.toTensor || !h.dtile || h.coll then none
          else match w.b.mmaOf (w.sAt o.dense 3) with
            | .ok m => some (.tcpy h (w.origin o.org) dense coll bar (some m), ep)
            | .error _ => none
        | _, _ => none

/-- The operation of a TDRAIN (R335). -/
def tdrainReq (o : TdrainOp) (s : State) (w : Who) : Option (CmdOp × Option (Nat × Option Nat)) :=
  match s.drainShape w (w.sAt o.desc 0) (w.origin o.org), w.b.barOf (w.sAt o.desc 3) true with
  | some h, .ok bar =>
    let ok := field (w.sAt o.desc 2) 16 16 = 0 ∧ w.sAt o.desc 2 + h.boxAt 0 * h.rows ≤ w.b.accSize
      ∧ w.b.tensorLocal h (w.origin o.org) = true
    let cmd := fun h2 => (CmdOp.tdrain h (w.origin o.org) h2 (w.origin o.org2) (w.sAt o.desc 2) bar o.clr, none)
    if ¬ ok then none
    else if w.sAt o.desc 1 = 0xFFFFFFFF then some (cmd none)
    else match s.drainShape w (w.sAt o.desc 1) (w.origin o.org2) with
      | some h2 =>
        if h2.boxAt 0 = h.rows ∧ h2.rows = h.boxAt 0 ∧ w.b.tensorLocal h2 (w.origin o.org2) = true then some (cmd (some h2)) else none
      | none => none
  | _, _ => none

/-- Majors 0x11 and 0x12 and XSEND: what each asks of an engine. -/
def cmdReqs : Instr → Option CmdReq
  | .cpy o => some ⟨o.h, o.tag, o.acc, cpyReads o, fun _ w =>
      let n := 4 * 2 ^ o.sz.toNat
      let m := w.active o.h.g
      if (lanesOf m).any (fun l => decide (n < w.cpyCount l o.cnt)) then none
      else match gather (lanesOf m) (w.cpyLane o n) with
        | .ok xs => some (.cpy o.dir n (xs.map (·.2)), none)
        | .error _ => none⟩
  | .tcpy o => some ⟨o.h, o.tag, o.acc, [], tcpyReq o⟩
  | .tld o => some ⟨o.h, o.tag, o.acc, [], fun _ w => (moved w o true).map fun c => (.tld o.tile.toNat c (w.s32 o.addr), none)⟩
  | .tst o => some ⟨o.h, o.tag, o.acc, [], fun _ w => (moved w o false).map fun c => (.tst o.tile.toNat c (w.s32 o.addr), none)⟩
  | .tzero h tag tile => some ⟨h, tag, plainAcc, [], fun _ w => (w.b.tileCfg tile.toNat).map fun _ => (.tzero tile.toNat, none)⟩
  | .tmma h tag desc => some ⟨h, tag, plainAcc, [], fun _ w => match w.b.mmaOf (w.s32 desc) with
      | .ok m => some (.tmma m, none)
      | .error _ => none⟩
  | .tdrain o => some ⟨o.h, o.tag, o.acc, [], tdrainReq o⟩
  | .tacc h add tag tile base => some ⟨h, tag, plainAcc, [], fun _ w => match w.b.tileCfg tile.toNat with
      | some c => if w.s32 base + c.rows * c.k ≤ w.b.accSize then some (.tacc tile.toNat c (w.s32 base) add, none) else none
      | none => none⟩
  | .xsend h acc tag desc bar => some ⟨h, tag, acc, [], fun s w =>
      match w.b.endpOf (w.sAt desc 0), w.b.barOf (w.s32 bar) false with
      | .ok (m, cv), .ok br => match s.entry w.b.ctx m with
        | some man =>
          if 1 ≤ w.sAt desc 2 ∧ w.sAt desc 2 ≤ 65536 ∧ man.isCore = true ∧ man.grants .write = true
              ∧ w.b.locCheck (w.sAt desc 1) (w.sAt desc 2) false = true then
            some (.xsend (w.sAt desc 1) (w.sAt desc 2) (w.sAt desc 3) br, some (m, cv))
          else none
        | none => none
      | _, _ => none⟩
  | _ => none
where
  /-- A whole tile against local memory: aligned to 8 bytes and inside the allocation (R328, R329). -/
  moved (w : Who) (o : TileMv) (load : Bool) : Option TileCfg :=
    match w.b.tileCfg o.tile.toNat with
    | some c =>
      if w.s32 o.addr % 8 = 0 ∧ w.b.locCheck (w.s32 o.addr) (c.rows * c.rowb) (!load) = true then some c else none
    | none => none

/-- The block once a command has issued: it stands last, its tag counts one more, and a convoy that it rides one more item. -/
def Block.issued (b : Block) (c : Cmd) : Block :=
  let b := match c.convoy with
    | some v => { b with
        convoys := KMap.put b.convoys v { KMap.get ({} : Convoy) b.convoys v with
          items := (KMap.get ({} : Convoy) b.convoys v).items + 1 } }
    | none => b
  { (b.modTag c.tag (fun t => { t with count := t.count + 1 })) with cmds := b.cmds ++ [c], nextCmd := b.nextCmd + 1 }

/-! ## Remote operations (R337 to R339, R344, R345) -/

/-- An instruction that sends packets through a manifest entry: its endpoint, the right it needs, what each packet asks and for
which lanes, and where a result goes. -/
structure RemReq where
  h : Hd
  marks : Bool
  reads : List VRead
  names : List VName
  ep : Who → Option (Nat × Option Nat)
  right : Right
  ok : State → Who → Man → Bool
  sends : State → Who → List (LaneMask × PktOp)
  dest : LaneMask → RDest
  custody : Bool
  dom : Dom
  scope : Scope
  rel : Bool
  bar : Who → Option Nat

/-- An access of n bytes at every active lane's offset lies in the window, at a multiple of k. -/
def lanesFit (w : Who) (m : LaneMask) (off : VSrc) (man : Man) (n k : Nat) : Bool :=
  (lanesOf m).all fun l => man.inWindow (w.src l false off).toNat n && (w.src l false off).toNat % k == 0

/-- XLD, XST, XATOM, FENCEF, SLOTRSV. -/
def remReqs : Instr → Option RemReq
  | .xld o => some ⟨o.h, badMark loadMarks o.acc, vr32 o.off, vd o.d (wide o.ty), fun w => w.b.endp o.ep, .read,
      fun _ w man => lanesFit w (w.active o.h.g) o.off man (sizeOf o.ty) 1,
      fun _ w => (lanesOf (w.active o.h.g)).map fun l => (1 <<< l, .load [(w.src l false o.off).toNat] (sizeOf o.ty)),
      fun m => .v o.d o.wb o.ty m, false, o.acc.dom, o.acc.scope, false, fun _ => none⟩
  | .xst o => some ⟨o.h, badMark storeMarks o.acc, vr32 o.off ++ vr o.ty o.data, [], fun w => w.b.endp o.ep, .write,
      fun _ w man => lanesFit w (w.active o.h.g) o.off man (sizeOf o.ty) 1,
      fun _ w => (lanesOf (w.active o.h.g)).map fun l => (1 <<< l, .store [((w.src l false o.off).toNat,
        whole (leBytes (sizeOf o.ty) (w.src l (wide o.ty) o.data).toNat))]),
      fun _ => .nothing, o.acc.dom != .ub, o.acc.dom, o.acc.scope, isRelease o.acc, fun _ => none⟩
  | .xatom o => some ⟨o.h, badMark atomMarks o.acc, vr32 o.off ++ xatomReads o, if o.h.k.sett.isSome then vd o.d (wide o.ty) else [],
      fun w => w.b.endp o.ep, .atomic,
      fun s w man => lanesFit w (w.active o.h.g) o.off man (sizeOf o.ty) (sizeOf o.ty) && !s.outside w.b.ctx man.pkg
        && (lanesOf (w.active o.h.g)).all fun l => !s.homeIrrev w.b.ctx man (w.src l false o.off).toNat,
      fun s w => (words w o).map fun x => (maskOf fun l => x.2.contains l,
        .atom o.op o.ty (x.2.map fun l => (x.1, w.xatomArgs o s.freeCtr l))),
      fun m => if o.h.k.sett.isSome then .v o.d o.wb o.ty m else .nothing, o.acc.dom != .ub, o.acc.dom, o.acc.scope,
      isRelease o.acc, fun _ => none⟩
  | .fencef h dom c bar n => some ⟨h, dom == .ub, [], [], fun w => w.b.endp (.convoy c), .write,
      fun _ w man => man.isCore && decide (w.s32 bar < 2 ^ 19 ∧ w.s32 bar % 8 = 0),
      fun _ w => [(w.active h.g, .arrive n.toNat)], fun _ => .nothing, true, dom, .fab, true, fun w => some (w.s32 bar)⟩
  | .slotrsv h d e b => some ⟨h, false, [], [], fun w => (w.b.endpOf (w.s32 e)).toOption, .reserve,
      fun _ _ man => man.isCore, fun _ w => [(w.active h.g, .reserve (w.s32 b))], fun _ => .s d, false, .ub, .fab, false,
      fun _ => none⟩
  | _ => none
where
  /-- The words that lanes of an XATOM name, each with its lanes in order (R339). -/
  words (w : Who) (o : XatomOp) : List (Nat × List Nat) :=
    let off := fun l => (w.src l false o.off).toNat
    let ls := lanesOf (w.active o.h.g)
    (ls.filter fun l => !ls.any fun j => decide (j < l) && off j == off l).map fun l =>
      (off l, ls.filter fun j => off j == off l)

/-- An operation but for the latches that its result still writes (R28). -/
def RemOp.bare (o : RemOp) : RemOp := { o with dest := o.dest.loseLatches 0xFFFFFFFF }

/-- Packets have been sent from the issuer through entry m: they stand at their source, and an operation of the group awaits
their answers; a result is pending where there is one. -/
structure Sent (w : Who) (p : RemReq) (m : Nat) (man : Man) (s t : State) : Prop where
  packets : ∃ new, t.flights = s.flights ++ new ∧ new.map (·.p.op) = (p.sends s w).map (·.2) ∧
    (∀ f ∈ new, f.at_ = .source ∧ f.answer = none ∧ f.p.pkg = BitVec.ofNat 12 man.pkg ∧ f.p.unit = BitVec.ofNat 16 man.unit
      ∧ f.p.slot = BitVec.ofNat 5 man.slot ∧ f.p.gen = wd man.gen ∧ f.p.tctx = BitVec.ofNat 6 man.tctx ∧ f.p.entry = m
      ∧ f.p.toCore = man.isCore ∧ f.p.wbase = man.wbase ∧ f.p.bar = p.bar w ∧ f.p.dom = p.dom ∧ f.p.rel = p.rel
      ∧ f.p.srcPkg = s.sys.pkg ∧ f.p.scope = s.farScope f.p.issuer man f.p.op p.scope ∧ f.p.issuer.core = w.core
      ∧ f.p.issuer.slot = w.slot ∧ f.p.issuer.gen = w.b.gen ∧ f.p.issuer.grp = w.grp) ∧
    ∃ o, (w.grpIn t).ops.map RemOp.bare = (w.g.ops ++ [o]).map RemOp.bare ∧ o.pkts = (new.map (·.p.id)).zip ((p.sends s w).map (·.1))
      ∧ o.dest = p.dest (w.active p.h.g) ∧ o.custody = p.custody ∧ o.lanes = w.active p.h.g ∧ o.threads = w.live ∧ o.dom = p.dom
      ∧ o.abandoned = false
      ∧ (w.grpIn t).results = (if p.dest (w.active p.h.g) = .nothing then w.g.results
          else w.g.results ++ [{ id := o.result, tok := p.h.k.sett, remote := true }])
  memory : t.mem = s.mem ∧ t.hmem = s.hmem
  registers : (w.grpIn t).v = w.g.v ∧ (w.grpIn t).s = w.g.s ∧ (w.grpIn t).mode = w.g.mode
  threads : ∀ l, let x := w.g.thread l
    { (w.grpIn t).thread l with latches := x.latches, ahead := x.ahead, past := x.past, seen := x.seen, fed := x.fed } = x
  advanced : Advanced w t
  others : ∀ c k, c ≠ w.core ∨ k ≠ w.slot → t.block c k = s.block c k

/-- Instructions that act once when the guard of any live lane holds (R221, R316). -/
def onceOps : Instr → Option Hd
  | .waitTok h _ _ | .waitClk h _ _ | .trap h _ | .assert h _ _ | .bkpt h _ | .cctlIvall h => some h
  | .cpywait h _ _ | .tagff h _ _ | .tagrd h _ _ | .tcfg h _ _ | .tzero h _ _ | .tmma h _ _ | .tacc h _ _ _ _ | .tstat h _ => some h
  | .tcpy o => some o.h
  | .tld o | .tst o => some o.h
  | .tdrain o => some o.h
  | .xsend h _ _ _ _ | .cvopen h _ _ | .cvclose h _ | .fencef h _ _ _ _ | .slotrsv h _ _ _ | .slotrel h _ | .slotrelFault h _ => some h
  | .legrd h _ | .irrev h | .locq h _ _ _ | .ctlrd h _ _ | .ctlwr h _ _ | .traprd h _ _ => some h
  | _ => none

/-! ## Events -/

/-- Of the machine only the block in one slot differs: it is now `b`. -/
structure BlockAt (core slot : Nat) (b : Block) (s t : State) : Prop where
  rest : { t with cores := s.cores } = s
  cores : ∀ c, { t.core c with slots := (s.core c).slots } = s.core c
  blocks : ∀ c k, t.block c k = if c = core ∧ k = slot then some b else s.block c k

/-- Of the machine only the L1 at a position differs: it is now `k`. -/
structure L1At (pos : Nat) (k : L1) (s t : State) : Prop where
  rest : { t with l1s := s.l1s } = s
  own : t.l1 pos = k
  others : ∀ p, p ≠ pos → t.l1 p = s.l1 p

/-- The undo log of a context's domain has the sectors of a write in the current leg, or the context is in no domain (R179). -/
def State.isLogged (s : State) (c pa n : Nat) : Prop :=
  ∀ d, (s.ctx c).domain = some d → ∀ x, s.domain? d = some x → ∀ a ∈ sectorsOf pa n,
    ∃ e ∈ s.logs, e.pa = a ∧ e.leg = x.leg ∧ e.dom = d

/-- A store that waits to be performed at a device address: it may leave, its home admits it, and no log entry is missing. -/
structure Leaves (s : State) (e : Store) (pa : Nat) (bs : List (Byte × Byte)) : Prop where
  place : e.place = .glob (.dev pa)
  work : e.work = .bytes bs
  plain : e.after = [] ∧ e.irrev = false
  order : s.mayLeave e.who.core e = true
  home : s.homeAdmits e.who.ctx pa = true
  log : s.isLogged e.who.ctx pa bs.length
  merged : s.cu = []
  inOrder : e.dom = .co → s.coLeft e.who.core = []

/-- The store has been performed: its bytes are in memory, it is in no queue, and no block has changed. Beside that L1s are told of it and
its mark stands (R73, log 14), and counters count it. -/
structure Performed (e : Store) (pa : Nat) (bs : List (Byte × Byte)) (s t : State) : Prop where
  rest : { t with
    mem := s.mem, cores := s.cores, nextId := s.nextId, homeHeld := s.homeHeld, l1s := s.l1s, marks := s.marks
    sys := { t.sys with counters := s.sys.counters } } = s
  memory : t.mem = Memory.writeMasked s.mem pa bs
  blocks : ∀ c k, t.block c k = s.block c k
  queue : ∀ c, (t.core c).stores = if c = e.who.core then (s.core c).stores.filter (fun x => x.id != e.id) else (s.core c).stores
  held : t.homeHeld = s.homeHeld.filter (fun h => h.store.id != e.id)

/-- A command has left its block and no longer counts on its tag. -/
def Block.without (b : Block) (c : Cmd) : Block :=
  { b with
    cmds := b.cmds.filter (fun x => x.id != c.id)
    tags := KMap.put b.tags c.tag { b.tag c.tag with count := (b.tag c.tag).count - 1 } }

/-- Bytes of local memory, accumulator words and tile bytes stand in canonical form. -/
def Block.canonical (b : Block) : Bool := b.mem.wf && KMap.wfFrom 0 0 b.acc && KMap.wfFrom 0 0 b.tiles

/-- Byte i of a tile. -/
def Block.tileByte (b : Block) (t i : Nat) : Byte := KMap.get 0 b.tiles (32768 * t + i)

/-- Accumulator word i. -/
def Block.accWord (b : Block) (i : Nat) : Word := KMap.get 0 b.acc i

/-- Flight `id` is changed by `f`; the others stand. -/
def flightsWith (l : List Flight) (id : Nat) (f : Flight → Flight) : List Flight := l.map (fun x => if x.p.id = id then f x else x)

/-- A packet is lost: its target's end is told, and its own end hears sub-code 7 (R171). -/
structure Lost (id : Nat) (f : Flight) (s t : State) : Prop where
  rest : { t with
    out := s.out, flights := s.flights } = s
  notice : t.out = s.out ++ [FabMsg.errorNotice f.p]
  answer : t.flights = flightsWith s.flights id (fun x => { x with answer := some (.neg { sub := 7 }), at_ := .gone })

/-- Counter values left on a port for n flits: none is needed in clear; otherwise they lie below 2^47, or there is a next key and the counter
has 48 bits (R476, R477). -/
def FlitRoom (s : State) (q n : Nat) : Prop :=
  let x := (s.port q).tx
  s.sys.encreq = false ∨ x.ctr + n < 2 ^ 47 ∨ x.next.isSome = true ∧ x.ctr + n ≤ 2 ^ 48

/-- Counter values left on a port for the flits of a packet. -/
def HasRoom (s : State) (q : Nat) (p : Packet) : Prop := FlitRoom s q (Config.flits p).length

/-- A packet has left on a route, given with its number, on its port and towards the package that it leads through, each flit with a counter
value (R473, R476). -/
structure SentOn (id : Nat) (r : Nat × Nat) (p : Packet) (k : Nat) (s t : State) : Prop where
  rest : { t with
    out := s.out, flights := s.flights, ports := s.ports, sys := { t.sys with counters := s.sys.counters } } = s
  out : t.out = s.out ++ [FabMsg.packet (routePort r.2) (routeVia r.2) p (s.protect (routePort r.2) p)]
  flights : t.flights = flightsWith s.flights id (fun x => { x with
    resends := x.resends + k, at_ := .link (routePort r.2 / 2) (routePort r.2), sentAt := s.time, route := r.1, port := routePort r.2 })
  port : t.port (routePort r.2) = { s.port (routePort r.2) with tx := { (s.port (routePort r.2)).tx with
    ctr := (s.port (routePort r.2)).tx.ctr + if s.sys.encreq then (Config.flits p).length else 0 } }
  ports : ∀ q, q ≠ routePort r.2 → t.port q = s.port q

/-- The flits of a message have left on port q, each with a counter value (R476, log 110). -/
structure FlitsSent (q : Nat) (via : Option (BitVec 12)) (s t : State) : Prop where
  rest : { t with
    out := s.out, freeCtr := s.freeCtr, ports := s.ports, sys := { t.sys with counters := s.sys.counters } } = s
  out : t.out = s.out ++ [FabMsg.flits q via (s.protectAll q (Config.msgFlits s.freeCtr))]
  port : t.port q = { s.port q with tx := { (s.port q).tx with
    ctr := (s.port q).tx.ctr + if s.sys.encreq then (Config.msgFlits s.freeCtr).length else 0 } }
  ports : ∀ r, r ≠ q → t.port r = s.port r

/-- The port that received a packet has counted its flits, and nothing else has changed (R476, R494). -/
structure Received (q : Nat) (p : Packet) (s t : State) : Prop where
  rest : { t with
    ports := s.ports, sys := { t.sys with counters := s.sys.counters } } = s
  port : t.port q = { s.port q with rx := { (s.port q).rx with
    ctr := (s.port q).rx.ctr + if s.sys.encreq then (Config.flits p).length else 0 } }
  ports : ∀ r, r ≠ q → t.port r = s.port r

/-- A port without the counter values for a packet's flits, and without a next key, has entered HELD with none of the packet sent; the
flight awaits its custody timeout there (R474, R477). -/
structure Starved (id : Nat) (r : Nat × Nat) (s t : State) : Prop where
  out : t.out = s.out
  flights : t.flights = flightsWith s.flights id (fun x => { x with
    at_ := .link (routePort r.2 / 2) (routePort r.2), sentAt := s.time, route := r.1, port := routePort r.2 })
  port : (t.port (routePort r.2)).state = .held ∧ (t.port (routePort r.2)).heldAt = s.time ∧
    (t.port (routePort r.2)).tx.ctr = 2 ^ 48 - 2 ∧ (t.port (routePort r.2)).tx.cur = (s.port (routePort r.2)).tx.cur
  ports : ∀ q, q ≠ routePort r.2 → t.port q = s.port q

/-- The one remote operation of a group, with its one packet; its block stands in a slot. -/
structure Asked (s : State) (f : Flight) (core slot : Nat) (b : Block) (o : RemOp) (m : LaneMask) : Prop where
  own : f.inbound = false ∧ f.p.irrev = false ∧ f.cmd = none
  sender : s.issuerAt f.p.issuer = some (.block core slot b) ∧ s.block core slot = some b
  ops : (b.group f.p.issuer.grp).ops = [o]
  pkts : o.pkts = [(f.p.id, m)]
  fresh : o.got = [] ∧ o.acquire = false ∧ o.abandoned = false
  negs : (b.group f.p.issuer.grp).negs = []

/-- An answer has reached the group: its packet is forgotten, and of the machine only the group and what is outstanding on the
packet's manifest entry differ, and L1s where the operation read (R85). -/
structure Answered (s : State) (f : Flight) (core slot : Nat) (b : Block) (g : Group) (t : State) : Prop where
  rest : { t with
    cores := s.cores, flights := s.flights, ctxs := s.ctxs, l1s := s.l1s, sys := { t.sys with counters := s.sys.counters } } = s
  flights : t.flights = s.flights.filter (fun x => x.p.id != f.p.id)
  blocks : ∀ c k, t.block c k = if c = core ∧ k = slot then some (b.modGroup f.p.issuer.grp fun _ => g) else s.block c k
  credit : ∀ c, t.ctx c = if c = f.p.srcCtx.toNat ∧ opWrites f.p.op = true then
      { s.ctx c with sent := KMap.put (s.ctx c).sent f.p.entry (s.sentOn c f.p.entry - f.p.payload) }
    else s.ctx c

/-- A packet stands at its target, admitted, and nothing has to be performed before it. -/
structure AtDoor (s : State) (id : Nat) (f : Flight) : Prop where
  flight : s.flight? id = some f
  place : f.at_ = .target ∧ f.answer = none ∧ f.inbound = false ∧ f.p.toCore = true
  ingress : s.ingressOk f.p.tctx.toNat f.p false = true
  order : f.p.after.any s.unperformed = false ∧ s.convoyBusy f = false

/-- The target has answered a packet, and only the block in a slot differs, the marks of its stores, what L1s have been told, and
counters. -/
structure Judged (s : State) (id : Nat) (a : Answer) (where_ : Option (Nat × Nat × Block)) (t : State) : Prop where
  rest : { t with
    cores := s.cores, flights := s.flights, marks := s.marks, l1s := s.l1s, sys := { t.sys with counters := s.sys.counters } } = s
  answer : ∃ ms, t.flights = flightsWith s.flights id (fun x => { x with answer := some a, marks := ms })
  blocks : ∀ c k, t.block c k = match where_ with
    | some (c', k', b) => if c = c' ∧ k = k' then some b else s.block c k
    | none => s.block c k

/-- A block slot is empty; what other slots hold stands. -/
def Emptied (core slot : Nat) (s t : State) : Prop := ∀ c k, t.block c k = if c = core ∧ k = slot then none else s.block c k

/-- A slot has taken a block; what other slots hold stands. -/
def Taken (core slot : Nat) (b : Block) (s t : State) : Prop := ∀ c k, t.block c k = if c = core ∧ k = slot then some b else s.block c k

/-- A group at the start of its block, at an entry (R21): registers from the constant table alone, every thread present in it. -/
structure Started (n : Node) (g part : Nat) (entry : Dword) (x : Group) : Prop where
  place : x.idx = g ∧ x.part = part ∧ x.place = .resident ∧ x.trap = none
  regs : x.v = [] ∧ x.s = constRegs n ∧ x.mode = n.kern.mode ∧ x.allot = n.kern.regs
  pc : x.igs.map (fun i => (i.pc, i.wait, i.trap)) = [(entry + 8, .none, none)]
  threads : ∀ l, l < 32 → (x.thread l).present = decide (32 * g + l < n.threads) ∧ (x.thread l).exited = false
    ∧ (x.thread l).preds = 0 ∧ (x.thread l).stack = []
  mask : ∀ i ∈ x.igs, ∀ l, l < 32 → i.mask.getLsbD l = decide (32 * g + l < n.threads)
  idle : x.results = [] ∧ x.ops = []

/-- Of the machine a domain's books and what is sent differ: the domain is now `d`, and `l` has been sent. -/
structure DomainStep (d : Domain) (l : List FabMsg) (s t : State) : Prop where
  rest : { t with
    domains := s.domains, out := s.out } = s
  own : t.domain? d.num = some d
  others : ∀ e, e ≠ d.num → t.domain? e = s.domain? e
  out : t.out = s.out ++ l

/-- A domain as a rollback leaves it when it begins (R191, R486). -/
def Domain.aborted (d : Domain) (overflow : Option Nat) (injected : Bool) : Domain :=
  { d with
    stopped := true, wanted := false, rolling := 0, doneBy := []
    injected := injected && (!d.stopped || d.injected)
    overflow := if d.overflow.isSome then d.overflow else overflow
    phase := if d.phase = .committed then .committed else .idle }

/-- Of the machine only context c differs: it is now `x`. -/
structure CtxStep (c : Nat) (x : Ctx) (s t : State) : Prop where
  rest : { t with ctxs := s.ctxs } = s
  ctxs : ∀ d, t.ctx d = if d = c then x else s.ctx d

/-- A port, which was `y`, is retired with a cause: it holds no packet any more, and its RAS record is posted last (R171, R480, R497). -/
def Retires (p : Nat) (cause : BitVec 3) (y : Port) (t : State) : Prop :=
  ∃ u : State, t = u.postRas (linkRas 8 1 p cause.toNat) ∧ u.port p = { y with state := .retired, rcause := cause } ∧
    ∀ f ∈ u.flights, f.at_ ≠ .link (p / 2) p

/-- Fuses, firmware and what else the SPI NOR and the fuses hold are those of before (R419, R420, R426). -/
structure Lasts (s t : State) : Prop where
  fuses : t.sys.grade = s.sys.grade ∧ t.sys.stackGib = s.sys.stackGib ∧ t.sys.fusedOff = s.sys.fusedOff ∧ t.sys.debug = s.sys.debug
    ∧ t.sys.stepping = s.sys.stepping
  svn : t.sys.fuseSvn = s.sys.fuseSvn
  list : t.sys.retireList = s.sys.retireList

/-- Nothing runs and nothing is configured: no context, block, domain or packet, and no key. -/
structure Blank (s t : State) : Prop where
  ctxs : ∀ c, t.ctx c = {}
  blocks : ∀ c k, t.block c k = none
  lists : t.domains = [] ∧ t.itins = [] ∧ t.saved = [] ∧ t.flights = [] ∧ t.logs = [] ∧ t.granules = [] ∧ t.routes = []
  ports : ∀ p, t.port p = {}
  outside : t.hmem = s.hmem ∧ t.mmioOut = s.mmioOut ∧ t.out = s.out
  mailbox : t.sys.busy = false ∧ t.sys.overrun = false ∧ t.sys.fabcfg = false ∧ t.sys.tcache = []

/-- The controller of a base die has failed with a cause, and boot with it (R421); of the machine only that differs. -/
structure BootFailed (die : BitVec 3) (cause : BitVec 8) (s t : State) : Prop where
  state : t.sys.boot = .failed ∧ t.sys.failCause = cause ∧ t.sys.fdie.toNat = die.toNat
  rest : { t with
    sys := { t.sys with ctrls := s.sys.ctrls, fdie := s.sys.fdie, failCause := s.sys.failCause } } = s
  ctrls : t.sys.ctrls = listSet s.sys.ctrls die.toNat .failed

/-- The controller of a base die is in state `x` and boots: the machine is powered, and no controller has failed. -/
def Boots (die : BitVec 3) (x : BootState) (s : State) : Prop :=
  s.sys.powered = true ∧ s.sys.boot ≠ .failed ∧ s.sys.ctrls[die.toNat]? = some x

end Sys2Proof.Machine
end

