-- ==== Sys2Proof/Certificates/Slice0/Obligations.lean ====
section
/-! DEFINITION. The statements for the provers, each citing the rules it formalises. -/

open Sys2Proof Sys2Proof.Machine

/-! ## The encoding -/

/-- Words written out from the encoding tables decode to the instruction they stand for (R217, R229, and R222, R228, R231, R240, R358,
R362). The first is R229's own example. -/
def Obligations.DecodesWrittenWords : Prop :=
  decodeSlot false 0x12 0x040A050304002320 =
      .iadd ⟨⟨⟨true, 2⟩, ⟨2, true, 0, none⟩⟩, ⟨false, 1⟩, .i32, 5, .reg 3, .s 4, false⟩ ∧
    decodeSlot false 0 0x0457040102031321 =
      .imad ⟨⟨⟨false, 7⟩, ⟨0, false, 0, none⟩⟩, ⟨false, 0⟩, .i32, 4, .reg 1, .s 2, .imm 3, true⟩ ∧
    decodeSlot false 0 0x0027000205090000 = .nextp ⟨0, false, 0, none⟩ 2 5 9 ∧
    decodeSlot false 0 0x5C17280100000100 = .ctlrd ⟨⟨false, 7⟩, ⟨0, false, 0, none⟩⟩ 40 .trapinfo ∧
    decodeSlot false 0 0x5C07000000000001 = .rfeNext ⟨0, false, 0, none⟩ ∧
    decodeSlot false 0 0x700F000000000000 = .extensionWord 0 0x700F000000000000 ∧
    decodeSlot false 0 0xE807000000000000 = .illegalWord 0 0xE807000000000000 .word ∧
    decodeSlot false 0 0x00B7000000000000 = .illegalWord 0 0x00B7000000000000 .word

/-- Decoding gives back every well-formed instruction that the encoder writes: no operand at any value it admits is dropped. Majors 0x09
and 0x0A are the same instructions under the two modes of a kernel (R220 to R230, R233, R44). -/
def Obligations.DecodeInvertsEncode : Prop :=
  ∀ (i : Instr) (c : BitVec 20) (x : Dword), i.wf = true → encode i = some (c, x) →
    ∀ legacy : Bool, (x.toNat / 2 ^ 58 = 0x09 → legacy = false) → (x.toNat / 2 ^ 58 = 0x0A → legacy = true) →
      decodeSlot legacy c x = i

/-- Majors without an instruction: 0x38 to 0x3F are illegal, 0x18 to 0x37 are extension space whatever their other bits (R230). -/
def Obligations.ReservedMajorsRefused : Prop :=
  ∀ (legacy : Bool) (c : BitVec 20) (x : Dword),
    (0x38 ≤ x.toNat / 2 ^ 58 → decodeSlot legacy c x = .illegalWord c x .word) ∧
    (0x18 ≤ x.toNat / 2 ^ 58 ∧ x.toNat / 2 ^ 58 < 0x38 → decodeSlot legacy c x = .extensionWord c x) ∧
    (x.toNat / 2 ^ 58 = (if legacy then 0x09 else 0x0A) → decodeSlot legacy c x = .illegalWord c x .word)

/-! ## Steps -/

/-- A turn of a partition runs the instruction that the bytes at the program counter decode to (R215, R216, R39, R43): the bundle at the
chosen issue group's PC is legal and its home gives it, neither a trap, a WAIT nor an interlock stands before its slot, nor a trap or a
custody hold at a region entry, and the step is exec of the decoded instruction with that issue group as the issuer, its region entry
passed and its fetch kept in the core's caches. A slot that has issued is then counted (R393), and what the step has sent leaves on the
fabric. An event of the agenda is run as it stands, with the messages that bring it. The agenda and the messages' flits are the model's
(logs 1 and 110). -/
def Obligations.StepRunsDecoded : Prop :=
  (∀ (s s1 : State) (c p : Nat) (sw : Bool) (rest : List Turn) (w : Who) (k : Option Comp) (b : Bundle),
    let s0 : State := { s with agenda := rest }
    s.agenda = .issue c p sw :: rest → (s0.wakeAll c p).compTurn c p = s1 → s1.chooseComp c p = some (w, k) → w.trapDue = none →
    let s2 : State := { (s1.setCur w).setComp c p k with switch := sw }
    let i := decodeSlot w.kern.legacy (b.ctl (slotOf w.ig.pc)) (b.word (slotOf w.ig.pc))
    let s3 := s2.noteFetch w
    s2.fetchBundle w.core w.b.ctx (bundleOf w.ig.pc) = .ok b → s2.fetchRefused w = none → w.ig.bundleOk b = true →
    CachesOnly s2 s3 ∧
    ((b.regionEntry && slotOf w.ig.pc == 0 && !w.ig.entered) = false → SlotReady s3 w b →
      step s = s0.wired (s3.slotIssued (exec i s3)) ∧ (w.part < (s1.core w.core).parts.length → s3.issuer = some w)) ∧
    ((b.regionEntry && slotOf w.ig.pc == 0 && !w.ig.entered) = true → w.g.negEntry w.ig = none →
      w.g.custodyHeld w.ig.handler = false →
      let s4 := s3.enterRegion w
      (∀ v, s4.whoOf w.core w.slot w.grp w.ig.id = some v → SlotReady s4 v b) →
      step s = s0.wired (s4.slotIssued (exec i s4)) ∧ (w.part < (s1.core w.core).parts.length → ∃ v, s4.issuer = some v ∧
        v.core = w.core ∧ v.slot = w.slot ∧ v.grp = w.grp ∧ v.ig = { w.ig with entered := true } ∧ v.g.v = w.g.v ∧ v.g.s = w.g.s))) ∧
  (∀ (s : State) (i : Instr) (rest : List Turn), s.agenda = .event i :: rest → isEvent i = true →
    let s0 : State := { s with agenda := rest }
    step s = s0.wired (exec i (s0.hears i))) ∧
  (∀ s t : State, t.out = s.out → s.wired (.next t) = .next t)

/-- A slot whose WAIT names a token that is pending is not executed: its issue group waits at the slot, nothing else of the group changes,
and the partition's WAIT_SWITCH counts one (R219, R390, R393). Under composite issue it is executed once every constituent's tokens are
ready: those that have one pending wait, the others have met a scheduling point, and they no longer issue together (log 41). -/
def Obligations.WaitHoldsTheSlot : Prop :=
  ∀ (s : State) (w : Who) (b : Bundle), s.issuer = some w → w.ig.bundleOk b = true →
    (b.regionEntry && slotOf w.ig.pc == 0 && !w.ig.entered) = false →
    let mask := waitMask (b.ctl (slotOf w.ig.pc))
    let counted := fun t : State =>
      KMap.get 0 t.sys.counters (w.partCtr s + 0x28) = KMap.get 0 s.sys.counters (w.partCtr s + 0x28) + 1
    waitsFirst (decodeSlot w.kern.legacy (b.ctl (slotOf w.ig.pc)) (b.word (slotOf w.ig.pc))) = true → w.g.negs = [] →
    (s.compOf w = none → w.ig.waited = false → (∃ r ∈ w.g.results, ∃ n, r.tok = some n ∧ mask.getLsbD n.toNat = true) →
      ∃ t, s.bundleTurn w b = .done t ∧ Waits w (.slot mask) w.ig.pc s t ∧ counted t) ∧
    (s.compOf w ≠ none → (∃ v ∈ s.fellows w, v.ig.waited = false ∧ ∃ r ∈ v.g.results, ∃ n, r.tok = some n ∧ mask.getLsbD n.toNat = true) →
      ∃ t, s.bundleTurn w b = .done t ∧ counted t ∧ t.compOf w = none ∧
        ∀ v ∈ s.fellows w, (∃ y, v.igIn t = some y ∧ y.pc = v.ig.pc ∧ y.mask = v.ig.mask ∧
          y.wait = if v.slotPending mask then .slot mask else v.ig.wait) ∧
          ∀ l, l < 32 → v.ig.mask.getLsbD l = true → ((v.grpIn t).thread l).latches = [none, none, none, none])

/-! ## Vector and uniform instructions -/

/-- Integer arithmetic, R247: exact results modulo 2^W or saturated, in the lanes whose guard holds. -/
def Obligations.IntegerResults : Prop :=
  ∀ i p, intOps i = some p → ∀ (s : State) (w : Who), s.issuer = some w →
    Readable w (w.active p.h.g) p.reads [⟨p.d, p.wide⟩] →
    ∃ t, exec i s = .next t ∧ LaneResults w p.h p.wb p.d p.wide (p.value s w) s t

/-- Logic and shifts, R248 to R250. -/
def Obligations.LogicResults : Prop :=
  ∀ i p, logicOps i = some p → ∀ (s : State) (w : Who), s.issuer = some w →
    Readable w (w.active p.h.g) p.reads [⟨p.d, p.wide⟩] →
    ∃ t, exec i s = .next t ∧ LaneResults w p.h p.wb p.d p.wide (p.value s w) s t

/-- Bit fields, permutes and moves, R251 to R254, and MOVSR, R260, each of whose names gives the value of R260's table. How far a core's
CLOCK is ahead of the package's count is free (log 4). -/
def Obligations.MoveResults : Prop :=
  ∀ i p, moveOps i = some p → ∀ (s : State) (w : Who), s.issuer = some w →
    Readable w (w.active p.h.g) p.reads [⟨p.d, p.wide⟩] →
    ∃ t, exec i s = .next t ∧ LaneResults w p.h p.wb p.d p.wide (p.value s w) s t

/-- Float arithmetic and special functions, R261 to R270. The FP32 result of a special function is that of R270's table, its exact value
where R269 or R270 gives one, or else inside R269's bound of the exact value; which value inside the bound it is is free (log 10), and an exact
one too small for a subnormal is rounded nearest-even (log 104). -/
def Obligations.FloatResults : Prop :=
  (∀ i p, floatOps i = some p → ∀ (s : State) (w : Who), s.issuer = some w →
    Readable w (w.active p.h.g) p.reads [⟨p.d, p.wide⟩] →
    ∃ t, exec i s = .next t ∧ LaneResults w p.h p.wb p.d p.wide (p.value s w) s t) ∧
  (∀ (n : Nat) (mode : Word) (a : Val), n ∈ [1, 3, 4, 5, 6, 7] →
    specialOut n .f32 mode a = fp32.flushBits (ftzOf mode fp32) (specialF32 (n + 32 * (mode.toNat % 64)) n 0 a)) ∧
  (∀ (n key : Nat) (a : Val),
    (∀ c, specialCase n a = some c → specialF32 key n 0 a = c) ∧
    (∀ v, special n a = .exact v → specialF32 key n 0 a = fp32.round 0 0 v) ∧
    (∀ v b, n < 8 → special n a = .near v b → b = specialBound n a v ∧
      (within (specialF32 key n 0 a) v b = true ∨ specialF32 key n 0 a = fp32.round 0 0 v))) ∧
  (∀ k : Int, special 1 (.fin false 1 (2 * k)) = .exact (.fin false 1 (-k)) ∧ special 4 (.fin false 1 k) = .exact (.ofInt k) ∧
    (k ≠ 0 → -1000 ≤ k ∧ k ≤ 1000 → special 3 (.ofInt k) = .exact (.fin false (2 ^ 320) (k - 320))))

/-- Cross-lane instructions with a V result, R281 to R285: only active lanes of a lane's subgroup take part. -/
def Obligations.CrossLaneResults : Prop :=
  ∀ i p, crossOps i = some p → ∀ (s : State) (w : Who), s.issuer = some w →
    Readable w (w.active p.h.g) p.reads [⟨p.d, p.wide⟩] →
    ∃ t, exec i s = .next t ∧ LaneResults w p.h p.wb p.d p.wide (p.value s w) s t

/-- Instructions with a predicate result: R255 to R257, R266, R282, R285. -/
def Obligations.PredicateResults : Prop :=
  ∀ i p, predOps i = some p → ∀ (s : State) (w : Who), s.issuer = some w → Readable w (w.active p.h.g) p.reads [] →
    ∃ t, exec i s = .next t ∧ PredResults w p.h p.p (p.value w) s t

/-- Uniform scalar instructions, R258 and R259: once for the issue group, whatever lanes are active. -/
def Obligations.UniformResults : Prop :=
  ∀ i p, uniOps i = some p → ∀ (s : State) (w : Who), s.issuer = some w →
    ∃ t, exec i s = .next t ∧ UniformResult w p.k p.d p.wide (p.value w) s t

/-- Conversions, R273 to R278. A stochastic rounding advances the issuing partition's generator once and draws from its new state (R118);
no other conversion touches it. The seeds are free (log 9). Where issue groups issue together, one advance serves them all (R274);
which of them issue together is the agenda's (logs 1 and 41). QENC and QDEC work on whole halves. -/
def Obligations.ConversionResults : Prop :=
  (∀ i p, cvOps i = some p → ∀ (s : State) (w : Who), s.issuer = some w →
    Readable w (w.active p.o.h.g) [⟨p.o.a, p.srcWide⟩] [⟨p.o.d, p.wide⟩] →
    (p.halves = true → splitHalf (w.active p.o.h.g) = none) →
    ∃ g s1 t, (if p.draws w then (g, s1) = s.issueGen w else s1 = s) ∧
      exec i s = .next t ∧ LaneResults w p.o.h p.o.wb p.o.d p.wide (p.value w g) s1 t) ∧
  (∀ i p, vecOps.pairOps i = some p → ∀ (s : State) (w : Who), s.issuer = some w →
    Readable w (w.active p.h.g) p.reads [⟨p.d, p.wide⟩] →
    ∃ t, exec i s = .next t ∧ LaneResults w p.h p.wb p.d p.wide (p.value s w) s t) ∧
  (∀ (s : State) (core part c : Nat), part < (s.core core).parts.length →
    let p := listGet {} (s.core core).parts part
    let x := s.advanceGen core part c
    x.1 = advance (if p.genCtx = some c then p.gen else Config.seed core part s.freeCtr) ∧ x.2.freeCtr = s.freeCtr + 1 ∧
      (listGet {} (x.2.core core).parts part).gen = x.1 ∧ (listGet {} (x.2.core core).parts part).genCtx = some c ∧
      (listGet {} (x.2.core core).parts part).cur = p.cur ∧
      ∀ c' p', c' ≠ core ∨ p' ≠ part → listGet {} (x.2.core c').parts p' = listGet {} (s.core c').parts p') ∧
  (∀ (s : State) (w : Who), w.part < (s.core w.core).parts.length →
    let p := listGet {} (s.core w.core).parts w.part
    let shares := fun c : Comp => c.slot = w.slot ∧ c.gen = w.b.gen ∧ c.pc = w.ig.pc ∧ (w.grp, w.ig.id) ∈ c.igs
    ((∀ c, p.comp = some c → ¬ shares c) → s.issueGen w = s.advanceGen w.core w.part w.b.ctx) ∧
    (∀ c, p.comp = some c → shares c →
      (∀ g, c.drawn = some g → s.issueGen w = (g, s)) ∧
      (c.drawn = none → (s.issueGen w).1 = (s.advanceGen w.core w.part w.b.ctx).1 ∧
        (listGet {} ((s.issueGen w).2.core w.core).parts w.part).comp = some { c with drawn := some (s.issueGen w).1 })))

/-- Rows 6 and 7 of R230 on the V operands of an instruction of majors 0x01 to 0x09, with a V result or a predicate result: the lowest active
lane that reads an invalid latch takes cause 6; otherwise, with a lane active, a register past the allotment is an illegal operand of the lowest
active lane. So is a half of which only some lanes are active at QENC and QDEC (R276, R277), at its lowest active lane, and a bit number of 32
or more at PMOV (R257). No result is written. -/
def Obligations.OperandTraps : Prop :=
  (∀ i p, vOperands i = some p → ∀ (s : State) (w : Who), s.issuer = some w →
    let m := w.active p.h.g
    (∀ l, m.getLsbD l = true → (∃ r ∈ p.reads, w.src? l r.wide r.x = none) →
      (∀ j, j < l → m.getLsbD j = true → ∀ r ∈ p.reads, (w.src? j r.wide r.x).isSome) → Raises i w m 6 l 0 s) ∧
    ((∀ l, m.getLsbD l = true → ∀ r ∈ p.reads, (w.src? l r.wide r.x).isSome) → m ≠ 0 →
      ((∃ r ∈ p.reads, ∃ n, r.x = .reg n ∧ 8 * w.ig.allot ≤ n.toNat + (if r.wide then 1 else 0)) ∨
        ∃ d ∈ p.dests, 8 * w.ig.allot ≤ d.n.toNat + (if d.wide then 1 else 0)) → Raises i w m 3 (lowest m) 0 s)) ∧
  (∀ i p, cvOps i = some p → p.halves = true → ∀ (s : State) (w : Who), s.issuer = some w →
    let m := w.active p.o.h.g
    Readable w m [⟨p.o.a, p.srcWide⟩] [⟨p.o.d, p.wide⟩] →
    ∀ h l, h = 0 ∨ h = 16 → h ≤ l → l < h + 16 → m.getLsbD l = true → (∀ j, h ≤ j → j < l → m.getLsbD j = false) →
      (∃ j, h ≤ j ∧ j < h + 16 ∧ m.getLsbD j = false) →
      (h = 16 → (∀ j, j < 16 → m.getLsbD j = true) ∨ ∀ j, j < 16 → m.getLsbD j = false) → Raises i w m 3 l 0 s) ∧
  (∀ (o : PmovOp) (s : State) (w : Who), s.issuer = some w → 32 ≤ o.bit.toNat →
    let m := w.active o.h.g
    Readable w m (vr32 o.a) [] → m ≠ 0 → Raises (.pmov o) w m 3 (lowest m) 0 s)

/-- An instruction that acts once for its issue group does nothing but let it pass when no live lane's guard holds (R221, R242, R316,
R359). -/
def Obligations.NoLaneNoEffect : Prop :=
  ∀ i h, onceOps i = some h → ∀ (s : State) (w : Who), s.issuer = some w → w.active h.g = 0 →
    ∃ t, exec i s = .next t ∧ NoResult w h.k s t

/-! ## Control -/

/-- Segment terminators, R238 to R240: every live thread of the issue group goes to the entry of the segment that it names, or exits,
whatever the guards hold; threads of one successor form one issue group. That successors are compared by their entry bundle, so that two
segment numbers of one entry are one successor, and that the group is never merged with one of another scheduling point, are the model's
choices (logs 84 and 98). -/
def Obligations.TerminatorsDepart : Prop :=
  ∀ i p, termOps i = some p → ∀ (s : State) (w : Who) (succ : Nat → Option Dword), s.issuer = some w → Calm w s →
    (∀ l, w.live.getLsbD l = true → p.ok (w.g.thread l) = true ∧
      match p.target w l with
      | none => succ l = none
      | some n => ∃ a, s.segEntry w.core w.b.ctx w.kern n = some a ∧ succ l = some a) →
    ∃ t, exec i s = .next t ∧ Departed w p succ s t

/-- A terminator of which some live thread faults leaves every thread at it: an empty or missing segment is cause 5 (R27), a seventeenth
level of CALL cause 3, a RET from an empty stack cause 5 (R239); LANE is the lowest faulting lane (R238). That a segment whose table entry
or entry bundle cannot be read is cause 5 too is the model's choice (log 78). -/
def Obligations.TerminatorsTrap : Prop :=
  ∀ i p, termOps i = some p → ∀ (s : State) (w : Who) (l : Nat), s.issuer = some w → w.live.getLsbD l = true →
    let bad := fun j => p.ok (w.g.thread j) = false ∨
      ∃ n, p.target w j = some n ∧ s.segEntry w.core w.b.ctx w.kern n = none
    (∀ j, (w.g.thread j).stack.length ≤ 16) → bad l → (∀ j, j < l → w.live.getLsbD j = true → ¬ bad j) →
    Raises i w w.live (match i with
      | .call .. => if p.ok (w.g.thread l) then 5 else 3
      | _ => 5) l 0 s

/-- NOP, and WAIT in its forms, R241 and R242: a WAIT.TOK whose tokens are ready passes, one with a pending token waits, WAIT.CLK is past
its slot and waits for 16 n aclk. -/
def Obligations.NopAndWait : Prop :=
  (∀ (k : Ctl) (s : State) (w : Who), s.issuer = some w → ∃ t, exec (.nop k) s = .next t ∧ NoResult w k s t) ∧
  (∀ (h : Hd) (wm : Bool) (mask : BitVec 8) (s : State) (w : Who), s.issuer = some w → w.active h.g ≠ 0 → w.g.negs = [] →
    ((∀ r ∈ w.g.results, ∀ n, r.tok = some n → mask.getLsbD n.toNat = false) →
      ∃ t, exec (.waitTok h wm mask) s = .next t ∧ NoResult w h.k s t) ∧
    ((∃ r ∈ w.g.results, ∃ n, r.tok = some n ∧ mask.getLsbD n.toNat = true) →
      ∃ t, exec (.waitTok h wm mask) s = .next t ∧ Waits w (.tok mask wm) w.ig.pc s t)) ∧
  (∀ (h : Hd) (wm : Bool) (n : BitVec 8) (s : State) (w : Who), s.issuer = some w → w.active h.g ≠ 0 →
    ∃ t, exec (.waitClk h wm n) s = .next t ∧ Waits w (.clk (s.clock + 16 * n.toNat) wm) (nextPc w.ig.pc) s t)

/-- TRAP, an enabled BKPT, a word of extension space and a word that is no instruction take their trap (R230, R231, R244, R246): the
record says the slot, its code and its lanes, and the trap enters the handler or ends the context (R355, R356). BKPT has no effect where
the context does not enable it. LANE of an encoding fault that no guard lets a lane take is the lowest live lane: the model's choice (log 85). -/
def Obligations.SoftwareTraps : Prop :=
  (∀ (h : Hd) (code : BitVec 8) (s : State) (w : Who), s.issuer = some w → w.active h.g ≠ 0 →
    let m := w.active h.g
    (∃ r t, exec (.trap h code) s = .next t ∧ RecordAt w s m 19 (lowest m) r ∧ r.code = code ∧ Traps w r 0 s t) ∧
    ((s.ctx w.b.ctx).bkpten = true →
      ∃ r t, exec (.bkpt h code) s = .next t ∧ RecordAt w s m 14 (lowest m) r ∧ r.code = code ∧ Traps w r 0 s t) ∧
    ((s.ctx w.b.ctx).bkpten = false → ∃ t, exec (.bkpt h code) s = .next t ∧ NoResult w h.k s t)) ∧
  (∀ (c : BitVec 20) (x : Dword) (s : State) (w : Who), s.issuer = some w →
    let m := w.active ⟨x.getLsbD 51, x.extractLsb' 48 3⟩
    let l := lowest (if m = 0 then w.live else m)
    Raises (.extensionWord c x) w m 2 l 0 s ∧
      Raises (.illegalWord c x .word) w m 1 l 0 s ∧
      Raises (.illegalWord c x .slotControl) w m 4 l 0 s ∧
      Raises (.illegalWord c x .bundleAtFetch) w m 4 l 0 s)

/-- ASSERT, R245: it has no effect where its condition holds in every active lane; otherwise the context is stopped with cause 13, and the
fault record holds the lowest failing lane and the message pointer; no result in flight is abandoned. -/
def Obligations.AssertStops : Prop :=
  ∀ (h : Hd) (n : BitVec 6) (p : PSrc) (s : State) (w : Who), s.issuer = some w → w.active h.g ≠ 0 →
    ((∀ l, (w.active h.g).getLsbD l = true → (w.g.thread l).psrc p = true) →
      ∃ t, exec (.assert h n p) s = .next t ∧ NoResult w h.k s t) ∧
    (∀ l, (w.active h.g).getLsbD l = true → (w.g.thread l).psrc p = false →
      (∀ j, j < l → (w.active h.g).getLsbD j = true → (w.g.thread j).psrc p = true) →
      w.ig.handler = false → (s.ctx w.b.ctx).state = .live →
      ∃ r t, exec (.assert h n p) s = .next t ∧ RecordAt w s (w.active h.g) 13 l r ∧ r.addr = w.g.readS n.toNat true ∧
        (t.ctx w.b.ctx).state = .stopped ∧ Stops w r s t)

/-! ## Memory instructions -/

/-- Loads of global and host memory, R286 to R293, where nothing but memory answers: each active lane's destination takes the bytes of the
pages that its address names, as the type extends them; memory stands as it was. The translations and the home's reads are modelled as
logs 8 and 14 say. -/
def Obligations.LoadsReadMemory : Prop :=
  ∀ i p, loadOps i = some p → ∀ (s : State) (w : Who) (bytes : Nat → List Byte), s.issuer = some w →
    Readable w (w.active p.h.g) p.reads [⟨p.d, p.wide⟩] → badMark loadMarks p.acc = false → Quiet w s → Plain s →
    (∀ l, (w.active p.h.g).getLsbD l = true → ∃ ps, p.pieces s w l = .ok ps ∧ s.piecesBytes w.b.ctx ps = some (bytes l)) →
    ∃ v s1 t, Reordered w v ∧ BlockOnly w v.b s s1 ∧ exec i s = .next t ∧
      LaneResults v p.h p.wb p.d p.wide (fun l => p.value s w l (bytes l)) s1 t

/-- LDL, R53, R291 and R292, of a core without queued stores: each active lane reads local memory at its offset, with one request for each
8-byte bank word that lanes touch. Where some requests alone complete, every lane that reads their words has its share, which is kept, and
the slot stands; which complete is the agenda's (log 1). -/
def Obligations.LocalLoads : Prop :=
  ∀ (o : LdOp) (s : State) (w : Who), s.issuer = some w →
    Readable w (w.active o.h.g) (baseReads false o.base) [⟨o.d, wide o.ty⟩] → badMark loadMarks o.acc = false → Quiet w s →
    (∀ l, (w.active o.h.g).getLsbD l = true → w.laddr l o.base o.imm + Machine.sizeOf o.ty ≤ w.b.locSize) →
    let n := Machine.sizeOf o.ty
    let off := fun l => w.laddr l o.base o.imm
    let words := bankList (w.active o.h.g) off n
    ∃ v s1 t, Reordered w v ∧ BlockOnly w v.b s s1 ∧ exec (.ldl o) s = .next t ∧
      (s.bankNow words = words →
        LaneResults v o.h o.wb o.d (wide o.ty) (fun l => extended o.ty (Memory.readN w.b.mem (off l) n)) s1 t) ∧
      (s.bankNow words ≠ words → OnlyGroup v s1 t ∧ (w.grpIn t).v = w.g.v ∧ (w.grpIn t).s = w.g.s ∧
        (∀ l, ((w.grpIn t).thread l).latches = (w.g.thread l).latches ∧ ((w.grpIn t).thread l).preds = (w.g.thread l).preds) ∧
        ∃ y, w.igIn t = some y ∧ { y with got := [] } = w.ig ∧
          ∀ l k, (w.active o.h.g).getLsbD l = true → k ∈ bankWords (off l) n → KMap.find y.got (bankKey l k) =
            if k ∈ s.bankNow words then some (dw (leNat (Memory.readN w.b.mem (8 * k) 8))) else none)

/-- ST, STL, RED and BARINIT, R291, R292, R301, R308: each active lane's bytes or contribution join the store queue of the core, in order
of lanes, at the places that its address names, those of an STL bank word by bank word (R53), the contributions of a RED to one word as one
operation (R64; the order of its words is log 83); no memory and no register changes yet (R73). -/
def Obligations.StoresQueue : Prop :=
  ∀ i p, storeOps i = some p → ∀ (s : State) (w : Who) (puts : Nat → List Put), s.issuer = some w →
    Readable w (w.active p.h.g) p.reads [] → badMark storeMarks p.acc = false →
    (∀ l, (w.active p.h.g).getLsbD l = true → p.puts s w l = .ok (puts l)) →
    ∃ v s1 t, Enqueued w v p.acc (joined ((lanesOf (w.active p.h.g)).flatMap fun l => (puts l).map fun x => (l, x))) s s1 ∧
      exec i s = .next t ∧ NoResult v p.h.k s1 t

/-- STX, R62 and R294: each active lane's element, rounded under MODE, joins the store queue; under an SQ format the first lane of a half
stores the whole block, as one store by its thread. With stochastic rounding the partition's generator advances once first. -/
def Obligations.StoreConverted : Prop :=
  ∀ (o : StxOp) (s : State) (w : Who) (e : Nat → Elem), s.issuer = some w →
    Readable w (w.active o.h.g) (baseReads true o.base ++ vr32 o.data ++ vr32 o.idx) [] → badMark storeMarks o.acc = false →
    (∀ l, (w.active o.h.g).getLsbD l = true →
      s.elem w l (needOf false true o.acc.dom) (rank o.acc.dom) o.ty (w.base l true o.base) (w.src l false o.idx).toNat = .ok (e l)) →
    (∀ l, (w.active o.h.g).getLsbD l = true → fmtSq (e l).fmt = true → ∀ i, i < 16 →
      let j := l / 16 * 16 + i
      (w.active o.h.g).getLsbD j = true ∧ (e j).fmt = (e l).fmt ∧ (e j).at_ = (e l).at_ ∧ (e j).within = i) →
    let val := fun l => fp32.decode (fp32.flushBits (ftzOf w.g.mode fp32) (w.src l false o.data).toNat)
    ∃ g s0 v s1 t, (if rndOf w.g.mode = 4 then (g, s0) = s.issueGen w else s0 = s) ∧
      Enqueued w v o.acc ((lanesOf (w.active o.h.g)).flatMap fun l =>
        (if fmtSq (e l).fmt then
          if l % 16 = 0 then s0.puts w.b.ctx (e l).ps (whole (sqEncode (fmtSqBits (e l).fmt) (rndOf w.g.mode)
            ((List.range 16).map fun i => draw g (l + i)) ((List.range 16).map fun i => val (l + i))))
          else []
        else s0.puts w.b.ctx (e l).ps (elemBytes w.g.mode (draw g l) (e l).fmt (e l).within (w.src l false o.data))).map
          fun x => ([l], x)) s0 s1 ∧
      exec (.stx o) s = .next t ∧ NoResult v o.h.k s1 t

/-- Faults of memory instructions before any lane acts (R289, R291, R300): a mark that the instruction does not take is an illegal
operand; otherwise the lowest active lane whose access is refused gives the trap its cause (log 81), and no lane acts, beside that lanes
keep the translations that they have made (R65). That the operands of all lanes come before the address of any is the model's choice (log 106). -/
def Obligations.AccessTraps : Prop :=
  (∀ i p, loadOps i = some p → ∀ (s : State) (w : Who), s.issuer = some w →
    Readable w (w.active p.h.g) p.reads [⟨p.d, p.wide⟩] → w.active p.h.g ≠ 0 →
    (badMark loadMarks p.acc = true → Raises i w (w.active p.h.g) 3 (lowest (w.active p.h.g)) 0 s) ∧
    (badMark loadMarks p.acc = false → ∀ l f, (w.active p.h.g).getLsbD l = true → p.pieces s w l = .error f →
      (∀ j, j < l → (w.active p.h.g).getLsbD j = true → (p.pieces s w j).toOption.isSome) →
      ∃ s1 r t, CachesOnly s s1 ∧ exec i s = .next t ∧ RecordAt w s1 (w.active p.h.g) f.cause l r ∧ r.addr = f.addr ∧
        Traps w r f.floor s1 t)) ∧
  (∀ i p, storeOps i = some p → ∀ (s : State) (w : Who), s.issuer = some w →
    Readable w (w.active p.h.g) p.reads [] → w.active p.h.g ≠ 0 →
    (badMark storeMarks p.acc = true → Raises i w (w.active p.h.g) 3 (lowest (w.active p.h.g)) 0 s) ∧
    (badMark storeMarks p.acc = false → ∀ l f, (w.active p.h.g).getLsbD l = true → p.puts s w l = .error f →
      (∀ j, j < l → (w.active p.h.g).getLsbD j = true → (p.puts s w j).toOption.isSome) →
      ∃ s1 r t, CachesOnly s s1 ∧ exec i s = .next t ∧ RecordAt w s1 (w.active p.h.g) f.cause l r ∧ r.addr = f.addr ∧
        Traps w r f.floor s1 t))

/-- Atomics, R64 and R298 to R300, on words that do not partly overlap: the lanes act in ascending order on each word, each receives the
value that it found, and the word ends as the last left it; every other byte of memory stands as it was. Reads at the home are modelled as
log 14 says, and several words change at one instant (log 83); an ATOML of which only some bank requests complete is the agenda's (log 1). -/
def Obligations.AtomicsInLaneOrder : Prop :=
  (∀ (o : AtomOp) (s : State) (w : Who) (tg : Nat → Tgt), s.issuer = some w →
    Readable w (w.active o.h.g) (baseReads true o.base ++ argReads o.ty o.arg) [⟨o.d, wide o.ty⟩] →
    badMark atomMarks o.acc = false → Quiet w s → Plain s → (s.ctx w.b.ctx).domain = none →
    s.mem.wf = true → s.hmem.wf = true →
    (∀ l, (w.active o.h.g).getLsbD l = true → ∃ ps,
      s.atomAddr w l (needOf true true o.acc.dom) (rank o.acc.dom) (w.gaddr l o.base (argImm o.arg)) (Machine.sizeOf o.ty) = .ok ps ∧
        s.wordPlace w.b.ctx ps = .glob (tg l) ∧ s.admitsTgt w.b.ctx (tg l) = true ∧ (∀ a, tg l ≠ .mmio a)) →
    (∀ l j, (w.active o.h.g).getLsbD l = true → (w.active o.h.g).getLsbD j = true →
      tg l = tg j ∨ placesMeet (.glob (tg l)) (Machine.sizeOf o.ty) (.glob (tg j)) (Machine.sizeOf o.ty) = false) →
    let n := Machine.sizeOf o.ty
    let ls := lanesOf (w.active o.h.g)
    ∃ v s1 t, Reordered w v ∧ BlockOnly w v.b { s with
        mem := t.mem, hmem := t.hmem } s1 ∧ exec (.atom o) s = .next t ∧
      LaneResults v o.h o.wb o.d (wide o.ty) (fun l =>
        (w.atomAfter o (ls.filter fun j => decide (j < l) && tg j == tg l) (s.wordOf (tg l) n)).toNat) s1 t ∧
      (∀ l, (w.active o.h.g).getLsbD l = true →
        (t.wordOf (tg l) n).toNat = (w.atomAfter o (ls.filter fun j => tg j == tg l) (s.wordOf (tg l) n)).toNat % 2 ^ (8 * n)) ∧
      (∀ a, (∀ l pa, (w.active o.h.g).getLsbD l = true → tg l = .dev pa → a < pa ∨ pa + n ≤ a) → t.mem.read a = s.mem.read a) ∧
      (∀ a, (∀ l ha, (w.active o.h.g).getLsbD l = true → tg l = .host ha → a < ha ∨ ha + n ≤ a) → t.hmem.read a = s.hmem.read a)) ∧
  (∀ (o : AtomOp) (s : State) (w : Who), s.issuer = some w →
    Readable w (w.active o.h.g) (baseReads false o.base ++ argReads o.ty o.arg) [⟨o.d, wide o.ty⟩] →
    badMark atomMarks o.acc = false → Quiet w s → w.b.mem.wf = true →
    (let words := bankList (w.active o.h.g) (fun l => w.laddr l o.base (argImm o.arg)) (Machine.sizeOf o.ty)
     s.bankNow words = words) →
    (∀ l, (w.active o.h.g).getLsbD l = true → w.laddr l o.base (argImm o.arg) % Machine.sizeOf o.ty = 0 ∧
      w.b.locCheck (w.laddr l o.base (argImm o.arg)) (Machine.sizeOf o.ty) true = true) →
    let n := Machine.sizeOf o.ty
    let ls := lanesOf (w.active o.h.g)
    let at_ := fun l => w.laddr l o.base (argImm o.arg)
    let word := fun (m : Memory) l => dw (leNat (Memory.readN m (at_ l) n))
    ∃ m v s1 t, Reordered (w.withBlock { w.b with mem := m }) v ∧ BlockOnly w v.b s s1 ∧ exec (.atoml o) s = .next t ∧
      LaneResults v o.h o.wb o.d (wide o.ty) (fun l =>
        (w.atomAfter o (ls.filter fun j => decide (j < l) && at_ j == at_ l) (word w.b.mem l)).toNat) s1 t ∧
      (∀ l, (w.active o.h.g).getLsbD l = true →
        (word m l).toNat = (w.atomAfter o (ls.filter fun j => at_ j == at_ l) (word w.b.mem l)).toNat % 2 ^ (8 * n)) ∧
      (∀ a, (∀ l, (w.active o.h.g).getLsbD l = true → a < at_ l ∨ at_ l + n ≤ a) → m.read a = w.b.mem.read a))

/-- ACCRD and ACCWR, R50 and R295: a lane reads its accumulator word, or the pair; a write puts every active lane's value, the highest
lane's where lanes name one word, and no other word changes. Neither acts while a command uses the words (R143). -/
def Obligations.AccumulatorAccess : Prop :=
  (∀ (o : AccrdOp) (s : State) (w : Who), s.issuer = some w →
    Readable w (w.active o.h.g) (baseReads false o.base) [⟨o.d, wide o.ty⟩] →
    (∀ l, (w.active o.h.g).getLsbD l = true → w.laddr l o.base o.imm % (Machine.sizeOf o.ty / 4) = 0 ∧
      w.laddr l o.base o.imm + Machine.sizeOf o.ty / 4 ≤ w.b.accSize) →
    w.b.cmds = [] →
    ∃ t, exec (.accrd o) s = .next t ∧ LaneResults w o.h o.wb o.d (wide o.ty) (fun l =>
      (KMap.get 0 w.b.acc (w.laddr l o.base o.imm)).toNat
        + (if wide o.ty then 2 ^ 32 * (KMap.get 0 w.b.acc (w.laddr l o.base o.imm + 1)).toNat else 0)) s t) ∧
  (∀ (o : AccwrOp) (s : State) (w : Who), s.issuer = some w → (Instr.accwr o).legal = true →
    Readable w (w.active o.h.g) (baseReads false o.base ++ vr o.ty o.data) [] →
    (∀ l, (w.active o.h.g).getLsbD l = true → w.laddr l o.base o.imm % (Machine.sizeOf o.ty / 4) = 0 ∧
      w.laddr l o.base o.imm + Machine.sizeOf o.ty / 4 ≤ w.b.accSize) →
    w.b.cmds = [] → KMap.wfFrom 0 0 w.b.acc = true →
    ∃ acc t, exec (.accwr o) s = .next t ∧
      NoResult (w.withBlock { w.b with acc := acc }) o.h.k (w.put s { w.b with acc := acc }) t ∧
      (∀ l, (w.active o.h.g).getLsbD l = true →
        (∀ j, l < j → (w.active o.h.g).getLsbD j = true → w.laddr j o.base o.imm ≠ w.laddr l o.base o.imm) →
        KMap.get 0 acc (w.laddr l o.base o.imm) = loWord (w.src l (wide o.ty) o.data) ∧
          (wide o.ty = true → KMap.get 0 acc (w.laddr l o.base o.imm + 1) = hiWord (w.src l true o.data))) ∧
      (∀ k, (∀ l, (w.active o.h.g).getLsbD l = true → k < w.laddr l o.base o.imm ∨ w.laddr l o.base o.imm + Machine.sizeOf o.ty / 4 ≤ k) →
        KMap.get 0 acc k = KMap.get 0 w.b.acc k))

/-- PREF and CCTL, R296 and R297: no register and no byte of memory changes; CCTL.IVALL leaves the L1 of the core empty. -/
def Obligations.CacheControl : Prop :=
  (∀ (o : PrefOp) (s : State) (w : Who), s.issuer = some w → Readable w (w.active o.h.g) (baseReads true o.base) [] → s.cu = [] →
    s.holds = [] →
    ∃ s1 t, CachesOnly s s1 ∧ exec (.pref o) s = .next t ∧ NoResult w o.h.k s1 t ∧ (o.llc = true → s1 = s)) ∧
  (∀ (h : Hd) (base : VSrc) (imm : BitVec 8) (s : State) (w : Who), s.issuer = some w →
    Readable w (w.active h.g) [⟨base, true⟩] [] →
    ∃ s1 t, CachesOnly s s1 ∧ exec (.cctlIv h base imm) s = .next t ∧ NoResult w h.k s1 t ∧
      ∀ c k, (KMap.find (s1.l1 c).sectors k).isSome → KMap.find (s1.l1 c).sectors k = KMap.find (s.l1 c).sectors k) ∧
  (∀ (h : Hd) (s : State) (w : Who), s.issuer = some w → w.active h.g ≠ 0 →
    ∃ s1 t, CachesOnly s s1 ∧ exec (.cctlIvall h) s = .next t ∧ NoResult w h.k s1 t ∧
      (s1.l1 (s.sys.physCore w.core)).sectors = [] ∧ ∀ p, p ≠ s.sys.physCore w.core → s1.l1 p = s.l1 p)

/-- FENCE and BRIDGE, R80, R303 and R304: every store of the first domain that an active lane's thread has made or read, and that is not
yet performed everywhere, now stands before the thread's later accesses of the second, at the fence's scope; a FENCE.ALL does so for every
pair. No register and no memory changes. How such an order is kept, as a list of stores, is deduced (log 14). -/
def Obligations.FencesOrder : Prop :=
  ∀ (s : State) (w : Who), s.issuer = some w →
    let ordered := fun (i : Instr) (h : Hd) (sc : Scope) (ps : List (Dom × Dom)) =>
      ∃ t, exec i s = .next t ∧ Advanced w t ∧ t.mem = s.mem ∧ t.hmem = s.hmem ∧
        (w.grpIn t).v = w.g.v ∧ (w.grpIn t).s = w.g.s ∧ (w.grpIn t).mode = w.g.mode ∧
        (∀ l, ((w.grpIn t).thread l).preds = (w.g.thread l).preds) ∧
        (t.core w.core).stores = (s.core w.core).stores ∧
        ∀ l, (w.active h.g).getLsbD l = true → ∀ x y, (x, y) ∈ ps → ∀ k, s.isOpen k = true →
          (k ∈ s.threadPending w l x ∨ ∃ p ∈ (w.g.thread l).past, p.dom = x ∧ p.b.id = k) →
          ∃ b, (y, b) ∈ ((w.grpIn t).thread l).ahead ∧ b.id = k ∧ b.edge = .fence ∧ (w.agent l, sc) ∈ b.via
    (∀ o : FenceOp, ordered (.fence o) o.h o.scope (match o.dom with
      | some d => [(d, d)]
      | none => allDoms.flatMap fun x => allDoms.map fun y => (x, y))) ∧
    (∀ o : BridgeOp, ordered (.bridge o) o.h o.scope [(o.x, o.y)])

/-- Barrier words, R307 and R309 to R311. BARARRIVE credits each active lane's count to its word in ascending lane order, and the lane
receives PHASE and FAULT as it found them and whether it flipped the phase; a serai slot whose FAULT is set refuses it (R169), which
is the one refusal that the model makes here (log 105); BARTEST reads the word; BARWAIT passes where every lane's word has left the lane's
phase or failed, and waits otherwise. -/
def Obligations.BarrierWords : Prop :=
  (∀ (o : BarOp) (s : State) (w : Who), s.issuer = some w →
    Readable w (w.active o.h.g) (baseReads false o.base ++ vr32 o.data) [⟨o.d, false⟩] → badMark storeMarks o.acc = false →
    Quiet w s → w.b.mem.wf = true →
    (∀ l, (w.active o.h.g).getLsbD l = true → w.laddr l o.base o.imm % 8 = 0 ∧ w.laddr l o.base o.imm + 8 ≤ w.b.locSize) →
    let at_ := fun l => w.laddr l o.base o.imm
    let hit := fun x l => let n := (w.src l false o.data).toNat
      if n = 0 ∨ ((w.b.slotWord (at_ l)).isSome = true ∧ bwFault x = true) then x else (arrive (w.b.slotWord (at_ l)).isSome x n).1
    let found := fun l => ((lanesOf (w.active o.h.g)).filter fun j => decide (j < l) && at_ j == at_ l).foldl hit (w.b.word64 (at_ l))
    ∃ m v s1 t, Reordered (w.withBlock { w.b with mem := m }) v ∧ BlockOnly w v.b s s1 ∧ exec (.bararrive o) s = .next t ∧
      LaneResults v o.h o.wb o.d false (fun l =>
        (if bwPhase (found l) then 1 else 0) + (if bwFault (found l) then 2 else 0)
          + (if bwPhase (hit (found l) l) = bwPhase (found l) then 0 else 4)) s1 t ∧
      (∀ l, (w.active o.h.g).getLsbD l = true → v.b.word64 (at_ l) =
        ((lanesOf (w.active o.h.g)).filter fun j => at_ j == at_ l).foldl hit (w.b.word64 (at_ l)) % 2 ^ 64) ∧
      (∀ a, (∀ l, (w.active o.h.g).getLsbD l = true → a < at_ l ∨ at_ l + 8 ≤ a) → m.read a = w.b.mem.read a)) ∧
  (∀ (o : BarOp) (s : State) (w : Who), s.issuer = some w →
    Readable w (w.active o.h.g) (baseReads false o.base ++ vr32 o.data) [⟨o.d, false⟩] → badMark loadMarks o.acc = false →
    Quiet w s →
    (∀ l, (w.active o.h.g).getLsbD l = true → w.laddr l o.base o.imm % 8 = 0 ∧ w.laddr l o.base o.imm + 8 ≤ w.b.locSize) →
    let x := fun l => w.b.word64 (w.laddr l o.base o.imm)
    let done := fun l => bwPhase (x l) != (w.src l false o.data).getLsbD 0 || bwFault (x l)
    let status := fun l => (if bwPhase (x l) then 1 else 0) + (if bwFault (x l) then 2 else 0)
    (∃ v s1 t, Reordered w v ∧ BlockOnly w v.b s s1 ∧ exec (.bartest o) s = .next t ∧
      LaneResults v o.h o.wb o.d false (fun l => status l + (if done l then 4 else 0)) s1 t) ∧
    ((∀ l, (w.active o.h.g).getLsbD l = true → done l = true) →
      ∃ v s1 t, Reordered w v ∧ BlockOnly w v.b s s1 ∧ exec (.barwait o) s = .next t ∧
        LaneResults v o.h o.wb o.d false status s1 t) ∧
    ((∃ l, (w.active o.h.g).getLsbD l = true ∧ done l = false) →
      ∃ ls t, exec (.barwait o) s = .next t ∧ Waits w (.bar ls o) w.ig.pc s t))

/-- BLKSYNC, R312: a scope of .GRP and any mark are illegal operands; the arrival that completes the phase passes, empties the barrier and
lets every issue group that waits at it go on; any other waits, its threads counted at the barrier. -/
def Obligations.BlockBarrier : Prop :=
  ∀ (o : BlksyncOp) (s : State) (w : Who), s.issuer = some w → w.active o.h.g ≠ 0 → w.ig.wait = .none →
    let new := (lanesOf (w.active o.h.g)).map fun l => (⟨w.grp * 32 + l, o.acc.dom, o.acc.scope⟩ : Arrival)
    (o.acc.ord ≠ .none ∨ o.acc.scope = .grp → Raises (.blksync o) w (w.active o.h.g) 3 (lowest (w.active o.h.g)) 0 s) ∧
    (o.acc.scope ≠ .grp → o.acc.ord = .none →
      let b := { w.b with barrier := w.b.barrier ++ new }
      (b.phaseDone = true → ∃ t c, exec (.blksync o) s = .next t ∧ t.block w.core w.slot = some c ∧ c.barrier = [] ∧
        (∃ x, w.igIn t = some x ∧ x.pc = nextPc w.ig.pc ∧ x.mask = w.ig.mask ∧ x.wait = .none) ∧
        (∀ g x, x ∈ (w.b.group g).igs → (g ≠ w.grp ∨ x.id ≠ w.ig.id) → (∃ wm, x.wait = .sync wm) →
          ∃ y ∈ (c.group g).igs, y.id = x.id ∧ y.wait = .none ∧ y.pc = nextPc x.pc) ∧
        (∀ g, (c.group g).v = (w.b.group g).v ∧ (c.group g).s = (w.b.group g).s)) ∧
      (b.phaseDone = false → ∃ t, exec (.blksync o) s = .next t ∧ Waits (w.withBlock b) (.sync o.wm) w.ig.pc (w.put s b) t))

/-! ## Engines -/

/-- Commands, R92, R128, R316 to R322, R328 to R335, R342, R395: an instruction whose operands pass every check puts one command behind
the block's others and adds one to its tag, and the engine does the rest; a flag on a UB command is an illegal operand; a tag that counts
65,535 or a full queue holds the slot. A held slot is a step that changes nothing (log 25), and the order of the checks is log 107. -/
def Obligations.CommandsIssue : Prop :=
  ∀ i p, cmdReqs i = some p → ∀ (s : State) (w : Who), s.issuer = some w → Readable w (w.active p.h.g) p.reads [] →
    w.active p.h.g ≠ 0 →
    (badFlags p.acc = true → Raises i w (w.active p.h.g) 3 (lowest (w.active p.h.g)) 0 s) ∧
    (badFlags p.acc = false → s.pendingStores w.core = [] → ∀ op ep, p.op s w = some (op, ep) →
      ((w.b.tag p.tag.toNat).count = 0xFFFF ∨ s.queueFull w.core op = true → exec i s = .next s) ∧
      ((w.b.tag p.tag.toNat).count ≠ 0xFFFF → s.queueFull w.core op = false →
        ∃ c t, exec i s = .next t ∧
          NoResult (w.withBlock (w.b.issued c)) p.h.k (w.put s (w.b.issued c)) t ∧
          c.id = w.b.nextCmd ∧ c.tag = p.tag.toNat ∧ c.op = op ∧ c.acc = p.acc ∧ c.grp = w.grp ∧ c.lanes = w.active p.h.g ∧
          c.pc = w.ig.pc ∧ c.mode = w.g.mode ∧ c.leg = s.legOf w.b.ctx ∧ (c.slotctl, c.iword) = s.wordAt w.core w.b.ctx w.ig.pc ∧
          c.entry = ep.map (·.1) ∧ c.convoy = ep.bind (·.2) ∧ c.state = .queued ∧ c.did = [] ∧ c.begun = false ∧ c.credited = false))

/-- Tags, R325 to R327: TAGRD reads COUNT and FAULT of a tag and changes neither; TAGFF gives the lowest masked tag that is ready, or
0xFFFF_FFFF; CPYWAIT passes when its tags allow and waits otherwise. -/
def Obligations.TagsRead : Prop :=
  ∀ (h : Hd) (s : State) (w : Who), s.issuer = some w → w.active h.g ≠ 0 →
    (∀ (d tag : BitVec 6), ∃ s1 t, CachesOnly s s1 ∧ exec (.tagrd h d tag) s = .next t ∧
      UniformResult w h.k d false ((w.b.tag tag.toNat).count + if (w.b.tag tag.toNat).fault then 65536 else 0) s1 t) ∧
    (∀ (d m : BitVec 6) (any : Bool), let mask := w.g.readS m.toNat true
      (∀ k, mask.getLsbD k = true → (w.b.tag k).count = 0 → (w.b.tag k).fault = false) →
      (∀ k, mask.getLsbD k = true → (w.b.tag k).count = 0 → (∀ j, j < k → mask.getLsbD j = true → (w.b.tag j).count ≠ 0) →
        ∃ s1 t, CachesOnly s s1 ∧ exec (.tagff h d m) s = .next t ∧ UniformResult w h.k d false k s1 t) ∧
      ((∀ k, mask.getLsbD k = true → (w.b.tag k).count ≠ 0) →
        ∃ t, exec (.tagff h d m) s = .next t ∧ UniformResult w h.k d false 0xFFFFFFFF s t) ∧
      (mask = 0 ∨ (any = true ∧ ∃ k, mask.getLsbD k = true ∧ (w.b.tag k).count = 0) ∨
          (any = false ∧ ∀ k, mask.getLsbD k = true → (w.b.tag k).count = 0) →
        ∃ s1 t, CachesOnly s s1 ∧ exec (.cpywait h any m) s = .next t ∧ NoResult w h.k s1 t) ∧
      (mask ≠ 0 → (if any then ∀ k, mask.getLsbD k = true → (w.b.tag k).count ≠ 0
          else ∃ k, mask.getLsbD k = true ∧ (w.b.tag k).count ≠ 0) →
        ∃ t, exec (.cpywait h any m) s = .next t ∧ Waits w (.cpy mask any (w.active h.g)) w.ig.pc s t))

/-- The fault of a tag, R140 and R325: TAGFF and CPYWAIT take it for the lowest masked tag that is at count zero with FAULT set; the
record carries the command's cause, address, PC and word, and the tag's FAULT is cleared. -/
def Obligations.TagFaultsDeliver : Prop :=
  ∀ (h : Hd) (d m : BitVec 6) (any : Bool) (k : Nat) (s : State) (w : Who), s.issuer = some w → w.active h.g ≠ 0 →
    let mask := w.g.readS m.toNat true
    let hit := fun j => mask.getLsbD j = true ∧ (w.b.tag j).count = 0 ∧ (w.b.tag j).fault = true
    hit k → (∀ j, j < k → ¬ hit j) → (w.b.tag k).record.cause.toNat ≠ 13 →
    let b := w.b.modTag k (fun t => { t with fault := false })
    ∀ i, i = .tagff h d m ∨ i = .cpywait h any m →
      ∃ r t, exec i s = .next t ∧ r.eng = true ∧ r.cause = (w.b.tag k).record.cause ∧ r.addr = (w.b.tag k).record.addr ∧
        r.pc = (w.b.tag k).record.pc ∧ r.iword = (w.b.tag k).record.iword ∧ r.tag = (w.b.tag k).record.tag ∧
        r.lanes = w.active h.g ∧ Traps (w.withBlock b) r (w.b.tag k).floor (w.put s b) t

/-- TCFG and TSTAT, R141, R328 and R334: a configuration that R141 accepts is written while no command uses the tile, any other is an
illegal operand; TSTAT gives the state of the oldest unfinished multiply, 0 without one. -/
def Obligations.TileConfiguration : Prop :=
  ∀ (h : Hd) (s : State) (w : Who), s.issuer = some w → w.active h.g ≠ 0 →
    (∀ (t : BitVec 3) (v : BitVec 6), let x := (w.g.sreg v.toNat).toNat
      let good := t.toNat < w.b.nodeRec.kern.tiles ∧ (x = 0 ∨ (1 ≤ x / 2 ^ 28 ∧ x / 2 ^ 28 ≤ 10 ∧ x / 2 ^ 25 % 8 = 0 ∧
        1 ≤ x / 2 ^ 16 % 2 ^ 9 ∧ x / 2 ^ 16 % 2 ^ 9 ≤ 256 ∧ x % 2 ^ 16 % fmtBlk (x / 2 ^ 28) = 0 ∧
        x / 2 ^ 16 % 2 ^ 9 * (x % 2 ^ 16) ≤ 32768))
      (¬ good → Raises (.tcfg h t v) w (w.active h.g) 3 (lowest (w.active h.g)) 0 s) ∧
      (good → w.b.cmds = [] →
        let b := { w.b with tcfg := listSet w.b.tcfg t.toNat (wd x) }
        ∃ u, exec (.tcfg h t v) s = .next u ∧ NoResult (w.withBlock b) h.k (w.put s b) u)) ∧
    (∀ d : BitVec 6, ∃ t, exec (.tstat h d) s = .next t ∧
      UniformResult w h.k d false (match w.b.cmds.find? (fun c => c.op.mul.isSome) with
        | some c => match c.op.mul with
          | some m => 2 ^ 31 + (if m.next = m.start then 0 else 2 ^ 30) + c.tag % 2 ^ 6 * 2 ^ 16 + m.next % 2 ^ 16
          | none => 0
        | none => 0) s t)

/-! ## Remote, recovery and system instructions -/

/-- XLD, XST, XATOM, FENCEF and SLOTRSV, R153 to R156, R337 to R339, R344 and R345: with a valid entry that grants the right, an access
inside the window and room in the allowance, one packet leaves for each lane, word or operation, to the endpoint of the entry, and the
group awaits the answers; no register changes before. The numbers of packets are the model's (log 3), and so are the two operands of an
XATOM.CAS whose data is a latch (log 15). -/
def Obligations.RemoteSends : Prop :=
  ∀ i p, remReqs i = some p → ∀ (s : State) (w : Who) (m : Nat) (cv : Option Nat) (man : Man), s.issuer = some w →
    Readable w (w.active p.h.g) p.reads p.names → w.active p.h.g ≠ 0 → p.marks = false → p.ep w = some (m, cv) →
    s.entry w.b.ctx m = some man → man.grants p.right = true → p.ok s w man = true → s.sentOn w.b.ctx m = 0 →
    ∃ t, exec i s = .next t ∧ Sent w p m man s t

/-- XLD, XST and XATOM through an endpoint that does not admit them, R152, R153 and R159: no open convoy is an illegal operand, no valid
entry is cause 10, a right that is not granted is cause 8, each at the lowest active lane. A misaligned offset of an XATOM and an irrevocable
target come before these, as illegal operands (R199, R230). -/
def Obligations.RemoteTraps : Prop :=
  ∀ i p, remReqs i = some p → (match i with | .xld _ | .xst _ | .xatom _ => True | _ => False) →
    ∀ (s : State) (w : Who), s.issuer = some w → Readable w (w.active p.h.g) p.reads p.names → w.active p.h.g ≠ 0 →
    p.marks = false →
    let m := w.active p.h.g
    (p.ep w = none → Raises i w m 3 (lowest m) 0 s) ∧
    (∀ e cv, p.ep w = some (e, cv) →
      let off := match i with | .xatom o => (w.src (lowest m) false o.off).toNat | _ => 0
      let size := match i with | .xatom o => Machine.sizeOf o.ty | _ => 1
      (off % size ≠ 0 → Raises i w m 3 (lowest m) (dw off) s) ∧
      (off % size = 0 → s.entry w.b.ctx e = none → Raises i w m 10 (lowest m) 0 s) ∧
      (off % size = 0 → ∀ man, s.entry w.b.ctx e = some man →
        let irrev := p.right = .atomic ∧ (s.outside w.b.ctx man.pkg = true ∨ s.homeIrrev w.b.ctx man off = true)
        (irrev → Raises i w m 3 (lowest m) 0 s) ∧
        (¬ irrev → man.grants p.right = false → Raises i w m 8 (lowest m) 0 s)))

/-- Convoys and serai slots, R159, R160, R170, R343 and R346: CVOPEN binds a closed convoy to a valid entry and CVCLOSE frees it, anything
else is an illegal operand or cause 10. SLOTREL is legal on a slot of the reserved ring that has reached its target without fault,
SLOTREL.FAULT on one whose fault bit is set, any other use an illegal operand; the slot's released flag is set, and from the tail on the flags
that are set are cleared, with USED lowered by one for each. -/
def Obligations.ConvoysAndSlots : Prop :=
  ∀ (h : Hd) (s : State) (w : Who), s.issuer = some w → w.active h.g ≠ 0 →
    let m := w.active h.g
    (∀ (c : BitVec 4) (e : BitVec 6), let v := KMap.get ({} : Convoy) w.b.convoys c.toNat
      let x := (w.g.sreg e.toNat).toNat
      (256 ≤ x ∨ v.entry ≠ none → Raises (.cvopen h c e) w m 3 (lowest m) 0 s) ∧
      (x < 256 → v.entry = none → s.entry w.b.ctx x = none → Raises (.cvopen h c e) w m 10 (lowest m) 0 s) ∧
      (x < 256 → v.entry = none → s.entry w.b.ctx x ≠ none →
        let b := { w.b with convoys := KMap.put w.b.convoys c.toNat { v with entry := some (BitVec.ofNat 8 x) } }
        ∃ t, exec (.cvopen h c e) s = .next t ∧ NoResult (w.withBlock b) h.k (w.put s b) t) ∧
      (v.entry = none → Raises (.cvclose h c) w m 3 (lowest m) 0 s) ∧
      (v.entry ≠ none →
        let b := { w.b with convoys := KMap.put w.b.convoys c.toNat { v with entry := none } }
        ∃ t, exec (.cvclose h c) s = .next t ∧ NoResult (w.withBlock b) h.k (w.put s b) t)) ∧
    (∀ (j : BitVec 6) (fault : Bool), let i := if fault then Instr.slotrelFault h j else .slotrel h j
      let x := (w.g.sreg j.toNat).toNat
      (w.b.serai = none → Raises i w m 3 (lowest m) 0 s) ∧
      (∀ o z n, w.b.serai = some (o, z, n) →
        let a := w.b.word64 o
        let used := a / 2 ^ 16 % 512
        let ring := fun q => (a / 2 ^ 8 % 256 + n - used % n + q) % n
        let y := w.b.word64 (o + 40 + 8 * x)
        let flag := fun q => (w.b.mem.read (o + 8 + q / 8)).getLsbD (q % 8) || decide (q = x)
        let legal := x < n ∧ (∃ q, q < used ∧ ring q = x) ∧
          if fault then y.testBit 62 = true else y.testBit 62 = false ∧ y.testBit 63 ≠ y.testBit 60
        (¬ legal → Raises i w m 3 (lowest m) 0 s) ∧
        (legal → w.b.mem.wf = true → n ≤ 256 → ∃ t b k, exec i s = .next t ∧ NoResult (w.withBlock b) h.k (w.put s b) t ∧
          { b with mem := w.b.mem } = w.b ∧ k ≤ used ∧ k ≤ n ∧ (∀ q, q < k → flag (ring q) = true) ∧
          (k = used ∨ k = n ∨ flag (ring k) = false) ∧
          b.word64 o / 2 ^ 16 % 512 = used - k ∧ b.word64 o / 2 ^ 8 % 256 = a / 2 ^ 8 % 256 ∧
          (∀ q, q < n → ((b.mem.read (o + 8 + q / 8)).getLsbD (q % 8) = true ↔ flag q = true ∧ ∀ r, r < k → ring r ≠ q)) ∧
          ∀ c, c < o ∨ o + 40 ≤ c → b.mem.read c = w.b.mem.read c)))

/-- CHUNK, LEGRD and IRREV, R176, R200, R347, R349 and R350: a chunk number that does not fall is declared, and the group is held past it
once the halt chunk is reached; LEGRD reads the leg, SEAL, HALT and DOM; IRREV requests a seal of the context's domain. -/
def Obligations.ChunksAndLegs : Prop :=
  ∀ (s : State) (w : Who), s.issuer = some w →
    (∀ (k : Ctl) (c : BitVec 6), let v := w.g.sreg c.toNat
      let b := { w.b with chunk := some v }
      (w.ig.handler = true → Raises (.chunk k c) w w.live 1 (lowest w.live) 0 s) ∧
      (w.ig.handler = false → (∃ x, w.b.chunk = some x ∧ v.toNat < x.toNat) → Raises (.chunk k c) w w.live 3 (lowest w.live) 0 s) ∧
      (w.ig.handler = false → (∀ x, w.b.chunk = some x → x.toNat ≤ v.toNat) →
        ((∀ x, w.b.halt = some x → v.toNat < x.toNat) →
          ∃ t, exec (.chunk k c) s = .next t ∧ NoResult (w.withBlock b) k (w.put s b) t) ∧
        ((∃ x, w.b.halt = some x ∧ x.toNat ≤ v.toNat) →
          ∃ t, exec (.chunk k c) s = .next t ∧ Waits (w.withBlock b) .chunk (nextPc w.ig.pc) (w.put s b) t))) ∧
    (∀ h : Hd, w.active h.g ≠ 0 →
      (∀ d : BitVec 6, ∃ t, exec (.legrd h d) s = .next t ∧
        UniformResult w h.k d true ((s.legOf w.b.ctx).toNat + (if s.sealPending w.b.ctx then 2 ^ 32 else 0)
          + (if s.halting w.core w.slot w.b then 2 ^ 33 else 0)
          + (if (s.domOf w.b.ctx).isSome then 2 ^ 34 else 0)) s t) ∧
      ((s.ctx w.b.ctx).domain = none → ∃ t, exec (.irrev h) s = .next t ∧ NoResult w h.k s t) ∧
      (∀ d x, (s.ctx w.b.ctx).domain = some d → s.domain? d = some x → x.stopped = false → x.pending = false →
        ∃ s1 t, { s1 with domains := s.domains, out := s.out } = s ∧ (∃ y, s1.domain? d = some y ∧ y.wanted = true) ∧
          s1.out = s.out ++ [.sealReq d] ∧ exec (.irrev h) s = .next t ∧ NoResult w h.k s1 t))

/-- WAYMARK, R184 and R188, of a group whose live threads all stand at it: its checks hold, and without a pending seal it passes; with
one, and with no command, remote operation or tag fault outstanding and no other group parked with another range, the group is parked. -/
def Obligations.WaymarkPassesOrParks : Prop :=
  ∀ (k : Ctl) (d vg : BitVec 6) (s : State) (w : Who), s.issuer = some w → k.sett = none →
    (w.ig.handler = true → Raises (.waymark k d vg) w w.live 1 (lowest w.live) 0 s) ∧
    (w.ig.handler = false → s.wayCheck w d vg = none → w.g.igs = [w.ig] → w.ig.wait = .none →
      (∀ l, l < 32 → (w.g.thread l).live = true → w.ig.mask.getLsbD l = true) →
      (s.sealPending w.b.ctx = false → ∃ t, exec (.waymark k d vg) s = .next t ∧ NoResult w k s t) ∧
      (s.sealPending w.b.ctx = true → w.b.cmds = [] → w.g.ops = [] → (∀ x ∈ w.b.tags, x.2.fault = false) →
        w.b.wayDiffers w.g d = false →
        ∃ t, exec (.waymark k d vg) s = .next t ∧ Waits w (.way d vg.toNat true) w.ig.pc s t))

/-- GROW and SHRINK, R35 to R38, of a group whose live threads all stand at it: the allotment changes by n granules, the registers that
stay keep their values and those of a GROW read as zero; past 32 granules, or down to none, is an illegal operand; a GROW that the
partition cannot give waits while another group there runs. -/
def Obligations.AllotmentsChange : Prop :=
  ∀ (k : Ctl) (n : BitVec 5) (s : State) (w : Who), s.issuer = some w → k.sett = none →
    (w.ig.handler = true → Raises (.grow k n) w w.live 1 (lowest w.live) 0 s ∧ Raises (.shrink k n) w w.live 1 (lowest w.live) 0 s) ∧
    (w.ig.handler = false →
      (32 < w.g.allot + n.toNat → Raises (.grow k n) w w.live 3 (lowest w.live) 0 s) ∧
      (w.g.allot ≤ n.toNat → Raises (.shrink k n) w w.live 3 (lowest w.live) 0 s) ∧
      (w.g.igs = [w.ig] → Calm w s → (∀ l, l < 32 → (w.g.thread l).live = true → w.ig.mask.getLsbD l = true) →
        (w.ig.wait = .none → w.g.allot + n.toNat ≤ 32 → s.partUsed w.core w.g.part + n.toNat ≤ 128 →
          ∃ t, exec (.grow k n) s = .next t ∧ OnlyGroup w s t ∧ Advanced w t ∧ (w.grpIn t).allot = w.g.allot + n.toNat ∧
            (∀ l r, l < 32 → (w.grpIn t).vreg l r = if r < 8 * w.g.allot then w.g.vreg l r else 0) ∧ (w.grpIn t).s = w.g.s ∧
            (∀ l, ((w.grpIn t).thread l).preds = (w.g.thread l).preds)) ∧
        (w.ig.wait = .none → n.toNat < w.g.allot →
          ∃ t, exec (.shrink k n) s = .next t ∧ OnlyGroup w { s with
              freeCtr := t.freeCtr } t ∧ Advanced w t ∧ (w.grpIn t).allot = w.g.allot - n.toNat ∧
            (∀ l r, l < 32 → r < 8 * (w.g.allot - n.toNat) → (w.grpIn t).vreg l r = w.g.vreg l r) ∧ (w.grpIn t).s = w.g.s ∧
            (∀ l, ((w.grpIn t).thread l).preds = (w.g.thread l).preds)) ∧
        (w.g.allot + n.toNat ≤ 32 → 128 < s.partUsed w.core w.g.part + n.toNat →
          (∃ slot b j, (slot ≠ w.slot ∨ j ≠ w.grp) ∧ s.block w.core slot = some b ∧ j < b.groups.length ∧
            (b.group j).part = w.part ∧ (b.group j).here = true ∧ (b.group j).liveMask ≠ 0) →
          ∃ t, exec (.grow k n) s = .next t ∧ Waits w (.grow true n.toNat) w.ig.pc s t)))

/-- LOCQ, R68, R352, R427 and R473: it completes with the die of what it names, and the class of the reader's path there. A core number past
the live ones is an illegal operand; an address is translated as a load is, and a page of host space or peer MMIO answers 0xFE and class 4;
another package answers 0xFF and the class of the route in use; an invalid entry is cause 10, and a page that is not present cause 9. The
slice of a line is open (log 12), and so is the class of a package without a route (log 16); which slice of a home endpoint answers is log
71, and a refused address log 91. -/
def Obligations.LocalityQuery : Prop :=
  ∀ (h : Hd) (d a : BitVec 6) (s : State) (w : Who), s.issuer = some w → w.active h.g ≠ 0 →
    let m := w.active h.g
    let n := (w.g.sreg a.toNat).toNat
    let va := (w.g.readS a.toNat true).toNat
    let mine := s.sys.physCore w.core / 24
    let answers := fun (k : LocKind) (die cls : Nat) => ∃ s1 t, CachesOnly s s1 ∧ exec (.locq h k d a) s = .next t ∧
      UniformResult w h.k d false (256 * die + cls) s1 t
    let near := fun (k : LocKind) (die : Nat) => answers k die (if mine = die then 0 else if mine / 4 = die / 4 then 1 else 2)
    let traps := fun (c : Nat) => ∃ s1 r t, CachesOnly s s1 ∧ exec (.locq h .addr d a) s = .next t ∧ RecordAt w s1 m c (lowest m) r ∧
      r.addr = BitVec.ofNat 64 va ∧ Traps w r 0 s1 t
    let walk := s.lookupLast (s.lastPage w.core w.g.part (lowest m)) w.core w.b.ctx va
    (n < s.sys.liveCount → near .core (s.sys.physCore n / 24)) ∧
    (s.sys.liveCount ≤ n → Raises (.locq h .core d a) w m 3 (lowest m) 0 s) ∧
    (∀ x, va < 2 ^ 52 → walk = .leaf x →
      (x.tgt = 0 → near .addr (sliceDie (x.pa + (va - x.va)))) ∧ (x.tgt ≠ 0 → answers .addr 0xFE 4)) ∧
    (va < 2 ^ 52 → walk = .absent → traps 9) ∧
    (2 ^ 52 ≤ va ∨ walk = .refused → traps 8) ∧
    (256 ≤ n → Raises (.locq h .ent d a) w m 3 (lowest m) 0 s) ∧
    (n < 256 → s.entry w.b.ctx n = none → Raises (.locq h .ent d a) w m 10 (lowest m) 0 s) ∧
    (∀ e, n < 256 → s.entry w.b.ctx n = some e →
      (e.pkg ≠ s.sys.pkg.toNat →
        (∀ r, s.routeInUse e.pkg = some r → answers .ent 0xFF (if r.testBit 30 then 4 else 3)) ∧
        (s.routeInUse e.pkg = none → answers .ent 0xFF 3 ∨ answers .ent 0xFF 4)) ∧
      (e.pkg = s.sys.pkg.toNat → e.isCore = true →
        (e.unit < s.sys.liveCount → near .ent (s.sys.physCore e.unit / 24)) ∧
        (s.sys.liveCount ≤ e.unit → Raises (.locq h .ent d a) w m 3 (lowest m) 0 s)) ∧
      (e.pkg = s.sys.pkg.toNat → e.isCore = false → near .ent (sliceDie (e.unit % 32 * 2 ^ 36))))

/-- LAUNCH and PRIO, R353 and R354: a legal LAUNCH submits its record and awaits the code, which is 3 for a queue that is off and 1 for a
full one; PRIO sets the block's priority to at most that of its submission; both are illegal in handler mode. A refusal for want of room
is code 1, the codes are tested in the order 3, 1, 2 (log 109), and a held LAUNCH changes nothing (log 25). -/
def Obligations.LaunchAndPriority : Prop :=
  ∀ (k : Ctl) (s : State) (w : Who), s.issuer = some w →
    (∀ d r q : BitVec 6, let a := (w.g.sreg r.toNat).toNat
      let qn := (w.g.sreg q.toNat).toNat
      (w.ig.handler = true → Raises (.launch k d r q) w w.live 1 (lowest w.live) 0 s) ∧
      (w.ig.handler = false → (a % 64 ≠ 0 ∨ 15 < qn) → Raises (.launch k d r q) w w.live 3 (lowest w.live) 0 s) ∧
      (w.ig.handler = false → a % 64 = 0 → qn ≤ 15 → a + 64 ≤ w.b.locSize → Quiet w s →
        (∀ l, ∀ id ∈ (w.g.thread l).known, s.unperformed id = false) →
        ∃ code s1 t o, s.launch w.b.ctx qn (leNat (Memory.readN w.b.mem a 64)) w.b.prio = (code, s1) ∧
          exec (.launch k d r q) s = .next t ∧ t.itins = s1.itins ∧ t.mem = s.mem ∧ Advanced w t ∧
          (w.grpIn t).ops.map RemOp.bare = [o].map RemOp.bare ∧ o.dest = .s d ∧ o.pkts = [] ∧ o.got = [(0, dw code)] ∧
          (w.grpIn t).results = w.g.results ++ [{ id := o.result, tok := k.sett, remote := true }] ∧
          (w.grpIn t).v = w.g.v ∧ (w.grpIn t).s = w.g.s ∧
          ((KMap.get ({} : Queue) (s.ctx w.b.ctx).queues qn).en = false → code = 3) ∧
          ((KMap.get ({} : Queue) (s.ctx w.b.ctx).queues qn).en = true →
            2 ^ (KMap.get ({} : Queue) (s.ctx w.b.ctx).queues qn).log2n.toNat ≤ s.launched w.b.ctx qn → code = 1) ∧
          (code ≠ 0 → s1.itins = s.itins))) ∧
    (∀ p : BitVec 6, let x := (w.g.sreg p.toNat).toNat
      (w.ig.handler = true → Raises (.prio k p) w w.live 1 (lowest w.live) 0 s) ∧
      (w.ig.handler = false → w.b.submitPrio < x → Raises (.prio k p) w w.live 3 (lowest w.live) 0 s) ∧
      (w.ig.handler = false → x ≤ w.b.submitPrio →
        ∃ t, exec (.prio k p) s = .next t ∧ NoResult (w.withBlock { w.b with
          prio := x }) k (w.put s { w.b with
          prio := x }) t))

/-- RFE, R355, R358 and R41: out of handler mode an illegal instruction; RFE.REGION after a restartable cause resumes the trapped threads
at the region entry, RFE.NEXT after causes 2, 14 and 19 at the slot after the trapped one, with every latch invalid; from any other cause
the context ends with it. -/
def Obligations.ReturnsFromTraps : Prop :=
  ∀ (k : Ctl) (next : Bool) (s : State) (w : Who), s.issuer = some w →
    let i := if next then Instr.rfeNext k else .rfeRegion k
    (w.ig.handler = false → Raises i w w.live 1 (lowest w.live) 0 s) ∧
    (∀ c, w.ig.handler = true → w.g.trap = some c →
      let n := c.record.cause.toNat
      let may := if next then n = 2 ∨ n = 14 ∨ n = 19
        else n = 2 ∨ n = 3 ∨ n = 7 ∨ n = 8 ∨ n = 10 ∨ n = 11 ∨ n = 14 ∨ n = 17 ∨ n = 18 ∨ n = 19
      (¬ may → ∃ t, exec i s = .next t ∧ EndsCtx w.b.ctx n c.record s t) ∧
      (may → ∃ t, exec i s = .next t ∧ OnlyGroup w s t ∧
        (∃ x, w.igIn t = some x ∧ x.pc = (if next then nextPc c.record.pc else c.record.region + 8) ∧ x.handler = false ∧
          x.mask = w.ig.mask ∧ x.allot = w.ig.allot) ∧
        (w.grpIn t).trap = (if c.lanes &&& ~~~w.ig.mask = 0 then none else some { c with
          lanes := c.lanes &&& ~~~w.ig.mask }) ∧
        (w.grpIn t).v = w.g.v ∧ (w.grpIn t).s = w.g.s ∧ (w.grpIn t).mode = w.g.mode ∧
        ∀ l, w.ig.mask.getLsbD l = true → ((w.grpIn t).thread l).latches = [none, none, none, none] ∧
          ((w.grpIn t).thread l).preds = (w.g.thread l).preds ∧ ((w.grpIn t).thread l).stack = (w.g.thread l).stack))

/-- Control registers, R120 and R360 to R362: MODE and LEGID are read in any mode, TRAPINFO and FLOOR in handler mode alone; a legal value
is written to MODE, an illegal one leaves it and is an illegal operand, as is any write of a read-only register. That TRAPINFO and FLOOR
are illegal outside handler mode is deduced (log 31). -/
def Obligations.ControlRegisters : Prop :=
  ∀ (h : Hd) (s : State) (w : Who), s.issuer = some w → w.active h.g ≠ 0 →
    let m := w.active h.g
    (∀ d : BitVec 6,
      (∃ t, exec (.ctlrd h d .mode) s = .next t ∧ UniformResult w h.k d false w.g.mode.toNat s t) ∧
      (∃ t, exec (.ctlrd h d .legid) s = .next t ∧
        UniformResult w h.k d false (match s.domOf w.b.ctx with | some x => x.num | none => 0xFFFF) s t) ∧
      (∀ c, w.ig.handler = true → w.g.trap = some c →
        (∃ t, exec (.ctlrd h d .floor) s = .next t ∧ UniformResult w h.k d false c.floor.toNat s t) ∧
        (∃ t, exec (.ctlrd h d .trapinfo) s = .next t ∧ UniformResult w h.k d false
          (2 ^ 31 + (if c.record.eng then 2 ^ 30 else 0) + (if c.record.cause.toNat ∈ [2, 14, 19] then 2 ^ 29 else 0)
            + c.record.lane.toNat * 2 ^ 24 + c.record.sub.toNat * 2 ^ 20 + c.record.cause.toNat * 2 ^ 12 + c.record.code.toNat) s t)) ∧
      (w.ig.handler = false → Raises (.ctlrd h d .trapinfo) w m 1 (lowest m) 0 s ∧ Raises (.ctlrd h d .floor) w m 1 (lowest m) 0 s)) ∧
    (∀ n : BitVec 6, let x := (w.g.sreg n.toNat).toNat
      let good := x < 2 ^ 16 ∧ x % 8 ≤ 4 ∧ x / 2 ^ 3 % 2 = 0 ∧ x / 2 ^ 6 % 16 = 0 ∧ x / 2 ^ 10 % 32 ≤ 16
      (¬ good → Raises (.ctlwr h .mode n) w m 3 (lowest m) 0 s) ∧
      (good → ∃ t, exec (.ctlwr h .mode n) s = .next t ∧ OnlyGroup w s t ∧ Advanced w t ∧ (w.grpIn t).mode = w.g.sreg n.toNat ∧
        (w.grpIn t).v = w.g.v ∧ (w.grpIn t).s = w.g.s ∧ (w.grpIn t).trap = w.g.trap ∧
        ∀ l, ((w.grpIn t).thread l).preds = (w.g.thread l).preds) ∧
      Raises (.ctlwr h .legid n) w m 3 (lowest m) 0 s ∧
      (w.ig.handler = false → Raises (.ctlwr h .trapinfo n) w m 1 (lowest m) 0 s ∧ Raises (.ctlwr h .floor n) w m 1 (lowest m) 0 s) ∧
      (w.ig.handler = true → w.g.trap ≠ none →
        Raises (.ctlwr h .trapinfo n) w m 3 (lowest m) 0 s ∧ Raises (.ctlwr h .floor n) w m 3 (lowest m) 0 s))

/-- TRAPRD, R357 and R359: word k of the trap record in handler mode, an illegal instruction outside it. -/
def Obligations.TrapRecordWords : Prop :=
  ∀ (h : Hd) (d : BitVec 6) (k : BitVec 4) (s : State) (w : Who), s.issuer = some w → w.active h.g ≠ 0 →
    (w.ig.handler = false → Raises (.traprd h d k) w (w.active h.g) 1 (lowest (w.active h.g)) 0 s) ∧
    (∀ c, w.ig.handler = true → w.g.trap = some c →
      let r := c.record
      let lo := fun (x : Dword) => x.toNat % 2 ^ 32
      let hi := fun (x : Dword) => x.toNat / 2 ^ 32
      let flags := (if r.hm then 2 ^ 25 else 0) + (if r.eng then 2 ^ 26 else 0) + (if r.iret then 2 ^ 27 else 0)
      let words := [lo r.clock, hi r.clock, lo r.region, hi r.region, lo r.pc, hi r.pc,
        r.cause.toNat * 2 ^ 6 + r.sub.toNat * 2 ^ 12 + r.code.toNat * 2 ^ 16 + flags + r.lane.toNat % 16 * 2 ^ 28,
        r.lane.toNat / 16 + r.group.toNat * 2 + r.tag.toNat * 2 ^ 6 + r.slotctl.toNat * 2 ^ 12,
        r.lanes.toNat, r.node.toNat, r.block.toNat, r.leg.toNat, lo r.iword, hi r.iword, lo r.addr, hi r.addr]
      ∃ t, exec (.traprd h d k) s = .next t ∧ UniformResult w h.k d false (words.getD k.toNat 0) s t)

/-! ## Steps inside a core and at the home agents -/

/-- What a core and the home agents do beside issuing (R36, R40, R91, R98, R195, R196, R219, R242, R501): a result's token becomes ready;
a trap that waited is taken; a held GROW gets its granules, zero, and where every group of a partition is held and none can be granted the one
that entered last takes the watchdog trap; a WAIT.CLK ends; a queued store is performed; an invalidation reaches a core and a filter; any two
contributions to a word merge, in whatever order, which the home agent counts (logs 56 and 94); the requests of one bank word complete together
(R53). When a store is performed, and for whom, is modelled as logs 14, 27 and 59 say; which of these comes when is the agenda's (logs 1 and
50). -/
def Obligations.CoreSteps : Prop :=
  (∀ (s : State) (core slot grp k : Nat) (b : Block) (r : Result), s.block core slot = some b →
    (b.group grp).results.find? (fun x => x.id == k) = some r → r.remote = false →
    ∃ t, exec (.resultWriteback core slot grp k) s = .next t ∧ BlockAt core slot
      (b.modGroup grp fun g => { g with results := g.results.filter fun x => x.id != k }) s t) ∧
  (∀ (s : State) (core slot grp ig : Nat) (w : Who) (r : TrapRec), s.whoOf core slot grp ig = some w →
    (s.ctx w.b.ctx).state = .live → w.trapDue = some r →
    ∃ r' t, exec (.trapDelivery core slot grp ig) s = .next t ∧ r'.cause = r.cause ∧
      Traps { w with ig := { w.ig with trap := none } } r' 0
        (s.modGroup core slot grp fun g => g.modIg ig fun x => { x with trap := none }) t) ∧
  (∀ (s : State) (core part slot grp n : Nat) (b : Block), s.block core slot = some b →
    let g := b.group grp
    g.igs ≠ [] → g.idx = grp → g.part = part → g.here = true → (∀ x ∈ g.igs, x.wait = .grow true n) →
    g.allAt (fun x => x == .grow true n) = true → s.partUsed core part + n ≤ 128 →
    (∀ x ∈ s.partGroups core part, x.2.growHeld.isSome → x.1 = slot ∧ x.2.idx = grp) →
    ∃ t b', exec (.growGrant core part) s = .next t ∧
      ({ t with
        cores := s.cores, nextId := s.nextId } : State) = s ∧
      t.block core slot = some b' ∧ { b' with groups := b.groups } = b ∧
      (b'.group grp).allot = g.allot + n ∧ (b'.group grp).s = g.s ∧
      (∀ l r, l < 32 → (b'.group grp).vreg l r = if r < 8 * g.allot then g.vreg l r else 0) ∧
      (b'.group grp).igs.map (fun x => (x.id, x.pc, x.wait)) = g.igs.map (fun x => (x.id, nextPc x.pc, .none))) ∧
  (∀ (s : State) (core part : Nat) (x : Nat × Group) (ig : IGroup) (w : Who),
    let gs := s.partGroups core part
    x ∈ gs → (∀ y ∈ gs, y.2.growHeld.isSome = true ∧ s.canGrant core part y.2 = false) →
    (∀ y ∈ gs, y ≠ x → y.2.growHeld.getD 0 < x.2.growHeld.getD 0) →
    x.2.igs.find? (fun i => i.wait.gathers) = some ig → s.whoOf core x.1 x.2.idx ig.id = some w →
    ∃ r t, exec (.growGrant core part) s = .next t ∧ RecordAt w s w.live 15 (lowest w.live) r ∧ Traps w r 0 s t) ∧
  (∀ (s : State) (core slot grp ig till : Nat) (wm : Bool) (w : Who), s.whoOf core slot grp ig = some w →
    w.ig.wait = .clk till wm → till ≤ s.clock → s.draining w.b.ctx = false →
    ∃ t, exec (.waitClkExpiry core slot grp ig) s = .next t ∧ BlockAt core slot
      (w.b.modGroup grp fun g => g.modIg ig fun x => { x with wait := .none }) s t) ∧
  (∀ (s : State) (core k pa : Nat) (e : Store) (bs : List (Byte × Byte)), (s.core core).stores.find? (fun x => x.id == k) = some e →
    e.who.core = core → Leaves s e pa bs → ∃ t, exec (.storeDrain core k) s = .next t ∧ Performed e pa bs s t) ∧
  (∀ (s : State) (core k slot off : Nat) (e : Store) (bs : List (Byte × Byte)) (b : Block),
    (s.core core).stores.find? (fun x => x.id == k) = some e → e.who.core = core → e.place = .loc slot off → e.work = .bytes bs →
    e.after = [] → e.req = 0 → (e.dom = .co → s.coLeft core = []) → s.mayLeave core e = true → s.block core slot = some b →
    b.gen = e.who.gen →
    ∃ t, exec (.bankRequestComplete core k) s = .next t ∧
      ({ t with
        cores := s.cores, homeHeld := s.homeHeld, marks := s.marks } : State) = s ∧
      (∀ c j, t.block c j = if c = core ∧ j = slot then some { b with mem := Memory.writeMasked b.mem off bs } else s.block c j) ∧
      (t.core core).stores = (s.core core).stores.filter fun x => x.id != k) ∧
  (∀ (s : State) (core k slot : Nat) (e : Store) (b : Block) (at_ : Store → Nat) (bytes : Store → List (Byte × Byte)),
    (s.core core).stores.find? (fun x => x.id == k) = some e → e.place.isLoc = true → e.req ≠ 0 → s.block core slot = some b →
    let rs := (s.core core).stores.filter fun x => x.req == e.req
    (∀ r ∈ rs, r.who.core = core ∧ r.place = .loc slot (at_ r) ∧ r.work = .bytes (bytes r) ∧ r.after = [] ∧ b.gen = r.who.gen ∧
      (r.dom = .co → s.coLeft core = []) ∧
      ∀ x ∈ s.pendingStores core, x.id < r.id → (∀ y ∈ rs, y.id ≠ x.id) → mustPrecede x r = false) →
    ∃ t, exec (.bankRequestComplete core k) s = .next t ∧
      (∀ c j, t.block c j = if c = core ∧ j = slot then some { b with
          mem := rs.foldl (fun m r => Memory.writeMasked m (at_ r) (bytes r)) b.mem }
        else s.block c j) ∧
      (t.core core).stores = (s.core core).stores.filter fun x => rs.all fun r => x.id != r.id) ∧
  (∀ (s : State) (pos k : Nat) (i : Inval), (s.l1 pos).invs[k]? = some i → i.arrived = none →
    ∃ t, exec (.invalidationArrival pos k) s = .next t ∧ L1At pos {
      invs := (s.l1 pos).invs.map fun x => if x = i then { x with arrived := some s.clock, applied := [.sc, .tso] } else x
      sectors := (s.l1 pos).sectors.filter fun x => !(x.1 == i.sector && decide (x.2.stamp < i.id)) } s t) ∧
  (∀ (s : State) (pos k since : Nat) (d : Dom) (i : Inval), (s.l1 pos).invs[k]? = some i → i.arrived = some since →
    d ∉ i.applied → since + 4096 ≤ s.clock →
    ∃ t, exec (.filterAgeExpiry pos k d) s = .next t ∧ L1At pos { s.l1 pos with
      invs := ((s.l1 pos).invs.map fun x => if x = i then { x with applied := d :: x.applied } else x).filter
        fun x => x.arrived.isNone || decide (x.applied.length < 5) } s t) ∧
  (∀ (s : State) (k pa : Nat) (h : HomeHeld) (bs : List (Byte × Byte)), s.homeHeld[k]? = some h → Leaves s h.store pa bs →
    ∃ t, exec (.homeAgentWrite (.held k)) s = .next t ∧ Performed h.store pa bs s t) ∧
  (∀ (s : State) (k i j : Nat) (w : CuWord) (x y : Dword), s.cu[k]? = some w → w.parts[i]? = some x → w.parts[j]? = some y → i ≠ j →
    let merges := fun (t : State) => KMap.get 0 t.sys.counters (0x3C0000 + 0x100 * homeOf w.pa + 16)
    ∃ t, exec (.homeAgentWrite (.cuMerge k i j)) s = .next t ∧ merges t = merges s + 1 ∧
      ({ t with
        sys := { t.sys with counters := s.sys.counters } } : State) = { s with
        cu := listSet s.cu k { w with parts := listDrop (listSet w.parts i (opApply w.op w.ty x y)) j } })

/-- The engines, R94, R122, R124, R126, R146, R148, R329, R332: TLD, TST and TZERO move or clear whole tile rows and complete, at one instant
(log 61); a sub-block of TMMA writes its elements' words alone, counts its steps in MMA_STEPS (R494), is checked where MODE and the count of
its context say so, by a telemetry record where the ring has room (a ring of LOG2N 16 is full as log 57 says; deviations that R124 does not
give are log 100), and the last one completes the command; the follow-on of a copy that has landed starts. What a command with the release
flag wrote is performed for every agent as it completes (log 14). A chunk's sum past the largest FP32 number is log 72. Which of these comes
when is the agenda's (logs 1 and 50). -/
def Obligations.EngineSteps : Prop :=
  (∀ (s : State) (core slot k tl a : Nat) (c : TileCfg) (x : Run), s.run? core slot k = some x → s.mayRun x = true →
    x.c.state = .queued → x.c.did = [] → x.c.credited = false → x.b.canonical = true → c.rows * c.rowb ≤ 32768 →
    let s' := if x.c.acc.relf then s.settle [x.c.store] else s
    (x.c.op = .tld tl c a → ∃ t b, exec (.commandComplete core slot k none) s = .next t ∧ BlockAt core slot b s' t ∧
      { b with tiles := x.b.tiles } = x.b.without x.c ∧
      (∀ i, i < c.rows * c.rowb → b.tileByte tl i = x.b.mem.read (a + i)) ∧
      ∀ u i, i < 32768 → u ≠ tl ∨ c.rows * c.rowb ≤ i → b.tileByte u i = x.b.tileByte u i) ∧
    (x.c.op = .tst tl c a → ∃ t b, exec (.commandComplete core slot k none) s = .next t ∧ BlockAt core slot b s' t ∧
      { b with mem := x.b.mem } = x.b.without x.c ∧
      (∀ i, i < c.rows * c.rowb → b.mem.read (a + i) = x.b.tileByte tl i) ∧
      ∀ i, i < a ∨ a + c.rows * c.rowb ≤ i → b.mem.read i = x.b.mem.read i) ∧
    (x.c.op = .tzero tl → ∃ t b, exec (.commandComplete core slot k none) s = .next t ∧ BlockAt core slot b s' t ∧
      { b with tiles := x.b.tiles } = x.b.without x.c ∧
      ∀ u i, i < 32768 → b.tileByte u i = if u = tl then 0 else x.b.tileByte u i)) ∧
  (∀ (s : State) (core slot k : Nat) (x : Run) (m : Mma), s.run? core slot k = some x → x.c.op = .tmma m → s.mmaRuns x = true →
    x.c.credited = false → x.b.canonical = true →
    let y := s.ctx x.b.ctx
    let n := KMap.get 0 (s.core core).telCount x.b.ctx + 1
    let checked := x.c.mode.getLsbD 15 = true ∧ n % 2 ^ (x.c.mode.toNat / 2 ^ 10 % 32) = 0
    let counted := if x.c.mode.getLsbD 15 then (s.countSteps core m).modCore core fun u => { u with
        telCount := KMap.put u.telCount x.b.ctx n }
      else s.countSteps core m
    ∃ t b, exec (.tmmaSubblock core slot k) s = .next t ∧ t.block core slot = some b ∧
      (¬ checked → BlockAt core slot b (if m.total ≤ m.next + 1 ∧ x.c.acc.relf = true then counted.settle [x.c.store] else counted) t) ∧
      (checked → y.telLog2n ≠ 0 →
        let room := ringFull y.telTail y.telHead y.telLog2n.toNat = false ∧
          s.telOpen x.b.ctx (y.telbase.toNat * 32 + 32 * (y.telTail.toNat % 2 ^ y.telLog2n.toNat)) = true
        (room → (t.ctx x.b.ctx).telTail = y.telTail + 1 ∧ (t.core core).telLost = 0) ∧
        (¬ room → (t.ctx x.b.ctx).telTail = y.telTail ∧ (t.core core).telLost = min 0xFFFF ((s.core core).telLost + 1))) ∧
      (x.c.mode.getLsbD 15 = true → KMap.get 0 (t.core core).telCount x.b.ctx = n) ∧
      (∀ r c, (r, c) ∈ m.elems m.next → b.accWord (m.abase + r * m.cb.rows + c) =
        mmaElem x.c.mode (m.ca.fmt == 7) (x.b.tileRow m.ta m.ca r) (x.b.tileRow m.tb m.cb c) (x.b.accStart m r c)) ∧
      (∀ i, (∀ r c, (r, c) ∈ m.elems m.next → i ≠ m.abase + r * m.cb.rows + c) → b.accWord i = x.b.accWord i) ∧
      { b with acc := x.b.acc } = (if m.total ≤ m.next + 1 then x.b.without x.c else { x.b with
        cmds := x.b.cmds.map fun c => if c.id = k then { c with op := c.op.withNext (m.next + 1) } else c })) ∧
  (∀ (s : State) (core slot k : Nat) (x : Run) (sh : Shape) (org : List Int) (d : Dense) (col : Option Coll) (bar : BarRef) (m : Mma),
    s.run? core slot k = some x → x.c.op = .tcpy sh org d col bar (some m) → x.c.state = .landed → s.mayRun x = true →
    ∃ t, exec (.followOnStart core slot k) s = .next t ∧ BlockAt core slot { x.b with
      cmds := x.b.cmds.map fun c => if c.id = k then { c with state := .follow } else c }
      (if x.c.acc.relf then s.settle [x.c.store] else s) t)

/-! ## Packets -/

/-- Packets on their way, R155 to R157, R163, R164, R168, R171, R198, R339, R473, R474, R476, R477: custody at the first hop and at the
outbound hold (its die is logs 32 and 103), gateways, the routes to a package, the protection of flits (their layout is log 95), the
acknowledgement of a packet to the hop before it, resends after CTO on the valid routes in turn and their end, the target's judgement, and what
each answer does to the issuing group. What other packages send are events (logs 2, 26, 40 and 52), and the flits of messages that are no
packets are free (log 110). -/
def Obligations.PacketSteps : Prop :=
  (∀ (s : State) (id : Nat) (f : Flight), s.flight? id = some f → f.inbound = false → f.at_ = .source →
    let p := s.leaving f
    (f.p.dom ≠ .co ∨ f.op = none → p = f.p) ∧
    (s.mayDepart p = false → exec (.firstHopCustody id) s = .next s) ∧
    (f.p.pkg = s.sys.pkg → s.mayDepart p = true → f.cmd = none → exec (.firstHopCustody id) s = .next { s with
      flights := flightsWith s.flights id fun x => { x with
        p := p, at_ := .target } }) ∧
    (f.p.pkg ≠ s.sys.pkg → s.mayDepart p = true → f.p.irrev = false → f.cmd = none →
      ∃ t, exec (.firstHopCustody id) s = .next t ∧ ({ t with
          flights := s.flights, l1s := s.l1s } : State) = s ∧
        t.flights = flightsWith s.flights id fun x => { x with
          p := { p with tags := s.tagsOf p }, at_ := .gateway f.p.gate }) ∧
    (∀ d, f.p.pkg ≠ s.sys.pkg → s.mayDepart p = true → f.p.irrev = true → (s.ctx f.p.srcCtx.toNat).domain = some d →
      s.holdUsed (s.packetDie f.p) + packetHold f.p < 3 * 2 ^ 20 →
      ∃ t, exec (.firstHopCustody id) s = .next t ∧ t.mem = s.mem ∧
        t.holds = s.holds ++ [{ die := s.packetDie f.p, dom := d, leg := f.p.leg, core := f.p.issuer.core, what := .inr id
                                size := packetHold f.p }] ∧
        t.flights = flightsWith s.flights id fun x => { x with
          p := { p with tags := s.tagsOf p }, irrevHeld := true, at_ := .gateway (s.packetDie f.p) })) ∧
  (∀ (s : State) (pkg : Nat) (transit : Bool), let r := (KMap.get (0 : Route) s.routes pkg).toNat
    (s.liveRoutes pkg transit).Pairwise (fun x y => x.1 < y.1) ∧
    ∀ k h, (k, h) ∈ s.liveRoutes pkg transit ↔ (k = 0 ∧ h = r % 2 ^ 32 ∨ k = 1 ∧ h = r / 2 ^ 32 % 2 ^ 32) ∧ h.testBit 31 = true ∧
      (s.port (h % 16)).state = .up ∧ (transit = true → h.testBit 30 = false)) ∧
  (∀ h, routePort h = h % 16 ∧ routeVia h = if h.testBit 30 then some (BitVec.ofNat 12 (h / 16 % 4096)) else none) ∧
  (∀ (s : State) (q : Nat) (xs : List (List Byte × List Byte)),
    (s.sys.encreq = false → s.protectAll q xs = []) ∧
    (∀ k, s.sys.encreq = true → (s.port q).tx.cur = some k →
      (s.protectAll q xs).length = xs.length ∧
      ∀ i x, xs[i]? = some x → ∃ y, (s.protectAll q xs)[i]? = some y ∧ y.key = k.idx ∧ y.header = x.1 ∧
        y.iv.toNat / 2 ^ 48 = ((s.port q).tx.ctr + i) % 2 ^ 48 ∧ y.iv.toNat / 2 ^ 36 % 2 ^ 12 = s.sys.pkg.toNat ∧
        y.iv.toNat / 2 ^ 32 % 16 = q % 16 ∧ y.iv.toNat % 2 ^ 32 = 0 ∧ (y.text, y.tag) = Config.aesGcm k.bits y.iv x.1 x.2)) ∧
  (∀ (s : State) (m : FabMsg),
    (∀ q p, m = .hopAck q p → FlitRoom s q (Config.msgFlits s.freeCtr).length → FlitsSent q none s (s.sendFlits m)) ∧
    (∀ pkg, s.sentTo m = [pkg] → pkg ≠ s.sys.pkg → (∀ q p, m ≠ .hopAck q p) →
      (∀ h, s.routeInUse pkg.toNat = some h → FlitRoom s (routePort h) (Config.msgFlits s.freeCtr).length →
        FlitsSent (routePort h) (routeVia h) s (s.sendFlits m)) ∧
      (s.routeInUse pkg.toNat = none → s.sendFlits m = s))) ∧
  (∀ (s : State) (q : Nat), (s.port q).state = .up ∨ (s.port q).state = .held →
    s.sys.encreq = false ∨ (s.port q).rx.ctr + (Config.msgFlits s.freeCtr).length < 2 ^ 47 ∨ (s.port q).rx.next ≠ none →
    (s.hearOn q).freeCtr = s.freeCtr + 1 ∧ (s.hearOn q).port q = { s.port q with rx := { (s.port q).rx with
      ctr := (s.port q).rx.ctr + if s.sys.encreq then (Config.msgFlits s.freeCtr).length else 0 } }) ∧
  (∀ (s : State) (id b : Nat) (f : Flight), s.flight? id = some f → f.at_ = .gateway b → f.irrevHeld = false → f.answer = none →
    s.behind f = false →
    (∀ r, (s.liveRoutes f.p.pkg.toNat f.inbound).head? = some r → let q := routePort r.2
      (HasRoom s q f.p → ∃ t, exec (.packetHop (.own id)) s = .next t ∧ SentOn id r f.p 0 s t) ∧
      (s.sys.encreq = true → (s.port q).tx.next = none → 2 ^ 48 - 2 < (s.port q).tx.ctr + (Config.flits f.p).length →
        ∃ t, exec (.packetHop (.own id)) s = .next t ∧ Starved id r s t)) ∧
    (f.inbound = false → s.liveRoutes f.p.pkg.toNat false = [] → ∃ t, exec (.packetHop (.own id)) s = .next t ∧ Lost id f s t) ∧
    (f.inbound = false → ∃ t, exec (.linkFailure id) s = .next t ∧ Lost id f s t)) ∧
  (∀ (s : State) (p : Packet) (port : Nat), s.sys.fabcfg = true → port < 16 → (s.port port).state = .up ∨ (s.port port).state = .held →
    p.pkg = s.sys.pkg →
    s.sys.encreq = false ∨ (s.port port).rx.ctr + (Config.flits p).length < 2 ^ 47 ∨ (s.port port).rx.next ≠ none →
    ∃ u, Received port p s u ∧
      (s.seqRepeats (port / 2) p = true → exec (.packetHop (.inbound p port)) s = .next { u with
        out := s.out ++ [FabMsg.hopAck port p] }) ∧
      (s.seqRepeats (port / 2) p = false → s.dropsLeg p = true → exec (.packetHop (.inbound p port)) s = .next { u with
        delivered := s.delivered ++ [(p.srcPkg, p.srcId)] }) ∧
      (s.seqRepeats (port / 2) p = false → s.dropsLeg p = false → ∃ t, exec (.packetHop (.inbound p port)) s = .next t ∧
        ({ t with
          flights := u.flights, nextId := u.nextId, accepted := u.accepted, out := u.out } : State) = u ∧
        t.out = s.out ++ [FabMsg.hopAck port p] ∧ t.seqRepeats (port / 2) p = true ∧
        (∀ g q, g ≠ port / 2 ∨ q.srcPkg ≠ p.srcPkg ∨ q.gate ≠ p.gate → t.seqRepeats g q = s.seqRepeats g q) ∧
        t.flights = s.flights ++ [{ p := { p with id := s.nextId }, at_ := .target, inbound := true, who := farAgent p }])) ∧
  (∀ (s : State) (id b port : Nat) (f : Flight), s.flight? id = some f → f.at_ = .link b port → f.inbound = false →
    let live := s.liveRoutes f.p.pkg.toNat false
    let other := live.find? fun r => r.1 != f.route
    let away := live.find? fun r => routePort r.2 != port
    (s.time < f.sentAt + usec s.sys.cto → exec (.custodyTimeout id) s = .next s) ∧
    (f.sentAt + usec s.sys.cto ≤ s.time →
      (∀ r, f.resends < s.sys.retry → (other = some r ∨ other = none ∧ live.head? = some r) → HasRoom s (routePort r.2) f.p →
        ∃ t, exec (.custodyTimeout id) s = .next t ∧ SentOn id r f.p 1 s t) ∧
      (s.sys.retry ≤ f.resends ∨ live = [] → ∃ t, exec (.custodyTimeout id) s = .next t ∧ Lost id f s t)) ∧
    (∀ r, away = some r → HasRoom s (routePort r.2) f.p → ∃ t, exec (.linkFailure id) s = .next t ∧ SentOn id r f.p 0 s t) ∧
    (away = none → ∃ t, exec (.linkFailure id) s = .next t ∧ Lost id f s t) ∧
    exec (.packetHop (.own id)) s = .next { s with
      flights := flightsWith s.flights id fun x => { x with at_ := .away } }) ∧
  (∀ (s : State) (id : Nat) (f : Flight), AtDoor s id f →
    (∀ c k b a b', isReserve f.p.op = false → s.coreEnd f.p = .ok (.block c k b) → b.arriveAt f.p = .ok (a, b') →
      ∃ t, exec (.packetArrival id) s = .next t ∧ Judged s id a (some (c, k, b')) t) ∧
    (∀ e, isReserve f.p.op = false → s.coreEnd f.p = .error e ∨ (∃ c k b, s.coreEnd f.p = .ok (.block c k b) ∧ b.arriveAt f.p = .error e) →
      ∃ t, exec (.packetArrival id) s = .next t ∧ Judged s id (.neg { sub := BitVec.ofNat 4 e }) none t) ∧
    (∀ n c k b x b', f.p.op = .reserve n → s.coreEnd f.p = .ok (.block c k b) → b.slotrsv n = some (x, b') →
      ∃ t, exec (.slotrsvRequest id) s = .next t ∧ Judged s id (.data (.word x)) (some (c, k, b')) t)) ∧
  (∀ (b : Block) (p : Packet), b.serai = none → p.bar = none →
    (∀ rs, p.op = .store rs → (∀ r ∈ rs, r.1 + r.2.length ≤ b.locSize) → b.arriveAt p = .ok (.ack, { b with
      mem := rs.foldl (fun m r => Memory.writeMasked m r.1 r.2) b.mem })) ∧
    (∀ os n, p.op = .load os n → (∀ o ∈ os, o + n ≤ b.locSize) →
      b.arriveAt p = .ok (.data (.values (os.map fun o => dw (leNat (Memory.readN b.mem o n)))), b)) ∧
    (∀ rs r, p.op = .store rs → r ∈ rs → b.locSize < r.1 + r.2.length → b.arriveAt p = .error 3)) ∧
  (∀ (s : State) (id core slot : Nat) (r r' : Reply) (f : Flight) (b : Block) (o : RemOp) (m : LaneMask) (vs : List Dword),
    s.flight? id = some f → Asked s f core slot b o m → f.answer = some (.data r') → replyValues f.p.op r' = some vs → s.holds = [] →
    let g := b.group f.p.issuer.grp
    (∀ d x l, o.dest = .s d → vs = x :: l → ∃ t g', exec (.remoteReply id r) s = .next t ∧ Answered s f core slot b g' t ∧
      Group.reordered { g with
        s := KMap.put g.s d.toNat (x.setWidth 32), ops := [], results := g.results.filter fun y => y.id != o.result } g') ∧
    (∀ d wb ty latch, o.dest = .v d wb ty latch → wb.nowb = false → vs.length = (lanesOf m).length →
      ∃ t g', exec (.remoteReply id r) s = .next t ∧ Answered s f core slot b g' t ∧ g'.ops = [] ∧ g'.s = g.s ∧
        g'.results = (g.results.filter fun y => y.id != o.result) ∧
        (∀ x ∈ (lanesOf m).zip vs, g'.holds x.1 d (wide ty) (extended ty (leBytes (Machine.sizeOf ty) x.2.toNat))) ∧
        (∀ l, (g'.thread l).preds = (g.thread l).preds) ∧
        ∀ l n, l < 32 → m.getLsbD l = false ∨ ¬ named d (wide ty) n → g'.vreg l n = g.vreg l n)) ∧
  (∀ (s : State) (id core slot : Nat) (f : Flight) (b : Block) (o : RemOp) (m : LaneMask), s.flight? id = some f →
    Asked s f core slot b o m →
    let g := b.group f.p.issuer.grp
    (f.answer = some .ack → o.dest = .nothing →
      ∃ t g', exec (.custodyAck id) s = .next t ∧ Answered s f core slot b g' t ∧ Group.reordered { g with ops := [] } g') ∧
    (∀ k j, f.answer = some (.neg k) → o.dest ≠ .nothing ∨ o.dom ≠ .ub ∨ k.irrev = true →
      ∃ t g', exec (.negativeReply id j) s = .next t ∧ Answered s f core slot b g' t ∧ g'.v = g.v ∧ g'.s = g.s ∧
        ∃ n, g'.negs = [n] ∧ n.sub = k.sub ∧ n.irrev = k.irrev ∧ n.threads = o.threads ∧ n.refused = m ∧ n.issue = o.issue ∧ n.op = o.id) ∧
    (∀ k j, f.answer = some (.neg k) → o.dest = .nothing → o.dom = .ub → k.irrev = false → (s.ctx f.p.srcCtx.toNat).state = .live →
      ∃ t, exec (.negativeReply id j) s = .next t ∧ (t.ctx f.p.srcCtx.toNat).state = .ending ∧
        (t.ctx f.p.srcCtx.toNat).cause = 12 ∧ (t.ctx f.p.srcCtx.toNat).fault.pc = f.issue.pc ∧
        (m ≠ 0 → (t.ctx f.p.srcCtx.toNat).fault.lane = BitVec.ofNat 5 (lowest m)))) ∧
  (∀ (s : State) (core c k off : Nat) (slot : BitVec 5) (gen : Word) (b : Block),
    s.slotEnd core slot.toNat gen = .ok (.block c k b) → b.serai = none → off % 8 = 0 → off + 8 ≤ b.locSize →
    s.block c k = some b →
    ∃ t, exec (.errorNoticeArrival core slot gen off) s = .next t ∧ BlockAt c k (b.faultWord off) s t)

/-! ## Ports, routes and keys -/

/-- Events of a port, R475 to R477, R480: FLIT_ERROR drops a flit, and retires the port, held or not, at the seventeenth within 1 ms;
PEER_LOST retires it; PORT_TRAIN brings it up, its counters going on where there is no next key; KEYLOW and KEY_EXHAUSTED, in either
direction, set KEYLOW and hold it; KEY_STARVE_TIMEOUT retires it; KEY_SWITCH takes the next key into use. A port that is retired holds no
packet any more and posts its RAS record, and one that comes up, is low or is held posts one as well (R497). FABCFG, ROUTESET, KEYINST,
LINKSTAT, LINKCTL 0 and LINKCTL 1, R472, R473, R477 to R480, and a code that no command has, R429: each acts while its code runs, and
completes with RESULT 0, or with RESULT 2 or 1 and no other effect. Training, the two directions of a key and the checks of a route word are
as logs 38, 39 and 42 say. -/
def Obligations.PortsAndFabric : Prop :=
  (∀ (s : State) (p : Nat), p < 16 →
    let y := s.port p
    (y.state = .up ∨ y.state = .held →
      let drops := s.time :: y.drops.filter fun t => decide (s.time < t + usec 1000)
      (drops.length ≤ 16 → ∃ t, exec (.flitError p) s = .next t ∧ t.port p = { y with drops := drops } ∧
        ({ t with
          ports := s.ports, freeCtr := s.freeCtr, sys := { t.sys with counters := s.sys.counters } } : State) = s) ∧
      (16 < drops.length → ∃ t, exec (.flitError p) s = .next t ∧ Retires p 2 { y with drops := drops } t)) ∧
    (y.state = .up ∨ y.state = .held → ∃ t, exec (.peerLost p) s = .next t ∧ Retires p 4 y t) ∧
    (y.state = .down → s.sys.fabcfg = true → (s.sys.encreq = true → y.tx.keyed = true ∧ y.rx.keyed = true) →
      exec (.portTrain p) s = .next ((s.setPort p { y with
        state := .up, rcause := 0, keylow := false
        tx := match y.tx.next with | some k => { cur := some k, next := none, ctr := 0 } | none => y.tx
        rx := match y.rx.next with | some k => { cur := some k, next := none, ctr := 0 } | none => y.rx
        }).postRas (linkRas 11 0 p 0))) ∧
    (∀ d, y.state = .up → s.sys.encreq = true → (y.dir d).next = none →
      (y.keylow = false → exec (.keylow p d) s = .next ((s.setPort p { y.setDir d { y.dir d with
        ctr := max (y.dir d).ctr (2 ^ 47) } with keylow := true }).postRas (linkRas 9 0 p 0))) ∧
      exec (.keyExhausted p d) s = .next ((s.setPort p { y.setDir d { y.dir d with
        ctr := 2 ^ 48 - 2 } with state := .held, heldAt := s.time }).postRas (linkRas 10 1 p 0))) ∧
    (y.state = .held → y.heldAt + usec (1000 * s.sys.ksto) ≤ s.time → ∀ d, ∃ t, exec (.keyStarveTimeout p d) s = .next t ∧
      Retires p 1 y t) ∧
    (∀ k, y.state = .up → y.tx.next = some k → exec (.keySwitch p 0) s = .next (s.setPort p { y with
      tx := { cur := some k, next := none, ctr := 0 }, keylow := false })) ∧
    (∀ k, y.state = .up → y.rx.next = some k → exec (.keySwitch p 1) s = .next (s.setPort p { y with
      rx := { cur := some k, next := none, ctr := 0 } }))) ∧
  (∀ s : State,
    (s.running 13 = true →
      (s.sys.fabcfg = true ∨ 1000 < s.arg 1 ∨ 8 < s.arg 2 ∨ 1000 < s.arg 3 → exec .fabcfg s = .next (s.done 2)) ∧
      (s.sys.fabcfg = false → s.arg 1 ≤ 1000 → s.arg 2 ≤ 8 → s.arg 3 ≤ 1000 → exec .fabcfg s = .next (({ s with
        sys := { s.sys with
          fabcfg := true, pkg := BitVec.ofNat 12 (s.arg 0), encreq := (s.arg 0).testBit 12
          cto := if s.arg 1 = 0 then 20 else s.arg 1
          retry := if s.arg 2 = 0 then 4 else s.arg 2
          ksto := if s.arg 3 = 0 then 10 else s.arg 3 } } : State).done 0))) ∧
    (s.running 14 = true →
      (4096 ≤ s.arg 0 ∨ s.arg 0 = s.sys.pkg.toNat ∨ field (s.arg 1) 16 14 ≠ 0 ∨ field (s.arg 1) 48 14 ≠ 0 ∨
        ((s.arg 1).testBit 30 = false ∧ field (s.arg 1) 4 12 ≠ 0) ∨ ((s.arg 1).testBit 62 = false ∧ field (s.arg 1) 36 12 ≠ 0) →
        exec .routeset s = .next (s.done 2)) ∧
      (s.arg 0 < 4096 → s.arg 0 ≠ s.sys.pkg.toNat → field (s.arg 1) 16 14 = 0 → field (s.arg 1) 48 14 = 0 →
        ((s.arg 1).testBit 30 = false → field (s.arg 1) 4 12 = 0) → ((s.arg 1).testBit 62 = false → field (s.arg 1) 36 12 = 0) →
        exec .routeset s = .next (({ s with
          routes := KMap.put s.routes (s.arg 0) (dw (s.arg 1)) } : State).done 0))) ∧
    (s.running 15 = true → ∀ p d, p = s.arg 0 % 16 → d = s.arg 0 / 16 % 2 →
      let y := s.port p
      let x := y.dir d
      let k : Key := { idx := BitVec.ofNat 8 (s.arg 0 / 256)
                       bits := BitVec.ofNat 256 (s.arg 1 + 2 ^ 64 * s.arg 2 + 2 ^ 128 * s.arg 3 + 2 ^ 192 * s.arg 4) }
      (x.next.isSome ∨ (x.cur.map fun c => c.idx) = some k.idx → exec .keyinst s = .next (s.done 2)) ∧
      (x.next = none → (x.cur.map fun c => c.idx) ≠ some k.idx →
        (y.state ≠ .held ∨ x.ctr ≠ 2 ^ 48 - 2 → exec .keyinst s = .next ((s.setPort p (y.setDir d { x with next := some k })).done 0)) ∧
        (y.state = .held → x.ctr = 2 ^ 48 - 2 → exec .keyinst s = .next ((s.setPort p { y.setDir d
          { cur := some k, next := none, ctr := 0 } with state := .up, keylow := false }).done 0)))) ∧
    (s.running 16 = true → 16 ≤ s.arg 0 → exec .linkstat s = .next (s.done 2)) ∧
    (s.running 16 = true → s.arg 0 < 16 → ∃ t, exec .linkstat s = .next t ∧
      let y := s.port (s.arg 0)
      let x := (listGet 0 t.sys.args 0).toNat
      t = ({ s with
        sys := { s.sys with args := listSet s.sys.args 0 (dw x) } } : State).done 0 ∧
      (0 < s.sys.args.length → x / 2 ^ 61 = (match y.state with | .down => 0 | .up => 1 | .held => 2 | .retired => 3) ∧
        x / 2 ^ 58 % 8 = y.rcause.toNat ∧ x.testBit 57 = y.tx.next.isSome ∧ x.testBit 56 = y.keylow ∧
        x / 2 ^ 48 % 256 = ((y.tx.cur.map fun k => k.idx.toNat).getD 0) ∧ x % 2 ^ 48 = y.tx.ctr % 2 ^ 48)) ∧
    (s.running 17 = true → 16 ≤ s.arg 0 ∨ 1 < s.arg 1 → exec (if s.arg 1 = 1 then .linkctlUp else .linkctlRetire) s = .next (s.done 2)) ∧
    (s.running 17 = true → s.arg 0 < 16 →
      let y := s.port (s.arg 0)
      (s.arg 1 = 0 → y.state ≠ .retired → ∃ t, exec .linkctlRetire s = .next (t.done 0) ∧ Retires (s.arg 0) 3 y t) ∧
      (s.arg 1 = 1 → s.sys.encreq = true → y.tx.keyed = false ∨ y.rx.keyed = false → exec .linkctlUp s = .next (s.done 2)) ∧
      (s.arg 1 = 1 → y.state = .retired → (s.sys.encreq = true → y.tx.keyed = true ∧ y.rx.keyed = true) →
        exec .linkctlUp s = .next ((s.setPort (s.arg 0) { y with
          state := .down, drops := [] }).done 0))) ∧
    (∀ c : Word, s.running c.toNat = true → c = 0 ∨ 24 < c.toNat → exec (.mailboxUnknownCode c) s = .next (s.done 1)))

/-! ## Distributors -/

/-- The distributors, R19 to R23, R240, R365, R436, R439, R442, R443, R449, R454, R467, R470: an itinerary is taken from its ring and
admitted, rejected or completed; the head of the pool starts in a free slot of the core that accepts it, from its header as it stands then;
an idle distributor steals the upper half of the largest range that it can use; groups and block-tasks whose work is done give their places
back; the watchdog ends a context; an ended context is gone. RELEASE lets a held node 0 begin. The order of reasons, an unreadable ring
entry, the slot, the die and the age of a node, the second reading of a kernel and the priority of an unreadable header are as logs 28, 29,
34, 35, 36, 73 and 74 say. -/
def Obligations.DistributorSteps : Prop :=
  (∀ (s : State) (c q addr : Nat), c < 64 → q < 16 →
    let y := KMap.get {} (s.ctx c).queues q
    let s1 := s.modCtx c fun x => { x with queues := KMap.put x.queues q { y with head := y.head + 1 } }
    (s.ctx c).state ≠ .free → s.nextQueue c q = true →
    (s.ringEntry c y = none → exec (.itineraryAdmit c q) s = .next (s.stopQueue c q)) ∧
    (s.ringEntry c y = some addr →
      (∀ t, (s.ctx c).state = .live ∨ (s.ctx c).state = .stopped → s1.tryAdmit c q addr = .ok t → exec (.itineraryAdmit c q) s = .next { s1 with
        itins := s.itins ++ [t], nextId := s.nextId + 1 }) ∧
      (∀ node reason r, (s.ctx c).state = .live ∨ (s.ctx c).state = .stopped → s1.tryAdmit c q addr = .error (node, reason) →
        s1.crecOf c addr = some r →
        exec (.itineraryAdmit c q) s = .next (s1.post c (.completion r addr (dw s.clock) node reason 2))) ∧
      (∀ r, (s.ctx c).state = .ending ∨ (s.ctx c).state = .ended → s1.crecOf c addr = some r →
        exec (.itineraryAdmit c q) s = .next (s1.post c (.completion r addr (dw s.clock) 0 (s.ctx c).cause.toNat 3))))) ∧
  (∀ (s : State) (die core slot : Nat) (x : Cand) (n : Node) (parts : List Nat) (a : Dword),
    firstBy Cand.rank (s.pool die) = some x → (∀ y ∈ s.savedPool die, y.rank.before x.rank = false) →
    (x.t.nodes[x.k.node]?).map (s.nodeNow x.t.ctx) = some n → s.bestCore die x.t.cores n.kern n.allots = some (core, parts) →
    s.freeSlot core = some slot →
    x.t.hold = false → s.segEntry core x.t.ctx n.kern 0 = some a →
    ∃ t b, exec (.blockPlace die) s = .next t ∧ Taken core slot b s t ∧
      b.ctx = x.t.ctx ∧ b.task = x.k ∧ b.gen = s.slotGen core slot + 1 ∧ b.held = false ∧
      (b.bx, b.by_, b.bz) = (x.k.lin % n.gx, x.k.lin / n.gx % n.gy, x.k.lin / (n.gx * n.gy)) ∧
      b.acc = [] ∧ b.tiles = [] ∧ b.tags = [] ∧ (n.kern.serai = none → b.mem = []) ∧
      b.groups.length = parts.length ∧ (∀ g p, parts[g]? = some p → Started n g p a (b.group g)) ∧
      t.itins = s.itins.map fun y => if y.id = x.t.id then { y with placed := y.placed ++ [x.k] } else y) ∧
  (∀ (s : State) (thief victim : Nat) (t : Itin) (ks : List Task), thief ≠ victim → thief < 32 → s.pool thief = [] →
    s.savedPool thief = [] → (∀ d, d < 32 → d ≠ thief → s.rangeLen thief d ≤ s.rangeLen thief victim) →
    s.largest thief victim = some (t, ks) → ks ≠ [] →
    ∃ up : List Task, up.length = max 1 (ks.length / 2) ∧ (∀ k ∈ up, k ∈ ks ∧ ∀ j ∈ ks, j ∉ up → j.lin ≤ k.lin) ∧
      ∃ u, exec (.stealRequest thief victim) s = .next u ∧
        ({ u with
          itins := s.itins, sys := { u.sys with counters := s.sys.counters } } : State) = s ∧
        u.itins = s.itins.map fun y => if y.id = t.id then { y with
          stolen := up.map (fun k => (k, thief)) ++ y.stolen.filter fun x => !up.contains x.1 } else y) ∧
  (∀ (s : State) (core slot grp : Nat) (b : Block), s.block core slot = some b → (b.group grp).liveMask = 0 →
    (b.group grp).results = [] → (b.group grp).place = .resident → s.noneGather core →
    ∃ t, exec (.groupRelease core slot grp) s = .next t ∧
      BlockAt core slot (b.modGroup grp fun g => { g with place := .released }) s t) ∧
  (∀ (s : State) (core slot : Nat) (b : Block), s.block core slot = some b → s.noneGather core → (∀ h ∈ s.halts, h.saving = false) →
    ((s.ctx b.ctx).state = .live ∨ (s.ctx b.ctx).state = .stopped → s.blockDone core slot b = true →
      (b.lateFault = none → ∀ it, s.itins.find? (fun x => x.id == b.itin) = some it →
        let it' := { it with
          retired := it.retired ++ [(b.task, s.time)], placed := it.placed.filter fun x => x != b.task
          stolen := it.stolen.filter fun x => x.1 != b.task }
        ∃ t, exec (.blockTaskRetire core slot) s = .next t ∧ Emptied core slot s t ∧
          (it'.finished = false → t.itins.find? (fun x => x.id == b.itin) = some it') ∧
          (it'.finished = true → (s.ctx it.ctx).domain = none → ∀ x ∈ t.itins, x.id ≠ b.itin)) ∧
      (∀ r, b.lateFault = some r → ∃ t, exec (.blockTaskRetire core slot) s = .next t ∧ Emptied core slot s t ∧
        (t.ctx b.ctx).state = .ending ∧ (t.ctx b.ctx).fault = r ∧ r.iret = true)) ∧
    ((s.ctx b.ctx).state = .ending → s.blockIdle core slot b = true →
      ∃ t, exec (.blockTaskRetire core slot) s = .next t ∧ Emptied core slot s t ∧
        ({ t with
          cores := s.cores, marks := s.marks } : State) = s)) ∧
  (∀ (s : State) (core slot : Nat) (b : Block), s.block core slot = some b →
    let ms := (s.ctx b.ctx).wdog.toNat
    ms ≠ 0 → (s.ctx b.ctx).state = .live ∨ (s.ctx b.ctx).state = .stopped → b.since + usec (1000 * ms) < s.time →
    (∀ (g : Group) (ig : IGroup) (w : Who), b.firstRunning = some (g, ig) → s.whoOf core slot g.idx ig.id = some w →
      ∃ r t, exec (.watchdogExpiry core slot) s = .next t ∧ RecordAt w s w.live 15 (lowest w.live) r ∧ Traps w r 0 s t ∧
        (t.ctx b.ctx).state = .ending ∧ (t.ctx b.ctx).cause = 15) ∧
    (b.firstRunning = none → ∃ r t, exec (.watchdogExpiry core slot) s = .next t ∧ EndsCtx b.ctx 15 r s t ∧ r.cause = 15 ∧
      r.iret = true ∧ r.clock = s.coreClock core ∧ r.block = wd b.task.lin ∧ r.node = wd b.task.node)) ∧
  (∀ (s : State) (c : Nat), (s.ctx c).state = .ending → s.ctxIdle c = true →
    ∃ t, exec (.contextEnded c) s = .next t ∧ (t.ctx c).state = .ended ∧ (t.ctx c).cause = (s.ctx c).cause ∧
      (∀ d, d ≠ c → t.ctx d = s.ctx d) ∧ (∀ x ∈ t.itins, x.ctx ≠ c) ∧ (∀ x ∈ t.saved, x.ctx ≠ c) ∧ (∀ h ∈ t.halts, h.ctx ≠ c)) ∧
  (∀ (s : State) (it : Itin), s.running 9 = true →
    (s.itins.find? (fun t => t.addr == s.arg 0 && t.ctx == s.arg 1 && t.hold && !t.released && !t.launched) = none →
      exec .release s = .next (s.done 2)) ∧
    (s.itins.find? (fun t => t.addr == s.arg 0 && t.ctx == s.arg 1 && t.hold && !t.released && !t.launched) = some it →
      (it.allHeld = false → exec .release s = .next (s.done 2)) ∧
      (it.allHeld = true → ∃ t, exec .release s = .next t ∧ t.sys.busy = false ∧ t.sys.result = 0 ∧
        (t.itins = s.itins.map fun y => if y.id = it.id then { y with released := true } else y) ∧
        ∀ c k, t.block c k = (s.block c k).map fun b => if b.ctx = it.ctx ∧ b.itin = it.id then { b with held := false } else b)))

/-! ## Eviction and caravan halts -/

/-- Eviction, R43, R176, R193, R444 to R448: the victims of a decision, groups or where groups alone make no room whole blocks, are those of
the cheapest plan, have lower priority and images that fit, and are asked to stop, and a context whose area holds none is told and left
alone; a group that reaches no segment end stops by region restart; a stopped group or block leaves with its image; a whole block returns to
a free slot under a new generation, and its absent endpoint becomes an alias, or after a rollback to its own slot with its own generation. A
caravan halt holds every member, resident or saved, one chunk past the largest declaration of all packages, evicts the members once all are
held, posts HALTED once none is resident, and UNHALT lets them go. Free values, the return to the own slot, the slot, the age of a node, the
image's layout, its writes and what they are checked against, when a multiply stops, and what a member counts for that has declared nothing
or has retired are as logs 3, 19, 34, 36, 37, 53, 67, 99 and 102 say. -/
def Obligations.EvictionSteps : Prop :=
  (∀ (s : State) (die : Nat) (x : Want) (full : List Nat), s.want die = some x → s.bestPlan x 64 [] = (full, none) →
    exec (.evictionDecision die) s = .next (full.foldl (fun s c => s.postEvent c 8 0 0) s)) ∧
  (∀ (s : State) (die core : Nat) (x : Want) (full : List Nat) (p : Plan), s.want die = some x →
    s.bestPlan x 64 [] = (full, some (core, p)) →
    let s' := full.foldl (fun s c => s.postEvent c 8 0 0) s
    (∀ c ∈ x.cores, ∀ q, s.plan full c x = some q → p.cost ≤ q.cost) ∧
    ∃ t, exec (.evictionDecision die) s = .next t ∧ ({ t with cores := s'.cores } : State) = s' ∧
      (∀ l, p = .groups l →
        (∀ v ∈ l, v.b.prio < x.eff ∧ v.b.ctx ∉ full ∧ s.canSave v.b false [v.g.idx] = true) ∧
        ∀ c k b, s'.block c k = some b → ∃ b', t.block c k = some b' ∧ { b' with groups := b.groups } = b ∧
          b'.groups.length = b.groups.length ∧ ∀ g, g < b.groups.length →
            let taken := c = core ∧ (∃ v ∈ l, v.slot = k ∧ v.g.idx = g) ∧ (b.group g).place = .resident
            (taken → b'.group g = { b.group g with place := .stopping s'.time }) ∧ (¬ taken → b'.group g = b.group g)) ∧
      (∀ l, p = .blocks l → s.groupPlan full core x = none ∧
        (∀ v ∈ l, v ∈ (s.core core).slots ∧ v.2.prio < x.eff ∧ v.2.ctx ∉ full ∧
          s.canSave v.2 true (v.2.groups.map fun g => g.idx) = true) ∧
        ∀ c k b, s'.block c k = some b →
          let taken := c = core ∧ ∃ v ∈ l, v.1 = k
          (taken → t.block c k = some { b with
            leaving := true
            groups := b.groups.map fun g => if g.place = .resident ∧ g.liveMask ≠ 0 then { g with place := .stopping s'.time } else g }) ∧
          (¬ taken → t.block c k = some b))) ∧
  (∀ (s : State) (core slot grp since : Nat) (b : Block), s.block core slot = some b →
    let g := b.group grp
    g.place = .stopping since → since + usec 2 ≤ s.time → g.trap = none → (∀ o ∈ g.ops, o.custody = false) →
    (∀ x ∈ g.igs, x.stands = false) →
    ∃ t b', exec (.evictionStopTimeout core slot grp) s = .next t ∧ Taken core slot b' s t ∧
      { b' with groups := b.groups, barrier := b.barrier } = b ∧
      b'.barrier = (b.barrier.filter fun a => a.thread / 32 != grp) ∧ (∀ h, h ≠ grp → b'.group h = b.group h) ∧
      (b'.group grp).v = g.v ∧ (b'.group grp).s = g.s ∧ (b'.group grp).mode = g.mode ∧ (b'.group grp).place = g.place ∧
      (b'.group grp).results = [] ∧
      ∀ l, g.liveMask.getLsbD l = true → ∃ x ∈ (b'.group grp).igs, x.mask.getLsbD l = true ∧ x.pc = (g.thread l).region + 8 ∧
        x.wait = .none) ∧
  (∀ (s : State) (core slot : Nat) (b : Block), s.block core slot = some b →
    (∀ grp a, (b.group grp).stopped = true → b.leaving = false → s.noneGather core → s.imageAt b.ctx (b.imageSize false [grp]) = some a →
      ∃ t b' x, exec (.blockSave ⟨core, slot, some grp⟩) s = .next t ∧ Taken core slot b' s t ∧
        (b'.group grp).place = .evicted a ∧ (b'.group grp).v = (b.group grp).v ∧ (b'.group grp).s = (b.group grp).s ∧
        t.mem = (s.vWriteLogged b.ctx a (b.image core slot false [grp])).mem ∧
        t.saved = s.saved ++ [x] ∧ x.core = core ∧ x.slot = slot ∧ x.gen = b.gen ∧ x.ctx = b.ctx ∧ x.image = a ∧
        x.whole = false ∧ x.groups = [grp]) ∧
    (∀ a, b.leaving = true → b.quiet = true → b.cmdsStopped = true → s.pendingStores core = [] → s.noneGather core →
      (∀ h ∈ s.halts, h.saving = false) →
      s.imageAt b.ctx (b.imageSize true (b.groups.map fun g => g.idx)) = some a → (s.core core).absent.length < 64 →
      ∃ t, exec (.blockSave ⟨core, slot, none⟩) s = .next t ∧ Emptied core slot s t ∧
        t.mem = ((s.settleLoc core slot).vWriteLogged b.ctx a (b.image core slot true (b.groups.map fun g => g.idx))).mem ∧
        (∃ e ∈ (t.core core).absent, e = { slot := slot, gen := b.gen, ctx := b.ctx, image := a, state := .absent }) ∧
        ∃ x ∈ t.saved, x.core = core ∧ x.slot = slot ∧ x.gen = b.gen ∧ x.ctx = b.ctx ∧ x.image = a ∧ x.whole = true)) ∧
  (∀ (s : State) (k slot : Nat) (x : Saved) (parts : List Nat), s.saved[k]? = some x → x.whole = true → s.deviceWaits x.ctx = false →
    x ∈ s.savedPool (s.sys.dieOfCore x.core) →
    (∀ y ∈ s.savedPool (s.sys.dieOfCore x.core), y.rank.before x.rank = false) →
    (∀ y ∈ s.pool (s.sys.dieOfCore x.core), y.rank.before x.rank = false) →
    s.accept x.core x.blk.nodeRec.kern x.allots = some parts →
    (if x.fixed then slot = x.slot ∧ s.block x.core slot = none else s.freeSlot x.core = some slot) →
    ∃ t b, exec (.blockRestore k x.core) s = .next t ∧ Taken x.core slot b s t ∧ x ∉ t.saved ∧
      b.gen = (if x.fixed then x.blk.gen else s.slotGen x.core slot + 1) ∧ (x.fixed = false → b.leaving = false) ∧ b.task = x.blk.task ∧
      b.acc = x.blk.acc ∧ b.tiles = x.blk.tiles ∧
      b.mem = (s.imageBlock x).mem ∧ b.since = x.blk.since + (s.time - x.at_) ∧
      (∀ g, (b.group g).v = (x.blk.group g).v ∧ (b.group g).s = (x.blk.group g).s ∧ (b.group g).mode = (x.blk.group g).mode) ∧
      (x.fixed = false → ∀ e ∈ (s.core x.core).absent, e.ctx = x.ctx → e.image = x.image → e.state = .absent →
        { e with state := .moved slot } ∈ (t.core x.core).absent)) ∧
  (∀ (s : State) (c : Nat) (ms : List Dword), (s.ctx c).state ≠ .free → s.sealPending c = false → (∀ h ∈ s.halts, h.ctx ≠ c) →
    s.sys.pkg ∈ packagesOf ms →
    let own := wd (s.maxChunk c ms)
    let highest := fun (rs : List (BitVec 12 × Word)) => wd (((s.sys.pkg, own) :: rs).foldl (fun m r => max m r.2.toNat) 0 + 1)
    let starts := fun (x : Option Word) (t : State) =>
      (∀ k j, t.block k j = (s.block k j).map fun b => if b.ctx = c ∧ s.onList ms k j b = true then { b with halt := x } else b) ∧
      t.saved = (s.saved.map fun y => if y.whole then { y with
          blk := if y.blk.ctx = c ∧ s.onList ms y.core y.slot y.blk = true then { y.blk with halt := x } else y.blk } else y) ∧
      (∃ h ∈ t.halts, h.ctx = c ∧ h.members = ms ∧ h.chunk = x ∧ h.waiting = false ∧ h.complete = false) ∧
      FabMsg.chunkReport c ((s.memberBlocks c ms).map fun y => y.2.2.chunk.getD 0) ∈ t.out
    (∀ rs : List (BitVec 12 × Word), (rs.map (·.1)).Nodup → (∀ r ∈ rs, r.1 ∈ s.otherPackages ms) →
      ((∀ p ∈ s.otherPackages ms, p ∈ rs.map (·.1)) →
        ∃ t, exec (.caravanHaltPause c ⟨ms, rs, false⟩) s = .next t ∧ starts (some (highest rs)) t) ∧
      ((∃ p ∈ s.otherPackages ms, p ∉ rs.map (·.1)) →
        ∃ t, exec (.caravanHaltPause c ⟨ms, rs, false⟩) s = .next t ∧ starts none t)) ∧
    (s.running 5 = true → c = s.arg 0 → c < 64 → 1 ≤ s.arg 2 → s.arg 2 ≤ 64 → ms = s.memberList (s.arg 1) (s.arg 2) →
      ∃ t, exec .halt s = .next t ∧ t.sys.busy = false ∧ t.sys.result = 0 ∧
        starts (if s.otherPackages ms = [] then some (highest []) else none) t ∧
        ∀ p ∈ s.otherPackages ms, FabMsg.pause c p ms ∈ t.out)) ∧
  (∀ (s : State) (c : Nat) (h : Halt) (ms : List Dword) (ps : List (BitVec 12)),
    s.halts.find? (fun x => x.is c ms && x.chunk.isSome && (!x.complete || x.saving)) = some h →
    (∀ x ∈ s.memberBlocks c ms, x.2.2.haltHeld = true) → (∀ p ∈ s.otherPackages ms, p ∈ ps) →
    let resident := ∃ k ∈ s.cores, ∃ y ∈ k.2.slots, y.2.ctx = c ∧ s.onList ms k.1 y.1 y.2 = true
    (∃ t, exec (.caravanHaltComplete ⟨c, ms, ps⟩) s = .next t ∧
      (t.halts.map fun x => (x.ctx, x.members, x.chunk, x.complete)) =
        (s.halts.map fun x => (x.ctx, x.members, x.chunk, x.complete || x.is c ms)) ∧
      (∀ k j b, s.block k j = some b → b.ctx = c → s.onList ms k j b = true → ∃ b', t.block k j = some b' ∧ b'.leaving = true) ∧
      (resident → ∀ x ∈ t.halts, x.is c ms = true → x.saving = true)) ∧
    (¬ resident → s.halts = [h] → s.otherPackages ms = [] →
      exec (.caravanHaltComplete ⟨c, ms, ps⟩) s = .next (({ s with
        halts := [{ h with
          complete := true, saving := false }] } : State).postEvent c 2 0 0))) ∧
  (∀ (s : State) (c : Nat) (ms : List Dword) (h : Halt),
    let ns := s.namesOf c ms
    let freed := fun (t : State) => t.halts = (s.halts.filter fun x => x.ctx != c) ∧
      ∀ x ∈ s.saved, x.whole = true → x.blk.ctx = c → s.onList h.members x.core x.slot x.blk = true →
        ∃ y ∈ t.saved, { y with blk := x.blk } = x ∧ y.blk.halt = none ∧ ∀ g ∈ y.blk.groups, ∀ i ∈ g.igs, i.wait ≠ .chunk
    (s.running 6 = true → c = s.arg 0 → ms = s.memberList (s.arg 1) (s.arg 2) →
      64 ≤ c ∨ s.arg 2 = 0 ∨ 64 < s.arg 2 ∨ (∀ h ∈ s.halts, h.ctx = c → h.complete = true → ∀ m ∈ h.members, m.toNat ∉ ns) →
      exec .unhalt s = .next (s.done 2)) ∧
    ((s.halts.filter fun x => x.ctx == c) = [h] → h.complete = true → h.members ≠ [] → (∀ m ∈ h.members, m.toNat ∈ ns) →
      (s.running 6 = true → c = s.arg 0 → ms = s.memberList (s.arg 1) (s.arg 2) → c < 64 → 0 < s.arg 2 → s.arg 2 ≤ 64 →
        ∃ t, exec .unhalt s = .next t ∧ t.sys.busy = false ∧ t.sys.result = 0 ∧ freed t ∧
          ∀ p ∈ s.otherPackages h.members, FabMsg.unpause c p h.members ∈ t.out) ∧
      (s.sys.pkg ∈ packagesOf ms → ∀ rs, ∃ t, exec (.caravanHaltPause c ⟨ms, rs, true⟩) s = .next t ∧ freed t)))

/-! ## Recovery domains -/

/-- The seal protocol, R178, R181 to R187, R484, R485: a request goes to the coordinator, which sends PREP; blocks come to seal points or
are evicted; after the drain they are saved and READY is sent; COMMIT and its witness; the cut advances the leg, forgets the leg's log,
releases what was held, and posts what waited; a repeated COMMIT is acknowledged again. Every block is at a seal point here and, by their
word, on the other members, before the drain begins; PREP and the drain wait for a caravan halt (R176). A member that is silent for 50 ms of
a seal is lost, a die fault (R497): that aborts the seal or, with the two lowest lost, ends the contexts; of the coordinator, the witness
decides, also after it has applied, and a member that cannot see whether a seal runs judges the two lowest alone (log 96). Messages are
events (log 2), a held block counts as parked (log 20), and an image's place, layout and writes and the aborted books are as logs 34, 37, 53
and 54 say. -/
def Obligations.SealProtocol : Prop :=
  ∀ (s : State) (dom : Nat) (d : Domain), s.domain? dom = some d →
    (d.stopped = false → d.pending = false → d.since + usec (1000 * d.interval) ≤ s.time →
      ∃ t, exec (.sealIntervalExpiry dom) s = .next t ∧ DomainStep { d with
        wanted := true, reqAt := s.time } [.sealReq dom] s t) ∧
    (s.running 21 = true →
      (s.domain? (s.arg 0) = none → exec .sealreq s = .next (s.done 2)) ∧
      (s.arg 0 = dom → d.stopped = false → d.pending = false → ∃ t, exec .sealreq s = .next (t.done 0) ∧ DomainStep { d with
        wanted := true, reqAt := s.time } [.sealReq dom] s t) ∧
      (s.arg 0 = dom → d.stopped = false → d.pending = true → exec .sealreq s = .next (({ s with
        out := s.out ++ [FabMsg.sealReq dom] } : State).done 0)) ∧
      (s.arg 0 = dom → d.stopped = true → exec .sealreq s = .next (s.done 0))) ∧
    (d.stopped = false → d.coordinates s.sys.pkg = true → d.phase = .idle → d.applying = false → s.domHalting dom = false →
      ∃ t, exec (.sealRequestMessage dom) s = .next t ∧ DomainStep { d with
        phase := .requested, wanted := false, ready := [], acked := [], reqAt := if d.wanted then d.reqAt else s.time
        sealAt := s.time, heard := [] }
        [.prep dom d.leg] s t) ∧
    (s.domHalting dom = true → exec (.sealPrep dom d.leg) s = .next s) ∧
    (d.stopped = false → s.domHalting dom = false → d.phase = .requested ∨ d.phase = .idle ∧ d.coordinates s.sys.pkg = false →
      ∃ t, exec (.sealPrep dom d.leg) s = .next t ∧ DomainStep { d.hearFirst s.time with
        phase := .prep, wanted := false, told := false, reqAt := if d.pending then d.reqAt else s.time
        sealAt := if d.phase = .idle then s.time else d.sealAt, applying := false } [] s t) ∧
    (∀ ps, d.phase = .prep → s.domHalting dom = true → ∃ t, exec (.sealDrainBegin ⟨dom, ps⟩) s = .next t ∧
      DomainStep (ps.foldl (fun x m => x.hear m s.time) d) [] s t) ∧
    (∀ ps, d.phase = .prep → s.domHalting dom = false → (∀ x ∈ s.domBlocks dom, x.2.2.atSeal = true) →
      let tells := d.told = false ∧ ∃ m ∈ d.alive, m ≠ s.sys.pkg
      ∃ t, exec (.sealDrainBegin ⟨dom, ps⟩) s = .next t ∧ DomainStep { ps.foldl (fun x m => x.hear m s.time) d with
        told := d.told || decide tells
        phase := if ∀ m ∈ d.alive, m = s.sys.pkg ∨ m ∈ ps then .drain else .prep } (if tells then [.atSeal dom d.leg] else []) s t) ∧
    (d.phase = .prep → d.reqAt + usec d.waitLimit ≤ s.time → ∃ t, exec (.sealWaitLimit dom) s = .next t ∧
      ({ t with cores := s.cores } : State) = s ∧
      ∀ c k b, s.block c k = some b → s.inDomain dom b.ctx = true → b.atSeal = false →
        ∃ b', t.block c k = some b' ∧ b'.leaving = true ∧ b'.mem = b.mem ∧ b'.groups.length = b.groups.length) ∧
    (∀ s1 x, d.phase = .drain → s.drained d = true → s.sealBlocks d.leg (s.domBlocks dom) = .ok s1 → s1.domain? dom = some x →
      x.phase = .drain → x.stopped = false → ∃ t, exec (.sealSave dom) s = .next t ∧ DomainStep { x with phase := .saved }
        [.ready dom d.leg] s1.mergeAll t) ∧
    (∀ c, d.phase = .drain → s.drained d = true → s.sealBlocks d.leg (s.domBlocks dom) = .error c →
      exec (.sealSave dom) s = .next (s.postEvent c 8 0 0)) ∧
    (∀ core slot b a, s.block core slot = some b → (∃ g ∈ b.groups, g.liveMask ≠ 0) → b.allWay = false →
      s.imageAt b.ctx (b.imageSize true (b.groups.map fun g => g.idx)) = some a →
      ∃ t, s.sealBlock core slot b d.leg = .ok t ∧ Taken core slot { b with
        sealed := 2, sealImage := a } s t ∧
        t.mem = (s.vWriteLogged b.ctx a (b.image core slot true (b.groups.map fun g => g.idx))).mem) ∧
    (∀ m, d.stopped = false → d.coordinates s.sys.pkg = true → d.phase = .saved → m ∈ d.alive → m ∉ d.ready →
      ((∃ k ∈ d.alive, k ∉ d.ready ++ [m]) → ∃ t, exec (.sealReady dom m) s = .next t ∧ DomainStep { d.hear m s.time with
        ready := d.ready ++ [m] } [] s t) ∧
      ((∀ k ∈ d.alive, k ∈ d.ready ++ [m]) → ∃ t, exec (.sealReady dom m) s = .next t ∧ DomainStep { d.hear m s.time with
        ready := d.ready ++ [m], phase := if d.witness.isNone then .committed else .saved } [.commit dom d.leg] s t)) ∧
    (d.stopped = false → d.witness = some s.sys.pkg → d.phase = .saved → ∃ t, exec (.sealCommitWitness dom d.leg) s = .next t ∧
      DomainStep { d.hearFirst s.time with
        phase := .committed } [.witnessAck dom d.leg] s t) ∧
    (∀ l, d.witness = some s.sys.pkg → (d.phase = .committed ∧ l = d.leg) ∨ (l ≠ 0 ∧ l = d.lastCut ∧ l ≠ d.leg) →
      ∃ t, exec (.sealCommitWitness dom l) s = .next t ∧ DomainStep (d.hearFirst s.time) [.witnessAck dom l] s t) ∧
    (∀ m, d.stopped = false → d.coordinates s.sys.pkg = true → d.witness = some m → d.phase = .saved → (∀ k ∈ d.alive, k ∈ d.ready) →
      ∃ t, exec (.sealCut dom) s = .next t ∧ DomainStep { d.hear m s.time with
        phase := .committed } [.commit dom d.leg] s t) ∧
    (d.coordinates s.sys.pkg = true →
      (d.phase = .committed → exec (.sealCut dom) s = .next { s with
        out := s.out ++ [FabMsg.commit dom d.leg] }) ∧
      (d.phase ≠ .committed → d.phase ≠ .saved → d.applying = true → exec (.sealCut dom) s = .next { s with
        out := s.out ++ [FabMsg.commit dom d.lastCut] })) ∧
    (∀ l, l ≠ 0 → l = d.lastCut → l ≠ d.leg → ∃ t, exec (.sealApply dom l) s = .next t ∧
      DomainStep (d.hearFirst s.time) [.applyAck dom l] s t) ∧
    (d.stopped = false → d.phase = .committed → ∃ t d', exec (.sealApply dom d.leg) s = .next t ∧ t.domain? dom = some d' ∧
      d'.leg = (if d.leg = 0xFFFFFFFF then 1 else d.leg + 1) ∧ d'.phase = .idle ∧ d'.wanted = d.wanted ∧ d'.since = s.time ∧
      d'.applying = (d.coordinates s.sys.pkg || d.witness == some s.sys.pkg) ∧ d'.lastCut = d.leg ∧ d'.cut = s.cutTasks dom ∧
      FabMsg.applyAck dom d.leg ∈ t.out ∧ (∀ e ∈ t.logs, e.dom = dom → e.leg ≠ d.leg) ∧
      (∀ h ∈ t.holds, h.dom = dom → h.leg ≠ d.leg) ∧
      (∀ c, s.inDomain dom c = true → (t.ctx c).waiting = []) ∧
      ∀ c k b, s.block c k = some b → s.inDomain dom b.ctx = true → ∃ b', t.block c k = some b' ∧ b'.sealed = 0 ∧
        ∀ g, (b'.group g).v = (b.group g).v ∧ (b'.group g).s = (b.group g).s) ∧
    (∀ m, d.applying = true → d.coordinates s.sys.pkg = true → m ∈ d.alive → m ∉ d.acked →
      ∃ t, exec (.sealApplyAck dom m) s = .next t ∧
      ((∃ k ∈ d.alive, k ∉ d.acked ++ [m]) → DomainStep { d.hear m s.time with
        acked := d.acked ++ [m] } [] s t) ∧
      ((∀ k ∈ d.alive, k ∈ d.acked ++ [m]) → DomainStep { d.hear m s.time with
        acked := [], applying := false } [] s t)) ∧
    (∀ m, d.stopped = false → m ≠ s.sys.pkg → m ∈ d.alive → 2 ≤ d.members.length →
      let judges := d.sealing s.sys.pkg = true ∨ d.mayBeSealing = true ∧ d.coordinates s.sys.pkg = false ∧ m ∈ d.members.take 2
      let y := { d with lost := d.lost ++ [m] }
      let last := ((d.heard.find? (fun x => x.1 == m)).map (·.2)).getD d.sealAt
      let u := s.postRas { kind := 3, sev := 2, dom := some dom, leg := d.leg }
      let first := d.members.head? = some m
      let completes := first ∧ d.witness = some s.sys.pkg ∧ (d.phase = .committed ∨ d.phase = .idle ∧ d.applying = true)
      (¬ judges ∨ s.time < last + usec 50000 → exec (.memberSilence dom m) s = .next s) ∧
      (judges → last + usec 50000 ≤ s.time → (∃ k ∈ d.members.take 2, k ≠ m ∧ k ∉ d.lost) →
        (¬ first ∧ d.sealing s.sys.pkg = true ∨ first ∧ d.witness = some s.sys.pkg ∧ ¬ completes →
          ∃ t, exec (.memberSilence dom m) s = .next t ∧ DomainStep (y.aborted none false) [.abort dom d.overflow false] u t) ∧
        (completes → d.phase = .committed → ∃ t, exec (.memberSilence dom m) s = .next t ∧
          DomainStep { y with ready := y.alive } [.commit dom d.leg] u t) ∧
        (completes → d.phase = .idle → ∃ t, exec (.memberSilence dom m) s = .next t ∧
          DomainStep { y with
            acked := [s.sys.pkg], applying := !y.allIn [s.sys.pkg] } [.commit dom d.lastCut] u t) ∧
        (first ∧ d.witness ≠ some s.sys.pkg ∨ ¬ first ∧ d.sealing s.sys.pkg = false →
          ∃ t, exec (.memberSilence dom m) s = .next t ∧ DomainStep y [] u t)) ∧
      (judges → last + usec 50000 ≤ s.time → (∀ k ∈ d.members.take 2, k = m ∨ k ∈ d.lost) → ∃ t, exec (.memberSilence dom m) s = .next t ∧
        ∀ c, s.inDomain dom c = true → (s.ctx c).state = .live → (t.ctx c).state = .ending ∧ (t.ctx c).cause = 16 ∧
          (t.ctx c).fault.cause = 16))

/-- Errors and rollback, R41, R177, R191 to R193, R197, R486 to R488, R491: an uncorrectable error rolls the domain of its context back or
ends the context outside every domain; a die fault takes its cores off; ABORT, STOP, DONE and RESUME, which carry whether an injection alone
began the rollback; STOP writes every logged sector back, the earliest entry last, takes the leg's blocks, stores and packets away, and the
log stands until RESUME; a struck sector without an entry of that leg is lost, poisoned, and ends the contexts; an injection arms and fires.
The cause of a context that an error ends is free (log 17); what stands over a rollback and how tasks resume is as logs 18, 19, 51 and 54
say. -/
def Obligations.ErrorsAndRollback : Prop :=
  (∀ (s : State) (site : ErrSite), (∀ n pa, site ≠ .undoLog n pa) →
    exec (.correctedError site) s = .next (s.postRas { siteRas site 1 with sev := 0 })) ∧
  (∀ (s : State) (n pa : Nat),
    (∀ d, s.domain? n = some d → exec (.correctedError (.undoLog n pa)) s =
      .next (s.postRas { siteRas (.undoLog n pa) 1 with sev := 0, dom := some n, leg := d.leg })) ∧
    (s.domain? n = none → exec (.correctedError (.undoLog n pa)) s = .next s)) ∧
  (∀ (s : State) (core slot : Nat) (b : Block) (site : ErrSite), s.block core slot = some b →
    site = .localMem core slot ∨ site = .regFile core slot ∨ site = .tile core slot ∨ site = .accum core slot →
    (∀ n d, (s.ctx b.ctx).domain = some n → s.domain? n = some d → ∃ t, exec (.uncorrectableError site) s = .next t ∧
      DomainStep (d.aborted none false) [.abort n d.overflow false] (s.postRas { siteRas site 2 with sev := 1, dom := some n, leg := d.leg }) t) ∧
    ((s.ctx b.ctx).domain = none → (s.ctx b.ctx).state = .live → ∃ t, exec (.uncorrectableError site) s = .next t ∧
      (t.ctx b.ctx).state = .ending ∧ (∀ c, c ≠ b.ctx → t.ctx c = s.ctx c) ∧ t.domains = s.domains)) ∧
  (∀ (s : State) (pa n c : Nat) (d : Domain), s.sys.installed pa = true → s.granuleCtxs pa = [c] → (s.ctx c).domain = some n →
    s.domain? n = some d →
    (s.logged d pa = true → ∃ t, exec (.uncorrectableError (.hbm pa)) s = .next t ∧
      DomainStep { d.aborted none false with struck := d.struck ++ [pa / 64 * 64] } [.abort n d.overflow false]
        (s.postRas { siteRas (.hbm pa) 2 with sev := 1, dom := some n, leg := d.leg }) t) ∧
    (s.logged d pa = false → ∃ u,
      DomainStep (d.aborted (some 2) false) [.abort n (if d.overflow.isSome then d.overflow else some 2) false]
        (s.postRas { siteRas (.hbm pa) 2 with sev := 2, dom := some n, leg := d.leg }) u ∧
      exec (.uncorrectableError (.hbm pa)) s = .next (({ u with
        poison := if (pa / 64 * 64) ∈ s.poison then s.poison else (pa / 64 * 64) :: s.poison } : State).postRas
          { siteRas (.hbm pa) 2 with kind := 7, sev := 2, detail := 0 }))) ∧
  (∀ (s : State) (n pa : Nat) (d : Domain), s.domain? n = some d → ∃ t, exec (.uncorrectableError (.undoLog n pa)) s = .next t ∧
    DomainStep (d.aborted (some 2) false) [.abort n (if d.overflow.isSome then d.overflow else some 2) false]
      (s.postRas { siteRas (.undoLog n pa) 2 with sev := 2, leg := d.leg }) t) ∧
  (∀ (s : State) (die : Nat), die < 32 →
    (∃ t, exec (.dieFault die) s = .next t ∧ t.mem = s.mem ∧
      (∀ c, c < s.sys.liveCount → (t.core c).off = ((s.core c).off || s.sys.dieOfCore c == die)) ∧
      (∀ c ∈ s.dieCtxs die, (s.ctx c).domain = none → (s.ctx c).state = .live → (t.ctx c).state = .ending) ∧
      ∀ c ∈ s.dieCtxs die, ∀ n d, (s.ctx c).domain = some n → s.domain? n = some d → ∃ d', t.domain? n = some d' ∧ d'.stopped = true) ∧
    (die < 8 → ∃ t, exec (.railUndervolt die) s = .next t ∧
      ∀ c, c < s.sys.liveCount → (t.core c).off = ((s.core c).off || s.sys.dieOfCore c / 4 == die))) ∧
  (∀ (s : State) (dom : Nat) (d : Domain), s.domain? dom = some d →
    (∀ o i, d.coordinates s.sys.pkg = true →
      let all := if d.overflow.isSome then d.overflow else o
      let inj := i && (!d.stopped || d.injected)
      ∃ t, exec (.rollbackAbort ⟨dom, o, i⟩) s = .next t ∧ DomainStep { d with
        stopped := true, wanted := false, rolling := 0, doneBy := [], overflow := all, injected := inj }
        [.stop dom (if d.stopped = true ∧ d.rolling ≠ 0 then d.rolling else if d.phase = .committed then nextLeg d.leg else d.leg) all inj]
        s t) ∧
    (∀ o i, s.mem.wf = true → (∀ e ∈ s.logs, e.dom = dom → e.pa % 64 = 0 ∧ e.old.length = 64) →
      let lost := s.lostSectors d d.leg
      let ovf := if d.overflow.isSome then d.overflow else o
      ∃ t d', exec (.rollbackStop ⟨dom, o, i⟩ d.leg) s = .next t ∧ t.domain? dom = some d' ∧ d'.stopped = true ∧ d'.phase = .idle ∧
        d'.leg = d.leg ∧
        (lost = [] → t.out = s.out ++ [.done dom] ∧ d' = { d with
          stopped := true, rolling := d.leg, phase := .idle, wanted := false, told := false, applying := false, acked := []
          overflow := ovf, injected := i && (!d.stopped || d.injected) }) ∧
        (lost ≠ [] → ovf.isSome = true → t.out = s.out ++ [.done dom] ∧ d'.rolling = d.leg ∧ d'.overflow = ovf ∧ d'.struck = []) ∧
        (lost ≠ [] → ovf = none → t.out = s.out ++ [.abort dom (some 2) false] ∧ d'.rolling = 0 ∧ d'.overflow = some 2 ∧ d'.struck = []) ∧
        (∀ pa ∈ lost, pa / 64 * 64 ∈ t.poison) ∧
        (∀ e, (s.logs.find? fun x => x.dom == dom && x.pa == e.pa) = some e → Memory.readN t.mem e.pa 64 = e.old) ∧
        (∀ a, (∀ e ∈ s.logs, e.dom = dom → a < e.pa ∨ e.pa + 64 ≤ a) → t.mem.read a = s.mem.read a) ∧
        t.logs = s.logs ∧ (∀ w ∈ t.windows, w.dom = some dom → w ∈ d.cutWindows) ∧ (∀ h ∈ t.holds, h.dom ≠ dom) ∧
        (∀ x ∈ t.saved, s.inDomain dom x.ctx = false) ∧
        (∀ c k b, t.block c k = some b → s.inDomain dom b.ctx = false) ∧
        ∀ f ∈ t.flights, f.p.rdom = some dom → f.p.leg ≠ d.leg) ∧
    (∀ m, d.stopped = true → d.coordinates s.sys.pkg = true → d.rolling ≠ 0 → m ∈ d.alive → m ∉ d.doneBy →
      ((∃ k ∈ d.alive, k ∉ d.doneBy ++ [m]) → ∃ t, exec (.rollbackDone dom m) s = .next t ∧ DomainStep { d with
        doneBy := d.doneBy ++ [m] } [] s t) ∧
      ((∀ k ∈ d.alive, k ∈ d.doneBy ++ [m]) → ∃ t, exec (.rollbackDone dom m) s = .next t ∧ DomainStep { d with
        doneBy := d.doneBy ++ [m] } [.resume dom (nextLeg d.rolling)] s t)) ∧
    (∀ moved : List MovedBlock, d.stopped = true → d.rolling ≠ 0 →
      (∀ k, d.overflow = some k → ∃ t, exec (.rollbackResume ⟨dom, moved⟩) s = .next t ∧ t.itins = s.itins ∧
        t.logs = (s.logs.filter fun e => e.dom != dom) ∧
        (∃ d', t.domain? dom = some d' ∧ d'.leg = nextLeg d.rolling ∧ d'.stopped = false) ∧
        ∀ c, s.inDomain dom c = true → (s.ctx c).state = .live → (t.ctx c).state = .ending ∧ (t.ctx c).cause = 16 ∧
          (t.ctx c).fault.cause = 16) ∧
      (d.overflow = none → d.cut = [] → ∃ t d', exec (.rollbackResume ⟨dom, moved⟩) s = .next t ∧ t.domain? dom = some d' ∧
        d'.leg = nextLeg d.rolling ∧ d'.stopped = false ∧ d'.rolling = 0 ∧ d'.since = s.time ∧
        (∀ c k, t.block c k = s.block c k) ∧ t.logs = (s.logs.filter fun e => e.dom != dom) ∧
        (∀ x ∈ t.itins, s.inDomain dom x.ctx = true → x.placed = [] ∧ (x.retired = [] ∨ ∃ y ∈ d.cutItins, y.id = x.id)) ∧
        ∀ c, s.inDomain dom c = true → ∃ r ∈ (t.ctx c).waiting, r = .event 7 (nextLeg d.rolling) 0 (dw s.clock)))) ∧
  (∀ (s : State) (n : Nat), s.running 22 = true → n = s.arg 1 →
    let x : Inject := { kind := s.arg 0, dom := n, target := s.arg 2, fireAt := s.time + usec (s.arg 3) }
    let armed := ({ s with injects := s.injects ++ [x] } : State).done 0
    (s.arg 0 = 0 ∨ 5 < s.arg 0 → exec .injectUe s = .next (s.done 2)) ∧
    (s.arg 0 = 1 → s.peopled n = true → s.domGranule n (s.arg 2) = true → exec .injectUe s = .next armed) ∧
    (s.arg 0 = 2 → s.peopled n = true → s.arg 2 < 32 → exec .injectDieFault s = .next armed) ∧
    (s.arg 0 = 3 → (s.peopled n = true → exec .injectRollback s = .next armed) ∧
      (s.peopled n = false → exec .injectRollback s = .next (s.done 2))) ∧
    (s.arg 0 = 4 → s.arg 2 < 16 → exec .injectPortRetire s = .next armed) ∧
    (s.arg 0 = 5 → s.arg 2 < 16 → (s.sys.debug = true → exec .injectKeyStarve s = .next armed) ∧
      (s.sys.debug = false → exec .injectKeyStarve s = .next (s.done 2)))) ∧
  (∀ (s : State) (k : Nat) (x : Inject), s.injects[k]? = some x → x.fireAt ≤ s.time →
    (∀ d, x.kind = 3 → s.domain? x.dom = some d → ∃ t, exec (.injectFire k) s = .next t ∧
      DomainStep (d.aborted none true) [.abort x.dom d.overflow (!d.stopped || d.injected)] { s with injects := listDrop s.injects k } t) ∧
    (x.kind = 4 → x.target < 16 → (s.port x.target).state ≠ .retired → ∃ t, exec (.injectFire k) s = .next t ∧
      t.injects = listDrop s.injects k ∧ t.port x.target = { s.port x.target with
        state := .retired, rcause := 3 }))

/-! ## Power, boot and firmware -/

/-- Power and boot, R419 to R421, R426, R430 to R434, R489 to R492, R496, R498: a fundamental reset begins boot anew and keeps the fuses and
the images; each of the eight controllers goes from ROM over VERIFY, INIT and ENUM to READY, and the device is ready when all are; in VERIFY
base die 0 selects the slot with the higher FWSVN, A when the two are equal, and the others verify what it sent; each failure has its cause;
the clock follows the power; a new image goes into the slot that does not run, and a loss of power while it is written leaves that slot
invalid; and what attestation, the fuse counter, the translation cache and the retirement list hold. What a reset keeps, the keys and
digests, the place of an image in the cache, the base die of a failure and I3C in FAILED are as logs 7, 11, 22, 46 and 97 say. -/
def Obligations.BootAndPower : Prop :=
  (∀ s : State,
    (s.sys.powered = false → ∃ t, exec .powerUp s = .next t ∧ Lasts s t ∧ Blank s t ∧ t.sys.powered = true ∧ t.sys.boot = .rom ∧
      t.sys.imgA = s.sys.imgA ∧ t.sys.imgB = s.sys.imgB ∧ t.sys.bootCount = satWord s.sys.bootCount) ∧
    (s.sys.powered = true →
      (∃ t, exec .fundamentalReset s = .next t ∧ Lasts s t ∧ Blank s t ∧ t.sys.powered = true ∧ t.sys.boot = .rom ∧
        t.sys.imgA = s.sys.imgA ∧ t.sys.imgB = s.sys.imgB ∧ t.sys.pwrlim = BitVec.ofNat 16 s.sys.gradeLimit) ∧
      (∃ t, exec .powerLoss s = .next t ∧ Lasts s t ∧ Blank s t ∧ t.sys.powered = false ∧ t.mem = [] ∧
        let writes := s.running 24 && decide (0 < s.arg 1 ∧ s.arg 1 ≤ 2 ^ 25) &&
          (slotOfImage (s.firmRead (s.arg 0) (s.arg 1))).any fun x => x.keyOk && x.sigOk && decide (s.sys.fuseSvn ≤ x.svn)
        let kept := fun (old new : ImgSlot) => new.keyOk = (old.keyOk && !writes) ∧ (writes = false → new = old)
        (s.sys.slotB = false → t.sys.imgA = s.sys.imgA ∧ kept s.sys.imgB t.sys.imgB) ∧
        (s.sys.slotB = true → t.sys.imgB = s.sys.imgB ∧ kept s.sys.imgA t.sys.imgA))) ∧
    (∀ (die : BitVec 3) b, Boots die .rom s → exec (.bootVerify ⟨die, b⟩) s = .next { s with sys := s.sys.goesTo die .verify }) ∧
    (Boots 0 .verify s → ∀ b,
      let ok := fun x : ImgSlot => x.keyOk = true ∧ x.sigOk = true ∧ s.sys.fuseSvn ≤ x.svn
      (¬ ok s.sys.imgA → ¬ ok s.sys.imgB → ∃ t, exec (.bootVerify ⟨0, b⟩) s = .next t ∧ BootFailed 0 1 s t) ∧
      (ok s.sys.imgA → (ok s.sys.imgB → s.sys.imgB.svn ≤ s.sys.imgA.svn) → exec (.bootVerify ⟨0, b⟩) s = .next { s with
        sys := { s.sys with slotB := false, fwsvn := s.sys.imgA.svn }.goesTo 0 .init }) ∧
      (ok s.sys.imgB → (ok s.sys.imgA → s.sys.imgA.svn < s.sys.imgB.svn) → exec (.bootVerify ⟨0, b⟩) s = .next { s with
        sys := { s.sys with slotB := true, fwsvn := s.sys.imgB.svn }.goesTo 0 .init })) ∧
    (∀ die : BitVec 3,
      (Boots die .verify s → die ≠ 0 →
        (Boots 0 .rom s ∨ Boots 0 .verify s → ∀ b, exec (.bootVerify ⟨die, b⟩) s = .next s) ∧
        (∀ x, Boots 0 x s → x ≠ .rom → x ≠ .verify →
          exec (.bootVerify ⟨die, true⟩) s = .next { s with sys := s.sys.goesTo die .init } ∧
          ∃ t, exec (.bootVerify ⟨die, false⟩) s = .next t ∧ BootFailed die 2 s t)) ∧
      (Boots die .init s →
        (∃ t, exec (.bootInit ⟨die, .ok⟩) s = .next t ∧ t.sys = s.sys.goesTo die .enum ∧
          ({ t with mem := s.mem, sys := s.sys } : State) = s ∧
          ∀ a, t.mem.read a = if homeOf a / 4 = die.toNat then 0 else s.mem.read a) ∧
        (∃ t, exec (.bootInit ⟨die, .hbmFailed⟩) s = .next t ∧ BootFailed die 3 s t) ∧
        ∃ t, exec (.bootInit ⟨die, .linkFailed⟩) s = .next t ∧ BootFailed die 4 s t) ∧
      (Boots die .enum s →
        ((∀ i, i < 4 → s.sys.gradeCores ≤ s.sys.dieCores (4 * die.toNat + i)) → exec (.bootEnum ⟨die, false⟩) s = .next { s with
          sys := { s.sys with retired := s.sys.retireList }.goesTo die .ready }) ∧
        ((∃ i, i < 4 ∧ s.sys.dieCores (4 * die.toNat + i) < s.sys.gradeCores) →
          ∃ t, exec (.bootEnum ⟨die, false⟩) s = .next t ∧ BootFailed die 5 s t) ∧
        ∃ t, exec (.bootEnum ⟨die, true⟩) s = .next t ∧ BootFailed die 6 s t)) ∧
    (s.sys.boot = .ready ↔ ∀ x ∈ s.sys.ctrls, x = .ready) ∧
    (∀ p : BitVec 16, s.sys.powered = true → ∃ t, exec (.powerSample p) s = .next t ∧ t.sys.power = p ∧
      t.sys.aclkMhz.toNat = (if s.sys.pwrlim.toNat < p.toNat then max 525 (s.sys.aclkMhz.toNat - 25)
        else if 100 * p.toNat < 98 * s.sys.pwrlim.toNat then min 1050 (s.sys.aclkMhz.toNat + 25) else s.sys.aclkMhz.toNat) ∧
      { t with
        sys := s.sys, hmem := s.hmem } = s ∧ (t.sys.aclkMhz = s.sys.aclkMhz → t.hmem = s.hmem)) ∧
    (∀ v : Dword, s.sys.boot = .ready → let n := v.toNat % 65536
      exec (.pwrlimWrite v) s = .next (if s.sys.gradeLimit < n ∨ 2 * n < s.sys.gradeLimit then s else { s with
        sys := { s.sys with pwrlim := BitVec.ofNat 16 n } })) ∧
    (∀ (die : BitVec 3) x, s.sys.ctrls[die.toNat]? ≠ none →
      (s.sys.goesTo die x).ctrls = listSet s.sys.ctrls die.toNat x ∧
      (∀ d, d ∈ (s.sys.goesTo die x).i3cUp ↔ d ∈ s.sys.i3cUp ∨ d = die ∧ x = .init)) ∧
    (s.sys.powered = true → s.sys.i3cUp = [] → exec .i3cRasRead s = .next s ∧ ∀ v, exec (.i3cPwrlimWrite v) s = .next s) ∧
    (∀ v : BitVec 16, s.sys.powered = true → s.sys.i3cUp ≠ [] → let n := v.toNat
      exec (.i3cPwrlimWrite v) s = .next (if s.sys.gradeLimit < n ∨ 2 * n < s.sys.gradeLimit then s else { s with
        sys := { s.sys with pwrlim := v } })) ∧
    (s.sys.powered = true → s.sys.i3cUp ≠ [] → exec .i3cRasRead s = .next { s with
      sys := { s.sys with i3c := s.sys.ras.flatMap fun r => leBytes 32 r.toNat } }) ∧
    (∀ n, s.sys.boot = .ready →
      (s.sys.busy = false → s.sys.attestWait = [] → exec (.i3cAttest n) s = .next { s with
        sys := { s.sys with i3c := s.sys.attestation n } }) ∧
      (s.sys.busy = true → exec (.i3cAttest n) s = .next { s with
        sys := { s.sys with attestWait := s.sys.attestWait ++ [n] } })) ∧
    (∀ r n, s.sys.attestWait = [n] → (s.done r).sys.attestWait = [] ∧ (s.done r).sys.i3c = s.sys.attestation n) ∧
    (s.running 1 = true → exec .attest s = .next (({ s with
      sys := { s.sys with report := s.sys.attestation (s.sys.latched.flatMap fun x => leBytes 8 x.toNat) } } : State).done 0))) ∧
  (∀ (y : Sys) (n : List Byte), n.length = 64 → let r := y.attestation n
    r.length = 384 ∧ r.take 5 = leBytes 4 0x4A374154 ++ [1] ∧ (r.drop 16).take 64 = n ∧
    r.drop 320 = fitBytes 64 (Config.signIdentity (r.take 320))) ∧
  (∀ s : State,
    (s.running 2 = true → let t := s.arg 0 % 128
      (t < s.sys.fuseSvn ∨ s.sys.fwsvn < t → exec .fuseadv s = .next (s.done 2)) ∧
      (s.sys.fuseSvn ≤ t → t ≤ s.sys.fwsvn → exec .fuseadv s = .next ((({ s with
        sys := { s.sys with fuseSvn := t, tcache := s.sys.tcache.filter fun e => decide (t ≤ e.svn) } } : State).postRas
          { kind := 15, sev := 0, detail := t }).done 0))) ∧
    (∀ a, s.running 3 = true → let n := s.arg 1
      let svn := s.arg 2 % 128
      let digest := s.firmRead (s.arg 3) 64
      let es := s.sys.tcache.filter fun e => e.digest != digest
      (svn < s.sys.fuseSvn → exec .cacheput s = .next (s.done 3)) ∧
      (s.sys.fuseSvn ≤ svn → 0 < n → n ≤ 2 ^ 28 → s.sys.installed (s.arg 0) = true → s.sys.installed (s.arg 0 + n - 1) = true →
        (4096 ≤ es.length → exec .cacheput s = .next (s.done 5)) ∧
        (es.length < 4096 → s.sys.cacheAt es n = some a → ∃ t e, exec .cacheput s = .next t ∧ t.sys.tcache = es ++ [e] ∧
          e.digest = digest ∧ e.svn = svn ∧ e.addr = a ∧ e.size = n ∧
          e.sig = fitBytes 64 (Config.signTranslation (cacheMessage (s.firmRead (s.arg 0) n) svn)) ∧
          (s.mem.wf = true → Memory.readN t.mem a n = s.firmRead (s.arg 0) n) ∧
          t.sys.args = listSet s.sys.args 0 (dw a) ∧ t.sys.busy = false ∧ t.sys.result = 0 ∧ t.cores = s.cores))) ∧
    (s.running 4 = true → let digest := s.firmRead (s.arg 0) 64
      (s.sys.tcache.find? (fun e => e.digest == digest) = none → exec .cacheget s = .next (s.done 4)) ∧
      ∀ e, s.sys.tcache.find? (fun e => e.digest == digest) = some e →
        (e.svn < s.sys.fuseSvn → exec .cacheget s = .next (({ s with
          sys := { s.sys with tcache := s.sys.tcache.filter (· != e) } } : State).done 4)) ∧
        (s.sys.fuseSvn ≤ e.svn → exec .cacheget s = .next (({ s with
          sys := { s.sys with args := listSet (listSet s.sys.args 0 (dw e.addr)) 1 (dw e.size) } } : State).done 0))) ∧
    (s.running 24 = true →
      (s.arg 1 = 0 ∨ 2 ^ 25 < s.arg 1 → exec .fwstage s = .next (s.done 2)) ∧
      (0 < s.arg 1 → s.arg 1 ≤ 2 ^ 25 → exec .fwstage s = .next (match slotOfImage (s.firmRead (s.arg 0) (s.arg 1)) with
        | none => s.done 2
        | some x =>
          if x.keyOk = false ∨ x.sigOk = false then s.done 2
          else if x.svn < s.sys.fuseSvn then s.done 3
          else (({ s with
            sys := { s.sys with
              imgA := if s.sys.slotB then x else s.sys.imgA
              imgB := if s.sys.slotB then s.sys.imgB else x } } : State).postRas { kind := 14, sev := 0, detail := x.svn }).done 0))) ∧
    (s.running 23 = true → let c := s.arg 0
      let l := s.sys.retireList
      (s.sys.liveCount ≤ c → s.arg 1 = 0 ∧ exec .coreretReturn s = .next (s.done 2) ∨
        s.arg 1 ≠ 0 ∧ exec .coreretRetire s = .next (s.done 2)) ∧
      (c < s.sys.liveCount → s.arg 1 = 1 →
        (s.clusterLeft c (c :: l) < 2 → exec .coreretRetire s = .next (s.done 2)) ∧
        (2 ≤ s.clusterLeft c (c :: l) → c ∉ l →
          (8 ≤ l.length → exec .coreretRetire s = .next (s.done 5)) ∧
          (l.length < 8 → exec .coreretRetire s = .next ((({ s with
            sys := { s.sys with retireList := l ++ [c] } } : State).postRas
              { kind := 13, sev := 0, detail := 1, ukind := 3, unit := c }).done 0)))) ∧
      (c < s.sys.liveCount → s.arg 1 = 0 →
        (c ∉ l → exec .coreretReturn s = .next (s.done 2)) ∧
        (c ∈ l → exec .coreretReturn s = .next ((({ s with
          sys := { s.sys with retireList := l.filter (· != c) } } : State).postRas
            { kind := 13, sev := 0, detail := 0, ukind := 3, unit := c }).done 0)))))

/-! ## The host's windows -/

/-- BAR2 and BAR0, R416, R417, R418, R429, R435, R436, R441, R451, R452, R460, R461, R466, R468, R489: what the host reads and writes in
device memory; which accesses a register takes, what a write does to it (CMD by its own 4 bytes or by 8), and what registers read; the
queues; one invalidation at a time, which removes the translations of its context in its range; the sticky flags that a read clears; the
checks of a handler and of a manifest entry. Where the undo logs lie, the registers as one Nat and an 8-byte write of the 32-bit CMD are the
model's choices (logs 13, 77 and 92). -/
def Obligations.HostWindows : Prop :=
  (∀ (s : State) (off n : Nat), let a := s.sys.win2base.toNat * 2 ^ 36 + off
    (s.sys.boot ≠ .ready → exec (.bar2Read off n) s = .next { s with
      sys := { s.sys with readback := List.replicate n 0 } }) ∧
    (s.sys.boot = .ready → 0 < n → off + n ≤ 2 ^ 36 → ∃ t, exec (.bar2Read off n) s = .next t ∧
      t.sys.readback = (List.range n).map (fun i => if s.hostReaches (a + i) then t.mem.read (a + i) else 0) ∧
      (s.cu = [] → t.mem = s.mem) ∧ t.hmem = s.hmem ∧ ∀ c k, t.block c k = s.block c k)) ∧
  (∀ (s : State) (off : Nat) (bs : List Byte), s.sys.boot = .ready → bs ≠ [] → off + bs.length ≤ 2 ^ 36 → s.cu = [] →
    s.mem.wf = true → let a := s.sys.win2base.toNat * 2 ^ 36 + off
    ∃ t, exec (.bar2Write off bs) s = .next t ∧ (∀ c k, t.block c k = s.block c k) ∧ t.hmem = s.hmem ∧
      ∀ x, t.mem.read x = if a ≤ x ∧ x < a + bs.length ∧ s.hostReaches x = true then listGet 0 bs (x - a) else s.mem.read x) ∧
  (∀ (s : State) (off n : Nat) (v : Dword), s.sys.boot ≠ .ready ∨ (n ≠ 8 ∧ ¬ (n = 4 ∧ off = 0x1000)) ∨ off % n ≠ 0 ∨ 0x4000000 ≤ off →
    exec (.registerWrite ⟨off, n⟩ v) s = .next s) ∧
  (∀ (s : State) (off n : Nat),
    (n ≠ 8 ∧ ¬ (n = 4 ∧ off = 0x1000) ∨ off % n ≠ 0 ∨ s.sys.powered = false ∨ 0x4000000 ≤ off → s.bar0Read off n = List.replicate n 0) ∧
    (s.sys.boot ≠ .ready → off ≠ 0 → s.sys.boot ≠ .failed ∨ off ≠ 8 ∧ ¬ (0x11000 ≤ off ∧ off < 0x12000) →
      s.bar0Read off n = List.replicate n 0)) ∧
  (∀ s : State, s.sys.powered = true →
    (∃ x, s.bar0Read 0 8 = leBytes 8 x ∧ x / 2 ^ 32 = s.sys.bootCount.toNat ∧
      x / 2 ^ 28 % 16 = (match s.sys.boot with | .rom => 1 | .verify => 2 | .init => 3 | .enum => 4 | .ready => 5 | .failed => 15) ∧
      x / 2 ^ 24 % 16 = s.sys.fdie.toNat ∧ x / 2 ^ 16 % 256 = s.sys.failCause.toNat ∧ x.testBit 15 = s.sys.slotB ∧
      x / 2 ^ 8 % 128 = s.sys.fwsvn % 128 ∧ x.testBit 7 = s.sys.debug ∧ x % 128 = s.sys.fuseSvn % 128) ∧
    (s.sys.boot = .ready ∨ s.sys.boot = .failed →
      (∃ x, s.bar0Read 8 8 = leBytes 8 x ∧ x / 2 ^ 24 = 7 ∧ x / 2 ^ 16 % 256 = s.sys.stepping.toNat ∧
        x / 2 ^ 8 % 256 = s.sys.grade % 256 ∧ x % 256 = s.sys.stackGib % 256) ∧
      ∀ k, k < 512 → s.bar0Read (0x11000 + 8 * k) 8 = leBytes 8 (tableWord (fitBytes 4096 Config.certificate) (8 * k))) ∧
    (s.sys.boot = .ready →
      s.bar0Read 0x10 8 = leBytes 8 (2 ^ 36 * s.sys.win2base.toNat) ∧
      (∀ k, k < 512 → s.bar0Read (0x10000 + 8 * k) 8 = leBytes 8 (tableWord s.sys.report (8 * k))) ∧
      (∀ k, k < 8 → s.bar0Read (0x1008 + 8 * k) 8 = leBytes 8 (listGet 0 s.sys.args k).toNat) ∧
      ∀ c, c < 64 → let r := 0x1000000 + 0x40000 * c
        s.bar0Read (r + 0x018) 8 = leBytes 8 (2 ^ 19 * (s.ctx c).ptroot.toNat) ∧
        (∀ k, k < 8 → s.bar0Read (r + 0x100 + 8 * k) 8 = leBytes 8 ((s.ctx c).fault.bits / 2 ^ (64 * k) % 2 ^ 64)) ∧
        (∀ k, k < 256 → s.bar0Read (r + 0x2000 + 32 * k) 8 = leBytes 8 ((KMap.get (0 : Entry) (s.ctx c).manifest k).toNat % 2 ^ 64)) ∧
        ∀ off, 0x4000 ≤ off → off < 0x40000 → off % 8 = 0 → s.bar0Read (r + off) 8 = leBytes 8 0)) ∧
  (∀ (s : State) (v : Dword), s.sys.boot = .ready →
    exec (.registerWrite ⟨0x010, 8⟩ v) s = .next { s with
      sys := { s.sys with win2base := v.extractLsb' 36 28 } } ∧
    exec (.registerWrite ⟨0x020, 8⟩ v) s = .next { s with
      sys := { s.sys with rasbase := v.extractLsb' 5 59 } } ∧
    exec (.registerWrite ⟨0x030, 8⟩ v) s = exec (.pwrlimWrite v) s ∧
    (s.sys.busy = true → exec (.registerWrite ⟨0x1000, 8⟩ v) s = .next { s with
      sys := { s.sys with overrun := true } }) ∧
    (s.sys.busy = false → exec (.registerWrite ⟨0x1000, 8⟩ v) s = .next { s with
      sys := { s.sys with busy := true, cmd := v.extractLsb' 0 32, latched := s.sys.args } }) ∧
    (∀ k, k < 8 → exec (.registerWrite ⟨0x1008 + 8 * k, 8⟩ v) s = .next (if s.sys.busy then s else { s with
      sys := { s.sys with args := listSet s.sys.args k v } })) ∧
    exec (.registerWrite ⟨0x1000, 4⟩ v) s = exec (.registerWrite ⟨0x1000, 8⟩ v) s ∧
    ∀ c, c < 64 → let r := 0x1000000 + 0x40000 * c
      exec (.registerWrite ⟨r + 0x008, 8⟩ v) s = exec (.ctxcfgWrite c v) s ∧
      exec (.registerWrite ⟨r + 0x010, 8⟩ v) s = exec (.handlerWrite c v) s ∧
      (∃ t, exec (.registerWrite ⟨r + 0x018, 8⟩ v) s = .next t ∧ CtxStep c { s.ctx c with
        ptroot := if (s.ctx c).state = .free then v.extractLsb' 19 33 else (s.ctx c).ptroot } s t) ∧
      (∃ t, exec (.registerWrite ⟨r + 0x020, 8⟩ v) s = .next t ∧ CtxStep c { s.ctx c with wdog := v.extractLsb' 0 32 } s t) ∧
      (∃ t, exec (.registerWrite ⟨r + 0x040, 8⟩ v) s = .next t ∧ CtxStep c { s.ctx c with invva := v.extractLsb' 16 36 } s t) ∧
      (∃ t, exec (.registerWrite ⟨r + 0x1410, 8⟩ v) s = .next t ∧ CtxStep c { s.ctx c with savebase := v.extractLsb' 16 48 } s t) ∧
      (∃ t, exec (.registerWrite ⟨r + 0x1420, 8⟩ v) s = .next t ∧ CtxStep c { s.ctx c with evbase := v.extractLsb' 5 59 } s t) ∧
      (v.toNat % 4 = 0 → exec (.registerWrite ⟨r + 0x048, 8⟩ v) s = exec (.invalidatePage c (v.extractLsb' 2 2)) s) ∧
      (v.toNat % 4 = 1 → exec (.registerWrite ⟨r + 0x048, 8⟩ v) s = exec (.invalidateContext c (v.extractLsb' 2 2)) s) ∧
      (2 ≤ v.toNat % 4 → ∃ t, exec (.registerWrite ⟨r + 0x048, 8⟩ v) s = .next t ∧ CtxStep c { s.ctx c with invErr := true } s t) ∧
      (∀ q, q < 16 → exec (.registerWrite ⟨r + 0x1010 + 0x40 * q, 8⟩ v) s = exec (.qtailWrite c q (v.extractLsb' 0 32)) s) ∧
      ∀ k, k < 256 → exec (.registerWrite ⟨r + 0x2000 + 32 * k, 8⟩ v) s = exec (.manifestInstall c k v) s ∧
        ∀ w : BitVec 2, w ≠ 0 → exec (.registerWrite ⟨r + 0x2000 + 32 * k + 8 * w.toNat, 8⟩ v) s = exec (.manifestStage c k w v) s) ∧
  (∀ (s : State) (c q : Nat), s.sys.boot = .ready → c < 64 → q < 16 → let y := KMap.get {} (s.ctx c).queues q
    let put := fun z : Queue => { s.ctx c with queues := KMap.put (s.ctx c).queues q z }
    (∀ v : Word, y.en = false ∨ (v - y.head).toNat ≤ 2 ^ y.log2n.toNat →
      ∃ t, exec (.qtailWrite c q v) s = .next t ∧ CtxStep c (put { y with tail := v }) s t) ∧
    (∀ v : Word, y.en = true → 2 ^ y.log2n.toNat < (v - y.head).toNat → ∃ t, exec (.qtailWrite c q v) s = .next t ∧
      KMap.get {} (t.ctx c).queues q = { y with tail := v, err := true, en := false } ∧ t.cores = s.cores ∧
      ∀ d, d ≠ c → t.ctx d = s.ctx d) ∧
    (∃ t, exec (.queueEnable c q) s = .next t ∧
      CtxStep c (put (if y.en then y else { y with en := true, head := y.tail, err := false })) s t) ∧
    (∃ t, exec (.queueDisable c q) s = .next t ∧ CtxStep c (put { y with en := false }) s t)) ∧
  (∀ (s : State) (c : Nat), s.sys.powered = true → s.sys.boot = .ready → c < 64 → let x := s.ctx c
    (∀ z, (x.invBusy = false →
        (∃ t, exec (.invalidatePage c z) s = .next t ∧ CtxStep c { x with invBusy := true, invSize := z, invKind := 0, invAt := x.invva } s t) ∧
        ∃ t, exec (.invalidateContext c z) s = .next t ∧ CtxStep c { x with invBusy := true, invSize := z, invKind := 1, invAt := x.invva } s t) ∧
      (x.invBusy = true →
        (∃ t, exec (.invalidatePage c z) s = .next t ∧ CtxStep c { x with invErr := true } s t) ∧
        ∃ t, exec (.invalidateContext c z) s = .next t ∧ CtxStep c { x with invErr := true } s t)) ∧
    (∃ t, exec (.invctlRead c) s = .next t ∧ t.ctx c = { x with invErr := false } ∧ t.cores = s.cores ∧
      ∃ n, t.sys.readback = leBytes 8 n ∧ n.testBit 63 = x.invBusy ∧ n.testBit 62 = x.invErr ∧
        n / 2 ^ 32 % 2 ^ 16 = x.invSeq.toNat ∧ n / 4 % 4 = x.invSize.toNat ∧ n % 4 = x.invKind.toNat) ∧
    (∃ t, exec (.ctxstatRead c) s = .next t ∧ t.ctx c = { x with manerr := false, herr := false } ∧ t.cores = s.cores ∧
      ∃ n, t.sys.readback = leBytes 8 n ∧ n / 256 = x.cause.toNat ∧ n.testBit 7 = x.manerr ∧ n.testBit 6 = x.herr ∧
        n % 64 = (match x.state with | .free => 0 | .live => 1 | .stopped => 2 | .ending => 3 | .ended => 4)) ∧
    (∃ t, exec .cmdstatRead s = .next t ∧ t.sys.overrun = false ∧ t.sys.busy = s.sys.busy ∧ t.cores = s.cores ∧
      ∃ n, t.sys.readback = leBytes 8 n ∧ n.testBit 63 = s.sys.busy ∧ n.testBit 62 = s.sys.overrun ∧ n % 256 = s.sys.result.toNat) ∧
    (∀ v : Dword, let h := v.extractLsb' 7 57
      let y := { x with handler := h }
      (h = 0 → ∃ t, exec (.handlerWrite c v) s = .next t ∧ CtxStep c y s t) ∧
      (∀ k, h ≠ 0 → (s.setCtx c y).handlerAt c (h.toNat * 128) x.hseg.toNat = some k →
        ∃ t, exec (.handlerWrite c v) s = .next t ∧ CtxStep c { y with hkern := k } s t) ∧
      (h ≠ 0 → (s.setCtx c y).handlerAt c (h.toNat * 128) x.hseg.toNat = none →
        ∃ t, exec (.handlerWrite c v) s = .next t ∧ CtxStep c { y with handler := 0, herr := true } s t) ∧
      let z := { x with
        pasid := if x.state = .free then v.extractLsb' 24 20 else x.pasid
        halttrap := v.getLsbD 18, rbnote := v.getLsbD 17, bkpten := v.getLsbD 16, hseg := v.extractLsb' 0 12 }
      (z.hseg = x.hseg ∨ x.handler = 0 → ∃ t, exec (.ctxcfgWrite c v) s = .next t ∧ CtxStep c z s t) ∧
      (z.hseg ≠ x.hseg → x.handler ≠ 0 → (s.setCtx c z).handlerAt c (x.handler.toNat * 128) z.hseg.toNat = none →
        ∃ t, exec (.ctxcfgWrite c v) s = .next t ∧ CtxStep c { z with handler := 0, herr := true } s t)) ∧
    (∀ e, e < 256 → ∀ v : Dword,
      (∀ w : BitVec 2, w ≠ 0 → ∃ t, exec (.manifestStage c e w v) s = .next t ∧ t.cores = s.cores ∧
        (t.ctx c).manifest = x.manifest ∧ let new := KMap.get (0 : BitVec 192) (t.ctx c).staged e
        ∀ k, 0 < k → k < 4 → new.extractLsb' (64 * (k - 1)) 64 =
          if k = w.toNat then v else (KMap.get (0 : BitVec 192) x.staged e).extractLsb' (64 * (k - 1)) 64) ∧
      let n : Entry := KMap.get (0 : BitVec 192) x.staged e ++ v
      ((v.getLsbD 0 = false ∨ entryOk n = true) → ∃ t, exec (.manifestInstall c e v) s = .next t ∧
        CtxStep c { x with manifest := KMap.put x.manifest e n } s t) ∧
      (v.getLsbD 0 = true → entryOk n = false → ∃ t, exec (.manifestInstall c e v) s = .next t ∧
        CtxStep c { x with manifest := KMap.put x.manifest e (n &&& ~~~1), manerr := true } s t))) ∧
  (∀ (s : State) (c : Nat), (s.ctx c).invBusy = true → s.storesDone c = true →
    let x := s.ctx c
    let lo := if x.invKind = 1 then 0 else x.invAt.toNat * 2 ^ 16 / 2 ^ levelShift x.invSize.toNat * 2 ^ levelShift x.invSize.toNat
    let n := if x.invKind = 1 then 2 ^ 52 else 2 ^ levelShift x.invSize.toNat
    ∃ t, exec (.invalidationComplete c) s = .next t ∧ t.ctx c = { x with invBusy := false, invSeq := x.invSeq + 1 } ∧
      (∀ d, d ≠ c → t.ctx d = s.ctx d) ∧ t.mem = s.mem ∧
      let out := fun (y : Xlate) => y.ctx = c ∧ y.va < lo + n ∧ lo < y.va + y.size
      (∀ k y, y ∈ (t.core k).tlb ↔ y ∈ (s.core k).tlb ∧ ¬ out y) ∧
      (∀ k p l y, (l, y) ∈ (listGet {} (t.core k).parts p).last → ¬ out y) ∧
      (∀ d y, y ∈ KMap.get [] t.dieTlb d → ¬ out y) ∧
      (∀ p i, i ∈ (t.l1 p).invs → i.tctx.getD i.src.ctx = c → i.arrived.isSome = true))

/-! ## Contexts and domains -/

/-- Mailbox commands of contexts, granules and domains, R448, R453, R454, R464, R472, R481, R482: each acts while its code runs and
completes with its RESULT; a DOMCREATE's arguments are those its ARG0 to ARG5 and its list give, and it waits for the other members', which
must be the same. Where the undo logs lie, the granule of CTXCREATE, what CTXFREE drops, a domain of one package, and a count of 0 or a list
without this package as bad arguments are as logs 13, 21, 44, 45 and 92 say. -/
def Obligations.ContextCommands : Prop :=
  ∀ s : State,
    (s.running 7 = true → let c := s.arg 0
      (64 ≤ c ∨ (s.ctx c).state ≠ .stopped → exec .ctxresume s = .next (s.done 2)) ∧
      (c < 64 → (s.ctx c).state = .stopped → ∃ t, exec .ctxresume s = .next t ∧ t.ctx c = { s.ctx c with state := .live } ∧
        (∀ d, d ≠ c → t.ctx d = s.ctx d) ∧ t.mem = s.mem ∧ t.sys.busy = false ∧ t.sys.result = 0 ∧
        ∀ core slot b, s.block core slot = some b → b.ctx = c → ∃ b', t.block core slot = some b' ∧
          ∀ g ig r l, ig ∈ (b.group g).igs → ig.trap = some r → r.cause = 13 → ig.mask.getLsbD l = true →
            l < (b.group g).threads.length → ((b'.group g).thread l).exited = true)) ∧
    (s.running 8 = true → let c := s.arg 0
      (64 ≤ c ∨ (s.ctx c).state = .free → exec .ctxend s = .next (s.done 2)) ∧
      (c < 64 → (s.ctx c).state = .live ∨ (s.ctx c).state = .stopped → ∃ t, exec .ctxend s = .next (t.done 0) ∧
        CtxStep c { s.ctx c with state := .ending, cause := 20 } s t)) ∧
    (s.running 10 = true → let c := s.arg 0
      let root := (s.ctx c).ptroot.toNat * 2 ^ 19
      (64 ≤ c ∨ (s.ctx c).state ≠ .free ∨ s.sys.installed root = false → exec .ctxcreate s = .next (s.done 2)) ∧
      (c < 64 → (s.ctx c).state = .free → s.sys.installed root = true → (s.granule (root / 2 ^ 21)).v = true →
        ∃ t, exec .ctxcreate s = .next (t.done 0) ∧ CtxStep c { s.ctx c with state := .live } s t)) ∧
    (s.running 11 = true → let c := s.arg 0
      (64 ≤ c ∨ (s.ctx c).state ≠ .ended → exec .ctxfree s = .next (s.done 2)) ∧
      (c < 64 → (s.ctx c).state = .ended → ∃ t, exec .ctxfree s = .next t ∧ t.ctx c = {} ∧ (∀ d, d ≠ c → t.ctx d = s.ctx d) ∧
        t.mem = s.mem ∧ t.sys.busy = false ∧ t.sys.result = 0 ∧ ∀ k y,
          (y ∈ (t.core k).tlb → y ∈ (s.core k).tlb ∧ (y.ctx = c → 2 ^ 52 ≤ y.va ∨ y.va + y.size = 0)) ∧
          (y ∈ (s.core k).tlb → y.ctx ≠ c → y ∈ (t.core k).tlb))) ∧
    (s.running 12 = true → let o := s.arg 3
      let x : Granule := { v := o.testBit 7, sh := o.testBit 6, owner := BitVec.ofNat 6 o
                           share := if o.testBit 6 then dw (s.arg 4) else 0 }
      let gs := (List.range (s.arg 2)).map fun i => s.arg 0 * 2 ^ 15 + s.arg 1 + i
      (32 ≤ s.arg 0 ∨ s.arg 2 = 0 ∨ s.sys.stackGib * 512 < s.arg 1 + s.arg 2 ∨ (∃ g ∈ gs, s.reserved g = true) →
        exec .accset s = .next (s.done 2)) ∧
      (s.arg 0 < 32 → 0 < s.arg 2 → s.arg 1 + s.arg 2 ≤ s.sys.stackGib * 512 → (∀ g ∈ gs, s.reserved g = false) →
        (o.testBit 6 = true → 64 < s.sharers (s.arg 0) gs + s.arg 2 → exec .accset s = .next (s.done 5)) ∧
        (o.testBit 6 = false ∨ s.sharers (s.arg 0) gs + s.arg 2 ≤ 64 → ∃ t : State, exec .accset s = .next (t.done 0) ∧
          { t with granules := s.granules } = s ∧ ∀ g, t.granule g = if g ∈ gs then x else s.granule g))) ∧
    (s.running 18 = true → s.domPending = none →
      (s.domArgs = none → exec .domcreate s = .next (s.done 2)) ∧
      ∀ x, s.domArgs = some x → x.num = s.arg 0 ∧ s.sys.pkg ∈ x.args.members ∧ x.since = s.time ∧
        x.args.interval = (if s.arg 3 = 0 then 50 else s.arg 3) ∧ x.args.waitLimit = (if s.arg 4 = 0 then 1000 else s.arg 4) ∧
        x.args.capacity = (if s.arg 5 = 0 then 1024 else s.arg 5) ∧
        ((s.domain? x.num).isSome = true → exec .domcreate s = .next (s.done 2)) ∧
        ((s.domain? x.num).isSome = false → s.logRoom x.args.capacity = false → exec .domcreate s = .next (s.done 5)) ∧
        ((s.domain? x.num).isSome = false → s.logRoom x.args.capacity = true → exec .domcreate s = .next { s with
          domPending := some x, out := s.out ++ [FabMsg.domcreate x.num x.args] })) ∧
    (∀ x, s.domPending = some x →
      (∀ ys, (∀ y ∈ ys, y = x.args) → ys.length + 1 < x.args.members.length → exec (.domcreateMatch x.num ys) s = .next s) ∧
      (∀ ys, (∃ y ∈ ys, y ≠ x.args) → exec (.domcreateMatch x.num ys) s = .next (({ s with
        domPending := none } : State).done 2)) ∧
      (∀ ys, s.domain? x.num = none → (∀ y ∈ ys, y = x.args) → x.args.members.length ≤ ys.length + 1 →
        ∃ t d, exec (.domcreateMatch x.num ys) s = .next t ∧ t.domain? x.num = some d ∧
        d.leg = 1 ∧ d.members = x.args.members ∧ d.capacity = x.args.capacity ∧ d.interval = x.args.interval ∧
        d.waitLimit = x.args.waitLimit ∧
        d.phase = .idle ∧ d.wanted = false ∧ d.stopped = false ∧ d.since = s.time ∧
        (∀ e, e ≠ x.num → t.domain? e = s.domain? e) ∧
        t.domPending = none ∧ t.sys.busy = false ∧ t.sys.result = 0 ∧ t.ctxs = s.ctxs ∧ t.cores = s.cores) ∧
      (∀ lead, 1 < x.args.members.length →
        (x.since + usec 10000000 ≤ s.time + lead → exec (.domcreateTimeout ⟨x.num, lead⟩) s = .next (({ s with
          domPending := none } : State).done 2)) ∧
        (s.time + lead < x.since + usec 10000000 → exec (.domcreateTimeout ⟨x.num, lead⟩) s = .next s))) ∧
    (s.running 19 = true → let c := s.arg 0
      (64 ≤ c ∨ (s.ctx c).state ≠ .live ∨ (s.ctx c).domain.isSome = true ∨ s.domain? (s.arg 1) = none →
        exec .domjoin s = .next (s.done 2)) ∧
      (c < 64 → (s.ctx c).state = .live → (s.ctx c).domain = none → (∀ t ∈ s.itins, t.ctx ≠ c) → s.ctxBlocks c = [] →
        (∀ x ∈ s.saved, x.ctx ≠ c) → (s.domain? (s.arg 1)).isSome = true →
        ∃ t, exec .domjoin s = .next (t.done 0) ∧ CtxStep c { s.ctx c with domain := some (s.arg 1) } s t)) ∧
    (s.running 20 = true → let d := s.arg 0
      (s.domain? d = none ∨ (∃ c, (s.ctx c).domain = some d) → exec .domfree s = .next (s.done 2)) ∧
      ((s.domain? d).isSome = true → s.domCtxs d = [] → ∃ t : State, exec .domfree s = .next (t.done 0) ∧ t.domain? d = none ∧
        (∀ e, e ≠ d → t.domain? e = s.domain? e) ∧ (∀ e, e ∈ t.logs ↔ e ∈ s.logs ∧ e.dom ≠ d) ∧ { t with
          domains := s.domains, logs := s.logs } = s))

/-! ## Reset, and what every step keeps -/

/-- The machine after reset, R1, R419, R429, R435, R441, R452, R472, R489: boot stands at ROM, no context is live, the registers hold
their reset values, and memory lists nothing, so that it has the form that MemoryCanonical says every step keeps. What the fuses hold (the
grade, the stacks, no core fused off) and that memory reads zero are the model's choices, logs 5 and 6. -/
def Obligations.ResetState : Prop :=
  let s := Sys2Proof.Machine.State.reset
  s.sys.boot = .rom ∧ s.sys.busy = false ∧ s.sys.overrun = false ∧ s.sys.result = 0 ∧ s.sys.win2base = 0 ∧ s.sys.rasbase = 0 ∧
  s.sys.rasLog2n = 8 ∧ s.sys.power = 0 ∧ s.sys.aclkMhz = 1050 ∧ s.sys.pwrlim = BitVec.ofNat 16 s.sys.gradeLimit ∧
  s.sys.fabcfg = false ∧ s.sys.pkg = 0 ∧
  (∀ c, let x := s.ctx c
    x.state = .free ∧ x.cause = 0 ∧ x.wdog = 10000 ∧ x.handler = 0 ∧ x.ptroot = 0 ∧ x.maxprio = 255 ∧ x.agek = 31 ∧ x.steal = true ∧
    x.evLog2n = 6 ∧ x.evbase = 0 ∧ x.telLog2n = 0 ∧ x.manlen = 0 ∧ x.invBusy = false ∧ x.domain = none ∧
    ∀ q, let y := KMap.get {} x.queues q
      y.en = false ∧ y.log2n = 4 ∧ y.head = 0 ∧ y.tail = 0 ∧ y.err = false) ∧
  (∀ c k, s.block c k = none) ∧ (∀ p, (s.port p).state = .down) ∧ s.domains = [] ∧ s.flights = [] ∧
  s.mem.wf = true ∧ s.hmem.wf = true ∧ (∀ a, s.mem.read a = 0)

/-- Every step keeps device memory and host memory in canonical form: addresses strictly rising, and no entry that reads as an unlisted
address does. That memory holds bytes is R47; the form is the model's own choice and no rule of the spec: logs 6 and 33. -/
def Obligations.MemoryCanonical : Prop :=
  ∀ s t : State, s.mem.wf = true → s.hmem.wf = true → step s = .next t → t.mem.wf = true ∧ t.hmem.wf = true

/-- No step changes a fuse of the grade, the stacks, the cores or DEBUG, R1, R425, and the fuse counter never goes back, R432: over every
instruction, event and turn, resets and loss of power among them. -/
def Obligations.FusesPermanent : Prop :=
  ∀ s t : State, step s = .next t →
    t.sys.grade = s.sys.grade ∧ t.sys.stackGib = s.sys.stackGib ∧ t.sys.fusedOff = s.sys.fusedOff ∧ t.sys.debug = s.sys.debug ∧
    t.sys.stepping = s.sys.stepping ∧ s.sys.fuseSvn ≤ t.sys.fuseSvn
end

