-- ==== Sys2Proof/Laws/KMap.lean ====
section
/-! SUPPORT. Laws of sparse maps and of memory: read after write, and the canonical form of memory. -/

namespace Sys2Proof.Machine

variable {α : Type}

theorem KMap.get_put (d : α) (m : KMap α) (k j : Nat) (v : α) :
    KMap.get d (KMap.put m k v) j = if j = k then v else KMap.get d m j := by
  induction m with
  | nil => rfl
  | cons p t ih =>
    obtain ⟨a, b⟩ := p
    unfold KMap.put
    by_cases h : k = a
    · subst h
      simp only [if_true, KMap.get]
      split <;> rfl
    · by_cases h2 : k < a
      · simp only [h, h2, if_true, if_false, KMap.get]
      · simp only [h, h2, if_false, KMap.get, ih]
        split
        · rename_i h3; subst h3; rw [if_neg (fun e => h e.symm)]
        · rfl

theorem KMap.find_put (m : KMap α) (k j : Nat) (v : α) :
    KMap.find (KMap.put m k v) j = if j = k then some v else KMap.find m j := by
  induction m with
  | nil => rfl
  | cons p t ih =>
    obtain ⟨a, b⟩ := p
    unfold KMap.put
    by_cases h : k = a
    · subst h
      simp only [if_true, KMap.find]
      split <;> rfl
    · by_cases h2 : k < a
      · simp only [h, h2, if_true, if_false, KMap.find]
      · simp only [h, h2, if_false, KMap.find, ih]
        split
        · rename_i h3; subst h3; rw [if_neg (fun e => h e.symm)]
        · rfl

theorem KMap.get_of_find (d : α) (m : KMap α) (k : Nat) : KMap.get d m k = (KMap.find m k).getD d := by
  induction m with
  | nil => rfl
  | cons p t ih => simp only [KMap.get, KMap.find]; split <;> simp [ih]

variable [DecidableEq α]

theorem KMap.wfFrom_mono (d : α) {a b : Nat} (h : a ≤ b) : ∀ m : KMap α, KMap.wfFrom d b m = true → KMap.wfFrom d a m = true
  | [], _ => rfl
  | (k, v) :: t, w => by
    simp only [KMap.wfFrom, Bool.and_eq_true, decide_eq_true_eq] at w ⊢
    exact ⟨⟨by omega, w.1.2⟩, w.2⟩

theorem KMap.get_below (d : α) : ∀ (m : KMap α) (a k : Nat), KMap.wfFrom d a m = true → k < a → KMap.get d m k = d
  | [], _, _, _, _ => rfl
  | (j, v) :: t, a, k, w, h => by
    simp only [KMap.wfFrom, Bool.and_eq_true, decide_eq_true_eq] at w
    simp only [KMap.get]
    rw [if_neg (by omega)]
    exact KMap.get_below d t (j + 1) k w.2 (by omega)

theorem KMap.wfFrom_set (d : α) (v : α) : ∀ (m : KMap α) (a k : Nat), KMap.wfFrom d a m = true → a ≤ k →
    KMap.wfFrom d a (KMap.set d m k v) = true
  | [], a, k, _, h => by simp only [KMap.set]; split <;> simp_all [KMap.wfFrom]
  | (j, x) :: t, a, k, w, h => by
    simp only [KMap.wfFrom, Bool.and_eq_true, decide_eq_true_eq] at w
    unfold KMap.set
    split
    · subst_vars
      split
      · exact KMap.wfFrom_mono d (by omega) t w.2
      · simp_all [KMap.wfFrom]
    · split
      · split
        · simp_all [KMap.wfFrom]
        · simp_all [KMap.wfFrom]
      · simp only [KMap.wfFrom, Bool.and_eq_true, decide_eq_true_eq]
        exact ⟨w.1, KMap.wfFrom_set d v t (j + 1) k w.2 (by omega)⟩

/-- A canonical map reads back what was set; other keys stand. -/
theorem KMap.get_set (d v : α) : ∀ (m : KMap α) (a k j : Nat), KMap.wfFrom d a m = true →
    KMap.get d (KMap.set d m k v) j = if j = k then v else KMap.get d m j
  | [], a, k, j, _ => by
    simp only [KMap.set]; split
    · subst_vars; simp [KMap.get]
    · simp [KMap.get]
  | (i, x) :: t, a, k, j, w => by
    simp only [KMap.wfFrom, Bool.and_eq_true, decide_eq_true_eq] at w
    unfold KMap.set
    split
    · rename_i hk; subst hk
      split
      · rename_i hv; subst hv
        simp only [KMap.get]
        split
        · rename_i hj; subst hj; exact KMap.get_below _ t (j + 1) j w.2 (by omega)
        · rfl
      · simp only [KMap.get]; split <;> rfl
    · rename_i hk
      split
      · rename_i hlt
        split
        · rename_i hv; subst hv
          split
          · rename_i hj; subst hj
            simp only [KMap.get]
            rw [if_neg (by omega)]
            exact KMap.get_below _ t (i + 1) j w.2 (by omega)
          · rfl
        · simp only [KMap.get]
      · simp only [KMap.get, KMap.get_set d v t (i + 1) k j w.2]
        split
        · rename_i hj; subst hj; rw [if_neg (fun e => hk e.symm)]
        · rfl

/-! ## Memory -/

theorem Memory.read_write (m : Memory) (a b : Nat) (x : Byte) (h : m.wf = true) :
    (m.write a x).read b = if b = a then x else m.read b := KMap.get_set _ _ m 0 a b h

theorem Memory.wf_write (m : Memory) (a : Nat) (x : Byte) (h : m.wf = true) : (m.write a x).wf = true :=
  KMap.wfFrom_set _ _ m 0 a h (Nat.zero_le a)

theorem Memory.wf_writeN : ∀ (bs : List Byte) (m : Memory) (a : Nat), m.wf = true → (Memory.writeN m a bs).wf = true
  | [], _, _, h => h
  | b :: bs, m, a, h => Memory.wf_writeN bs (m.write a b) (a + 1) (Memory.wf_write m a b h)

theorem Memory.wf_writeMasked : ∀ (bs : List (Byte × Byte)) (m : Memory) (a : Nat), m.wf = true →
    (Memory.writeMasked m a bs).wf = true
  | [], _, _, h => h
  | (_, _) :: bs, m, a, h => Memory.wf_writeMasked bs _ (a + 1) (Memory.wf_write m a _ h)

end Sys2Proof.Machine
end

