-- ==== Sys2Proof/Laws/State.lean ====
section
/-! SUPPORT. Laws of the updates of State: what each leaves alone, one lemma for each field and update. -/

namespace Sys2Proof.Machine

@[simp] theorem State.setCtx_sys (s : State) (c : Nat) (x : Ctx) : (s.setCtx c x).sys = s.sys := rfl
@[simp] theorem State.setCtx_clock (s : State) (c : Nat) (x : Ctx) : (s.setCtx c x).clock = s.clock := rfl
@[simp] theorem State.setCtx_time (s : State) (c : Nat) (x : Ctx) : (s.setCtx c x).time = s.time := rfl
@[simp] theorem State.setCtx_mem (s : State) (c : Nat) (x : Ctx) : (s.setCtx c x).mem = s.mem := rfl
@[simp] theorem State.setCtx_hmem (s : State) (c : Nat) (x : Ctx) : (s.setCtx c x).hmem = s.hmem := rfl
@[simp] theorem State.setCtx_mmioOut (s : State) (c : Nat) (x : Ctx) : (s.setCtx c x).mmioOut = s.mmioOut := rfl
@[simp] theorem State.setCtx_granules (s : State) (c : Nat) (x : Ctx) : (s.setCtx c x).granules = s.granules := rfl
@[simp] theorem State.setCtx_poison (s : State) (c : Nat) (x : Ctx) : (s.setCtx c x).poison = s.poison := rfl
@[simp] theorem State.setCtx_cu (s : State) (c : Nat) (x : Ctx) : (s.setCtx c x).cu = s.cu := rfl
@[simp] theorem State.setCtx_homeHeld (s : State) (c : Nat) (x : Ctx) : (s.setCtx c x).homeHeld = s.homeHeld := rfl
@[simp] theorem State.setCtx_windows (s : State) (c : Nat) (x : Ctx) : (s.setCtx c x).windows = s.windows := rfl
@[simp] theorem State.setCtx_ordered (s : State) (c : Nat) (x : Ctx) : (s.setCtx c x).ordered = s.ordered := rfl
@[simp] theorem State.setCtx_itins (s : State) (c : Nat) (x : Ctx) : (s.setCtx c x).itins = s.itins := rfl
@[simp] theorem State.setCtx_cores (s : State) (c : Nat) (x : Ctx) : (s.setCtx c x).cores = s.cores := rfl
@[simp] theorem State.setCtx_saved (s : State) (c : Nat) (x : Ctx) : (s.setCtx c x).saved = s.saved := rfl
@[simp] theorem State.setCtx_halts (s : State) (c : Nat) (x : Ctx) : (s.setCtx c x).halts = s.halts := rfl
@[simp] theorem State.setCtx_domains (s : State) (c : Nat) (x : Ctx) : (s.setCtx c x).domains = s.domains := rfl
@[simp] theorem State.setCtx_domPending (s : State) (c : Nat) (x : Ctx) : (s.setCtx c x).domPending = s.domPending := rfl
@[simp] theorem State.setCtx_logs (s : State) (c : Nat) (x : Ctx) : (s.setCtx c x).logs = s.logs := rfl
@[simp] theorem State.setCtx_holds (s : State) (c : Nat) (x : Ctx) : (s.setCtx c x).holds = s.holds := rfl
@[simp] theorem State.setCtx_injects (s : State) (c : Nat) (x : Ctx) : (s.setCtx c x).injects = s.injects := rfl
@[simp] theorem State.setCtx_ports (s : State) (c : Nat) (x : Ctx) : (s.setCtx c x).ports = s.ports := rfl
@[simp] theorem State.setCtx_routes (s : State) (c : Nat) (x : Ctx) : (s.setCtx c x).routes = s.routes := rfl
@[simp] theorem State.setCtx_flights (s : State) (c : Nat) (x : Ctx) : (s.setCtx c x).flights = s.flights := rfl
@[simp] theorem State.setCtx_accepted (s : State) (c : Nat) (x : Ctx) : (s.setCtx c x).accepted = s.accepted := rfl
@[simp] theorem State.setCtx_seqs (s : State) (c : Nat) (x : Ctx) : (s.setCtx c x).seqs = s.seqs := rfl
@[simp] theorem State.setCtx_out (s : State) (c : Nat) (x : Ctx) : (s.setCtx c x).out = s.out := rfl
@[simp] theorem State.setCtx_agenda (s : State) (c : Nat) (x : Ctx) : (s.setCtx c x).agenda = s.agenda := rfl
@[simp] theorem State.setCtx_focus (s : State) (c : Nat) (x : Ctx) : (s.setCtx c x).focus = s.focus := rfl
@[simp] theorem State.setCtx_switch (s : State) (c : Nat) (x : Ctx) : (s.setCtx c x).switch = s.switch := rfl
@[simp] theorem State.setCtx_freeCtr (s : State) (c : Nat) (x : Ctx) : (s.setCtx c x).freeCtr = s.freeCtr := rfl
@[simp] theorem State.setCtx_nextId (s : State) (c : Nat) (x : Ctx) : (s.setCtx c x).nextId = s.nextId := rfl
@[simp] theorem State.setCtx_l1s (s : State) (c : Nat) (x : Ctx) : (s.setCtx c x).l1s = s.l1s := rfl
@[simp] theorem State.setCtx_dieTlb (s : State) (c : Nat) (x : Ctx) : (s.setCtx c x).dieTlb = s.dieTlb := rfl
@[simp] theorem State.setCtx_upper (s : State) (c : Nat) (x : Ctx) : (s.setCtx c x).upper = s.upper := rfl
@[simp] theorem State.setCtx_marks (s : State) (c : Nat) (x : Ctx) : (s.setCtx c x).marks = s.marks := rfl
@[simp] theorem State.setCtx_delivered (s : State) (c : Nat) (x : Ctx) : (s.setCtx c x).delivered = s.delivered := rfl
@[simp] theorem State.setCtx_pick (s : State) (c : Nat) (x : Ctx) : (s.setCtx c x).pick = s.pick := rfl
@[simp] theorem State.setCtx_joint (s : State) (c : Nat) (x : Ctx) : (s.setCtx c x).joint = s.joint := rfl

@[simp] theorem State.setCore_sys (s : State) (c : Nat) (x : Core) : (s.setCore c x).sys = s.sys := rfl
@[simp] theorem State.setCore_clock (s : State) (c : Nat) (x : Core) : (s.setCore c x).clock = s.clock := rfl
@[simp] theorem State.setCore_time (s : State) (c : Nat) (x : Core) : (s.setCore c x).time = s.time := rfl
@[simp] theorem State.setCore_mem (s : State) (c : Nat) (x : Core) : (s.setCore c x).mem = s.mem := rfl
@[simp] theorem State.setCore_hmem (s : State) (c : Nat) (x : Core) : (s.setCore c x).hmem = s.hmem := rfl
@[simp] theorem State.setCore_mmioOut (s : State) (c : Nat) (x : Core) : (s.setCore c x).mmioOut = s.mmioOut := rfl
@[simp] theorem State.setCore_granules (s : State) (c : Nat) (x : Core) : (s.setCore c x).granules = s.granules := rfl
@[simp] theorem State.setCore_poison (s : State) (c : Nat) (x : Core) : (s.setCore c x).poison = s.poison := rfl
@[simp] theorem State.setCore_cu (s : State) (c : Nat) (x : Core) : (s.setCore c x).cu = s.cu := rfl
@[simp] theorem State.setCore_homeHeld (s : State) (c : Nat) (x : Core) : (s.setCore c x).homeHeld = s.homeHeld := rfl
@[simp] theorem State.setCore_windows (s : State) (c : Nat) (x : Core) : (s.setCore c x).windows = s.windows := rfl
@[simp] theorem State.setCore_ordered (s : State) (c : Nat) (x : Core) : (s.setCore c x).ordered = s.ordered := rfl
@[simp] theorem State.setCore_ctxs (s : State) (c : Nat) (x : Core) : (s.setCore c x).ctxs = s.ctxs := rfl
@[simp] theorem State.setCore_itins (s : State) (c : Nat) (x : Core) : (s.setCore c x).itins = s.itins := rfl
@[simp] theorem State.setCore_saved (s : State) (c : Nat) (x : Core) : (s.setCore c x).saved = s.saved := rfl
@[simp] theorem State.setCore_halts (s : State) (c : Nat) (x : Core) : (s.setCore c x).halts = s.halts := rfl
@[simp] theorem State.setCore_domains (s : State) (c : Nat) (x : Core) : (s.setCore c x).domains = s.domains := rfl
@[simp] theorem State.setCore_domPending (s : State) (c : Nat) (x : Core) : (s.setCore c x).domPending = s.domPending := rfl
@[simp] theorem State.setCore_logs (s : State) (c : Nat) (x : Core) : (s.setCore c x).logs = s.logs := rfl
@[simp] theorem State.setCore_holds (s : State) (c : Nat) (x : Core) : (s.setCore c x).holds = s.holds := rfl
@[simp] theorem State.setCore_injects (s : State) (c : Nat) (x : Core) : (s.setCore c x).injects = s.injects := rfl
@[simp] theorem State.setCore_ports (s : State) (c : Nat) (x : Core) : (s.setCore c x).ports = s.ports := rfl
@[simp] theorem State.setCore_routes (s : State) (c : Nat) (x : Core) : (s.setCore c x).routes = s.routes := rfl
@[simp] theorem State.setCore_flights (s : State) (c : Nat) (x : Core) : (s.setCore c x).flights = s.flights := rfl
@[simp] theorem State.setCore_accepted (s : State) (c : Nat) (x : Core) : (s.setCore c x).accepted = s.accepted := rfl
@[simp] theorem State.setCore_seqs (s : State) (c : Nat) (x : Core) : (s.setCore c x).seqs = s.seqs := rfl
@[simp] theorem State.setCore_out (s : State) (c : Nat) (x : Core) : (s.setCore c x).out = s.out := rfl
@[simp] theorem State.setCore_agenda (s : State) (c : Nat) (x : Core) : (s.setCore c x).agenda = s.agenda := rfl
@[simp] theorem State.setCore_focus (s : State) (c : Nat) (x : Core) : (s.setCore c x).focus = s.focus := rfl
@[simp] theorem State.setCore_switch (s : State) (c : Nat) (x : Core) : (s.setCore c x).switch = s.switch := rfl
@[simp] theorem State.setCore_freeCtr (s : State) (c : Nat) (x : Core) : (s.setCore c x).freeCtr = s.freeCtr := rfl
@[simp] theorem State.setCore_nextId (s : State) (c : Nat) (x : Core) : (s.setCore c x).nextId = s.nextId := rfl
@[simp] theorem State.setCore_l1s (s : State) (c : Nat) (x : Core) : (s.setCore c x).l1s = s.l1s := rfl
@[simp] theorem State.setCore_dieTlb (s : State) (c : Nat) (x : Core) : (s.setCore c x).dieTlb = s.dieTlb := rfl
@[simp] theorem State.setCore_upper (s : State) (c : Nat) (x : Core) : (s.setCore c x).upper = s.upper := rfl
@[simp] theorem State.setCore_marks (s : State) (c : Nat) (x : Core) : (s.setCore c x).marks = s.marks := rfl
@[simp] theorem State.setCore_delivered (s : State) (c : Nat) (x : Core) : (s.setCore c x).delivered = s.delivered := rfl
@[simp] theorem State.setCore_pick (s : State) (c : Nat) (x : Core) : (s.setCore c x).pick = s.pick := rfl
@[simp] theorem State.setCore_joint (s : State) (c : Nat) (x : Core) : (s.setCore c x).joint = s.joint := rfl

@[simp] theorem State.modCtx_sys (s : State) (c : Nat) (f : Ctx → Ctx) : (s.modCtx c f).sys = s.sys := rfl
@[simp] theorem State.modCtx_clock (s : State) (c : Nat) (f : Ctx → Ctx) : (s.modCtx c f).clock = s.clock := rfl
@[simp] theorem State.modCtx_time (s : State) (c : Nat) (f : Ctx → Ctx) : (s.modCtx c f).time = s.time := rfl
@[simp] theorem State.modCtx_mem (s : State) (c : Nat) (f : Ctx → Ctx) : (s.modCtx c f).mem = s.mem := rfl
@[simp] theorem State.modCtx_hmem (s : State) (c : Nat) (f : Ctx → Ctx) : (s.modCtx c f).hmem = s.hmem := rfl
@[simp] theorem State.modCtx_mmioOut (s : State) (c : Nat) (f : Ctx → Ctx) : (s.modCtx c f).mmioOut = s.mmioOut := rfl
@[simp] theorem State.modCtx_granules (s : State) (c : Nat) (f : Ctx → Ctx) : (s.modCtx c f).granules = s.granules := rfl
@[simp] theorem State.modCtx_poison (s : State) (c : Nat) (f : Ctx → Ctx) : (s.modCtx c f).poison = s.poison := rfl
@[simp] theorem State.modCtx_cu (s : State) (c : Nat) (f : Ctx → Ctx) : (s.modCtx c f).cu = s.cu := rfl
@[simp] theorem State.modCtx_homeHeld (s : State) (c : Nat) (f : Ctx → Ctx) : (s.modCtx c f).homeHeld = s.homeHeld := rfl
@[simp] theorem State.modCtx_windows (s : State) (c : Nat) (f : Ctx → Ctx) : (s.modCtx c f).windows = s.windows := rfl
@[simp] theorem State.modCtx_ordered (s : State) (c : Nat) (f : Ctx → Ctx) : (s.modCtx c f).ordered = s.ordered := rfl
@[simp] theorem State.modCtx_itins (s : State) (c : Nat) (f : Ctx → Ctx) : (s.modCtx c f).itins = s.itins := rfl
@[simp] theorem State.modCtx_cores (s : State) (c : Nat) (f : Ctx → Ctx) : (s.modCtx c f).cores = s.cores := rfl
@[simp] theorem State.modCtx_saved (s : State) (c : Nat) (f : Ctx → Ctx) : (s.modCtx c f).saved = s.saved := rfl
@[simp] theorem State.modCtx_halts (s : State) (c : Nat) (f : Ctx → Ctx) : (s.modCtx c f).halts = s.halts := rfl
@[simp] theorem State.modCtx_domains (s : State) (c : Nat) (f : Ctx → Ctx) : (s.modCtx c f).domains = s.domains := rfl
@[simp] theorem State.modCtx_domPending (s : State) (c : Nat) (f : Ctx → Ctx) : (s.modCtx c f).domPending = s.domPending := rfl
@[simp] theorem State.modCtx_logs (s : State) (c : Nat) (f : Ctx → Ctx) : (s.modCtx c f).logs = s.logs := rfl
@[simp] theorem State.modCtx_holds (s : State) (c : Nat) (f : Ctx → Ctx) : (s.modCtx c f).holds = s.holds := rfl
@[simp] theorem State.modCtx_injects (s : State) (c : Nat) (f : Ctx → Ctx) : (s.modCtx c f).injects = s.injects := rfl
@[simp] theorem State.modCtx_ports (s : State) (c : Nat) (f : Ctx → Ctx) : (s.modCtx c f).ports = s.ports := rfl
@[simp] theorem State.modCtx_routes (s : State) (c : Nat) (f : Ctx → Ctx) : (s.modCtx c f).routes = s.routes := rfl
@[simp] theorem State.modCtx_flights (s : State) (c : Nat) (f : Ctx → Ctx) : (s.modCtx c f).flights = s.flights := rfl
@[simp] theorem State.modCtx_accepted (s : State) (c : Nat) (f : Ctx → Ctx) : (s.modCtx c f).accepted = s.accepted := rfl
@[simp] theorem State.modCtx_seqs (s : State) (c : Nat) (f : Ctx → Ctx) : (s.modCtx c f).seqs = s.seqs := rfl
@[simp] theorem State.modCtx_out (s : State) (c : Nat) (f : Ctx → Ctx) : (s.modCtx c f).out = s.out := rfl
@[simp] theorem State.modCtx_agenda (s : State) (c : Nat) (f : Ctx → Ctx) : (s.modCtx c f).agenda = s.agenda := rfl
@[simp] theorem State.modCtx_focus (s : State) (c : Nat) (f : Ctx → Ctx) : (s.modCtx c f).focus = s.focus := rfl
@[simp] theorem State.modCtx_switch (s : State) (c : Nat) (f : Ctx → Ctx) : (s.modCtx c f).switch = s.switch := rfl
@[simp] theorem State.modCtx_freeCtr (s : State) (c : Nat) (f : Ctx → Ctx) : (s.modCtx c f).freeCtr = s.freeCtr := rfl
@[simp] theorem State.modCtx_nextId (s : State) (c : Nat) (f : Ctx → Ctx) : (s.modCtx c f).nextId = s.nextId := rfl
@[simp] theorem State.modCtx_l1s (s : State) (c : Nat) (f : Ctx → Ctx) : (s.modCtx c f).l1s = s.l1s := rfl
@[simp] theorem State.modCtx_dieTlb (s : State) (c : Nat) (f : Ctx → Ctx) : (s.modCtx c f).dieTlb = s.dieTlb := rfl
@[simp] theorem State.modCtx_upper (s : State) (c : Nat) (f : Ctx → Ctx) : (s.modCtx c f).upper = s.upper := rfl
@[simp] theorem State.modCtx_marks (s : State) (c : Nat) (f : Ctx → Ctx) : (s.modCtx c f).marks = s.marks := rfl
@[simp] theorem State.modCtx_delivered (s : State) (c : Nat) (f : Ctx → Ctx) : (s.modCtx c f).delivered = s.delivered := rfl
@[simp] theorem State.modCtx_pick (s : State) (c : Nat) (f : Ctx → Ctx) : (s.modCtx c f).pick = s.pick := rfl
@[simp] theorem State.modCtx_joint (s : State) (c : Nat) (f : Ctx → Ctx) : (s.modCtx c f).joint = s.joint := rfl

@[simp] theorem State.modCore_sys (s : State) (c : Nat) (f : Core → Core) : (s.modCore c f).sys = s.sys := rfl
@[simp] theorem State.modCore_clock (s : State) (c : Nat) (f : Core → Core) : (s.modCore c f).clock = s.clock := rfl
@[simp] theorem State.modCore_time (s : State) (c : Nat) (f : Core → Core) : (s.modCore c f).time = s.time := rfl
@[simp] theorem State.modCore_mem (s : State) (c : Nat) (f : Core → Core) : (s.modCore c f).mem = s.mem := rfl
@[simp] theorem State.modCore_hmem (s : State) (c : Nat) (f : Core → Core) : (s.modCore c f).hmem = s.hmem := rfl
@[simp] theorem State.modCore_mmioOut (s : State) (c : Nat) (f : Core → Core) : (s.modCore c f).mmioOut = s.mmioOut := rfl
@[simp] theorem State.modCore_granules (s : State) (c : Nat) (f : Core → Core) : (s.modCore c f).granules = s.granules := rfl
@[simp] theorem State.modCore_poison (s : State) (c : Nat) (f : Core → Core) : (s.modCore c f).poison = s.poison := rfl
@[simp] theorem State.modCore_cu (s : State) (c : Nat) (f : Core → Core) : (s.modCore c f).cu = s.cu := rfl
@[simp] theorem State.modCore_homeHeld (s : State) (c : Nat) (f : Core → Core) : (s.modCore c f).homeHeld = s.homeHeld := rfl
@[simp] theorem State.modCore_windows (s : State) (c : Nat) (f : Core → Core) : (s.modCore c f).windows = s.windows := rfl
@[simp] theorem State.modCore_ordered (s : State) (c : Nat) (f : Core → Core) : (s.modCore c f).ordered = s.ordered := rfl
@[simp] theorem State.modCore_ctxs (s : State) (c : Nat) (f : Core → Core) : (s.modCore c f).ctxs = s.ctxs := rfl
@[simp] theorem State.modCore_itins (s : State) (c : Nat) (f : Core → Core) : (s.modCore c f).itins = s.itins := rfl
@[simp] theorem State.modCore_saved (s : State) (c : Nat) (f : Core → Core) : (s.modCore c f).saved = s.saved := rfl
@[simp] theorem State.modCore_halts (s : State) (c : Nat) (f : Core → Core) : (s.modCore c f).halts = s.halts := rfl
@[simp] theorem State.modCore_domains (s : State) (c : Nat) (f : Core → Core) : (s.modCore c f).domains = s.domains := rfl
@[simp] theorem State.modCore_domPending (s : State) (c : Nat) (f : Core → Core) : (s.modCore c f).domPending = s.domPending := rfl
@[simp] theorem State.modCore_logs (s : State) (c : Nat) (f : Core → Core) : (s.modCore c f).logs = s.logs := rfl
@[simp] theorem State.modCore_holds (s : State) (c : Nat) (f : Core → Core) : (s.modCore c f).holds = s.holds := rfl
@[simp] theorem State.modCore_injects (s : State) (c : Nat) (f : Core → Core) : (s.modCore c f).injects = s.injects := rfl
@[simp] theorem State.modCore_ports (s : State) (c : Nat) (f : Core → Core) : (s.modCore c f).ports = s.ports := rfl
@[simp] theorem State.modCore_routes (s : State) (c : Nat) (f : Core → Core) : (s.modCore c f).routes = s.routes := rfl
@[simp] theorem State.modCore_flights (s : State) (c : Nat) (f : Core → Core) : (s.modCore c f).flights = s.flights := rfl
@[simp] theorem State.modCore_accepted (s : State) (c : Nat) (f : Core → Core) : (s.modCore c f).accepted = s.accepted := rfl
@[simp] theorem State.modCore_seqs (s : State) (c : Nat) (f : Core → Core) : (s.modCore c f).seqs = s.seqs := rfl
@[simp] theorem State.modCore_out (s : State) (c : Nat) (f : Core → Core) : (s.modCore c f).out = s.out := rfl
@[simp] theorem State.modCore_agenda (s : State) (c : Nat) (f : Core → Core) : (s.modCore c f).agenda = s.agenda := rfl
@[simp] theorem State.modCore_focus (s : State) (c : Nat) (f : Core → Core) : (s.modCore c f).focus = s.focus := rfl
@[simp] theorem State.modCore_switch (s : State) (c : Nat) (f : Core → Core) : (s.modCore c f).switch = s.switch := rfl
@[simp] theorem State.modCore_freeCtr (s : State) (c : Nat) (f : Core → Core) : (s.modCore c f).freeCtr = s.freeCtr := rfl
@[simp] theorem State.modCore_nextId (s : State) (c : Nat) (f : Core → Core) : (s.modCore c f).nextId = s.nextId := rfl
@[simp] theorem State.modCore_l1s (s : State) (c : Nat) (f : Core → Core) : (s.modCore c f).l1s = s.l1s := rfl
@[simp] theorem State.modCore_dieTlb (s : State) (c : Nat) (f : Core → Core) : (s.modCore c f).dieTlb = s.dieTlb := rfl
@[simp] theorem State.modCore_upper (s : State) (c : Nat) (f : Core → Core) : (s.modCore c f).upper = s.upper := rfl
@[simp] theorem State.modCore_marks (s : State) (c : Nat) (f : Core → Core) : (s.modCore c f).marks = s.marks := rfl
@[simp] theorem State.modCore_delivered (s : State) (c : Nat) (f : Core → Core) : (s.modCore c f).delivered = s.delivered := rfl
@[simp] theorem State.modCore_pick (s : State) (c : Nat) (f : Core → Core) : (s.modCore c f).pick = s.pick := rfl
@[simp] theorem State.modCore_joint (s : State) (c : Nat) (f : Core → Core) : (s.modCore c f).joint = s.joint := rfl

@[simp] theorem State.setBlock_sys (s : State) (c k : Nat) (b : Block) : (s.setBlock c k b).sys = s.sys := rfl
@[simp] theorem State.setBlock_clock (s : State) (c k : Nat) (b : Block) : (s.setBlock c k b).clock = s.clock := rfl
@[simp] theorem State.setBlock_time (s : State) (c k : Nat) (b : Block) : (s.setBlock c k b).time = s.time := rfl
@[simp] theorem State.setBlock_mem (s : State) (c k : Nat) (b : Block) : (s.setBlock c k b).mem = s.mem := rfl
@[simp] theorem State.setBlock_hmem (s : State) (c k : Nat) (b : Block) : (s.setBlock c k b).hmem = s.hmem := rfl
@[simp] theorem State.setBlock_mmioOut (s : State) (c k : Nat) (b : Block) : (s.setBlock c k b).mmioOut = s.mmioOut := rfl
@[simp] theorem State.setBlock_granules (s : State) (c k : Nat) (b : Block) : (s.setBlock c k b).granules = s.granules := rfl
@[simp] theorem State.setBlock_poison (s : State) (c k : Nat) (b : Block) : (s.setBlock c k b).poison = s.poison := rfl
@[simp] theorem State.setBlock_cu (s : State) (c k : Nat) (b : Block) : (s.setBlock c k b).cu = s.cu := rfl
@[simp] theorem State.setBlock_homeHeld (s : State) (c k : Nat) (b : Block) : (s.setBlock c k b).homeHeld = s.homeHeld := rfl
@[simp] theorem State.setBlock_windows (s : State) (c k : Nat) (b : Block) : (s.setBlock c k b).windows = s.windows := rfl
@[simp] theorem State.setBlock_ordered (s : State) (c k : Nat) (b : Block) : (s.setBlock c k b).ordered = s.ordered := rfl
@[simp] theorem State.setBlock_ctxs (s : State) (c k : Nat) (b : Block) : (s.setBlock c k b).ctxs = s.ctxs := rfl
@[simp] theorem State.setBlock_itins (s : State) (c k : Nat) (b : Block) : (s.setBlock c k b).itins = s.itins := rfl
@[simp] theorem State.setBlock_saved (s : State) (c k : Nat) (b : Block) : (s.setBlock c k b).saved = s.saved := rfl
@[simp] theorem State.setBlock_halts (s : State) (c k : Nat) (b : Block) : (s.setBlock c k b).halts = s.halts := rfl
@[simp] theorem State.setBlock_domains (s : State) (c k : Nat) (b : Block) : (s.setBlock c k b).domains = s.domains := rfl
@[simp] theorem State.setBlock_domPending (s : State) (c k : Nat) (b : Block) : (s.setBlock c k b).domPending = s.domPending := rfl
@[simp] theorem State.setBlock_logs (s : State) (c k : Nat) (b : Block) : (s.setBlock c k b).logs = s.logs := rfl
@[simp] theorem State.setBlock_holds (s : State) (c k : Nat) (b : Block) : (s.setBlock c k b).holds = s.holds := rfl
@[simp] theorem State.setBlock_injects (s : State) (c k : Nat) (b : Block) : (s.setBlock c k b).injects = s.injects := rfl
@[simp] theorem State.setBlock_ports (s : State) (c k : Nat) (b : Block) : (s.setBlock c k b).ports = s.ports := rfl
@[simp] theorem State.setBlock_routes (s : State) (c k : Nat) (b : Block) : (s.setBlock c k b).routes = s.routes := rfl
@[simp] theorem State.setBlock_flights (s : State) (c k : Nat) (b : Block) : (s.setBlock c k b).flights = s.flights := rfl
@[simp] theorem State.setBlock_accepted (s : State) (c k : Nat) (b : Block) : (s.setBlock c k b).accepted = s.accepted := rfl
@[simp] theorem State.setBlock_seqs (s : State) (c k : Nat) (b : Block) : (s.setBlock c k b).seqs = s.seqs := rfl
@[simp] theorem State.setBlock_out (s : State) (c k : Nat) (b : Block) : (s.setBlock c k b).out = s.out := rfl
@[simp] theorem State.setBlock_agenda (s : State) (c k : Nat) (b : Block) : (s.setBlock c k b).agenda = s.agenda := rfl
@[simp] theorem State.setBlock_focus (s : State) (c k : Nat) (b : Block) : (s.setBlock c k b).focus = s.focus := rfl
@[simp] theorem State.setBlock_switch (s : State) (c k : Nat) (b : Block) : (s.setBlock c k b).switch = s.switch := rfl
@[simp] theorem State.setBlock_freeCtr (s : State) (c k : Nat) (b : Block) : (s.setBlock c k b).freeCtr = s.freeCtr := rfl
@[simp] theorem State.setBlock_nextId (s : State) (c k : Nat) (b : Block) : (s.setBlock c k b).nextId = s.nextId := rfl
@[simp] theorem State.setBlock_l1s (s : State) (c k : Nat) (b : Block) : (s.setBlock c k b).l1s = s.l1s := rfl
@[simp] theorem State.setBlock_dieTlb (s : State) (c k : Nat) (b : Block) : (s.setBlock c k b).dieTlb = s.dieTlb := rfl
@[simp] theorem State.setBlock_upper (s : State) (c k : Nat) (b : Block) : (s.setBlock c k b).upper = s.upper := rfl
@[simp] theorem State.setBlock_marks (s : State) (c k : Nat) (b : Block) : (s.setBlock c k b).marks = s.marks := rfl
@[simp] theorem State.setBlock_delivered (s : State) (c k : Nat) (b : Block) : (s.setBlock c k b).delivered = s.delivered := rfl
@[simp] theorem State.setBlock_pick (s : State) (c k : Nat) (b : Block) : (s.setBlock c k b).pick = s.pick := rfl
@[simp] theorem State.setBlock_joint (s : State) (c k : Nat) (b : Block) : (s.setBlock c k b).joint = s.joint := rfl

@[simp] theorem State.modDomain_sys (s : State) (d : Nat) (f : Domain → Domain) : (s.modDomain d f).sys = s.sys := rfl
@[simp] theorem State.modDomain_clock (s : State) (d : Nat) (f : Domain → Domain) : (s.modDomain d f).clock = s.clock := rfl
@[simp] theorem State.modDomain_time (s : State) (d : Nat) (f : Domain → Domain) : (s.modDomain d f).time = s.time := rfl
@[simp] theorem State.modDomain_mem (s : State) (d : Nat) (f : Domain → Domain) : (s.modDomain d f).mem = s.mem := rfl
@[simp] theorem State.modDomain_hmem (s : State) (d : Nat) (f : Domain → Domain) : (s.modDomain d f).hmem = s.hmem := rfl
@[simp] theorem State.modDomain_mmioOut (s : State) (d : Nat) (f : Domain → Domain) : (s.modDomain d f).mmioOut = s.mmioOut := rfl
@[simp] theorem State.modDomain_granules (s : State) (d : Nat) (f : Domain → Domain) : (s.modDomain d f).granules = s.granules := rfl
@[simp] theorem State.modDomain_poison (s : State) (d : Nat) (f : Domain → Domain) : (s.modDomain d f).poison = s.poison := rfl
@[simp] theorem State.modDomain_cu (s : State) (d : Nat) (f : Domain → Domain) : (s.modDomain d f).cu = s.cu := rfl
@[simp] theorem State.modDomain_homeHeld (s : State) (d : Nat) (f : Domain → Domain) : (s.modDomain d f).homeHeld = s.homeHeld := rfl
@[simp] theorem State.modDomain_windows (s : State) (d : Nat) (f : Domain → Domain) : (s.modDomain d f).windows = s.windows := rfl
@[simp] theorem State.modDomain_ordered (s : State) (d : Nat) (f : Domain → Domain) : (s.modDomain d f).ordered = s.ordered := rfl
@[simp] theorem State.modDomain_ctxs (s : State) (d : Nat) (f : Domain → Domain) : (s.modDomain d f).ctxs = s.ctxs := rfl
@[simp] theorem State.modDomain_itins (s : State) (d : Nat) (f : Domain → Domain) : (s.modDomain d f).itins = s.itins := rfl
@[simp] theorem State.modDomain_cores (s : State) (d : Nat) (f : Domain → Domain) : (s.modDomain d f).cores = s.cores := rfl
@[simp] theorem State.modDomain_saved (s : State) (d : Nat) (f : Domain → Domain) : (s.modDomain d f).saved = s.saved := rfl
@[simp] theorem State.modDomain_halts (s : State) (d : Nat) (f : Domain → Domain) : (s.modDomain d f).halts = s.halts := rfl
@[simp] theorem State.modDomain_domPending (s : State) (d : Nat) (f : Domain → Domain) : (s.modDomain d f).domPending = s.domPending := rfl
@[simp] theorem State.modDomain_logs (s : State) (d : Nat) (f : Domain → Domain) : (s.modDomain d f).logs = s.logs := rfl
@[simp] theorem State.modDomain_holds (s : State) (d : Nat) (f : Domain → Domain) : (s.modDomain d f).holds = s.holds := rfl
@[simp] theorem State.modDomain_injects (s : State) (d : Nat) (f : Domain → Domain) : (s.modDomain d f).injects = s.injects := rfl
@[simp] theorem State.modDomain_ports (s : State) (d : Nat) (f : Domain → Domain) : (s.modDomain d f).ports = s.ports := rfl
@[simp] theorem State.modDomain_routes (s : State) (d : Nat) (f : Domain → Domain) : (s.modDomain d f).routes = s.routes := rfl
@[simp] theorem State.modDomain_flights (s : State) (d : Nat) (f : Domain → Domain) : (s.modDomain d f).flights = s.flights := rfl
@[simp] theorem State.modDomain_accepted (s : State) (d : Nat) (f : Domain → Domain) : (s.modDomain d f).accepted = s.accepted := rfl
@[simp] theorem State.modDomain_seqs (s : State) (d : Nat) (f : Domain → Domain) : (s.modDomain d f).seqs = s.seqs := rfl
@[simp] theorem State.modDomain_out (s : State) (d : Nat) (f : Domain → Domain) : (s.modDomain d f).out = s.out := rfl
@[simp] theorem State.modDomain_agenda (s : State) (d : Nat) (f : Domain → Domain) : (s.modDomain d f).agenda = s.agenda := rfl
@[simp] theorem State.modDomain_focus (s : State) (d : Nat) (f : Domain → Domain) : (s.modDomain d f).focus = s.focus := rfl
@[simp] theorem State.modDomain_switch (s : State) (d : Nat) (f : Domain → Domain) : (s.modDomain d f).switch = s.switch := rfl
@[simp] theorem State.modDomain_freeCtr (s : State) (d : Nat) (f : Domain → Domain) : (s.modDomain d f).freeCtr = s.freeCtr := rfl
@[simp] theorem State.modDomain_nextId (s : State) (d : Nat) (f : Domain → Domain) : (s.modDomain d f).nextId = s.nextId := rfl
@[simp] theorem State.modDomain_l1s (s : State) (d : Nat) (f : Domain → Domain) : (s.modDomain d f).l1s = s.l1s := rfl
@[simp] theorem State.modDomain_dieTlb (s : State) (d : Nat) (f : Domain → Domain) : (s.modDomain d f).dieTlb = s.dieTlb := rfl
@[simp] theorem State.modDomain_upper (s : State) (d : Nat) (f : Domain → Domain) : (s.modDomain d f).upper = s.upper := rfl
@[simp] theorem State.modDomain_marks (s : State) (d : Nat) (f : Domain → Domain) : (s.modDomain d f).marks = s.marks := rfl
@[simp] theorem State.modDomain_delivered (s : State) (d : Nat) (f : Domain → Domain) : (s.modDomain d f).delivered = s.delivered := rfl
@[simp] theorem State.modDomain_pick (s : State) (d : Nat) (f : Domain → Domain) : (s.modDomain d f).pick = s.pick := rfl
@[simp] theorem State.modDomain_joint (s : State) (d : Nat) (f : Domain → Domain) : (s.modDomain d f).joint = s.joint := rfl

@[simp] theorem State.fresh_sys (s : State) : s.fresh.2.sys = s.sys := rfl
@[simp] theorem State.fresh_clock (s : State) : s.fresh.2.clock = s.clock := rfl
@[simp] theorem State.fresh_time (s : State) : s.fresh.2.time = s.time := rfl
@[simp] theorem State.fresh_mem (s : State) : s.fresh.2.mem = s.mem := rfl
@[simp] theorem State.fresh_hmem (s : State) : s.fresh.2.hmem = s.hmem := rfl
@[simp] theorem State.fresh_mmioOut (s : State) : s.fresh.2.mmioOut = s.mmioOut := rfl
@[simp] theorem State.fresh_granules (s : State) : s.fresh.2.granules = s.granules := rfl
@[simp] theorem State.fresh_poison (s : State) : s.fresh.2.poison = s.poison := rfl
@[simp] theorem State.fresh_cu (s : State) : s.fresh.2.cu = s.cu := rfl
@[simp] theorem State.fresh_homeHeld (s : State) : s.fresh.2.homeHeld = s.homeHeld := rfl
@[simp] theorem State.fresh_windows (s : State) : s.fresh.2.windows = s.windows := rfl
@[simp] theorem State.fresh_ordered (s : State) : s.fresh.2.ordered = s.ordered := rfl
@[simp] theorem State.fresh_ctxs (s : State) : s.fresh.2.ctxs = s.ctxs := rfl
@[simp] theorem State.fresh_itins (s : State) : s.fresh.2.itins = s.itins := rfl
@[simp] theorem State.fresh_cores (s : State) : s.fresh.2.cores = s.cores := rfl
@[simp] theorem State.fresh_saved (s : State) : s.fresh.2.saved = s.saved := rfl
@[simp] theorem State.fresh_halts (s : State) : s.fresh.2.halts = s.halts := rfl
@[simp] theorem State.fresh_domains (s : State) : s.fresh.2.domains = s.domains := rfl
@[simp] theorem State.fresh_domPending (s : State) : s.fresh.2.domPending = s.domPending := rfl
@[simp] theorem State.fresh_logs (s : State) : s.fresh.2.logs = s.logs := rfl
@[simp] theorem State.fresh_holds (s : State) : s.fresh.2.holds = s.holds := rfl
@[simp] theorem State.fresh_injects (s : State) : s.fresh.2.injects = s.injects := rfl
@[simp] theorem State.fresh_ports (s : State) : s.fresh.2.ports = s.ports := rfl
@[simp] theorem State.fresh_routes (s : State) : s.fresh.2.routes = s.routes := rfl
@[simp] theorem State.fresh_flights (s : State) : s.fresh.2.flights = s.flights := rfl
@[simp] theorem State.fresh_accepted (s : State) : s.fresh.2.accepted = s.accepted := rfl
@[simp] theorem State.fresh_seqs (s : State) : s.fresh.2.seqs = s.seqs := rfl
@[simp] theorem State.fresh_out (s : State) : s.fresh.2.out = s.out := rfl
@[simp] theorem State.fresh_agenda (s : State) : s.fresh.2.agenda = s.agenda := rfl
@[simp] theorem State.fresh_focus (s : State) : s.fresh.2.focus = s.focus := rfl
@[simp] theorem State.fresh_switch (s : State) : s.fresh.2.switch = s.switch := rfl
@[simp] theorem State.fresh_freeCtr (s : State) : s.fresh.2.freeCtr = s.freeCtr := rfl

@[simp] theorem State.bump_clock (s : State) (o n : Nat) : (s.bump o n).clock = s.clock := rfl
@[simp] theorem State.bump_time (s : State) (o n : Nat) : (s.bump o n).time = s.time := rfl
@[simp] theorem State.bump_mem (s : State) (o n : Nat) : (s.bump o n).mem = s.mem := rfl
@[simp] theorem State.bump_hmem (s : State) (o n : Nat) : (s.bump o n).hmem = s.hmem := rfl
@[simp] theorem State.bump_mmioOut (s : State) (o n : Nat) : (s.bump o n).mmioOut = s.mmioOut := rfl
@[simp] theorem State.bump_granules (s : State) (o n : Nat) : (s.bump o n).granules = s.granules := rfl
@[simp] theorem State.bump_poison (s : State) (o n : Nat) : (s.bump o n).poison = s.poison := rfl
@[simp] theorem State.bump_cu (s : State) (o n : Nat) : (s.bump o n).cu = s.cu := rfl
@[simp] theorem State.bump_homeHeld (s : State) (o n : Nat) : (s.bump o n).homeHeld = s.homeHeld := rfl
@[simp] theorem State.bump_windows (s : State) (o n : Nat) : (s.bump o n).windows = s.windows := rfl
@[simp] theorem State.bump_ordered (s : State) (o n : Nat) : (s.bump o n).ordered = s.ordered := rfl
@[simp] theorem State.bump_ctxs (s : State) (o n : Nat) : (s.bump o n).ctxs = s.ctxs := rfl
@[simp] theorem State.bump_itins (s : State) (o n : Nat) : (s.bump o n).itins = s.itins := rfl
@[simp] theorem State.bump_cores (s : State) (o n : Nat) : (s.bump o n).cores = s.cores := rfl
@[simp] theorem State.bump_saved (s : State) (o n : Nat) : (s.bump o n).saved = s.saved := rfl
@[simp] theorem State.bump_halts (s : State) (o n : Nat) : (s.bump o n).halts = s.halts := rfl
@[simp] theorem State.bump_domains (s : State) (o n : Nat) : (s.bump o n).domains = s.domains := rfl
@[simp] theorem State.bump_domPending (s : State) (o n : Nat) : (s.bump o n).domPending = s.domPending := rfl
@[simp] theorem State.bump_logs (s : State) (o n : Nat) : (s.bump o n).logs = s.logs := rfl
@[simp] theorem State.bump_holds (s : State) (o n : Nat) : (s.bump o n).holds = s.holds := rfl
@[simp] theorem State.bump_injects (s : State) (o n : Nat) : (s.bump o n).injects = s.injects := rfl
@[simp] theorem State.bump_ports (s : State) (o n : Nat) : (s.bump o n).ports = s.ports := rfl
@[simp] theorem State.bump_routes (s : State) (o n : Nat) : (s.bump o n).routes = s.routes := rfl
@[simp] theorem State.bump_flights (s : State) (o n : Nat) : (s.bump o n).flights = s.flights := rfl
@[simp] theorem State.bump_accepted (s : State) (o n : Nat) : (s.bump o n).accepted = s.accepted := rfl
@[simp] theorem State.bump_seqs (s : State) (o n : Nat) : (s.bump o n).seqs = s.seqs := rfl
@[simp] theorem State.bump_out (s : State) (o n : Nat) : (s.bump o n).out = s.out := rfl
@[simp] theorem State.bump_agenda (s : State) (o n : Nat) : (s.bump o n).agenda = s.agenda := rfl
@[simp] theorem State.bump_focus (s : State) (o n : Nat) : (s.bump o n).focus = s.focus := rfl
@[simp] theorem State.bump_switch (s : State) (o n : Nat) : (s.bump o n).switch = s.switch := rfl
@[simp] theorem State.bump_freeCtr (s : State) (o n : Nat) : (s.bump o n).freeCtr = s.freeCtr := rfl
@[simp] theorem State.bump_nextId (s : State) (o n : Nat) : (s.bump o n).nextId = s.nextId := rfl
@[simp] theorem State.bump_l1s (s : State) (o n : Nat) : (s.bump o n).l1s = s.l1s := rfl
@[simp] theorem State.bump_dieTlb (s : State) (o n : Nat) : (s.bump o n).dieTlb = s.dieTlb := rfl
@[simp] theorem State.bump_upper (s : State) (o n : Nat) : (s.bump o n).upper = s.upper := rfl
@[simp] theorem State.bump_marks (s : State) (o n : Nat) : (s.bump o n).marks = s.marks := rfl
@[simp] theorem State.bump_delivered (s : State) (o n : Nat) : (s.bump o n).delivered = s.delivered := rfl
@[simp] theorem State.bump_pick (s : State) (o n : Nat) : (s.bump o n).pick = s.pick := rfl
@[simp] theorem State.bump_joint (s : State) (o n : Nat) : (s.bump o n).joint = s.joint := rfl

@[simp] theorem State.modBlock_sys (s : State) (c k : Nat) (f : Block → Block) : (s.modBlock c k f).sys = s.sys := by
  unfold State.modBlock; split <;> rfl
@[simp] theorem State.modBlock_clock (s : State) (c k : Nat) (f : Block → Block) : (s.modBlock c k f).clock = s.clock := by
  unfold State.modBlock; split <;> rfl
@[simp] theorem State.modBlock_time (s : State) (c k : Nat) (f : Block → Block) : (s.modBlock c k f).time = s.time := by
  unfold State.modBlock; split <;> rfl
@[simp] theorem State.modBlock_mem (s : State) (c k : Nat) (f : Block → Block) : (s.modBlock c k f).mem = s.mem := by
  unfold State.modBlock; split <;> rfl
@[simp] theorem State.modBlock_hmem (s : State) (c k : Nat) (f : Block → Block) : (s.modBlock c k f).hmem = s.hmem := by
  unfold State.modBlock; split <;> rfl
@[simp] theorem State.modBlock_mmioOut (s : State) (c k : Nat) (f : Block → Block) : (s.modBlock c k f).mmioOut = s.mmioOut := by
  unfold State.modBlock; split <;> rfl
@[simp] theorem State.modBlock_granules (s : State) (c k : Nat) (f : Block → Block) : (s.modBlock c k f).granules = s.granules := by
  unfold State.modBlock; split <;> rfl
@[simp] theorem State.modBlock_poison (s : State) (c k : Nat) (f : Block → Block) : (s.modBlock c k f).poison = s.poison := by
  unfold State.modBlock; split <;> rfl
@[simp] theorem State.modBlock_cu (s : State) (c k : Nat) (f : Block → Block) : (s.modBlock c k f).cu = s.cu := by
  unfold State.modBlock; split <;> rfl
@[simp] theorem State.modBlock_homeHeld (s : State) (c k : Nat) (f : Block → Block) : (s.modBlock c k f).homeHeld = s.homeHeld := by
  unfold State.modBlock; split <;> rfl
@[simp] theorem State.modBlock_windows (s : State) (c k : Nat) (f : Block → Block) : (s.modBlock c k f).windows = s.windows := by
  unfold State.modBlock; split <;> rfl
@[simp] theorem State.modBlock_ordered (s : State) (c k : Nat) (f : Block → Block) : (s.modBlock c k f).ordered = s.ordered := by
  unfold State.modBlock; split <;> rfl
@[simp] theorem State.modBlock_ctxs (s : State) (c k : Nat) (f : Block → Block) : (s.modBlock c k f).ctxs = s.ctxs := by
  unfold State.modBlock; split <;> rfl
@[simp] theorem State.modBlock_itins (s : State) (c k : Nat) (f : Block → Block) : (s.modBlock c k f).itins = s.itins := by
  unfold State.modBlock; split <;> rfl
@[simp] theorem State.modBlock_saved (s : State) (c k : Nat) (f : Block → Block) : (s.modBlock c k f).saved = s.saved := by
  unfold State.modBlock; split <;> rfl
@[simp] theorem State.modBlock_halts (s : State) (c k : Nat) (f : Block → Block) : (s.modBlock c k f).halts = s.halts := by
  unfold State.modBlock; split <;> rfl
@[simp] theorem State.modBlock_domains (s : State) (c k : Nat) (f : Block → Block) : (s.modBlock c k f).domains = s.domains := by
  unfold State.modBlock; split <;> rfl
@[simp] theorem State.modBlock_domPending (s : State) (c k : Nat) (f : Block → Block) : (s.modBlock c k f).domPending = s.domPending := by
  unfold State.modBlock; split <;> rfl
@[simp] theorem State.modBlock_logs (s : State) (c k : Nat) (f : Block → Block) : (s.modBlock c k f).logs = s.logs := by
  unfold State.modBlock; split <;> rfl
@[simp] theorem State.modBlock_holds (s : State) (c k : Nat) (f : Block → Block) : (s.modBlock c k f).holds = s.holds := by
  unfold State.modBlock; split <;> rfl
@[simp] theorem State.modBlock_injects (s : State) (c k : Nat) (f : Block → Block) : (s.modBlock c k f).injects = s.injects := by
  unfold State.modBlock; split <;> rfl
@[simp] theorem State.modBlock_ports (s : State) (c k : Nat) (f : Block → Block) : (s.modBlock c k f).ports = s.ports := by
  unfold State.modBlock; split <;> rfl
@[simp] theorem State.modBlock_routes (s : State) (c k : Nat) (f : Block → Block) : (s.modBlock c k f).routes = s.routes := by
  unfold State.modBlock; split <;> rfl
@[simp] theorem State.modBlock_flights (s : State) (c k : Nat) (f : Block → Block) : (s.modBlock c k f).flights = s.flights := by
  unfold State.modBlock; split <;> rfl
@[simp] theorem State.modBlock_accepted (s : State) (c k : Nat) (f : Block → Block) : (s.modBlock c k f).accepted = s.accepted := by
  unfold State.modBlock; split <;> rfl
@[simp] theorem State.modBlock_seqs (s : State) (c k : Nat) (f : Block → Block) : (s.modBlock c k f).seqs = s.seqs := by
  unfold State.modBlock; split <;> rfl
@[simp] theorem State.modBlock_out (s : State) (c k : Nat) (f : Block → Block) : (s.modBlock c k f).out = s.out := by
  unfold State.modBlock; split <;> rfl
@[simp] theorem State.modBlock_agenda (s : State) (c k : Nat) (f : Block → Block) : (s.modBlock c k f).agenda = s.agenda := by
  unfold State.modBlock; split <;> rfl
@[simp] theorem State.modBlock_focus (s : State) (c k : Nat) (f : Block → Block) : (s.modBlock c k f).focus = s.focus := by
  unfold State.modBlock; split <;> rfl
@[simp] theorem State.modBlock_switch (s : State) (c k : Nat) (f : Block → Block) : (s.modBlock c k f).switch = s.switch := by
  unfold State.modBlock; split <;> rfl
@[simp] theorem State.modBlock_freeCtr (s : State) (c k : Nat) (f : Block → Block) : (s.modBlock c k f).freeCtr = s.freeCtr := by
  unfold State.modBlock; split <;> rfl
@[simp] theorem State.modBlock_nextId (s : State) (c k : Nat) (f : Block → Block) : (s.modBlock c k f).nextId = s.nextId := by
  unfold State.modBlock; split <;> rfl
@[simp] theorem State.modBlock_l1s (s : State) (c k : Nat) (f : Block → Block) : (s.modBlock c k f).l1s = s.l1s := by
  unfold State.modBlock; split <;> rfl
@[simp] theorem State.modBlock_dieTlb (s : State) (c k : Nat) (f : Block → Block) : (s.modBlock c k f).dieTlb = s.dieTlb := by
  unfold State.modBlock; split <;> rfl
@[simp] theorem State.modBlock_upper (s : State) (c k : Nat) (f : Block → Block) : (s.modBlock c k f).upper = s.upper := by
  unfold State.modBlock; split <;> rfl
@[simp] theorem State.modBlock_marks (s : State) (c k : Nat) (f : Block → Block) : (s.modBlock c k f).marks = s.marks := by
  unfold State.modBlock; split <;> rfl
@[simp] theorem State.modBlock_delivered (s : State) (c k : Nat) (f : Block → Block) : (s.modBlock c k f).delivered = s.delivered := by
  unfold State.modBlock; split <;> rfl
@[simp] theorem State.modBlock_pick (s : State) (c k : Nat) (f : Block → Block) : (s.modBlock c k f).pick = s.pick := by
  unfold State.modBlock; split <;> rfl
@[simp] theorem State.modBlock_joint (s : State) (c k : Nat) (f : Block → Block) : (s.modBlock c k f).joint = s.joint := by
  unfold State.modBlock; split <;> rfl

@[simp] theorem State.modGroup_sys (s : State) (c k g : Nat) (f : Group → Group) : (s.modGroup c k g f).sys = s.sys :=
  State.modBlock_sys ..
@[simp] theorem State.modGroup_clock (s : State) (c k g : Nat) (f : Group → Group) : (s.modGroup c k g f).clock = s.clock :=
  State.modBlock_clock ..
@[simp] theorem State.modGroup_time (s : State) (c k g : Nat) (f : Group → Group) : (s.modGroup c k g f).time = s.time :=
  State.modBlock_time ..
@[simp] theorem State.modGroup_mem (s : State) (c k g : Nat) (f : Group → Group) : (s.modGroup c k g f).mem = s.mem :=
  State.modBlock_mem ..
@[simp] theorem State.modGroup_hmem (s : State) (c k g : Nat) (f : Group → Group) : (s.modGroup c k g f).hmem = s.hmem :=
  State.modBlock_hmem ..
@[simp] theorem State.modGroup_mmioOut (s : State) (c k g : Nat) (f : Group → Group) : (s.modGroup c k g f).mmioOut = s.mmioOut :=
  State.modBlock_mmioOut ..
@[simp] theorem State.modGroup_granules (s : State) (c k g : Nat) (f : Group → Group) : (s.modGroup c k g f).granules = s.granules :=
  State.modBlock_granules ..
@[simp] theorem State.modGroup_poison (s : State) (c k g : Nat) (f : Group → Group) : (s.modGroup c k g f).poison = s.poison :=
  State.modBlock_poison ..
@[simp] theorem State.modGroup_cu (s : State) (c k g : Nat) (f : Group → Group) : (s.modGroup c k g f).cu = s.cu :=
  State.modBlock_cu ..
@[simp] theorem State.modGroup_homeHeld (s : State) (c k g : Nat) (f : Group → Group) : (s.modGroup c k g f).homeHeld = s.homeHeld :=
  State.modBlock_homeHeld ..
@[simp] theorem State.modGroup_windows (s : State) (c k g : Nat) (f : Group → Group) : (s.modGroup c k g f).windows = s.windows :=
  State.modBlock_windows ..
@[simp] theorem State.modGroup_ordered (s : State) (c k g : Nat) (f : Group → Group) : (s.modGroup c k g f).ordered = s.ordered :=
  State.modBlock_ordered ..
@[simp] theorem State.modGroup_ctxs (s : State) (c k g : Nat) (f : Group → Group) : (s.modGroup c k g f).ctxs = s.ctxs :=
  State.modBlock_ctxs ..
@[simp] theorem State.modGroup_itins (s : State) (c k g : Nat) (f : Group → Group) : (s.modGroup c k g f).itins = s.itins :=
  State.modBlock_itins ..
@[simp] theorem State.modGroup_saved (s : State) (c k g : Nat) (f : Group → Group) : (s.modGroup c k g f).saved = s.saved :=
  State.modBlock_saved ..
@[simp] theorem State.modGroup_halts (s : State) (c k g : Nat) (f : Group → Group) : (s.modGroup c k g f).halts = s.halts :=
  State.modBlock_halts ..
@[simp] theorem State.modGroup_domains (s : State) (c k g : Nat) (f : Group → Group) : (s.modGroup c k g f).domains = s.domains :=
  State.modBlock_domains ..
@[simp] theorem State.modGroup_domPending (s : State) (c k g : Nat) (f : Group → Group) : (s.modGroup c k g f).domPending = s.domPending :=
  State.modBlock_domPending ..
@[simp] theorem State.modGroup_logs (s : State) (c k g : Nat) (f : Group → Group) : (s.modGroup c k g f).logs = s.logs :=
  State.modBlock_logs ..
@[simp] theorem State.modGroup_holds (s : State) (c k g : Nat) (f : Group → Group) : (s.modGroup c k g f).holds = s.holds :=
  State.modBlock_holds ..
@[simp] theorem State.modGroup_injects (s : State) (c k g : Nat) (f : Group → Group) : (s.modGroup c k g f).injects = s.injects :=
  State.modBlock_injects ..
@[simp] theorem State.modGroup_ports (s : State) (c k g : Nat) (f : Group → Group) : (s.modGroup c k g f).ports = s.ports :=
  State.modBlock_ports ..
@[simp] theorem State.modGroup_routes (s : State) (c k g : Nat) (f : Group → Group) : (s.modGroup c k g f).routes = s.routes :=
  State.modBlock_routes ..
@[simp] theorem State.modGroup_flights (s : State) (c k g : Nat) (f : Group → Group) : (s.modGroup c k g f).flights = s.flights :=
  State.modBlock_flights ..
@[simp] theorem State.modGroup_accepted (s : State) (c k g : Nat) (f : Group → Group) : (s.modGroup c k g f).accepted = s.accepted :=
  State.modBlock_accepted ..
@[simp] theorem State.modGroup_seqs (s : State) (c k g : Nat) (f : Group → Group) : (s.modGroup c k g f).seqs = s.seqs :=
  State.modBlock_seqs ..
@[simp] theorem State.modGroup_out (s : State) (c k g : Nat) (f : Group → Group) : (s.modGroup c k g f).out = s.out :=
  State.modBlock_out ..
@[simp] theorem State.modGroup_agenda (s : State) (c k g : Nat) (f : Group → Group) : (s.modGroup c k g f).agenda = s.agenda :=
  State.modBlock_agenda ..
@[simp] theorem State.modGroup_focus (s : State) (c k g : Nat) (f : Group → Group) : (s.modGroup c k g f).focus = s.focus :=
  State.modBlock_focus ..
@[simp] theorem State.modGroup_switch (s : State) (c k g : Nat) (f : Group → Group) : (s.modGroup c k g f).switch = s.switch :=
  State.modBlock_switch ..
@[simp] theorem State.modGroup_freeCtr (s : State) (c k g : Nat) (f : Group → Group) : (s.modGroup c k g f).freeCtr = s.freeCtr :=
  State.modBlock_freeCtr ..
@[simp] theorem State.modGroup_nextId (s : State) (c k g : Nat) (f : Group → Group) : (s.modGroup c k g f).nextId = s.nextId :=
  State.modBlock_nextId ..
@[simp] theorem State.modGroup_l1s (s : State) (c k g : Nat) (f : Group → Group) : (s.modGroup c k g f).l1s = s.l1s :=
  State.modBlock_l1s ..
@[simp] theorem State.modGroup_dieTlb (s : State) (c k g : Nat) (f : Group → Group) : (s.modGroup c k g f).dieTlb = s.dieTlb :=
  State.modBlock_dieTlb ..
@[simp] theorem State.modGroup_upper (s : State) (c k g : Nat) (f : Group → Group) : (s.modGroup c k g f).upper = s.upper :=
  State.modBlock_upper ..
@[simp] theorem State.modGroup_marks (s : State) (c k g : Nat) (f : Group → Group) : (s.modGroup c k g f).marks = s.marks :=
  State.modBlock_marks ..
@[simp] theorem State.modGroup_delivered (s : State) (c k g : Nat) (f : Group → Group) : (s.modGroup c k g f).delivered = s.delivered :=
  State.modBlock_delivered ..
@[simp] theorem State.modGroup_pick (s : State) (c k g : Nat) (f : Group → Group) : (s.modGroup c k g f).pick = s.pick :=
  State.modBlock_pick ..
@[simp] theorem State.modGroup_joint (s : State) (c k g : Nat) (f : Group → Group) : (s.modGroup c k g f).joint = s.joint :=
  State.modBlock_joint ..

@[simp] theorem State.modL1_sys (s : State) (p : Nat) (f : L1 → L1) : (s.modL1 p f).sys = s.sys := rfl
@[simp] theorem State.modL1_clock (s : State) (p : Nat) (f : L1 → L1) : (s.modL1 p f).clock = s.clock := rfl
@[simp] theorem State.modL1_time (s : State) (p : Nat) (f : L1 → L1) : (s.modL1 p f).time = s.time := rfl
@[simp] theorem State.modL1_mem (s : State) (p : Nat) (f : L1 → L1) : (s.modL1 p f).mem = s.mem := rfl
@[simp] theorem State.modL1_hmem (s : State) (p : Nat) (f : L1 → L1) : (s.modL1 p f).hmem = s.hmem := rfl
@[simp] theorem State.modL1_mmioOut (s : State) (p : Nat) (f : L1 → L1) : (s.modL1 p f).mmioOut = s.mmioOut := rfl
@[simp] theorem State.modL1_granules (s : State) (p : Nat) (f : L1 → L1) : (s.modL1 p f).granules = s.granules := rfl
@[simp] theorem State.modL1_poison (s : State) (p : Nat) (f : L1 → L1) : (s.modL1 p f).poison = s.poison := rfl
@[simp] theorem State.modL1_cu (s : State) (p : Nat) (f : L1 → L1) : (s.modL1 p f).cu = s.cu := rfl
@[simp] theorem State.modL1_homeHeld (s : State) (p : Nat) (f : L1 → L1) : (s.modL1 p f).homeHeld = s.homeHeld := rfl
@[simp] theorem State.modL1_windows (s : State) (p : Nat) (f : L1 → L1) : (s.modL1 p f).windows = s.windows := rfl
@[simp] theorem State.modL1_ordered (s : State) (p : Nat) (f : L1 → L1) : (s.modL1 p f).ordered = s.ordered := rfl
@[simp] theorem State.modL1_ctxs (s : State) (p : Nat) (f : L1 → L1) : (s.modL1 p f).ctxs = s.ctxs := rfl
@[simp] theorem State.modL1_itins (s : State) (p : Nat) (f : L1 → L1) : (s.modL1 p f).itins = s.itins := rfl
@[simp] theorem State.modL1_cores (s : State) (p : Nat) (f : L1 → L1) : (s.modL1 p f).cores = s.cores := rfl
@[simp] theorem State.modL1_dieTlb (s : State) (p : Nat) (f : L1 → L1) : (s.modL1 p f).dieTlb = s.dieTlb := rfl
@[simp] theorem State.modL1_upper (s : State) (p : Nat) (f : L1 → L1) : (s.modL1 p f).upper = s.upper := rfl
@[simp] theorem State.modL1_marks (s : State) (p : Nat) (f : L1 → L1) : (s.modL1 p f).marks = s.marks := rfl
@[simp] theorem State.modL1_saved (s : State) (p : Nat) (f : L1 → L1) : (s.modL1 p f).saved = s.saved := rfl
@[simp] theorem State.modL1_halts (s : State) (p : Nat) (f : L1 → L1) : (s.modL1 p f).halts = s.halts := rfl
@[simp] theorem State.modL1_domains (s : State) (p : Nat) (f : L1 → L1) : (s.modL1 p f).domains = s.domains := rfl
@[simp] theorem State.modL1_domPending (s : State) (p : Nat) (f : L1 → L1) : (s.modL1 p f).domPending = s.domPending := rfl
@[simp] theorem State.modL1_logs (s : State) (p : Nat) (f : L1 → L1) : (s.modL1 p f).logs = s.logs := rfl
@[simp] theorem State.modL1_holds (s : State) (p : Nat) (f : L1 → L1) : (s.modL1 p f).holds = s.holds := rfl
@[simp] theorem State.modL1_injects (s : State) (p : Nat) (f : L1 → L1) : (s.modL1 p f).injects = s.injects := rfl
@[simp] theorem State.modL1_ports (s : State) (p : Nat) (f : L1 → L1) : (s.modL1 p f).ports = s.ports := rfl
@[simp] theorem State.modL1_routes (s : State) (p : Nat) (f : L1 → L1) : (s.modL1 p f).routes = s.routes := rfl
@[simp] theorem State.modL1_flights (s : State) (p : Nat) (f : L1 → L1) : (s.modL1 p f).flights = s.flights := rfl
@[simp] theorem State.modL1_accepted (s : State) (p : Nat) (f : L1 → L1) : (s.modL1 p f).accepted = s.accepted := rfl
@[simp] theorem State.modL1_delivered (s : State) (p : Nat) (f : L1 → L1) : (s.modL1 p f).delivered = s.delivered := rfl
@[simp] theorem State.modL1_seqs (s : State) (p : Nat) (f : L1 → L1) : (s.modL1 p f).seqs = s.seqs := rfl
@[simp] theorem State.modL1_out (s : State) (p : Nat) (f : L1 → L1) : (s.modL1 p f).out = s.out := rfl
@[simp] theorem State.modL1_agenda (s : State) (p : Nat) (f : L1 → L1) : (s.modL1 p f).agenda = s.agenda := rfl
@[simp] theorem State.modL1_focus (s : State) (p : Nat) (f : L1 → L1) : (s.modL1 p f).focus = s.focus := rfl
@[simp] theorem State.modL1_switch (s : State) (p : Nat) (f : L1 → L1) : (s.modL1 p f).switch = s.switch := rfl
@[simp] theorem State.modL1_pick (s : State) (p : Nat) (f : L1 → L1) : (s.modL1 p f).pick = s.pick := rfl
@[simp] theorem State.modL1_joint (s : State) (p : Nat) (f : L1 → L1) : (s.modL1 p f).joint = s.joint := rfl
@[simp] theorem State.modL1_freeCtr (s : State) (p : Nat) (f : L1 → L1) : (s.modL1 p f).freeCtr = s.freeCtr := rfl
@[simp] theorem State.modL1_nextId (s : State) (p : Nat) (f : L1 → L1) : (s.modL1 p f).nextId = s.nextId := rfl

end Sys2Proof.Machine
end

