-- ==== Sys2Proof/Laws/Issue.lean ====
section
/-! SUPPORT. Laws of the issuing group: what the issuer is, what a change of its group does, and what finishing a slot does. -/

namespace Sys2Proof.Machine

/-! ## Lists -/

theorem listGet_listMod {α : Type} (d : α) (f : α → α) : ∀ (l : List α) (i j : Nat),
    listGet d (listMod l i f) j = if j = i ∧ i < l.length then f (listGet d l i) else listGet d l j
  | [], i, j => by cases i <;> simp [listMod, listGet]
  | x :: t, 0, 0 => by simp [listMod, listGet]
  | x :: t, 0, j + 1 => by simp [listMod, listGet]
  | x :: t, i + 1, 0 => by simp [listMod, listGet]
  | x :: t, i + 1, j + 1 => by simp [listMod, listGet, listGet_listMod d f t i j]

theorem listMod_length {α : Type} (f : α → α) : ∀ (l : List α) (i : Nat), (listMod l i f).length = l.length
  | [], i => by cases i <;> rfl
  | x :: t, 0 => rfl
  | x :: t, i + 1 => by simp [listMod, listMod_length f t i]

theorem listGet_default {α : Type} (d : α) : ∀ (l : List α) (i : Nat), l.length ≤ i → listGet d l i = d
  | [], _, _ => rfl
  | x :: t, 0, h => by simp at h
  | x :: t, i + 1, h => by simp only [listGet]; exact listGet_default d t i (by simpa using h)

/-! ## Cores and blocks -/

theorem State.core_setCore (s : State) (n m : Nat) (x : Core) :
    (s.setCore n x).core m = if m = n then x else s.core m := KMap.get_put ..

theorem State.core_modCore (s : State) (n m : Nat) (f : Core → Core) :
    (s.modCore n f).core m = if m = n then f (s.core n) else s.core m := State.core_setCore ..

theorem State.block_setBlock (s : State) (c k c' k' : Nat) (b : Block) :
    (s.setBlock c k b).block c' k' = if c' = c ∧ k' = k then some b else s.block c' k' := by
  unfold State.setBlock State.block
  rw [State.core_modCore]
  by_cases h : c' = c
  · subst h; simp only [if_true, KMap.find_put, true_and]
  · simp [h]

/-- What a change of a group that exists does. -/
theorem State.modGroup_of_block {s : State} {c k : Nat} {b : Block} (h : s.block c k = some b) (g : Nat) (f : Group → Group) :
    s.modGroup c k g f = s.setBlock c k (b.modGroup g f) := by
  unfold State.modGroup State.modBlock; rw [h]

theorem Block.group_modGroup (b : Block) (g : Nat) (f : Group → Group) (j : Nat) :
    (b.modGroup g f).group j = if j = g ∧ g < b.groups.length then f (b.group g) else b.group j := listGet_listMod ..

/-! ## The issuer -/

/-- What the issuer is made of. -/
structure Issues (s : State) (w : Who) : Prop where
  block : s.block w.core w.slot = some w.b
  group : w.g = w.b.group w.grp
  ig : w.g.igs.find? (fun x => x.id == w.ig.id) = some w.ig
  inRange : w.grp < w.b.groups.length

theorem State.issuer_spec {s : State} {w : Who} (h : s.issuer = some w) : Issues s w := by
  unfold State.issuer at h
  split at h
  · cases h
  · rename_i slot grp id _
    split at h
    · cases h
    · rename_i b hb
      split at h
      · cases h
      · rename_i ig hi
        cases h
        have hid : ig.id = id := by simpa using List.find?_some hi
        refine ⟨hb, rfl, by simpa [hid] using hi, ?_⟩
        by_contra hr
        have : b.group grp = Group.empty := listGet_default _ _ _ (by simpa using hr)
        simp [this, Group.empty] at hi

/-- The state with the issuer's group replaced. -/
def State.withGroup (s : State) (w : Who) (f : Group → Group) : State := s.modGroup w.core w.slot w.grp f

theorem Issues.block_modGroup {s : State} {w : Who} (h : Issues s w) (f : Group → Group) (c k : Nat) :
    (s.modGroup w.core w.slot w.grp f).block c k =
      if c = w.core ∧ k = w.slot then some (w.b.modGroup w.grp f) else s.block c k := by
  rw [State.modGroup_of_block h.block, State.block_setBlock]

theorem Issues.group_modGroup {s : State} {w : Who} (h : Issues s w) (f : Group → Group) :
    w.grpIn (s.modGroup w.core w.slot w.grp f) = f w.g := by
  unfold Who.grpIn Who.blockIn
  rw [h.block_modGroup]
  simp only [true_and, if_true, Option.getD_some]
  rw [Block.group_modGroup]
  simp [h.inRange, h.group]

theorem Issues.blockIn {s : State} {w : Who} (h : Issues s w) : w.blockIn s = w.b := by
  simp [Who.blockIn, h.block]

theorem Issues.grpIn {s : State} {w : Who} (h : Issues s w) : w.grpIn s = w.g := by
  simp [Who.grpIn, h.blockIn, h.group]

/-! ## Frames -/

/-- Changing the issuer's group leaves the rest alone. -/
theorem Issues.onlyGroup_modGroup {s : State} {w : Who} (h : Issues s w) (f : Group → Group) :
    OnlyGroup w s (s.modGroup w.core w.slot w.grp f) := by
  rw [State.modGroup_of_block h.block]
  refine ⟨⟨⟨rfl, fun _ => rfl, fun _ => rfl⟩, ?_, ?_, ?_⟩, ⟨w.b.modGroup w.grp f, ?_, rfl, listMod_length .., ?_⟩⟩
  · intro c; unfold State.setBlock; rw [State.core_modCore]; split
    · subst_vars; rfl
    · rfl
  · intro c p; unfold State.setBlock; rw [State.core_modCore]; split
    · subst_vars; rfl
    · rfl
  · intro c k hn; rw [State.block_setBlock]; rw [if_neg]; intro e; cases hn <;> simp_all
  · rw [State.block_setBlock]; simp
  · intro g hg; rw [Block.group_modGroup]; simp [hg]

/-- What issues in a partition changes nothing else. -/
theorem State.block_modPart (s : State) (core part : Nat) (f : Part → Part) (c k : Nat) :
    (s.modPart core part f).block c k = s.block c k := by
  unfold State.modPart State.block; rw [State.core_modCore]; split
  · subst_vars; rfl
  · rfl

theorem State.parts_modPart (s : State) (core part : Nat) (f : Part → Part)
    (hf : ∀ p, { f p with cur := none, comp := none } = { p with cur := none, comp := none }) (c p : Nat) :
    { listGet ({} : Part) ((s.modPart core part f).core c).parts p with cur := none, comp := none } =
      { listGet ({} : Part) (s.core c).parts p with cur := none, comp := none } := by
  unfold State.modPart; rw [State.core_modCore]; split
  · subst_vars; dsimp only; rw [listGet_listMod]; split
    · rename_i h; rw [h.1]; exact hf _
    · rfl
  · rfl

theorem State.core_modPart (s : State) (core part : Nat) (f : Part → Part) (c : Nat) :
    { (s.modPart core part f).core c with slots := (s.core c).slots, parts := (s.core c).parts } = s.core c := by
  unfold State.modPart; rw [State.core_modCore]; split
  · subst_vars; rfl
  · rfl

theorem OnlyGroup.modPart {w : Who} {s t : State} (h : OnlyGroup w s t) (core part : Nat) {f : Part → Part}
    (hf : ∀ p, { f p with cur := none, comp := none } = { p with cur := none, comp := none }) : OnlyGroup w s (t.modPart core part f) := by
  obtain ⟨⟨⟨h1, h2, h3⟩, h4, h5, h6⟩, h7⟩ := h
  refine ⟨⟨⟨?_, h2, h3⟩, ?_, ?_, ?_⟩, ?_⟩
  · rw [← h1]; rfl
  · intro c; have := t.core_modPart core part f c; rw [← h4 c]
    revert this
    generalize (t.modPart core part f).core c = x
    generalize t.core c = y
    intro e; rw [← e]
  · intro c p; rw [State.parts_modPart _ _ _ _ hf, h5]
  · intro c k hn; rw [State.block_modPart, h6 c k hn]
  · simpa [State.block_modPart] using h7

theorem State.grpIn_modPart (t : State) (w : Who) (core part : Nat) (f : Part → Part) : w.grpIn (t.modPart core part f) = w.grpIn t := by
  simp [Who.grpIn, Who.blockIn, State.block_modPart]

theorem OnlyGroup.clearCur {w : Who} {s t : State} (h : OnlyGroup w s t) : OnlyGroup w s (t.clearCur w) :=
  h.modPart _ _ fun _ => rfl

theorem OnlyGroup.fresh {w : Who} {s t : State} (h : OnlyGroup w s t) : OnlyGroup w s t.fresh.2 := by
  obtain ⟨⟨⟨h1, h2, h3⟩, h4, h5, h6⟩, h7⟩ := h
  exact ⟨⟨⟨by rw [← h1]; rfl, h2, h3⟩, h4, h5, h6⟩, h7⟩

/-- A counter leaves everything but the counters alone. -/
theorem OnlyGroup.bump {w : Who} {s t : State} (h : OnlyGroup w s t) (o n : Nat) : OnlyGroup w s (t.bump o n) := by
  obtain ⟨⟨⟨h1, h2, h3⟩, h4, h5, h6⟩, h7⟩ := h
  exact ⟨⟨⟨by rw [← h1]; rfl, h2, h3⟩, h4, h5, h6⟩, h7⟩

theorem OnlyGroup.modGroup {w : Who} {s t : State} (h : OnlyGroup w s t) (f : Group → Group) :
    OnlyGroup w s (t.modGroup w.core w.slot w.grp f) := by
  obtain ⟨⟨⟨h1, h2, h3⟩, h4, h5, h6⟩, ⟨b, hb, hb1, hb2, hb3⟩⟩ := h
  rw [State.modGroup_of_block hb]
  refine ⟨⟨⟨by rw [← h1]; rfl, h2, h3⟩, ?_, ?_, ?_⟩, ⟨b.modGroup w.grp f, ?_, ?_, ?_, ?_⟩⟩
  · intro c; rw [← h4 c]; unfold State.setBlock; rw [State.core_modCore]; split
    · subst_vars; rfl
    · rfl
  · intro c p; rw [← h5 c]; unfold State.setBlock; rw [State.core_modCore]; split
    · subst_vars; rfl
    · rfl
  · intro c k hn; rw [State.block_setBlock, if_neg, h6 c k hn]; intro e; cases hn <;> simp_all
  · rw [State.block_setBlock]; simp
  · rw [← hb1]; rfl
  · rw [← hb2]; exact listMod_length ..
  · intro g hg; rw [Block.group_modGroup, ← hb3 g hg]; simp [hg]

/-! ## Finishing a slot -/

/-- The group after a slot whose effect on it is `f`. -/
def Group.slotted (g : Group) (w : Who) (k : Ctl) (f : Group → Group) : Group :=
  ((f g).setToken k).modIg w.ig.id IGroup.advance

/-- A YIELD that switches changes the issuer's group and its partition alone. -/
theorem OnlyGroup.yieldNow {w : Who} {s t : State} (h : OnlyGroup w s t) : OnlyGroup w s (t.yieldNow w) := by
  have h1 := ((h.fresh.modGroup (fun g => g.reschedule w.ig.id t.nextId)).clearCur).modPart w.core w.part
    (f := fun p => { p with comp := p.comp.map fun c => if c.slot == w.slot && c.gen == w.b.gen then { c with yielded := true } else c })
    fun _ => rfl
  unfold State.yieldNow
  cases t.compOf w with
  | none => exact h1.bump _ _
  | some c =>
    dsimp only
    split
    · exact h1
    · exact h1.bump _ _

theorem State.grpIn_yieldNow (t : State) (w : Who) :
    w.grpIn (t.yieldNow w) = w.grpIn (t.fresh.2.modGroup w.core w.slot w.grp fun g => g.reschedule w.ig.id t.fresh.1) := by
  have h : ∀ f : Part → Part, w.grpIn ((t.schedule w).modPart w.core w.part f) =
      w.grpIn (t.fresh.2.modGroup w.core w.slot w.grp fun g => g.reschedule w.ig.id t.fresh.1) := fun f => by
    rw [State.grpIn_modPart]; exact State.grpIn_modPart _ _ _ _ _
  have hn : ∀ (u : State) (o n : Nat), w.grpIn (u.bump o n) = w.grpIn u := fun _ _ _ => rfl
  unfold State.yieldNow
  cases t.compOf w with
  | none => exact (hn _ _ _).trans (h _)
  | some c =>
    dsimp only
    split
    · exact h _
    · exact (hn _ _ _).trans (h _)

theorem State.finish_frame {s : State} {w : Who} (h : Issues s w) (k : Ctl) (f : Group → Group) :
    OnlyGroup w s (s.finish w k f) := by
  have h1 := h.onlyGroup_modGroup (fun g => ((f g).setToken k).modIg w.ig.id IGroup.advance)
  unfold State.finish
  dsimp only
  split
  · exact h1.yieldNow
  · exact h1

/-- The issuer's group after a slot: where the YIELD switches, its latches are lost as well. -/
theorem State.finish_group {s : State} {w : Who} (h : Issues s w) (k : Ctl) (f : Group → Group) :
    w.grpIn (s.finish w k f) = w.g.slotted w k f ∨
      (k.yield = true ∧ s.switch = true ∧ ∃ n, w.grpIn (s.finish w k f) = (w.g.slotted w k f).reschedule w.ig.id n) := by
  unfold State.finish
  dsimp only
  split
  · rename_i hc
    simp only [Bool.and_eq_true, State.modGroup_switch] at hc
    right
    refine ⟨hc.1.1, hc.1.2, s.nextId, ?_⟩
    rw [State.grpIn_yieldNow]
    generalize hq : s.modGroup w.core w.slot w.grp (fun g => ((f g).setToken k).modIg w.ig.id IGroup.advance) = t
    have hb : t.block w.core w.slot = some (w.b.modGroup w.grp (fun g => ((f g).setToken k).modIg w.ig.id IGroup.advance)) := by
      rw [← hq, h.block_modGroup]; simp
    have hid : t.fresh.1 = s.nextId := by rw [← hq]; simp [State.fresh]
    show w.grpIn (t.fresh.2.modGroup w.core w.slot w.grp _) = _
    have hb' : t.fresh.2.block w.core w.slot = some (w.b.modGroup w.grp (fun g => ((f g).setToken k).modIg w.ig.id IGroup.advance)) := hb
    rw [State.modGroup_of_block hb', hid]
    unfold Who.grpIn Who.blockIn
    rw [State.block_setBlock]
    simp only [and_self, if_true, Option.getD_some]
    rw [Block.group_modGroup, Block.group_modGroup]
    have hl : (w.b.modGroup w.grp (fun g => ((f g).setToken k).modIg w.ig.id IGroup.advance)).groups.length = w.b.groups.length :=
      listMod_length ..
    simp only [hl, h.inRange, and_self, if_true, ← h.group]
    rfl
  · left; exact h.group_modGroup _

end Sys2Proof.Machine
end

