-- ==== Sys2Proof/Laws/Lanes.lean ====
section
/-! SUPPORT. Laws of the lanes: what the results of the active lanes do to a group. -/

namespace Sys2Proof.Machine

/-! ## Masks -/

theorem mem_lanesOf (m : LaneMask) (l : Nat) : l ∈ lanesOf m ↔ m.getLsbD l = true := by
  unfold lanesOf lanes
  simp only [List.mem_filter, List.mem_range]
  constructor
  · exact fun h => h.2
  · intro h; exact ⟨BitVec.lt_of_getLsbD h, h⟩

theorem lt_of_mem_lanesOf {m : LaneMask} {l : Nat} (h : l ∈ lanesOf m) : l < 32 :=
  BitVec.lt_of_getLsbD ((mem_lanesOf m l).1 h)

theorem nodup_lanesOf (m : LaneMask) : (lanesOf m).Nodup := List.Nodup.filter _ List.nodup_range

/-- A sum of distinct powers has the bits of its exponents. -/
theorem testBit_powers (p : Nat → Bool) : ∀ n i : Nat,
    ((List.range n).foldl (fun a l => if p l then a + 2 ^ l else a) 0).testBit i = (decide (i < n) && p i) ∧
      (List.range n).foldl (fun a l => if p l then a + 2 ^ l else a) 0 < 2 ^ n := by
  intro n
  induction n with
  | zero => intro i; simp
  | succ n ih =>
    intro i
    rw [List.range_succ, List.foldl_append]
    obtain ⟨h1, h2⟩ := ih i
    generalize (List.range n).foldl (fun a l => if p l then a + 2 ^ l else a) 0 = a at h1 h2 ⊢
    simp only [List.foldl_cons, List.foldl_nil]
    have h3 : (2 : Nat) ^ (n + 1) = 2 ^ n + 2 ^ n := by rw [pow_succ]; omega
    by_cases hp : p n = true
    · rw [if_pos hp]
      refine ⟨?_, by omega⟩
      have : a + 2 ^ n = 2 ^ n * 1 + a := by omega
      rw [this, Nat.testBit_two_pow_mul_add _ h2]
      by_cases hi : i < n
      · simp [hi, h1, Nat.lt_succ_of_lt hi]
      · rw [if_neg hi]
        by_cases he : i = n
        · subst he; simp [hp]
        · have : 0 < i - n := by omega
          have hne : ¬ (i < n + 1) := by omega
          simp only [hne, decide_false, Bool.false_and]
          obtain ⟨k, hk⟩ : ∃ k, i - n = k + 1 := ⟨i - n - 1, by omega⟩
          rw [hk, Nat.testBit_succ]; simp
    · rw [if_neg hp]
      refine ⟨?_, by omega⟩
      rw [h1]
      by_cases hi : i < n
      · simp [hi, Nat.lt_succ_of_lt hi]
      · by_cases he : i = n
        · subst he; simp [hp]
        · have hne : ¬ (i < n + 1) := by omega
          simp [hi, hne]

theorem getLsbD_maskOf (p : Nat → Bool) (l : Nat) : (maskOf p).getLsbD l = (decide (l < 32) && p l) := by
  unfold maskOf lanes
  obtain ⟨h1, h2⟩ := testBit_powers p 32 l
  rw [BitVec.getLsbD_ofNat, h1]
  by_cases h : l < 32 <;> simp [h]

/-- An active lane is one of the issue group whose thread is live and whose guard holds (R214). -/
theorem Who.mem_active (w : Who) (gd : Guard) (l : Nat) : (w.active gd).getLsbD l =
    (decide (l < 32) && (w.ig.mask.getLsbD l && (w.g.thread l).live && guardHolds gd (w.g.thread l))) := by
  unfold Who.active Who.live
  rw [getLsbD_maskOf, getLsbD_maskOf]
  by_cases h : l < 32 <;> simp [h]

/-- A live thread lies in the list of threads. -/
theorem Group.lt_of_live {g : Group} {l : Nat} (h : (g.thread l).live = true) : l < g.threads.length := by
  by_contra hn
  have : g.thread l = {} := listGet_default _ _ _ (by omega)
  rw [this] at h; exact absurd h (by decide)

theorem Who.lt_of_active {w : Who} {gd : Guard} {l : Nat} (h : (w.active gd).getLsbD l = true) : l < w.g.threads.length := by
  rw [Who.mem_active] at h
  simp only [Bool.and_eq_true] at h
  exact Group.lt_of_live h.2.1.2

/-! ## Threads -/

theorem Group.thread_modThread (g : Group) (i : Nat) (f : Thread → Thread) (j : Nat) :
    (g.modThread i f).thread j = if j = i ∧ i < g.threads.length then f (g.thread i) else g.thread j := listGet_listMod ..

/-! ## V results -/

theorem Group.vreg_writeV (g : Group) (i n : Nat) (wide : Bool) (x : Dword) (l j : Nat) (hi : i < 32) (hl : l < 32) :
    (g.writeV i n wide x).vreg l j =
      if l = i ∧ j = n then loWord x else if l = i ∧ wide = true ∧ j = n + 1 then hiWord x else g.vreg l j := by
  unfold Group.writeV Group.vreg
  dsimp only
  have e1 : (j * 32 + l = n * 32 + i) ↔ (l = i ∧ j = n) := by omega
  have e2 : (j * 32 + l = (n + 1) * 32 + i) ↔ (l = i ∧ j = n + 1) := by omega
  cases wide
  · simp only [Bool.false_eq_true, if_false, KMap.get_put, e1, false_and, and_false]
  · simp only [if_true, KMap.get_put, e1, e2, true_and]
    by_cases h1 : l = i ∧ j = n
    · have h2 : ¬ (l = i ∧ j = n + 1) := by omega
      rw [if_neg h2, if_pos h1, if_pos h1]
    · rw [if_neg h1]
      split
      · rfl
      · rfl

/-- A result touches V registers and threads only. -/
theorem Group.result_rest (g : Group) (i : Nat) (wb : Wb) (d : BitVec 8) (wide : Bool) (x : Dword) :
    ∃ v th, g.result i wb d wide x = { g with v := v, threads := th } ∧ th.length = g.threads.length := by
  unfold Group.result Group.writeV Group.writeL Group.modThread
  dsimp only; split <;> exact ⟨_, _, rfl, listMod_length ..⟩

theorem Group.vreg_result (g : Group) (i : Nat) (wb : Wb) (d : BitVec 8) (wide : Bool) (x : Dword) (l j : Nat)
    (hi : i < 32) (hl : l < 32) :
    (g.result i wb d wide x).vreg l j =
      if wb.nowb = false ∧ l = i ∧ j = d.toNat then loWord x
      else if wb.nowb = false ∧ l = i ∧ wide = true ∧ j = d.toNat + 1 then hiWord x else g.vreg l j := by
  unfold Group.result
  dsimp only
  have hlo : ∀ y : Dword, loWord (if wide then y else dw (y.toNat % 2 ^ 32)) = loWord y := by
    intro y; cases wide
    · simp only [Bool.false_eq_true, if_false]
      unfold loWord dw
      apply BitVec.eq_of_toNat_eq
      simp only [BitVec.toNat_setWidth, BitVec.toNat_ofNat]
      omega
    · rfl
  by_cases hn : wb.nowb = true
  · simp [hn, Group.vreg, Group.writeL, Group.modThread]
  · rw [Bool.not_eq_true] at hn
    simp only [hn, Bool.false_eq_true, if_false, true_and]
    rw [Group.vreg_writeV _ _ _ _ _ _ _ hi hl, hlo]
    congr 1
    cases wide
    · simp only [Bool.false_eq_true, if_false, false_and, and_false]; rfl
    · rfl

theorem Group.thread_result (g : Group) (i : Nat) (wb : Wb) (d : BitVec 8) (wide : Bool) (x : Dword) (l : Nat) :
    (g.result i wb d wide x).thread l =
      if l = i ∧ i < g.threads.length then
        { g.thread i with latches := listSet (g.thread i).latches wb.ldst.toNat
                            (some (if wide then x else dw (x.toNat % 2 ^ 32))) }
      else g.thread l := by
  unfold Group.result
  dsimp only
  have e : ∀ y : Dword, ∀ q : Group, (if wb.nowb = true then q else q.writeV i d.toNat wide y).thread l = q.thread l := by
    intro y q; split <;> rfl
  rw [e]
  exact Group.thread_modThread ..

/-- The results of a list of lanes, in order. -/
def writeList (ls : List Nat) (wb : Wb) (d : BitVec 8) (wide : Bool) (x : Nat → Dword) (g : Group) : Group :=
  ls.foldl (fun g l => g.result l wb d wide (x l)) g

theorem writeList_rest (ls : List Nat) (wb : Wb) (d : BitVec 8) (wide : Bool) (x : Nat → Dword) : ∀ g : Group,
    ∃ v th, writeList ls wb d wide x g = { g with v := v, threads := th } ∧ th.length = g.threads.length := by
  induction ls with
  | nil => intro g; exact ⟨g.v, g.threads, rfl, rfl⟩
  | cons i t ih =>
    intro g
    obtain ⟨v, th, h, hl⟩ := g.result_rest i wb d wide (x i)
    obtain ⟨v', th', h', hl'⟩ := ih (g.result i wb d wide (x i))
    refine ⟨v', th', ?_, ?_⟩
    · rw [show writeList (i :: t) wb d wide x g = writeList t wb d wide x (g.result i wb d wide (x i)) from rfl, h', h]
    · rw [hl', h]; exact hl

theorem writeList_vreg (ls : List Nat) (wb : Wb) (d : BitVec 8) (wide : Bool) (x : Nat → Dword) (l j : Nat) (hl : l < 32) :
    ∀ g : Group, (∀ i ∈ ls, i < 32) → ls.Nodup →
    (writeList ls wb d wide x g).vreg l j =
      if wb.nowb = false ∧ l ∈ ls ∧ j = d.toNat then loWord (x l)
      else if wb.nowb = false ∧ l ∈ ls ∧ wide = true ∧ j = d.toNat + 1 then hiWord (x l) else g.vreg l j := by
  induction ls with
  | nil => intro g _ _; simp [writeList]
  | cons i t ih =>
    intro g hb hn
    have hi : i < 32 := hb i (List.mem_cons_self ..)
    rw [show writeList (i :: t) wb d wide x g = writeList t wb d wide x (g.result i wb d wide (x i)) from rfl]
    rw [ih _ (fun k hk => hb k (List.mem_cons_of_mem _ hk)) (List.nodup_cons.1 hn).2, g.vreg_result _ _ _ _ _ _ _ hi hl]
    have hnot := (List.nodup_cons.1 hn).1
    by_cases e : l = i
    · subst e
      simp only [hnot, List.mem_cons, true_or, true_and, false_and, and_false, if_false]
    · simp only [e, List.mem_cons, false_or, false_and, and_false, if_false]

theorem writeList_thread (ls : List Nat) (wb : Wb) (d : BitVec 8) (wide : Bool) (x : Nat → Dword) (l : Nat) :
    ∀ g : Group, ls.Nodup →
    (writeList ls wb d wide x g).thread l =
      if l ∈ ls ∧ l < g.threads.length then
        { g.thread l with latches := listSet (g.thread l).latches wb.ldst.toNat
                            (some (if wide then x l else dw ((x l).toNat % 2 ^ 32))) }
      else g.thread l := by
  induction ls with
  | nil => intro g _; simp [writeList]
  | cons i t ih =>
    intro g hn
    have hnot := (List.nodup_cons.1 hn).1
    rw [show writeList (i :: t) wb d wide x g = writeList t wb d wide x (g.result i wb d wide (x i)) from rfl]
    rw [ih _ (List.nodup_cons.1 hn).2]
    have hlen : (g.result i wb d wide (x i)).threads.length = g.threads.length := by
      obtain ⟨v, th, h, hl⟩ := g.result_rest i wb d wide (x i)
      rw [h]; exact hl
    rw [hlen, g.thread_result]
    by_cases e : l = i
    · subst e; simp only [hnot, List.mem_cons, true_or, true_and, false_and, if_false]
    · simp only [e, List.mem_cons, false_or, false_and, if_false]

/-! ## A slot that has written its lanes -/

theorem Group.liveMask_getLsbD (g : Group) (l : Nat) : g.liveMask.getLsbD l = (decide (l < 32) && (g.thread l).live) :=
  getLsbD_maskOf ..

theorem loseLatches_thread (g : Group) (m : LaneMask) (l : Nat) :
    (g.loseLatches m).thread l = g.thread l ∨
      (g.loseLatches m).thread l = { g.thread l with latches := [none, none, none, none] } := by
  unfold Group.loseLatches forLanes
  dsimp only
  generalize lanesOf m = ls
  have key : ∀ (ls : List Nat) (q : Group),
      (ls.foldl (fun g l => g.modThread l (fun t => { t with latches := [none, none, none, none] })) q).thread l = q.thread l ∨
      (ls.foldl (fun g l => g.modThread l (fun t => { t with latches := [none, none, none, none] })) q).thread l =
        { q.thread l with latches := [none, none, none, none] } := by
    intro ls
    induction ls with
    | nil => intro q; exact .inl rfl
    | cons i t ih =>
      intro q
      rw [List.foldl_cons]
      have h := ih (q.modThread i (fun t => { t with latches := [none, none, none, none] }))
      rw [Group.thread_modThread] at h
      split at h
      · rename_i e
        have e1 : q.thread i = q.thread l := by rw [e.1]
        rw [e1] at h
        right
        rcases h with h | h
        · exact h
        · exact h
      · exact h
  exact key ls { g with ops := _ }

theorem loseLatches_rest (g : Group) (m : LaneMask) :
    ∃ th ops, g.loseLatches m = { g with threads := th, ops := ops } ∧ th.length = g.threads.length := by
  unfold Group.loseLatches forLanes
  dsimp only
  generalize lanesOf m = ls
  have key : ∀ (ls : List Nat) (q : Group), ∃ th,
      ls.foldl (fun g l => g.modThread l (fun t => { t with latches := [none, none, none, none] })) q =
        { q with threads := th } ∧ th.length = q.threads.length := by
    intro ls
    induction ls with
    | nil => intro q; exact ⟨q.threads, rfl, rfl⟩
    | cons i t ih =>
      intro q
      rw [List.foldl_cons]
      obtain ⟨th, h, hl⟩ := ih (q.modThread i (fun t => { t with latches := [none, none, none, none] }))
      exact ⟨th, h, by rw [hl]; exact listMod_length ..⟩
  obtain ⟨th, h, hl⟩ := key ls { g with ops := g.ops.map (fun o => { o with dest := o.dest.loseLatches m }) }
  exact ⟨th, _, h, hl⟩

theorem find_modIg (l : List IGroup) (id j : Nat) (f : IGroup → IGroup) (hf : ∀ x, (f x).id = x.id) :
    (l.map (fun x => if x.id == id then f x else x)).find? (fun x => x.id == j) =
      (l.find? (fun x => x.id == j)).map (fun x => if x.id == id then f x else x) := by
  induction l with
  | nil => rfl
  | cons a t ih =>
    simp only [List.map_cons, List.find?_cons]
    have : (if a.id == id then f a else a).id = a.id := by split <;> simp [hf]
    rw [this]
    split
    · rfl
    · exact ih

/-- What finishing a slot leaves of the group, beside registers, threads and remote latch writes. -/
structure Slotted (w : Who) (k : Ctl) (s t : State) (f : Group → Group) : Prop where
  frame : OnlyGroup w s t
  regs : (w.grpIn t).v = (f w.g).v ∧ (w.grpIn t).s = (f w.g).s
  rest : { w.grpIn t with igs := (f w.g).igs, results := (f w.g).results, ops := (f w.g).ops, nextId := (f w.g).nextId
                          threads := (f w.g).threads } = f w.g
  threads : ∀ l, (w.grpIn t).thread l = (f w.g).thread l ∨ (k.yield = true ∧ s.switch = true ∧
    (w.grpIn t).thread l = { (f w.g).thread l with latches := [none, none, none, none] })
  igs : ∀ id, (w.grpIn t).igs.find? (fun x => x.id == id) = ((f w.g).igs.find? (fun x => x.id == id)).map (fun x =>
    if x.id == w.ig.id then x.advance else x) ∨ ∃ n, (w.grpIn t).igs.find? (fun x => x.id == id) =
      ((f w.g).igs.find? (fun x => x.id == id)).map (fun x => if x.id == w.ig.id then { x.advance with since := n } else x)
  results : (w.grpIn t).results =
    match k.sett with | some n => (f w.g).results ++ [{ id := (f w.g).nextId, tok := some n }] | none => (f w.g).results

theorem IGroup.advance_id (x : IGroup) : x.advance.id = x.id := by unfold IGroup.advance; split <;> rfl

theorem State.finish_slotted {s : State} {w : Who} (h : Issues s w) (k : Ctl) (f : Group → Group) :
    Slotted w k s (s.finish w k f) f := by
  have hig : ∀ id, (w.g.slotted w k f).igs.find? (fun x => x.id == id) = ((f w.g).igs.find? (fun x => x.id == id)).map (fun x =>
      if x.id == w.ig.id then x.advance else x) := by
    intro id
    unfold Group.slotted Group.setToken Group.modIg
    dsimp only
    split <;> exact find_modIg _ _ _ _ IGroup.advance_id
  have hres : (w.g.slotted w k f).results =
      match k.sett with | some n => (f w.g).results ++ [{ id := (f w.g).nextId, tok := some n }] | none => (f w.g).results := by
    unfold Group.slotted Group.setToken Group.modIg
    cases k.sett <;> rfl
  have hrest : (w.g.slotted w k f).v = (f w.g).v ∧ (w.g.slotted w k f).s = (f w.g).s ∧
      (w.g.slotted w k f).threads = (f w.g).threads ∧
      ∃ igs rs n, w.g.slotted w k f = { f w.g with igs := igs, results := rs, nextId := n } := by
    unfold Group.slotted Group.setToken Group.modIg
    dsimp only
    split <;> exact ⟨rfl, rfl, rfl, _, _, _, rfl⟩
  obtain ⟨hv, hs, ht, igs, rs, n, hall⟩ := hrest
  rcases State.finish_group h k f with e | ⟨hy, hw, m, e⟩
  · refine ⟨State.finish_frame h k f, ⟨by rw [e, hv], by rw [e, hs]⟩, ?_, fun l => .inl ?_, fun id => .inl (by rw [e, hig]), by rw [e, hres]⟩
    · rw [e, hall]
    · rw [e]; unfold Group.thread; rw [ht]
  · have hre : (w.g.slotted w k f).reschedule w.ig.id m = w.g.slotted w k f ∨ ∃ mk,
        (w.g.slotted w k f).reschedule w.ig.id m =
          ((w.g.slotted w k f).loseLatches mk).modIg w.ig.id (fun x => { x with since := m }) := by
      unfold Group.reschedule
      split
      · exact .inr ⟨_, rfl⟩
      · exact .inl rfl
    rcases hre with hre | ⟨mk, hre⟩
    · rw [hre] at e
      refine ⟨State.finish_frame h k f, ⟨by rw [e, hv], by rw [e, hs]⟩, ?_, fun l => .inl ?_, fun id => .inl (by rw [e, hig]), by rw [e, hres]⟩
      · rw [e, hall]
      · rw [e]; unfold Group.thread; rw [ht]
    · rw [hre] at e
      obtain ⟨th, ops, hll, _⟩ := loseLatches_rest (w.g.slotted w k f) mk
      refine ⟨State.finish_frame h k f, ⟨?_, ?_⟩, ?_, fun l => ?_, fun id => .inr ⟨m, ?_⟩, ?_⟩
      · rw [e]; show ((w.g.slotted w k f).loseLatches mk).v = _; rw [hll]; exact hv
      · rw [e]; show ((w.g.slotted w k f).loseLatches mk).s = _; rw [hll]; exact hs
      · rw [e, hll, hall]; rfl
      · have h1 := loseLatches_thread (w.g.slotted w k f) mk l
        have h2 : (w.g.slotted w k f).thread l = (f w.g).thread l := by unfold Group.thread; rw [ht]
        rw [h2] at h1
        have h3 : (w.grpIn (s.finish w k f)).thread l = ((w.g.slotted w k f).loseLatches mk).thread l := by rw [e]; rfl
        rw [h3]
        rcases h1 with h1 | h1
        · exact .inl h1
        · exact .inr ⟨hy, hw, h1⟩
      · rw [e]
        show ((w.g.slotted w k f).loseLatches mk |>.igs.map _).find? _ = _
        rw [find_modIg _ w.ig.id id (fun x => { x with since := m }) (fun _ => rfl), hll]
        show Option.map _ ((w.g.slotted w k f).igs.find? _) = _
        rw [hig]
        cases (f w.g).igs.find? (fun x => x.id == id) with
        | none => rfl
        | some a =>
          simp only [Option.map_some]
          by_cases hq : (a.id == w.ig.id) = true
          · rw [if_pos hq, if_pos (by rw [IGroup.advance_id]; exact hq), if_pos hq]
          · rw [if_neg hq, if_neg hq, if_neg hq]
      · rw [e]; show ((w.g.slotted w k f).loseLatches mk).results = _; rw [hll]; exact hres

theorem IGroup.advance_pc (x : IGroup) : x.advance.pc = nextPc x.pc := by unfold IGroup.advance; split <;> rfl

/-- A slot that leaves the issue groups to their advance. -/
theorem Slotted.done {w : Who} {k : Ctl} {s t : State} {f : Group → Group} (hi : Issues s w) (h : Slotted w k s t f)
    (hg : SameGroup w.g (f w.g)) (higs : (f w.g).igs = w.g.igs) (hres : (f w.g).results = w.g.results)
    (hid : (f w.g).nextId = w.g.nextId) : SlotDone w k s t := by
  refine ⟨h.frame, ?_, ⟨?_, ?_⟩, ?_⟩
  · unfold SameGroup at hg ⊢
    rw [← hg]
    have hr := h.rest
    revert hr
    generalize w.grpIn t = a
    generalize f w.g = b
    intro hr; rw [← hr]
  · have hown := h.igs w.ig.id
    rw [higs, hi.ig] at hown
    unfold Who.igIn
    rcases hown with e | ⟨n, e⟩
    · refine ⟨w.ig.advance, by rw [e]; simp, IGroup.advance_pc _, ?_⟩
      unfold IGroup.advance; split <;> exact ⟨rfl, rfl, rfl, rfl, rfl, rfl⟩
    · refine ⟨{ w.ig.advance with since := n }, by rw [e]; simp, IGroup.advance_pc _, ?_⟩
      unfold IGroup.advance; split <;> exact ⟨rfl, rfl, rfl, rfl, rfl, rfl⟩
  · intro id hne
    have ho := h.igs id
    rw [higs] at ho
    have key : ∀ g : IGroup → IGroup, (w.g.igs.find? (fun x => x.id == id)).map (fun x => if x.id == w.ig.id then g x else x) =
        w.g.igs.find? (fun x => x.id == id) := by
      intro g
      cases hf : w.g.igs.find? (fun x => x.id == id) with
      | none => rfl
      | some a =>
        have : a.id = id := by simpa using List.find?_some hf
        simp [this, hne]
    rcases ho with e | ⟨n, e⟩
    · rw [e, key]
    · rw [e, key (fun x => { x.advance with since := n })]
  · unfold TokenSet
    rw [h.results]
    cases k.sett <;> simp [hres, hid]

/-- Writing the lanes and finishing the slot, as a whole. -/
theorem Issues.laneResults {s : State} {w : Who} (hi : Issues s w) (h : Hd) (wb : Wb) (d : BitVec 8) (wide : Bool)
    (x : Nat → Dword) :
    LaneResults w h wb d wide (fun l => (x l).toNat) s (s.finish w h.k (writeLanes (w.active h.g) wb d wide x)) := by
  have hs := State.finish_slotted hi h.k (writeLanes (w.active h.g) wb d wide x)
  obtain ⟨v, th, hw, hl⟩ := writeList_rest (lanesOf (w.active h.g)) wb d wide x w.g
  have hw' : writeLanes (w.active h.g) wb d wide x w.g = { w.g with v := v, threads := th } := hw
  have hnd := nodup_lanesOf (w.active h.g)
  have hlt : ∀ i ∈ lanesOf (w.active h.g), i < 32 := fun i hm => lt_of_mem_lanesOf hm
  have hvr : ∀ l j, (w.grpIn (s.finish w h.k (writeLanes (w.active h.g) wb d wide x))).vreg l j =
      (writeList (lanesOf (w.active h.g)) wb d wide x w.g).vreg l j := by
    intro l j; unfold Group.vreg; rw [hs.regs.1]; rfl
  have hth := fun l => writeList_thread (lanesOf (w.active h.g)) wb d wide x l w.g hnd
  have hlive : ∀ l, (w.active h.g).getLsbD l = true → l ∈ lanesOf (w.active h.g) ∧ l < w.g.threads.length :=
    fun l ha => ⟨(mem_lanesOf _ _).2 ha, Who.lt_of_active ha⟩
  have hval : ∀ l, dw ((x l).toNat % 2 ^ (if wide then 64 else 32)) = if wide then x l else dw ((x l).toNat % 2 ^ 32) := by
    intro l; cases wide
    · rfl
    · simp only [if_true]
      unfold dw
      apply BitVec.eq_of_toNat_eq
      rw [BitVec.toNat_ofNat]
      have := (x l).isLt
      omega
  have hlo : ∀ y : Dword, (loWord y).toNat = y.toNat % 2 ^ 32 := by intro y; unfold loWord; rw [BitVec.toNat_setWidth]
  have hhi : ∀ y : Dword, (hiWord y).toNat = y.toNat / 2 ^ 32 % 2 ^ 32 := by
    intro y; unfold hiWord; rw [BitVec.extractLsb'_toNat, Nat.shiftRight_eq_div_pow]
  refine ⟨hs.done hi ?_ ?_ ?_ ?_, ?_, ?_, ?_, ?_, ?_, ?_⟩
  · rw [hw']; rfl
  · rw [hw']
  · rw [hw']
  · rw [hw']
  · intro l ha hn
    have hm := (hlive l ha).1
    refine ⟨?_, fun hwide => ?_⟩
    · rw [hvr, writeList_vreg _ _ _ _ _ _ _ (hlt l hm) _ hlt hnd, if_pos ⟨hn, hm, rfl⟩, hlo]
    · rw [hvr, writeList_vreg _ _ _ _ _ _ _ (hlt l hm) _ hlt hnd, if_neg (by omega), if_pos ⟨hn, hm, hwide, rfl⟩, hhi]
  · intro l n hl32 hc
    rw [hvr, writeList_vreg _ _ _ _ _ _ _ hl32 _ hlt hnd]
    have hmem : l ∈ lanesOf (w.active h.g) ↔ (w.active h.g).getLsbD l = true := mem_lanesOf _ _
    have hcc : ¬ (wb.nowb = false ∧ l ∈ lanesOf (w.active h.g) ∧ n = d.toNat) ∧
        ¬ (wb.nowb = false ∧ l ∈ lanesOf (w.active h.g) ∧ wide = true ∧ n = d.toNat + 1) := by
      rw [hmem]; unfold named at hc
      rcases hc with hc | hc | hc
      · simp [hc]
      · simp [hc]
      · constructor
        · rintro ⟨_, _, e⟩; exact hc (.inl e)
        · rintro ⟨_, _, e⟩; exact hc (.inr e)
    rw [if_neg hcc.1, if_neg hcc.2]
  · rw [hs.regs.2, hw']
  · intro l ha
    have h1 := hs.threads l
    rw [show (writeLanes (w.active h.g) wb d wide x w.g).thread l = _ from hth l, if_pos (hlive l ha)] at h1
    unfold LatchesAre
    rw [hval]
    rcases h1 with e | ⟨hy, hsw, e⟩
    · left; rw [e]
    · right; exact ⟨hy, hsw, by rw [e]⟩
  · intro l ha
    have h1 := hs.threads l
    rw [show (writeLanes (w.active h.g) wb d wide x w.g).thread l = _ from hth l,
      if_neg (by rw [mem_lanesOf]; simp [ha])] at h1
    unfold LatchesAre
    rcases h1 with e | ⟨hy, hsw, e⟩
    · left; rw [e]
    · right; exact ⟨hy, hsw, by rw [e]⟩
  · intro l
    have h1 := hs.threads l
    rw [show (writeLanes (w.active h.g) wb d wide x w.g).thread l = _ from hth l] at h1
    unfold SameThread
    split at h1 <;> rcases h1 with e | ⟨_, _, e⟩ <;> rw [e] <;> exact ⟨rfl, rfl⟩

theorem writeLanes_eq (m : LaneMask) (wb : Wb) (d : BitVec 8) (wide : Bool) (x : Nat → Dword) (g : Group) :
    writeLanes m wb d wide x g = writeList (lanesOf m) wb d wide x g := rfl

end Sys2Proof.Machine
end

