-- ==== Sys2Proof/Laws/Checks.lean ====
section
/-! SUPPORT. Laws of the operand checks (rows 6 and 7 of R230) and of the shapes that make them. -/

namespace Sys2Proof.Machine

/-- Operands that can be read pass the checks. -/
theorem Who.check_readable {w : Who} {m : LaneMask} {rs : List VRead} {ds : List VName} (h : Readable w m rs ds) :
    w.check m rs ds = none := by
  unfold Who.check
  have h1 : w.badLatch m rs = none := by
    unfold Who.badLatch
    rw [List.find?_eq_none]
    intro l hl
    simp only [List.any_eq_true, not_exists, not_and]
    intro r hr
    have := h.1 l ((mem_lanesOf _ _).1 hl) r hr
    cases hs : w.src? l r.wide r.x <;> simp_all
  rw [h1]
  dsimp only
  rw [if_neg]
  intro hc
  simp only [Bool.and_eq_true, bne_iff_ne, ne_eq] at hc
  obtain ⟨hm, hb⟩ := hc
  obtain ⟨h2, h3⟩ := h.2 hm
  unfold Who.badReg at hb
  simp only [Bool.or_eq_true, List.any_eq_true] at hb
  rcases hb with ⟨r, hr, hb⟩ | ⟨d, hd, hb⟩
  · cases hx : r.x with
    | reg n =>
      rw [hx] at hb
      have := h2 r hr n hx
      simp [IGroup.allows] at hb
      omega
    | latch l => rw [hx] at hb; exact absurd hb (by simp)
  · have := h3 d hd
    simp [IGroup.allows] at hb
    omega

/-- Operands that pass the checks can be read. -/
theorem Who.readable_check {w : Who} {m : LaneMask} {rs : List VRead} {ds : List VName} (h : w.check m rs ds = none) :
    Readable w m rs ds := by
  unfold Who.check at h
  split at h
  · cases h
  · rename_i hb
    constructor
    · intro l hl r hr
      unfold Who.badLatch at hb
      rw [List.find?_eq_none] at hb
      have h1 := hb l ((mem_lanesOf _ _).2 hl)
      simp only [List.any_eq_true, not_exists, not_and] at h1
      have h2 := h1 r hr
      cases hs : w.src? l r.wide r.x <;> simp_all
    · intro hm
      have hn : w.badReg rs ds = false := by
        cases hg : w.badReg rs ds with
        | false => rfl
        | true => rw [hg, if_pos (by simpa using hm)] at h; cases h
      unfold Who.badReg at hn
      simp only [Bool.or_eq_false_iff, List.any_eq_false] at hn
      constructor
      · intro r hr n hx
        have h1 := hn.1 r hr
        rw [hx] at h1
        simpa [IGroup.allows] using h1
      · intro d hd
        simpa [IGroup.allows] using hn.2 d hd

theorem State.withIssuer_of {s : State} {w : Who} (h : s.issuer = some w) (f : Who → Host.Outcome State Fault Refusal) :
    s.withIssuer f = f w := by
  unfold State.withIssuer; rw [h]

/-- The vector shape on operands that can be read: the effect on the active lanes, and the slot is finished. -/
theorem State.vector_readable {s : State} {w : Who} (h : s.issuer = some w) (hd : Hd) {rs : List VRead} {ds : List VName}
    (hr : Readable w (w.active hd.g) rs ds) (f : Who → LaneMask → Group → Group) :
    s.vector hd rs ds f = .next (s.finish w hd.k (f w (w.active hd.g))) := by
  unfold State.vector
  rw [State.withIssuer_of h]
  dsimp only
  rw [Who.check_readable hr]

/-- Only the active lanes' values matter. -/
theorem LaneResults.congr {w : Who} {h : Hd} {wb : Wb} {d : BitVec 8} {wide : Bool} {x y : Nat → Nat} {s t : State}
    (r : LaneResults w h wb d wide x s t) (e : ∀ l, (w.active h.g).getLsbD l = true → x l = y l) :
    LaneResults w h wb d wide y s t :=
  { r with
    result := fun l ha hn => by rw [← e l ha]; exact r.result l ha hn
    latch := fun l ha => by rw [← e l ha]; exact r.latch l ha }

/-- The vector shape with a V destination, as a whole. -/
theorem State.vector_laneResults {s : State} {w : Who} (h : s.issuer = some w) (hd : Hd) (wb : Wb) (d : BitVec 8) (wide : Bool)
    {rs : List VRead} {ds : List VName} (hr : Readable w (w.active hd.g) rs ds) (x : Who → LaneMask → Nat → Dword) :
    ∃ t, s.vector hd rs ds (fun w m => writeLanes m wb d wide (x w m)) = .next t ∧
      LaneResults w hd wb d wide (fun l => (x w (w.active hd.g) l).toNat) s t :=
  ⟨_, State.vector_readable h hd hr _, Issues.laneResults (State.issuer_spec h) hd wb d wide _⟩

end Sys2Proof.Machine
end

