-- ==== Sys2Proof/Laws/PerInstr.lean ====
section
/-! SUPPORT. Lemmas per constructor of Instr: what a program's instruction encodes to, and that a step outside a program has no word. -/

namespace Sys2Proof

/-- An instruction has an encoding exactly where it has a slot control: a word of a program has one, an event and a word that is no
instruction have none (R217). -/
def Laws.Encodes.Statement (i : Instr) : Prop := (encode i).isSome = i.ctl.isSome

theorem Laws.Encodes.nop (k : Ctl) : Laws.Encodes.Statement (.nop k) := rfl
theorem Laws.Encodes.nextSeg (k : Ctl) (seg : BitVec 8) : Laws.Encodes.Statement (.nextSeg k seg) := rfl
theorem Laws.Encodes.nextp (k : Ctl) (p : BitVec 3) (t f : BitVec 8) : Laws.Encodes.Statement (.nextp k p t f) := rfl
theorem Laws.Encodes.nextx (k : Ctl) (s : BitVec 6) (imm : BitVec 8) : Laws.Encodes.Statement (.nextx k s imm) := rfl
theorem Laws.Encodes.call (k : Ctl) (callee cont : BitVec 8) : Laws.Encodes.Statement (.call k callee cont) := rfl
theorem Laws.Encodes.ret (k : Ctl) (imm : BitVec 8) : Laws.Encodes.Statement (.ret k imm) := rfl
theorem Laws.Encodes.exit (k : Ctl) : Laws.Encodes.Statement (.exit k) := rfl
theorem Laws.Encodes.waitTok (h : Hd) (wm : Bool) (mask : BitVec 8) : Laws.Encodes.Statement (.waitTok h wm mask) := rfl
theorem Laws.Encodes.waitClk (h : Hd) (wm : Bool) (n : BitVec 8) : Laws.Encodes.Statement (.waitClk h wm n) := rfl
theorem Laws.Encodes.trap (h : Hd) (code : BitVec 8) : Laws.Encodes.Statement (.trap h code) := rfl
theorem Laws.Encodes.assert (h : Hd) (s : BitVec 6) (p : PSrc) : Laws.Encodes.Statement (.assert h s p) := rfl
theorem Laws.Encodes.bkpt (h : Hd) (code : BitVec 8) : Laws.Encodes.Statement (.bkpt h code) := rfl
theorem Laws.Encodes.iadd (o : IBin) : Laws.Encodes.Statement (.iadd o) := rfl
theorem Laws.Encodes.isub (o : IBin) : Laws.Encodes.Statement (.isub o) := rfl
theorem Laws.Encodes.iadd3 (o : ITern) : Laws.Encodes.Statement (.iadd3 o) := rfl
theorem Laws.Encodes.imul (o : IBin) : Laws.Encodes.Statement (.imul o) := rfl
theorem Laws.Encodes.imulhi (o : IBin) : Laws.Encodes.Statement (.imulhi o) := rfl
theorem Laws.Encodes.imad (o : ITern) : Laws.Encodes.Statement (.imad o) := rfl
theorem Laws.Encodes.imin (o : IBin) : Laws.Encodes.Statement (.imin o) := rfl
theorem Laws.Encodes.imax (o : IBin) : Laws.Encodes.Statement (.imax o) := rfl
theorem Laws.Encodes.iabs (o : IUn) : Laws.Encodes.Statement (.iabs o) := rfl
theorem Laws.Encodes.ineg (o : IUn) : Laws.Encodes.Statement (.ineg o) := rfl
theorem Laws.Encodes.and (o : IBin) : Laws.Encodes.Statement (.and o) := rfl
theorem Laws.Encodes.or (o : IBin) : Laws.Encodes.Statement (.or o) := rfl
theorem Laws.Encodes.xor (o : IBin) : Laws.Encodes.Statement (.xor o) := rfl
theorem Laws.Encodes.not (o : IUn) : Laws.Encodes.Statement (.not o) := rfl
theorem Laws.Encodes.lop3 (o : Lop3) : Laws.Encodes.Statement (.lop3 o) := rfl
theorem Laws.Encodes.shl (o : IBin) : Laws.Encodes.Statement (.shl o) := rfl
theorem Laws.Encodes.shr (o : IBin) : Laws.Encodes.Statement (.shr o) := rfl
theorem Laws.Encodes.sar (o : IBin) : Laws.Encodes.Statement (.sar o) := rfl
theorem Laws.Encodes.rotl (o : IBin) : Laws.Encodes.Statement (.rotl o) := rfl
theorem Laws.Encodes.funnel (o : ITern) : Laws.Encodes.Statement (.funnel o) := rfl
theorem Laws.Encodes.bfx (o : IBin) : Laws.Encodes.Statement (.bfx o) := rfl
theorem Laws.Encodes.bfi (o : ITern) : Laws.Encodes.Statement (.bfi o) := rfl
theorem Laws.Encodes.popc (o : IUn) : Laws.Encodes.Statement (.popc o) := rfl
theorem Laws.Encodes.clz (o : IUn) : Laws.Encodes.Statement (.clz o) := rfl
theorem Laws.Encodes.ctz (o : IUn) : Laws.Encodes.Statement (.ctz o) := rfl
theorem Laws.Encodes.brev (o : IUn) : Laws.Encodes.Statement (.brev o) := rfl
theorem Laws.Encodes.permb (o : ITern) : Laws.Encodes.Statement (.permb o) := rfl
theorem Laws.Encodes.sel (o : SelOp) : Laws.Encodes.Statement (.sel o) := rfl
theorem Laws.Encodes.mov (o : MovOp) : Laws.Encodes.Statement (.mov o) := rfl
theorem Laws.Encodes.movi (o : MovImm) : Laws.Encodes.Statement (.movi o) := rfl
theorem Laws.Encodes.movk (o : MovImm) : Laws.Encodes.Statement (.movk o) := rfl
theorem Laws.Encodes.icmp (o : IcmpOp) : Laws.Encodes.Statement (.icmp o) := rfl
theorem Laws.Encodes.pset (o : PsetOp) : Laws.Encodes.Statement (.pset o) := rfl
theorem Laws.Encodes.pmov (o : PmovOp) : Laws.Encodes.Statement (.pmov o) := rfl
theorem Laws.Encodes.sadd (o : SBin) : Laws.Encodes.Statement (.sadd o) := rfl
theorem Laws.Encodes.ssub (o : SBin) : Laws.Encodes.Statement (.ssub o) := rfl
theorem Laws.Encodes.smul (o : SBin) : Laws.Encodes.Statement (.smul o) := rfl
theorem Laws.Encodes.sand (o : SBin) : Laws.Encodes.Statement (.sand o) := rfl
theorem Laws.Encodes.sor (o : SBin) : Laws.Encodes.Statement (.sor o) := rfl
theorem Laws.Encodes.sxor (o : SBin) : Laws.Encodes.Statement (.sxor o) := rfl
theorem Laws.Encodes.sshl (o : SBin) : Laws.Encodes.Statement (.sshl o) := rfl
theorem Laws.Encodes.sshr (o : SBin) : Laws.Encodes.Statement (.sshr o) := rfl
theorem Laws.Encodes.smov (o : SMov) : Laws.Encodes.Statement (.smov o) := rfl
theorem Laws.Encodes.smovi (o : SMov) : Laws.Encodes.Statement (.smovi o) := rfl
theorem Laws.Encodes.scmp (o : ScmpOp) : Laws.Encodes.Statement (.scmp o) := rfl
theorem Laws.Encodes.movsr (o : MovsrOp) : Laws.Encodes.Statement (.movsr o) := rfl
theorem Laws.Encodes.fadd (o : FBin) : Laws.Encodes.Statement (.fadd o) := rfl
theorem Laws.Encodes.fsub (o : FBin) : Laws.Encodes.Statement (.fsub o) := rfl
theorem Laws.Encodes.fmul (o : FBin) : Laws.Encodes.Statement (.fmul o) := rfl
theorem Laws.Encodes.ffma (o : FTern) : Laws.Encodes.Statement (.ffma o) := rfl
theorem Laws.Encodes.fmin (o : FBin) : Laws.Encodes.Statement (.fmin o) := rfl
theorem Laws.Encodes.fmax (o : FBin) : Laws.Encodes.Statement (.fmax o) := rfl
theorem Laws.Encodes.fcmp (o : FcmpOp) : Laws.Encodes.Statement (.fcmp o) := rfl
theorem Laws.Encodes.fclass (o : FUn) : Laws.Encodes.Statement (.fclass o) := rfl
theorem Laws.Encodes.frnd (o : FrndOp) : Laws.Encodes.Statement (.frnd o) := rfl
theorem Laws.Encodes.frcp (o : FUn) : Laws.Encodes.Statement (.frcp o) := rfl
theorem Laws.Encodes.frsq (o : FUn) : Laws.Encodes.Statement (.frsq o) := rfl
theorem Laws.Encodes.fsqrt (o : FUn) : Laws.Encodes.Statement (.fsqrt o) := rfl
theorem Laws.Encodes.fexp2 (o : FUn) : Laws.Encodes.Statement (.fexp2 o) := rfl
theorem Laws.Encodes.flog2 (o : FUn) : Laws.Encodes.Statement (.flog2 o) := rfl
theorem Laws.Encodes.fsin (o : FUn) : Laws.Encodes.Statement (.fsin o) := rfl
theorem Laws.Encodes.fcos (o : FUn) : Laws.Encodes.Statement (.fcos o) := rfl
theorem Laws.Encodes.ftanh (o : FUn) : Laws.Encodes.Statement (.ftanh o) := rfl
theorem Laws.Encodes.cvt (o : CvtOp) : Laws.Encodes.Statement (.cvt o) := rfl
theorem Laws.Encodes.cvtsr (o : CvtOp) : Laws.Encodes.Statement (.cvtsr o) := rfl
theorem Laws.Encodes.qenc (o : CvtOp) : Laws.Encodes.Statement (.qenc o) := rfl
theorem Laws.Encodes.qdec (o : CvtOp) : Laws.Encodes.Statement (.qdec o) := rfl
theorem Laws.Encodes.pack2 (o : PackOp) : Laws.Encodes.Statement (.pack2 o) := rfl
theorem Laws.Encodes.unpack2 (o : CvtOp) : Laws.Encodes.Statement (.unpack2 o) := rfl
theorem Laws.Encodes.shfl (o : ShflOp) : Laws.Encodes.Statement (.shfl o) := rfl
theorem Laws.Encodes.vote (o : VoteArgs) : Laws.Encodes.Statement (.vote o) := rfl
theorem Laws.Encodes.ballot (o : BallotOp) : Laws.Encodes.Statement (.ballot o) := rfl
theorem Laws.Encodes.redux (o : ReduxOp) : Laws.Encodes.Statement (.redux o) := rfl
theorem Laws.Encodes.scan (o : ReduxOp) : Laws.Encodes.Statement (.scan o) := rfl
theorem Laws.Encodes.matchLanes (o : MatchOp) : Laws.Encodes.Statement (.matchLanes o) := rfl
theorem Laws.Encodes.bcast (o : BcastOp) : Laws.Encodes.Statement (.bcast o) := rfl
theorem Laws.Encodes.shfl16 (o : ShflOp) : Laws.Encodes.Statement (.shfl16 o) := rfl
theorem Laws.Encodes.vote16 (o : VoteArgs) : Laws.Encodes.Statement (.vote16 o) := rfl
theorem Laws.Encodes.ballot16 (o : BallotOp) : Laws.Encodes.Statement (.ballot16 o) := rfl
theorem Laws.Encodes.ld (o : LdOp) : Laws.Encodes.Statement (.ld o) := rfl
theorem Laws.Encodes.st (o : StOp) : Laws.Encodes.Statement (.st o) := rfl
theorem Laws.Encodes.ldx (o : LdxOp) : Laws.Encodes.Statement (.ldx o) := rfl
theorem Laws.Encodes.stx (o : StxOp) : Laws.Encodes.Statement (.stx o) := rfl
theorem Laws.Encodes.pref (o : PrefOp) : Laws.Encodes.Statement (.pref o) := rfl
theorem Laws.Encodes.cctlIv (h : Hd) (base : VSrc) (imm : BitVec 8) : Laws.Encodes.Statement (.cctlIv h base imm) := rfl
theorem Laws.Encodes.cctlIvall (h : Hd) : Laws.Encodes.Statement (.cctlIvall h) := rfl
theorem Laws.Encodes.ldl (o : LdOp) : Laws.Encodes.Statement (.ldl o) := rfl
theorem Laws.Encodes.stl (o : StOp) : Laws.Encodes.Statement (.stl o) := rfl
theorem Laws.Encodes.accrd (o : AccrdOp) : Laws.Encodes.Statement (.accrd o) := rfl
theorem Laws.Encodes.accwr (o : AccwrOp) : Laws.Encodes.Statement (.accwr o) := rfl
theorem Laws.Encodes.atom (o : AtomOp) : Laws.Encodes.Statement (.atom o) := rfl
theorem Laws.Encodes.atoml (o : AtomOp) : Laws.Encodes.Statement (.atoml o) := rfl
theorem Laws.Encodes.red (o : RedOp) : Laws.Encodes.Statement (.red o) := rfl
theorem Laws.Encodes.fence (o : FenceOp) : Laws.Encodes.Statement (.fence o) := rfl
theorem Laws.Encodes.bridge (o : BridgeOp) : Laws.Encodes.Statement (.bridge o) := rfl
theorem Laws.Encodes.barinit (o : BarinitOp) : Laws.Encodes.Statement (.barinit o) := rfl
theorem Laws.Encodes.bararrive (o : BarOp) : Laws.Encodes.Statement (.bararrive o) := rfl
theorem Laws.Encodes.barwait (o : BarOp) : Laws.Encodes.Statement (.barwait o) := rfl
theorem Laws.Encodes.bartest (o : BarOp) : Laws.Encodes.Statement (.bartest o) := rfl
theorem Laws.Encodes.blksync (o : BlksyncOp) : Laws.Encodes.Statement (.blksync o) := rfl
theorem Laws.Encodes.cpy (o : CpyOp) : Laws.Encodes.Statement (.cpy o) := rfl
theorem Laws.Encodes.tcpy (o : TcpyOp) : Laws.Encodes.Statement (.tcpy o) := rfl
theorem Laws.Encodes.cpywait (h : Hd) (any : Bool) (mask : BitVec 6) : Laws.Encodes.Statement (.cpywait h any mask) := rfl
theorem Laws.Encodes.tagff (h : Hd) (d : BitVec 6) (mask : BitVec 6) : Laws.Encodes.Statement (.tagff h d mask) := rfl
theorem Laws.Encodes.tagrd (h : Hd) (d : BitVec 6) (tag : BitVec 6) : Laws.Encodes.Statement (.tagrd h d tag) := rfl
theorem Laws.Encodes.tcfg (h : Hd) (tile : BitVec 3) (v : BitVec 6) : Laws.Encodes.Statement (.tcfg h tile v) := rfl
theorem Laws.Encodes.tld (o : TileMv) : Laws.Encodes.Statement (.tld o) := rfl
theorem Laws.Encodes.tst (o : TileMv) : Laws.Encodes.Statement (.tst o) := rfl
theorem Laws.Encodes.tzero (h : Hd) (tag : BitVec 6) (tile : BitVec 3) : Laws.Encodes.Statement (.tzero h tag tile) := rfl
theorem Laws.Encodes.tmma (h : Hd) (tag : BitVec 6) (desc : BitVec 6) : Laws.Encodes.Statement (.tmma h tag desc) := rfl
theorem Laws.Encodes.tdrain (o : TdrainOp) : Laws.Encodes.Statement (.tdrain o) := rfl
theorem Laws.Encodes.tacc (h : Hd) (add : Bool) (tag : BitVec 6) (tile : BitVec 3) (base : BitVec 6) : Laws.Encodes.Statement (.tacc h add tag tile base) := rfl
theorem Laws.Encodes.tstat (h : Hd) (d : BitVec 6) : Laws.Encodes.Statement (.tstat h d) := rfl
theorem Laws.Encodes.xld (o : XldOp) : Laws.Encodes.Statement (.xld o) := rfl
theorem Laws.Encodes.xst (o : XstOp) : Laws.Encodes.Statement (.xst o) := rfl
theorem Laws.Encodes.xatom (o : XatomOp) : Laws.Encodes.Statement (.xatom o) := rfl
theorem Laws.Encodes.xsend (h : Hd) (acc : CAcc) (tag : BitVec 6) (desc : BitVec 6) (bar : BitVec 6) : Laws.Encodes.Statement (.xsend h acc tag desc bar) := rfl
theorem Laws.Encodes.cvopen (h : Hd) (c : BitVec 4) (e : BitVec 6) : Laws.Encodes.Statement (.cvopen h c e) := rfl
theorem Laws.Encodes.cvclose (h : Hd) (c : BitVec 4) : Laws.Encodes.Statement (.cvclose h c) := rfl
theorem Laws.Encodes.fencef (h : Hd) (dom : Dom) (c : BitVec 4) (bar : BitVec 6) (n : BitVec 8) : Laws.Encodes.Statement (.fencef h dom c bar n) := rfl
theorem Laws.Encodes.slotrsv (h : Hd) (d e b : BitVec 6) : Laws.Encodes.Statement (.slotrsv h d e b) := rfl
theorem Laws.Encodes.slotrel (h : Hd) (j : BitVec 6) : Laws.Encodes.Statement (.slotrel h j) := rfl
theorem Laws.Encodes.slotrelFault (h : Hd) (j : BitVec 6) : Laws.Encodes.Statement (.slotrelFault h j) := rfl
theorem Laws.Encodes.chunk (k : Ctl) (c : BitVec 6) : Laws.Encodes.Statement (.chunk k c) := rfl
theorem Laws.Encodes.waymark (k : Ctl) (d : BitVec 6) (vg : BitVec 6) : Laws.Encodes.Statement (.waymark k d vg) := rfl
theorem Laws.Encodes.legrd (h : Hd) (d : BitVec 6) : Laws.Encodes.Statement (.legrd h d) := rfl
theorem Laws.Encodes.irrev (h : Hd) : Laws.Encodes.Statement (.irrev h) := rfl
theorem Laws.Encodes.grow (k : Ctl) (n : BitVec 5) : Laws.Encodes.Statement (.grow k n) := rfl
theorem Laws.Encodes.shrink (k : Ctl) (n : BitVec 5) : Laws.Encodes.Statement (.shrink k n) := rfl
theorem Laws.Encodes.locq (h : Hd) (kind : LocKind) (d a : BitVec 6) : Laws.Encodes.Statement (.locq h kind d a) := rfl
theorem Laws.Encodes.launch (k : Ctl) (d r q : BitVec 6) : Laws.Encodes.Statement (.launch k d r q) := rfl
theorem Laws.Encodes.prio (k : Ctl) (p : BitVec 6) : Laws.Encodes.Statement (.prio k p) := rfl
theorem Laws.Encodes.rfeRegion (k : Ctl) : Laws.Encodes.Statement (.rfeRegion k) := rfl
theorem Laws.Encodes.rfeNext (k : Ctl) : Laws.Encodes.Statement (.rfeNext k) := rfl
theorem Laws.Encodes.ctlrd (h : Hd) (d : BitVec 6) (r : CtlReg) : Laws.Encodes.Statement (.ctlrd h d r) := rfl
theorem Laws.Encodes.ctlwr (h : Hd) (r : CtlReg) (s : BitVec 6) : Laws.Encodes.Statement (.ctlwr h r s) := rfl
theorem Laws.Encodes.traprd (h : Hd) (d : BitVec 6) (k : BitVec 4) : Laws.Encodes.Statement (.traprd h d k) := rfl
theorem Laws.Encodes.extensionWord (ctl : BitVec 20) (w : Dword) : Laws.Encodes.Statement (.extensionWord ctl w) := rfl
theorem Laws.Encodes.illegalWord (ctl : BitVec 20) (w : Dword) (why : IllegalWhy) : Laws.Encodes.Statement (.illegalWord ctl w why) := rfl
theorem Laws.Encodes.resultWriteback (core slot grp k : Nat) : Laws.Encodes.Statement (.resultWriteback core slot grp k) := rfl
theorem Laws.Encodes.trapDelivery (core slot grp ig : Nat) : Laws.Encodes.Statement (.trapDelivery core slot grp ig) := rfl
theorem Laws.Encodes.growGrant (core part : Nat) : Laws.Encodes.Statement (.growGrant core part) := rfl
theorem Laws.Encodes.waitClkExpiry (core slot grp ig : Nat) : Laws.Encodes.Statement (.waitClkExpiry core slot grp ig) := rfl
theorem Laws.Encodes.storeDrain (core k : Nat) : Laws.Encodes.Statement (.storeDrain core k) := rfl
theorem Laws.Encodes.invalidationArrival (core k : Nat) : Laws.Encodes.Statement (.invalidationArrival core k) := rfl
theorem Laws.Encodes.filterAgeExpiry (core k : Nat) (dom : Dom) : Laws.Encodes.Statement (.filterAgeExpiry core k dom) := rfl
theorem Laws.Encodes.bankRequestComplete (core k : Nat) : Laws.Encodes.Statement (.bankRequestComplete core k) := rfl
theorem Laws.Encodes.homeAgentWrite (w : HomeWork) : Laws.Encodes.Statement (.homeAgentWrite w) := rfl
theorem Laws.Encodes.commandComplete (core slot k : Nat) (part : Option Nat) : Laws.Encodes.Statement (.commandComplete core slot k part) := rfl
theorem Laws.Encodes.tmmaSubblock (core slot k : Nat) : Laws.Encodes.Statement (.tmmaSubblock core slot k) := rfl
theorem Laws.Encodes.followOnStart (core slot k : Nat) : Laws.Encodes.Statement (.followOnStart core slot k) := rfl
theorem Laws.Encodes.firstHopCustody (id : Nat) : Laws.Encodes.Statement (.firstHopCustody id) := rfl
theorem Laws.Encodes.packetHop (h : Hop) : Laws.Encodes.Statement (.packetHop h) := rfl
theorem Laws.Encodes.custodyTimeout (id : Nat) : Laws.Encodes.Statement (.custodyTimeout id) := rfl
theorem Laws.Encodes.packetArrival (id : Nat) : Laws.Encodes.Statement (.packetArrival id) := rfl
theorem Laws.Encodes.slotrsvRequest (id : Nat) : Laws.Encodes.Statement (.slotrsvRequest id) := rfl
theorem Laws.Encodes.remoteReply (id : Nat) (r : Reply) : Laws.Encodes.Statement (.remoteReply id r) := rfl
theorem Laws.Encodes.custodyAck (id : Nat) : Laws.Encodes.Statement (.custodyAck id) := rfl
theorem Laws.Encodes.negativeReply (id : Nat) (r : Refused) : Laws.Encodes.Statement (.negativeReply id r) := rfl
theorem Laws.Encodes.linkFailure (id : Nat) : Laws.Encodes.Statement (.linkFailure id) := rfl
theorem Laws.Encodes.errorNoticeArrival (core : Nat) (slot : BitVec 5) (gen : BitVec 32) (off : Nat) : Laws.Encodes.Statement (.errorNoticeArrival core slot gen off) := rfl
theorem Laws.Encodes.flitError (port : Nat) : Laws.Encodes.Statement (.flitError port) := rfl
theorem Laws.Encodes.peerLost (port : Nat) : Laws.Encodes.Statement (.peerLost port) := rfl
theorem Laws.Encodes.portTrain (port : Nat) : Laws.Encodes.Statement (.portTrain port) := rfl
theorem Laws.Encodes.keylow (port dir : Nat) : Laws.Encodes.Statement (.keylow port dir) := rfl
theorem Laws.Encodes.keyExhausted (port dir : Nat) : Laws.Encodes.Statement (.keyExhausted port dir) := rfl
theorem Laws.Encodes.keyStarveTimeout (port dir : Nat) : Laws.Encodes.Statement (.keyStarveTimeout port dir) := rfl
theorem Laws.Encodes.keySwitch (port dir : Nat) : Laws.Encodes.Statement (.keySwitch port dir) := rfl
theorem Laws.Encodes.itineraryAdmit (ctx q : Nat) : Laws.Encodes.Statement (.itineraryAdmit ctx q) := rfl
theorem Laws.Encodes.blockPlace (die : Nat) : Laws.Encodes.Statement (.blockPlace die) := rfl
theorem Laws.Encodes.stealRequest (thief victim : Nat) : Laws.Encodes.Statement (.stealRequest thief victim) := rfl
theorem Laws.Encodes.groupRelease (core slot grp : Nat) : Laws.Encodes.Statement (.groupRelease core slot grp) := rfl
theorem Laws.Encodes.blockTaskRetire (core slot : Nat) : Laws.Encodes.Statement (.blockTaskRetire core slot) := rfl
theorem Laws.Encodes.evictionDecision (die : Nat) : Laws.Encodes.Statement (.evictionDecision die) := rfl
theorem Laws.Encodes.evictionStopTimeout (core slot grp : Nat) : Laws.Encodes.Statement (.evictionStopTimeout core slot grp) := rfl
theorem Laws.Encodes.blockSave (v : Victim) : Laws.Encodes.Statement (.blockSave v) := rfl
theorem Laws.Encodes.blockRestore (k core : Nat) : Laws.Encodes.Statement (.blockRestore k core) := rfl
theorem Laws.Encodes.watchdogExpiry (core slot : Nat) : Laws.Encodes.Statement (.watchdogExpiry core slot) := rfl
theorem Laws.Encodes.contextEnded (ctx : Nat) : Laws.Encodes.Statement (.contextEnded ctx) := rfl
theorem Laws.Encodes.caravanHaltPause (ctx : Nat) (x : HaltCall) : Laws.Encodes.Statement (.caravanHaltPause ctx x) := rfl
theorem Laws.Encodes.caravanHaltComplete (x : HaltReport) : Laws.Encodes.Statement (.caravanHaltComplete x) := rfl
theorem Laws.Encodes.sealIntervalExpiry (dom : Nat) : Laws.Encodes.Statement (.sealIntervalExpiry dom) := rfl
theorem Laws.Encodes.sealRequestMessage (dom : Nat) : Laws.Encodes.Statement (.sealRequestMessage dom) := rfl
theorem Laws.Encodes.sealPrep (dom : Nat) (leg : BitVec 32) : Laws.Encodes.Statement (.sealPrep dom leg) := rfl
theorem Laws.Encodes.sealDrainBegin (x : SealReport) : Laws.Encodes.Statement (.sealDrainBegin x) := rfl
theorem Laws.Encodes.sealWaitLimit (dom : Nat) : Laws.Encodes.Statement (.sealWaitLimit dom) := rfl
theorem Laws.Encodes.sealSave (dom : Nat) : Laws.Encodes.Statement (.sealSave dom) := rfl
theorem Laws.Encodes.sealApplyAck (dom : Nat) (member : BitVec 12) : Laws.Encodes.Statement (.sealApplyAck dom member) := rfl
theorem Laws.Encodes.sealReady (dom : Nat) (member : BitVec 12) : Laws.Encodes.Statement (.sealReady dom member) := rfl
theorem Laws.Encodes.sealCommitWitness (dom : Nat) (leg : BitVec 32) : Laws.Encodes.Statement (.sealCommitWitness dom leg) := rfl
theorem Laws.Encodes.sealCut (dom : Nat) : Laws.Encodes.Statement (.sealCut dom) := rfl
theorem Laws.Encodes.sealApply (dom : Nat) (leg : BitVec 32) : Laws.Encodes.Statement (.sealApply dom leg) := rfl
theorem Laws.Encodes.memberSilence (dom : Nat) (member : BitVec 12) : Laws.Encodes.Statement (.memberSilence dom member) := rfl
theorem Laws.Encodes.uncorrectableError (site : ErrSite) : Laws.Encodes.Statement (.uncorrectableError site) := rfl
theorem Laws.Encodes.correctedError (site : ErrSite) : Laws.Encodes.Statement (.correctedError site) := rfl
theorem Laws.Encodes.dieFault (die : Nat) : Laws.Encodes.Statement (.dieFault die) := rfl
theorem Laws.Encodes.railUndervolt (base : Nat) : Laws.Encodes.Statement (.railUndervolt base) := rfl
theorem Laws.Encodes.rollbackAbort (x : RollbackCall) : Laws.Encodes.Statement (.rollbackAbort x) := rfl
theorem Laws.Encodes.rollbackStop (x : RollbackCall) (leg : BitVec 32) : Laws.Encodes.Statement (.rollbackStop x leg) := rfl
theorem Laws.Encodes.rollbackDone (dom : Nat) (member : BitVec 12) : Laws.Encodes.Statement (.rollbackDone dom member) := rfl
theorem Laws.Encodes.rollbackResume (x : ResumeReport) : Laws.Encodes.Statement (.rollbackResume x) := rfl
theorem Laws.Encodes.powerSample (power : BitVec 16) : Laws.Encodes.Statement (.powerSample power) := rfl
theorem Laws.Encodes.powerUp : Laws.Encodes.Statement (.powerUp) := rfl
theorem Laws.Encodes.fundamentalReset : Laws.Encodes.Statement (.fundamentalReset) := rfl
theorem Laws.Encodes.bootVerify (x : AtDie Bool) : Laws.Encodes.Statement (.bootVerify x) := rfl
theorem Laws.Encodes.bootInit (x : AtDie InitResult) : Laws.Encodes.Statement (.bootInit x) := rfl
theorem Laws.Encodes.bootEnum (x : AtDie Bool) : Laws.Encodes.Statement (.bootEnum x) := rfl
theorem Laws.Encodes.bar2Read (off n : Nat) : Laws.Encodes.Statement (.bar2Read off n) := rfl
theorem Laws.Encodes.bar2Write (off : Nat) (bytes : List Byte) : Laws.Encodes.Statement (.bar2Write off bytes) := rfl
theorem Laws.Encodes.registerWrite (x : RegAt) (v : Dword) : Laws.Encodes.Statement (.registerWrite x v) := rfl
theorem Laws.Encodes.qtailWrite (ctx q : Nat) (v : Word) : Laws.Encodes.Statement (.qtailWrite ctx q v) := rfl
theorem Laws.Encodes.queueEnable (ctx q : Nat) : Laws.Encodes.Statement (.queueEnable ctx q) := rfl
theorem Laws.Encodes.queueDisable (ctx q : Nat) : Laws.Encodes.Statement (.queueDisable ctx q) := rfl
theorem Laws.Encodes.invalidatePage (ctx : Nat) (size : BitVec 2) : Laws.Encodes.Statement (.invalidatePage ctx size) := rfl
theorem Laws.Encodes.invalidateContext (ctx : Nat) (size : BitVec 2) : Laws.Encodes.Statement (.invalidateContext ctx size) := rfl
theorem Laws.Encodes.invalidationComplete (ctx : Nat) : Laws.Encodes.Statement (.invalidationComplete ctx) := rfl
theorem Laws.Encodes.invctlRead (ctx : Nat) : Laws.Encodes.Statement (.invctlRead ctx) := rfl
theorem Laws.Encodes.ctxstatRead (ctx : Nat) : Laws.Encodes.Statement (.ctxstatRead ctx) := rfl
theorem Laws.Encodes.cmdstatRead : Laws.Encodes.Statement (.cmdstatRead) := rfl
theorem Laws.Encodes.handlerWrite (ctx : Nat) (v : Dword) : Laws.Encodes.Statement (.handlerWrite ctx v) := rfl
theorem Laws.Encodes.ctxcfgWrite (ctx : Nat) (v : Dword) : Laws.Encodes.Statement (.ctxcfgWrite ctx v) := rfl
theorem Laws.Encodes.manifestStage (ctx entry : Nat) (word : BitVec 2) (v : Dword) : Laws.Encodes.Statement (.manifestStage ctx entry word v) := rfl
theorem Laws.Encodes.manifestInstall (ctx entry : Nat) (v : Dword) : Laws.Encodes.Statement (.manifestInstall ctx entry v) := rfl
theorem Laws.Encodes.pwrlimWrite (v : Dword) : Laws.Encodes.Statement (.pwrlimWrite v) := rfl
theorem Laws.Encodes.i3cPwrlimWrite (v : BitVec 16) : Laws.Encodes.Statement (.i3cPwrlimWrite v) := rfl
theorem Laws.Encodes.domcreateMatch (dom : Nat) (others : List DomArgs) : Laws.Encodes.Statement (.domcreateMatch dom others) := rfl
theorem Laws.Encodes.domcreateTimeout (x : DomLate) : Laws.Encodes.Statement (.domcreateTimeout x) := rfl
theorem Laws.Encodes.injectFire (k : Nat) : Laws.Encodes.Statement (.injectFire k) := rfl
theorem Laws.Encodes.mailboxUnknownCode (code : Word) : Laws.Encodes.Statement (.mailboxUnknownCode code) := rfl
theorem Laws.Encodes.i3cAttest (nonce : List Byte) : Laws.Encodes.Statement (.i3cAttest nonce) := rfl
theorem Laws.Encodes.i3cRasRead : Laws.Encodes.Statement (.i3cRasRead) := rfl
theorem Laws.Encodes.attest : Laws.Encodes.Statement (.attest) := rfl
theorem Laws.Encodes.fuseadv : Laws.Encodes.Statement (.fuseadv) := rfl
theorem Laws.Encodes.cacheput : Laws.Encodes.Statement (.cacheput) := rfl
theorem Laws.Encodes.cacheget : Laws.Encodes.Statement (.cacheget) := rfl
theorem Laws.Encodes.halt : Laws.Encodes.Statement (.halt) := rfl
theorem Laws.Encodes.unhalt : Laws.Encodes.Statement (.unhalt) := rfl
theorem Laws.Encodes.ctxresume : Laws.Encodes.Statement (.ctxresume) := rfl
theorem Laws.Encodes.ctxend : Laws.Encodes.Statement (.ctxend) := rfl
theorem Laws.Encodes.release : Laws.Encodes.Statement (.release) := rfl
theorem Laws.Encodes.ctxcreate : Laws.Encodes.Statement (.ctxcreate) := rfl
theorem Laws.Encodes.ctxfree : Laws.Encodes.Statement (.ctxfree) := rfl
theorem Laws.Encodes.accset : Laws.Encodes.Statement (.accset) := rfl
theorem Laws.Encodes.fabcfg : Laws.Encodes.Statement (.fabcfg) := rfl
theorem Laws.Encodes.routeset : Laws.Encodes.Statement (.routeset) := rfl
theorem Laws.Encodes.keyinst : Laws.Encodes.Statement (.keyinst) := rfl
theorem Laws.Encodes.linkstat : Laws.Encodes.Statement (.linkstat) := rfl
theorem Laws.Encodes.linkctlRetire : Laws.Encodes.Statement (.linkctlRetire) := rfl
theorem Laws.Encodes.linkctlUp : Laws.Encodes.Statement (.linkctlUp) := rfl
theorem Laws.Encodes.domcreate : Laws.Encodes.Statement (.domcreate) := rfl
theorem Laws.Encodes.domjoin : Laws.Encodes.Statement (.domjoin) := rfl
theorem Laws.Encodes.domfree : Laws.Encodes.Statement (.domfree) := rfl
theorem Laws.Encodes.sealreq : Laws.Encodes.Statement (.sealreq) := rfl
theorem Laws.Encodes.injectUe : Laws.Encodes.Statement (.injectUe) := rfl
theorem Laws.Encodes.injectDieFault : Laws.Encodes.Statement (.injectDieFault) := rfl
theorem Laws.Encodes.injectRollback : Laws.Encodes.Statement (.injectRollback) := rfl
theorem Laws.Encodes.injectPortRetire : Laws.Encodes.Statement (.injectPortRetire) := rfl
theorem Laws.Encodes.injectKeyStarve : Laws.Encodes.Statement (.injectKeyStarve) := rfl
theorem Laws.Encodes.coreretRetire : Laws.Encodes.Statement (.coreretRetire) := rfl
theorem Laws.Encodes.coreretReturn : Laws.Encodes.Statement (.coreretReturn) := rfl
theorem Laws.Encodes.fwstage : Laws.Encodes.Statement (.fwstage) := rfl
theorem Laws.Encodes.powerLoss : Laws.Encodes.Statement (.powerLoss) := rfl

end Sys2Proof
end

