-- ==== Sys2Proof/Tests/Slice0.lean ====
section
/-! SUPPORT. Tests: terms that WellFormed refuses, words written out from the encoding tables of R217 to R230 with the instruction that
each stands for, and for each statement a state that meets its hypotheses. -/

namespace Sys2Proof.Tests

open Sys2Proof Sys2Proof.Machine

set_option Elab.async false

/-! ## Parts of instructions -/

/-- A slot control of zeros. -/
def k0 : Ctl := ⟨0, false, 0, none⟩

/-- The guard PT and a slot control of zeros. -/
def h0 : Hd := ⟨⟨false, 7⟩, k0⟩

/-- A result into its register and latch 0. -/
def w0 : Wb := ⟨false, 0⟩

/-- No modifier of a float source. -/
def m0 : FMods := ⟨false, false, false, false, false⟩

/-- A plain access in RC at DEV. -/
def c0 : Acc := ⟨.rc, .dev, .none⟩

/-- A plain command in RC at DEV. -/
def a0 : CAcc := ⟨.rc, .dev, false, false⟩

/-! ## Terms that are not well-formed, one for each check -/

/-- Integer types and pairs. -/
theorem test_ill_formed_integer_types_and_pairs : ([
    .iadd ⟨h0, w0, .b32, 1, .reg 2, .v (.reg 3), false⟩,
    .iadd ⟨h0, w0, .i64, 1, .reg 2, .v (.reg 4), false⟩,
    .iadd ⟨h0, w0, .i64, 2, .reg 3, .v (.reg 4), false⟩,
    .iadd ⟨h0, w0, .i64, 2, .reg 4, .v (.reg 5), false⟩,
    .iadd ⟨h0, w0, .i64, 2, .reg 4, .s 5, false⟩,
    .imulhi ⟨h0, w0, .i32, 2, .reg 4, .s 5, true⟩,
    .imad ⟨h0, w0, .i32, 2, .reg 4, .imm 5, .s 6, false⟩,
    .imad ⟨h0, w0, .i64, 2, .reg 4, .s 6, .s 7, false⟩,
    .iabs ⟨h0, w0, .n32, 2, .reg 4, false⟩,
    .ineg ⟨h0, w0, .i64, 3, .reg 4, false⟩,
    .iabs ⟨h0, w0, .i64, 2, .reg 5, false⟩] : List Instr).all (fun i => !i.wf) = true := by
  decide +kernel

/-- Logic, fields and moves. -/
theorem test_ill_formed_logic_fields_and_moves : ([
    .and ⟨h0, w0, .i32, 2, .reg 4, .s 5, false⟩,
    .xor ⟨h0, w0, .b32, 2, .reg 4, .s 5, true⟩,
    .not ⟨h0, w0, .b32, 2, .reg 4, true⟩,
    .lop3 ⟨h0, w0, .b32, 2, .reg 4, .imm 1, 0⟩,
    .lop3 ⟨h0, w0, .b64, 2, .reg 4, .s 1, 0⟩,
    .shl ⟨h0, w0, .i32, 2, .reg 4, .s 5, false⟩,
    .sar ⟨h0, w0, .b32, 2, .reg 4, .s 5, false⟩,
    .funnel ⟨h0, w0, .i32, 2, .reg 4, .s 5, .s 6, false⟩,
    .bfx ⟨h0, w0, .i32, 2, .reg 4, .imm 5, false⟩,
    .bfi ⟨h0, w0, .b32, 2, .reg 4, .s 5, .imm 6, false⟩,
    .popc ⟨h0, w0, .i32, 2, .reg 4, false⟩,
    .clz ⟨h0, w0, .b64, 2, .reg 5, false⟩,
    .brev ⟨h0, w0, .b64, 3, .reg 4, false⟩,
    .permb ⟨h0, w0, .b64, 2, .reg 4, .s 6, .s 6, false⟩,
    .sel ⟨h0, w0, .b64, 2, .reg 4, .s 5, ⟨false, 7⟩⟩,
    .mov ⟨h0, w0, .b32, 2, .imm 4⟩,
    .movi ⟨h0, w0, .b32, 2, 4, 0⟩,
    .movi ⟨h0, w0, .i32, 2, 4, 1⟩,
    .movk ⟨h0, w0, .b32, 2, 4, 4⟩,
    .movk ⟨h0, w0, .b64, 3, 4, 4⟩] : List Instr).all (fun i => !i.wf) = true := by
  decide +kernel

/-- Predicates and uniform instructions. -/
theorem test_ill_formed_predicates_and_uniform_instructions : ([
    .icmp ⟨h0, .b32, .lt, .none, 1, .reg 2, .imm 3⟩,
    .icmp ⟨h0, .i32, .lt, .none, 7, .reg 2, .imm 3⟩,
    .icmp ⟨h0, .i64, .lt, .none, 1, .reg 3, .imm 3⟩,
    .pset ⟨h0, .and, 7, ⟨false, 1⟩, ⟨false, 2⟩⟩,
    .pset ⟨h0, .add, 1, ⟨false, 1⟩, ⟨false, 2⟩⟩,
    .pmov ⟨h0, 7, .reg 2, 0⟩,
    .sadd ⟨k0, .b32, 1, 2, .s 3, false⟩,
    .sadd ⟨k0, .i64, 1, 2, .s 4, false⟩,
    .sadd ⟨k0, .i64, 2, 3, .s 4, false⟩,
    .sadd ⟨k0, .i64, 2, 4, .s 3, false⟩,
    .smul ⟨k0, .i32, 2, 4, .s 3, true⟩,
    .sand ⟨k0, .i32, 2, 4, .s 3, false⟩,
    .sshl ⟨k0, .i32, 2, 4, .s 3, false⟩,
    .sshr ⟨k0, .n32, 2, 4, .s 3, false⟩,
    .smov ⟨k0, .i32, 2, .s 3⟩,
    .smov ⟨k0, .b64, 2, .s 3⟩,
    .smovi ⟨k0, .b32, 2, .imm 3⟩,
    .smovi ⟨k0, .i32, 2, .s 3⟩,
    .scmp ⟨k0, .b64, .lt, 1, 2, .s 4⟩,
    .scmp ⟨k0, .i64, .lt, 1, 3, .s 4⟩,
    .movsr ⟨h0, w0, 3, .clock⟩] : List Instr).all (fun i => !i.wf) = true := by
  decide +kernel

/-- Floats and conversions. -/
theorem test_ill_formed_floats_and_conversions : ([
    .fadd ⟨h0, w0, .e4m3, 1, .reg 2, .s 3, m0⟩,
    .fadd ⟨h0, w0, .f32, 1, .reg 2, .imm 3, m0⟩,
    .fadd ⟨h0, w0, .f32, 1, .reg 2, .s 3, ⟨false, false, false, false, true⟩⟩,
    .ffma ⟨h0, w0, .f32, 1, .reg 2, .s 3, .imm 4, m0⟩,
    .fcmp ⟨h0, .f16x2, .eq, .none, 1, .reg 2, .s 3⟩,
    .fcmp ⟨h0, .f16, .eq, .none, 7, .reg 2, .s 3⟩,
    .fclass ⟨h0, w0, .f32, 1, .reg 2, ⟨true, false, false, false, false⟩⟩,
    .frnd ⟨h0, w0, .f32, 1, .reg 2, some .rsr, false, false⟩,
    .frnd ⟨h0, w0, .i32, 1, .reg 2, some .rne, false, false⟩,
    .frcp ⟨h0, w0, .f32, 1, .reg 2, ⟨false, false, true, false, false⟩⟩,
    .fsin ⟨h0, w0, .b32, 1, .reg 2, m0⟩,
    .cvt ⟨h0, w0, .b32, .f32, some .rne, 2, .reg 4⟩,
    .cvt ⟨h0, w0, .f16, .f32, some .rsr, 2, .reg 4⟩,
    .cvt ⟨h0, w0, .i64, .f32, some .rne, 3, .reg 4⟩,
    .cvt ⟨h0, w0, .f32, .n64, some .rne, 2, .reg 5⟩,
    .cvtsr ⟨h0, w0, .f32, .f32, some .rne, 2, .reg 4⟩,
    .cvtsr ⟨h0, w0, .f16, .f32, none, 2, .reg 4⟩,
    .qenc ⟨h0, w0, .f16, .f32, some .rne, 2, .reg 4⟩,
    .qdec ⟨h0, w0, .f32, .sq2, none, 2, .reg 4⟩,
    .pack2 ⟨h0, w0, .f32, none, 2, .reg 4, .reg 5⟩,
    .unpack2 ⟨h0, w0, .f32, .f16x2, some .rne, 3, .reg 4⟩] : List Instr).all (fun i => !i.wf) = true := by
  decide +kernel

/-- Cross-lane instructions. -/
theorem test_ill_formed_cross_lane_instructions : ([
    .shfl ⟨h0, w0, .i32, .idx, 3, 2, .reg 4, .imm 5⟩,
    .shfl ⟨h0, w0, .b32, .idx, 3, 2, .reg 4, .s 5⟩,
    .shfl ⟨h0, w0, .b32, .idx, 0, 2, .reg 4, .imm 5⟩,
    .shfl ⟨h0, w0, .b32, .idx, 7, 2, .reg 4, .imm 5⟩,
    .shfl ⟨h0, w0, .b32, .idx, 6, 2, .reg 4, .imm 5⟩,
    .shfl ⟨h0, w0, .b64, .idx, 3, 3, .reg 4, .imm 5⟩,
    .vote ⟨h0, .all, ⟨false, 1⟩, 3, 7⟩,
    .ballot ⟨h0, w0, ⟨false, 1⟩, 0, 7⟩,
    .redux ⟨h0, w0, .and, false, .i32, 3, 1, .reg 2⟩,
    .redux ⟨h0, w0, .add, true, .i32, 3, 1, .reg 2⟩,
    .scan ⟨h0, w0, .add, true, .b32, 3, 1, .reg 2⟩,
    .matchLanes ⟨h0, w0, .b64, 3, 1, .reg 3⟩,
    .bcast ⟨h0, w0, .b64, none, 3, 1, .reg 2⟩,
    .shfl16 ⟨h0, w0, .b32, .idx, 4, 2, .reg 4, .imm 5⟩,
    .vote16 ⟨h0, .uni, ⟨false, 1⟩, 0, 1⟩,
    .ballot16 ⟨h0, w0, ⟨false, 1⟩, 4, 1⟩] : List Instr).all (fun i => !i.wf) = true := by
  decide +kernel

/-- Memory and atomics. -/
theorem test_ill_formed_memory_and_atomics : ([
    .ld ⟨h0, w0, .i32, c0, 2, .s 4, 0⟩,
    .ld ⟨h0, w0, .b64, c0, 3, .s 4, 0⟩,
    .ld ⟨h0, w0, .b32, c0, 3, .s 5, 0⟩,
    .ldl ⟨h0, w0, .b64, c0, 3, .s 5, 0⟩,
    .st ⟨h0, .i8, c0, .s 4, .reg 2, 0⟩,
    .st ⟨h0, .b64, c0, .s 4, .reg 3, 0⟩,
    .stl ⟨h0, .b64, c0, .s 5, .reg 3, 0⟩,
    .ldx ⟨h0, w0, .b32, c0, 2, .s 4, .reg 3⟩,
    .ldx ⟨h0, w0, .f32, c0, 2, .v (.reg 5), .reg 3⟩,
    .stx ⟨h0, .b32, c0, .s 4, .reg 3, .reg 5⟩,
    .accrd ⟨h0, w0, .i32, 2, .s 4, 0⟩,
    .accwr ⟨h0, .b64, .s 4, .reg 3, 0⟩,
    .pref ⟨h0, false, .s 5, 0⟩,
    .cctlIv h0 (.reg 3) 0,
    .atom ⟨h0, w0, .and, .i32, c0, 2, .s 4, .one (.reg 3) 0⟩,
    .atom ⟨h0, w0, .cas, .b32, c0, 2, .s 4, .one (.reg 3) 0⟩,
    .atom ⟨h0, w0, .add, .i32, c0, 2, .s 4, .cas (.reg 3) (.reg 4)⟩,
    .atom ⟨h0, w0, .add, .i64, c0, 2, .s 4, .one (.reg 3) 0⟩,
    .atom ⟨h0, w0, .add, .i32, c0, 2, .s 5, .one (.reg 3) 0⟩,
    .atoml ⟨h0, w0, .add, .b32, c0, 2, .s 5, .one (.reg 3) 0⟩,
    .red ⟨h0, .exch, .b32, c0, .s 4, .reg 3, 0⟩,
    .red ⟨h0, .add, .b32, c0, .s 4, .reg 3, 0⟩,
    .bararrive ⟨h0, w0, c0, true, 2, .s 5, .reg 3, 0⟩] : List Instr).all (fun i => !i.wf) = true := by
  decide +kernel

/-- Commands, remote and system instructions. -/
theorem test_ill_formed_commands_remote_and_system_instructions : ([
    .assert h0 5 ⟨false, 1⟩,
    .cpy ⟨h0, a0, .gl, 2, 1, .reg 3, .reg 4, .imm 4⟩,
    .cpy ⟨h0, a0, .lg, 2, 1, .reg 4, .reg 5, .imm 4⟩,
    .cpy ⟨h0, a0, .ll, 2, 1, .reg 3, .reg 5, .imm 33⟩,
    .tcpy ⟨h0, a0, false, 1, 2, 5, 8⟩,
    .tcpy ⟨h0, a0, false, 1, 2, 4, 6⟩,
    .cpywait h0 false 3,
    .tagff h0 1 3,
    .tdrain ⟨h0, a0, false, 1, 2, 4, 8⟩,
    .tdrain ⟨h0, a0, false, 1, 4, 6, 8⟩,
    .tdrain ⟨h0, a0, false, 1, 4, 8, 9⟩,
    .xld ⟨⟨⟨false, 7⟩, ⟨0, false, 0, some 1⟩⟩, w0, .i32, c0, 2, .entry 1, .reg 3⟩,
    .xld ⟨h0, w0, .b32, c0, 2, .entry 1, .reg 3⟩,
    .xst ⟨h0, .b64, c0, .entry 1, .reg 3, .reg 5⟩,
    .xatom ⟨h0, w0, .cas, .b64, c0, 0, .entry 1, .reg 3, .reg 6⟩,
    .xatom ⟨h0, w0, .cas, .b32, c0, 0, .entry 1, .reg 3, .reg 7⟩,
    .xatom ⟨h0, w0, .add, .i32, c0, 1, .entry 1, .reg 3, .reg 7⟩,
    .xsend h0 a0 1 6 3,
    .fencef h0 .rc 1 2 0,
    .waymark k0 57 1,
    .waymark k0 60 1,
    .waymark k0 58 33,
    .legrd h0 3,
    .grow k0 0,
    .shrink k0 0,
    .locq h0 .addr 1 3,
    .trap ⟨⟨false, 7⟩, ⟨0, false, 0, some 1⟩⟩ 3] : List Instr).all (fun i => !i.wf) = true := by
  decide +kernel

/-! ## Words written out from the encoding tables -/

/-- Each word under its slot control decodes to the instruction beside it, which is well-formed, and the encoder writes the word. -/
def agree (legacy : Bool) (l : List (BitVec 20 × Dword × Instr)) : Bool :=
  l.all fun (c, x, i) => decodeSlot legacy c x == i && i.wf && encode i == some (c, x)

/-- Each word under its slot control is refused for the reason beside it. -/
def refused (l : List (BitVec 20 × Dword × IllegalWhy)) : Bool :=
  l.all fun (c, x, y) => decodeSlot false c x == .illegalWord c x y

theorem test_words_major_00 : agree false [
    (0x0, 0x0007000000000000, .nop k0),
    (0x0, 0x00170000C8000000, .nextSeg k0 200),
    (0x0, 0x0027000205090000, .nextp k0 2 5 9),
    (0x0, 0x0037002100040000, .nextx k0 33 4),
    (0x0, 0x0047000011120000, .call k0 17 18),
    (0x0, 0x0057000000030000, .ret k0 3),
    (0x0, 0x0067000000000000, .exit k0),
    (0x0, 0x0077000000810001, .waitTok h0 true 0x81),
    (0x0, 0x007B000000090002, .waitClk ⟨⟨true, 3⟩, k0⟩ false 9),
    (0x0, 0x00870000004D0000, .trap h0 77),
    (0x0, 0x0097003E0000000D, .assert h0 62 ⟨true, 5⟩),
    (0x0, 0x00A7000000FF0000, .bkpt h0 255)] = true := by decide +kernel

theorem test_words_major_01 : agree false [
    (0x0, 0x04070A141E000501, .iadd ⟨h0, w0, .n32, 10, .reg 20, .v (.reg 30), true⟩),
    (0x0, 0x04170A143E0003A0, .isub ⟨h0, w0, .i64, 10, .reg 20, .s 62, false⟩),
    (0x0, 0x04270406080C05A1, .iadd3 ⟨h0, w0, .n64, 4, .reg 6, .s 8, .v (.reg 12), true⟩),
    (0x0, 0x04370A1400FF1300, .imul ⟨h0, w0, .i32, 10, .reg 20, .imm 255, false⟩),
    (0x0, 0x04470A141E000580, .imulhi ⟨h0, w0, .n64, 10, .reg 20, .v (.reg 30), false⟩),
    (0x0, 0x04570406080C0340, .imad ⟨h0, w0, .i32, 4, .reg 6, .v (.reg 8), .s 12, false⟩),
    (0x0, 0x04670A141E000320, .imin ⟨h0, w0, .i32, 10, .reg 20, .s 30, false⟩),
    (0x0, 0x04770A141E000500, .imax ⟨h0, w0, .n32, 10, .reg 20, .v (.reg 30), false⟩),
    (0x0, 0x048702FF00000301, .iabs ⟨h0, w0, .i32, 2, .reg 255, true⟩),
    (0x0, 0x049702FE00000380, .ineg ⟨h0, w0, .i64, 2, .reg 254, false⟩)] = true := by decide +kernel

theorem test_words_major_02 : agree false [
    (0x0, 0x08070A14001E1100, .and ⟨h0, w0, .b32, 10, .reg 20, .imm 30, false⟩),
    (0x0, 0x08170A141E000180, .or ⟨h0, w0, .b64, 10, .reg 20, .v (.reg 30), false⟩),
    (0x0, 0x08270A141E000120, .xor ⟨h0, w0, .b32, 10, .reg 20, .s 30, false⟩),
    (0x0, 0x083702FF00000100, .not ⟨h0, w0, .b32, 2, .reg 255, false⟩),
    (0x0, 0x0847030507E41120, .lop3 ⟨h0, w0, .b32, 3, .reg 5, .s 7, 0xE4⟩),
    (0x0, 0x08570A141F000180, .shl ⟨h0, w0, .b64, 10, .reg 20, .v (.reg 31), false⟩),
    (0x0, 0x08670A141E000120, .shr ⟨h0, w0, .b32, 10, .reg 20, .s 30, false⟩),
    (0x0, 0x08770A14001E1300, .sar ⟨h0, w0, .i32, 10, .reg 20, .imm 30, false⟩),
    (0x0, 0x08870A141E000100, .rotl ⟨h0, w0, .b32, 10, .reg 20, .v (.reg 30), false⟩),
    (0x0, 0x08970406080C1101, .funnel ⟨h0, w0, .b32, 4, .reg 6, .v (.reg 8), .imm 12, true⟩)] = true := by decide +kernel

theorem test_words_major_03 : agree false [
    (0x0, 0x0C070A141E000300, .bfx ⟨h0, w0, .i32, 10, .reg 20, .v (.reg 30), false⟩),
    (0x0, 0x0C170406080D01C0, .bfi ⟨h0, w0, .b64, 4, .reg 6, .v (.reg 8), .s 13, false⟩),
    (0x0, 0x0C2703FE00000180, .popc ⟨h0, w0, .b64, 3, .reg 254, false⟩),
    (0x0, 0x0C3702FF00000100, .clz ⟨h0, w0, .b32, 2, .reg 255, false⟩),
    (0x0, 0x0C4702FF00000100, .ctz ⟨h0, w0, .b32, 2, .reg 255, false⟩),
    (0x0, 0x0C5702FE00000180, .brev ⟨h0, w0, .b64, 2, .reg 254, false⟩),
    (0x0, 0x0C670406080C1120, .permb ⟨h0, w0, .b32, 4, .reg 6, .s 8, .imm 12, false⟩),
    (0x0, 0x0C7701020003110E, .sel ⟨h0, w0, .b32, 1, .reg 2, .imm 3, ⟨true, 6⟩⟩),
    (0x0, 0x0C870800060001A0, .mov ⟨h0, w0, .b64, 8, .s 6⟩),
    (0x0, 0x0C97080000801300, .movi ⟨h0, w0, .i32, 8, 0x80, 0⟩),
    (0x0, 0x0CA7080000AB1187, .movk ⟨h0, w0, .b64, 8, 0xAB, 7⟩)] = true := by decide +kernel

theorem test_words_major_04 : agree false [
    (0x0, 0x1007060102000515, .icmp ⟨h0, .n32, .ge, .por, 6, .reg 1, .v (.reg 2)⟩),
    (0x0, 0x1017030702000006, .pset ⟨h0, .xor, 3, ⟨true, 7⟩, ⟨false, 2⟩⟩),
    (0x0, 0x10270109001F1000, .pmov ⟨h0, 1, .reg 9, 31⟩)] = true := by decide +kernel

theorem test_words_major_05 : agree false [
    (0x0, 0x140729333D000501, .sadd ⟨k0, .n32, 41, 51, .s 61, true⟩),
    (0x0, 0x141728323C000380, .ssub ⟨k0, .i64, 40, 50, .s 60, false⟩),
    (0x0, 0x1427283200C81500, .smul ⟨k0, .n32, 40, 50, .imm 200, false⟩),
    (0x0, 0x143728323C000180, .sand ⟨k0, .b64, 40, 50, .s 60, false⟩),
    (0x0, 0x14472832003C1100, .sor ⟨k0, .b32, 40, 50, .imm 60, false⟩),
    (0x0, 0x145728323C000100, .sxor ⟨k0, .b32, 40, 50, .s 60, false⟩),
    (0x0, 0x146728323D000180, .sshl ⟨k0, .b64, 40, 50, .s 61, false⟩),
    (0x0, 0x14772832003C1300, .sshr ⟨k0, .i32, 40, 50, .imm 60, false⟩),
    (0x0, 0x1487010002000100, .smov ⟨k0, .b32, 1, .s 2⟩),
    (0x0, 0x1497020000FF1380, .smovi ⟨k0, .i64, 2, .imm 255⟩),
    (0x0, 0x14A7010204000383, .scmp ⟨k0, .i64, .le, 1, 2, .s 4⟩),
    (0x0, 0x14B7020800000180, .movsr ⟨h0, w0, 2, .clock⟩),
    (0x0, 0x14B7FF0900000100, .movsr ⟨h0, w0, 255, .leg⟩)] = true := by decide +kernel

theorem test_words_major_06 : agree false [
    (0x0, 0x1807010203000601, .fadd ⟨h0, w0, .f32, 1, .reg 2, .v (.reg 3), ⟨true, false, false, false, false⟩⟩),
    (0x0, 0x18170102030006A2, .fsub ⟨h0, w0, .f16, 1, .reg 2, .s 3, ⟨false, true, false, false, false⟩⟩),
    (0x0, 0x1827010203000704, .fmul ⟨h0, w0, .bf16, 1, .reg 2, .v (.reg 3), ⟨false, false, true, false, false⟩⟩),
    (0x0, 0x1837010203040AD0, .ffma ⟨h0, w0, .f16x2, 1, .reg 2, .v (.reg 3), .s 4, ⟨false, false, false, false, true⟩⟩),
    (0x0, 0x1847010203000B28, .fmin ⟨h0, w0, .bf16x2, 1, .reg 2, .s 3, ⟨false, false, false, true, false⟩⟩),
    (0x0, 0x1857010203000605, .fmax ⟨h0, w0, .f32, 1, .reg 2, .v (.reg 3), ⟨true, false, true, false, false⟩⟩),
    (0x0, 0x186705020300068F, .fcmp ⟨h0, .f16, .nan, .pand, 5, .reg 2, .v (.reg 3)⟩),
    (0x0, 0x1877010200000600, .fclass ⟨h0, w0, .f32, 1, .reg 2, ⟨false, false, false, false, false⟩⟩),
    (0x0, 0x188701020000061D, .frnd ⟨h0, w0, .f32, 1, .reg 2, none, true, false⟩),
    (0x0, 0x188701020000060E, .frnd ⟨h0, w0, .f32, 1, .reg 2, some .rmi, false, true⟩)] = true := by decide +kernel

theorem test_words_major_07 : agree false [
    (0x0, 0x1C070A1400000600, .frcp ⟨h0, w0, .f32, 10, .reg 20, ⟨false, false, false, false, false⟩⟩),
    (0x0, 0x1C170B1500000681, .frsq ⟨h0, w0, .f16, 11, .reg 21, ⟨true, false, false, false, false⟩⟩),
    (0x0, 0x1C270C1600000702, .fsqrt ⟨h0, w0, .bf16, 12, .reg 22, ⟨false, true, false, false, false⟩⟩),
    (0x0, 0x1C370D1700000A83, .fexp2 ⟨h0, w0, .f16x2, 13, .reg 23, ⟨true, true, false, false, false⟩⟩),
    (0x0, 0x1C470E1800000B00, .flog2 ⟨h0, w0, .bf16x2, 14, .reg 24, ⟨false, false, false, false, false⟩⟩),
    (0x0, 0x1C570F1900000601, .fsin ⟨h0, w0, .f32, 15, .reg 25, ⟨true, false, false, false, false⟩⟩),
    (0x0, 0x1C67101A00000602, .fcos ⟨h0, w0, .f32, 16, .reg 26, ⟨false, true, false, false, false⟩⟩),
    (0x0, 0x1C77111B00000603, .ftanh ⟨h0, w0, .f32, 17, .reg 27, ⟨true, true, false, false, false⟩⟩)] = true := by decide +kernel

theorem test_words_major_08 : agree false [
    (0x0, 0x2007030100001160, .cvt ⟨h0, w0, .e2m1, .f32, some .rne, 3, .reg 1⟩),
    (0x0, 0x2017030100000E60, .cvtsr ⟨h0, w0, .bf16, .f32, some .rne, 3, .reg 1⟩),
    (0x0, 0x2027030100001364, .qenc ⟨h0, w0, .sq4, .f32, some .rsr, 3, .reg 1⟩),
    (0x0, 0x2037030100000CA0, .qdec ⟨h0, w0, .f32, .sq7, some .rne, 3, .reg 1⟩),
    (0x0, 0x2047030102001667, .pack2 ⟨h0, w0, .bf16x2, none, 3, .reg 1, .reg 2⟩),
    (0x0, 0x2057040100000CA8, .unpack2 ⟨h0, w0, .f32, .f16x2, some .rne, 4, .reg 1⟩)] = true := by decide +kernel

theorem test_words_major_09 : agree false [
    (0x0, 0x2401020000011132, .shfl ⟨⟨⟨false, 1⟩, k0⟩, w0, .b32, .down, 3, 2, .reg 0, .imm 1⟩),
    (0x0, 0x2407020003000132, .shfl ⟨h0, w0, .b32, .down, 3, 2, .reg 0, .v (.reg 3)⟩),
    (0x0, 0x2417040700000056, .vote ⟨h0, .uni, ⟨true, 7⟩, 5, 4⟩),
    (0x0, 0x2427040300000114, .ballot ⟨h0, w0, ⟨true, 3⟩, 1, 4⟩),
    (0x0, 0x2437040500000642, .redux ⟨h0, w0, .max, false, .f32, 4, 4, .reg 5⟩),
    (0x0, 0x244704050000012D, .scan ⟨h0, w0, .xor, true, .b32, 2, 4, .reg 5⟩),
    (0x0, 0x24570506000001D0, .matchLanes ⟨h0, w0, .b64, 5, 5, .reg 6⟩),
    (0x0, 0x24670406001F11D0, .bcast ⟨h0, w0, .b64, some 31, 5, 4, .reg 6⟩),
    (0x0, 0x2467040600000151, .bcast ⟨h0, w0, .b32, none, 5, 4, .reg 6⟩)] = true := by decide +kernel

theorem test_words_major_0A : agree true [
    (0x0, 0x2807020000011102, .shfl16 ⟨h0, w0, .b32, .down, 0, 2, .reg 0, .imm 1⟩),
    (0x0, 0x2817040200000005, .vote16 ⟨h0, .any, ⟨true, 2⟩, 0, 4⟩),
    (0x0, 0x2827040200000100, .ballot16 ⟨h0, w0, ⟨false, 2⟩, 0, 4⟩)] = true := by decide +kernel

theorem test_words_major_0B : agree false [
    (0x0, 0x2C170608001005A2, .ld ⟨h0, w0, .b32, ⟨.rc, .dev, .acq⟩, 6, .s 8, 16⟩),
    (0x0, 0x2C07060800FF1285, .ld ⟨h0, w0, .i16, ⟨.sc, .sys, .none⟩, 6, .v (.reg 8), 0xFF⟩),
    (0x0, 0x2C2700080A040E43, .st ⟨h0, .b64, ⟨.tso, .fab, .rel⟩, .v (.reg 8), .reg 10, 4⟩),
    (0x0, 0x2C5706080A00090C, .ldx ⟨h0, w0, .f32, ⟨.co, .clu, .none⟩, 6, .s 8, .reg 10⟩),
    (0x0, 0x2C6700080A0B0086, .stx ⟨h0, .i32, ⟨.ub, .blk, .none⟩, .v (.reg 8), .reg 10, .reg 11⟩),
    (0x0, 0x2C87000800040001, .pref ⟨h0, true, .v (.reg 8), 4⟩),
    (0x0, 0x2C97000800040000, .pref ⟨h0, false, .s 8, 4⟩),
    (0x0, 0x2CA7000800040000, .cctlIv h0 (.reg 8) 4),
    (0x0, 0x2CA7000000000001, .cctlIvall h0)] = true := by decide +kernel

theorem test_words_major_0C : agree false [
    (0x0, 0x3017070900080489, .ldl ⟨h0, w0, .n16, ⟨.rc, .blk, .none⟩, 7, .s 9, 8⟩),
    (0x0, 0x302700090B0804C0, .stl ⟨h0, .b8, ⟨.rc, .blk, .rel⟩, .v (.reg 9), .reg 11, 8⟩),
    (0x0, 0x3047060900080003, .accrd ⟨h0, w0, .b64, 6, .v (.reg 9), 8⟩),
    (0x0, 0x3077000906080002, .accwr ⟨h0, .b32, .s 9, .reg 6, 8⟩)] = true := by decide +kernel

theorem test_words_major_0D : agree false [
    (0x0, 0x34770402080905E2, .atom ⟨h0, w0, .cas, .b32, ⟨.rc, .dev, .ar⟩, 4, .v (.reg 2), .cas (.reg 8) (.reg 9)⟩),
    (0x0, 0x34E70402080C0A83, .atom ⟨h0, w0, .exch, .b64, ⟨.co, .sys, .none⟩, 4, .s 2, .one (.reg 8) 12⟩)] = true := by decide +kernel

theorem test_words_major_0E : agree false [
    (0x0, 0x38970403080C04A7, .atoml ⟨h0, w0, .min, .i64, ⟨.rc, .blk, .acq⟩, 4, .s 3, .one (.reg 8) 12⟩)] = true := by decide +kernel

theorem test_words_major_0F : agree false [
    (0x0, 0x3C07000A0C0805CC, .red ⟨h0, .add, .f32, ⟨.rc, .dev, .rel⟩, .v (.reg 10), .reg 12, 8⟩)] = true := by decide +kernel

theorem test_words_major_10 : agree false [
    (0x0, 0x4007000000000288, .fence ⟨h0, none, .sys⟩),
    (0x0, 0x4007000000000D00, .fence ⟨h0, some .tso, .clu⟩),
    (0x0, 0x4017000000000190, .bridge ⟨h0, .ub, .rc, .dev⟩),
    (0x0, 0x40270005060804C2, .barinit ⟨h0, ⟨.rc, .blk, .rel⟩, .s 5, .reg 6, 8⟩),
    (0x0, 0x40370705060804C0, .bararrive ⟨h0, w0, ⟨.rc, .blk, .rel⟩, false, 7, .v (.reg 5), .reg 6, 8⟩),
    (0x0, 0x40470705060804A3, .barwait ⟨h0, w0, ⟨.rc, .blk, .acq⟩, true, 7, .s 5, .reg 6, 8⟩),
    (0x0, 0x4057070506080482, .bartest ⟨h0, w0, ⟨.rc, .blk, .none⟩, false, 7, .s 5, .reg 6, 8⟩),
    (0x0, 0x4067000000001081, .blksync ⟨h0, ⟨.sc, .blk, .none⟩, true⟩)] = true := by decide +kernel

theorem test_words_major_11 : agree false [
    (0x0, 0x440701040608050B, .cpy ⟨h0, ⟨.rc, .clu, false, false⟩, .lg, 3, 1, .reg 4, .reg 6, .v (.reg 8)⟩),
    (0x0, 0x44070104060805C6, .cpy ⟨h0, ⟨.rc, .dev, true, false⟩, .gl, 2, 1, .reg 4, .reg 6, .imm 8⟩),
    (0x0, 0x44173F05080C1230, .tcpy ⟨h0, ⟨.sc, .fab, false, true⟩, true, 63, 5, 8, 12⟩),
    (0x0, 0x4427000A00000001, .cpywait h0 true 10),
    (0x0, 0x4437050A00000000, .tagff h0 5 10),
    (0x0, 0x4447050000030000, .tagrd h0 5 3)] = true := by decide +kernel

theorem test_words_major_12 : agree false [
    (0x0, 0x4807070900000000, .tcfg h0 7 9),
    (0x0, 0x48170209000304C0, .tld ⟨h0, ⟨.rc, .blk, true, false⟩, 2, 3, 9⟩),
    (0x0, 0x48270209000304A0, .tst ⟨h0, ⟨.rc, .blk, false, true⟩, 2, 3, 9⟩),
    (0x0, 0x4837020000040000, .tzero h0 2 4),
    (0x0, 0x4847050C00000000, .tmma h0 5 12),
    (0x0, 0x4857061014180181, .tdrain ⟨h0, ⟨.ub, .dev, false, false⟩, true, 6, 16, 20, 24⟩),
    (0x0, 0x4867061000050001, .tacc h0 true 6 5 16),
    (0x0, 0x4877070000000000, .tstat h0 7)] = true := by decide +kernel

theorem test_words_major_13 : agree false [
    (0x1A000, 0x4C07080304000623, .xld ⟨⟨⟨false, 7⟩, ⟨0, false, 0, some 5⟩⟩, w0, .b64, ⟨.rc, .fab, .acq⟩, 8, .entry 3, .reg 4⟩),
    (0x10000, 0x4C17080304000602, .xld ⟨⟨⟨false, 7⟩, ⟨0, false, 0, some 0⟩⟩, w0, .b32, ⟨.rc, .fab, .none⟩, 8, .convoy 3, .reg 4⟩),
    (0x0, 0x4C27000304060603, .xst ⟨h0, .b64, ⟨.rc, .fab, .none⟩, .entry 3, .reg 4, .reg 6⟩),
    (0x0, 0x4C37000F04060640, .xst ⟨h0, .b8, ⟨.rc, .fab, .rel⟩, .convoy 15, .reg 4, .reg 6⟩),
    (0x0, 0x4C47090805000660, .xsend h0 ⟨.rc, .fab, true, true⟩ 9 8 5),
    (0x0, 0x4C57040900000000, .cvopen h0 4 9),
    (0x0, 0x4C670F0000000000, .cvclose h0 15),
    (0x0, 0x4C77040900FF0600, .fencef h0 .rc 4 9 255),
    (0x0, 0x4C870A0C0D000000, .slotrsv h0 10 12 13),
    (0x0, 0x4C97000B00000000, .slotrel h0 11),
    (0x0, 0x4C97000B00000001, .slotrelFault h0 11),
    (0x0, 0x4CA7000C00000000, .chunk k0 12)] = true := by decide +kernel

theorem test_words_major_14 : agree false [
    (0x0, 0x50F7000204060662, .xatom ⟨h0, w0, .cas, .b32, ⟨.rc, .fab, .ar⟩, 0, .convoy 2, .reg 4, .reg 6⟩),
    (0x12000, 0x500703C80406460A, .xatom ⟨⟨⟨false, 7⟩, ⟨0, false, 0, some 1⟩⟩, ⟨false, 2⟩, .add, .n32, ⟨.rc, .fab, .none⟩, 3, .entry 200, .reg 4, .reg 6⟩)] = true := by decide +kernel

theorem test_words_major_15 : agree false [
    (0x0, 0x5407003A00200000, .waymark k0 58 32),
    (0x0, 0x54173E0000000000, .legrd h0 62),
    (0x0, 0x5427000000000000, .irrev h0)] = true := by decide +kernel

theorem test_words_major_16 : agree false [
    (0x0, 0x58070000001F0000, .grow k0 31),
    (0x0, 0x5817000000010000, .shrink k0 1),
    (0x0, 0x5827050800000000, .locq h0 .addr 5 8),
    (0x0, 0x5827050900000001, .locq h0 .core 5 9),
    (0x0, 0x5827050900000002, .locq h0 .ent 5 9),
    (0x0, 0x5837050607000000, .launch k0 5 6 7),
    (0x0, 0x5847000600000000, .prio k0 6)] = true := by decide +kernel

theorem test_words_major_17 : agree false [
    (0x0, 0x5C07000000000000, .rfeRegion k0),
    (0x0, 0x5C07000000000001, .rfeNext k0),
    (0x0, 0x5C17280100000100, .ctlrd h0 40 .trapinfo),
    (0x0, 0x5C27000029000100, .ctlwr h0 .mode 41),
    (0x0, 0x5C372800000F1100, .traprd h0 40 15)] = true := by decide +kernel

theorem test_words_slot_control : agree false [
    (0x574B9, 0x040A05030200E300, .iadd ⟨⟨⟨true, 2⟩, ⟨9, true, 0xA5, some 3⟩⟩, ⟨true, 3⟩, .i32, 5, .reg 3, .v (.latch 2), false⟩),
    (0xA0000, 0x0457050102030500, .imad ⟨h0, w0, .n32, 5, .latch 1, .v (.reg 2), .v (.latch 3), false⟩)] = true := by decide +kernel

theorem test_refused_words_1 : refused [
    (0x0, 0x00B7000000000000, .word),
    (0x0, 0x04A7000000000300, .word),
    (0x0, 0xE807000000000000, .word),
    (0x0, 0x0407050300000B80, .word),
    (0x0, 0x0407010200000100, .word),
    (0x0, 0x0407010200000380, .word),
    (0x0, 0x0407020405061300, .word),
    (0x0, 0x0407020400061320, .word),
    (0x0, 0x0407020440000320, .word),
    (0x0, 0x1007070102000300, .word),
    (0x0, 0x1007010102002300, .word),
    (0x0, 0x1403010203000500, .word),
    (0x0, 0x14B7010800000180, .word),
    (0x0, 0x14B7010A00000100, .word),
    (0x0, 0x1807010203000610, .word),
    (0x0, 0x2007030100000D64, .word),
    (0x0, 0x2007030100000D65, .word),
    (0x0, 0x2407020003000102, .word),
    (0x0, 0x2407020003000172, .word),
    (0x0, 0x2807020000011102, .word)] = true := by decide +kernel

theorem test_refused_words_2 : refused [
    (0x0, 0x2C07060800001582, .word),
    (0x0, 0x2C07060800000702, .word),
    (0x0, 0x2CB7000000000000, .word),
    (0x0, 0x2C07060900000582, .word),
    (0x0, 0x3C67000A0C080582, .word),
    (0x0, 0x35070402080C0586, .word),
    (0x0, 0x4007000000000588, .word),
    (0x0, 0x4017000000000008, .word),
    (0x0, 0x40370705060804C1, .word),
    (0x0, 0x4407010406210586, .word),
    (0x0, 0x440701040608059A, .word),
    (0x0, 0x44173F05190C1200, .word),
    (0x0, 0x48370200000C0000, .word),
    (0x0, 0x4807080900000000, .word),
    (0x0, 0x4C77040900000600, .word),
    (0x0, 0x4C77040900010580, .word),
    (0x0, 0x4C57100900000000, .word),
    (0x0, 0x5077000204070602, .word),
    (0x0, 0x500703020406060A, .word),
    (0x0, 0x5407003C00000000, .word)] = true := by decide +kernel

theorem test_refused_words_3 : refused [
    (0x0, 0x5407003A00210000, .word),
    (0x0, 0x5807000000000000, .word),
    (0x0, 0x5807000000200000, .word),
    (0x0, 0x5827050900000003, .word),
    (0x0, 0x5827050900000000, .word),
    (0x0, 0x5C07000000000002, .word),
    (0x0, 0x5C17280400000100, .word),
    (0x0, 0x5C37280000101100, .word),
    (0x0, 0x4C07080304000623, .slotControl),
    (0x2000, 0x0407050302000300, .slotControl),
    (0x10000, 0x0087000000010000, .slotControl),
    (0x80000, 0x0407050302000300, .slotControl),
    (0x20000, 0x0007000000000000, .slotControl),
    (0x10000, 0x0007000000000000, .slotControl)] = true := by decide +kernel

theorem test_extension_words : [0x6007000000000000, 0xDFF7FF0000000000, 0x2407020003000162].all (fun x => decodeSlot false 0 x == .extensionWord 0 x) = true := by
  decide +kernel


/-! ## States that meet the hypotheses of the statements

Each theorem below is named after the statement whose hypotheses it meets. -/

/-- An issue group of some lanes at slot 0 of the bundle at 0x1000, its region entered. -/
def ig (m : LaneMask) : IGroup := { id := 1, mask := m, pc := 0x1008, allot := 2, entered := true }

/-- A group of 32 threads and two granules, all of the lanes of one issue group; V4 and V5 of lane 0, S4 and S12 hold something. -/
def grp (x : IGroup) : Group :=
  { idx := 0, part := 0, threads := List.replicate 32 { present := true }, igs := [x], allot := 2, mode := 0
    v := [(128, 64), (160, 7)], s := [(4, 3), (12, 64)] }

/-- A block of one group. -/
def blk (g : Group) : Block := { probeBlock false with groups := [g] }

/-- A machine whose core 0 runs one block, its issue group in focus. -/
def mach (b : Block) : State :=
  { ctxs := [(0, { state := .live })]
    cores := [(0, { slots := [(0, b)], parts := [{ cur := some (0, 0, 1) }, {}, {}, {}] })] }

/-- The issuer of such a machine. -/
def who (b : Block) (x : IGroup) : Who := ⟨0, 0, 0, 0, b, b.group 0, x⟩

/-- The block, machine and issuer with lanes 0 and 2, and with all 32. -/
def b1 : Block := blk (grp (ig 5))
def s1 : State := mach b1
def w1 : Who := who b1 (ig 5)
def b2 : Block := blk (grp (ig 0xFFFFFFFF))
def s2 : State := mach b2
def w2 : Who := who b2 (ig 0xFFFFFFFF)

/-- The same as w1 with the threads, the issue group, the group or the block changed. -/
def withGroup (f : Group → Group) : Block := blk (f (grp (ig 5)))

theorem issuer1 : s1.issuer = some w1 := rfl
theorem issuer2 : s2.issuer = some w2 := rfl

theorem allLanes {m : LaneMask} {P : Nat → Prop} (h : ∀ l, l < 32 → m.getLsbD l = true → P l) :
    ∀ l, m.getLsbD l = true → P l := fun l hl => h l (BitVec.lt_of_getLsbD hl) hl

theorem ofThreads {g : Group} {P : Thread → Prop} (h0 : P {}) (h : ∀ l, l < g.threads.length → P (g.thread l)) (l : Nat) :
    P (g.thread l) := by
  by_cases hl : l < g.threads.length
  · exact h l hl
  · have : g.thread l = {} := listGet_default _ _ _ (by omega)
    rw [this]; exact h0

/-- A core without stores whose group awaits nothing, and before whose threads' accesses nothing stands. -/
theorem quietOf {w : Who} {s : State} (h1 : s.pendingStores w.core = []) (h2 : w.g.ops = []) (h3 : w.ig.got = [])
    (h4 : ∀ l, l < w.g.threads.length → (w.g.thread l).ahead = []) (h5 : ∀ d, s.coreFlights w.core d = [] := by intro d; rfl) :
    Quiet w s :=
  ⟨h1, h2, h3, h5, fun l p hp => by
    rw [ofThreads (P := fun t => t.ahead = []) rfl h4 l] at hp
    cases hp⟩

/-! ### Encoding and steps -/

theorem witness_DecodeInvertsEncode :
    (Instr.iadd ⟨h0, w0, .i64, 254, .latch 3, .v (.reg 254), true⟩).wf = true ∧
      (∃ c x, encode (.iadd ⟨h0, w0, .i64, 254, .latch 3, .v (.reg 254), true⟩) = some (c, x) ∧ x.toNat / 2 ^ 58 = 1) ∧
    (Instr.shfl ⟨h0, w0, .b64, .xor, 5, 254, .reg 254, .imm 255⟩).wf = true ∧
      (∃ c x, encode (.shfl ⟨h0, w0, .b64, .xor, 5, 254, .reg 254, .imm 255⟩) = some (c, x) ∧ x.toNat / 2 ^ 58 = 0x09) ∧
    (Instr.ballot16 ⟨h0, w0, ⟨true, 7⟩, 0, 255⟩).wf = true ∧
      (∃ c x, encode (.ballot16 ⟨h0, w0, ⟨true, 7⟩, 0, 255⟩) = some (c, x) ∧ x.toNat / 2 ^ 58 = 0x0A) :=
  ⟨by decide +kernel, ⟨_, _, rfl, by decide +kernel⟩, by decide +kernel, ⟨_, _, rfl, by decide +kernel⟩, by decide +kernel,
    ⟨_, _, rfl, by decide +kernel⟩⟩

theorem witness_ReservedMajorsRefused :
    0x38 ≤ (0xE000000000000000 : Dword).toNat / 2 ^ 58 ∧ 0x38 ≤ (0xFFFFFFFFFFFFFFFF : Dword).toNat / 2 ^ 58 ∧
    0x18 ≤ (0x6000000000000000 : Dword).toNat / 2 ^ 58 ∧ (0x6000000000000000 : Dword).toNat / 2 ^ 58 < 0x38 ∧
    0x18 ≤ (0xDFFFFFFFFFFFFFFF : Dword).toNat / 2 ^ 58 ∧ (0xDFFFFFFFFFFFFFFF : Dword).toNat / 2 ^ 58 < 0x38 ∧
    (0x2400000000000000 : Dword).toNat / 2 ^ 58 = (if true then 0x09 else 0x0A) ∧
    (0x2800000000000000 : Dword).toNat / 2 ^ 58 = (if false then 0x09 else 0x0A) := by decide +kernel

/-- The machine that issues `IADD.I32 V5, V3, S4` at a segment's entry. -/
def issuing : State := State.reset.withFetchWord 64 0x0407050304000320

/-- The bundle that it fetches. -/
def issued : Bundle := ⟨0x8000000000000000, 0x0407050304000320, 0x0007000000000000, 0x0067000000000000⟩

/-- A slot of a bundle without a WAIT that no interlock holds. -/
def free (b : Bundle) (w : Who) : Bool :=
  decide (waitMask (b.ctl (slotOf w.ig.pc)) = 0) && !w.interlocked (Raw.split (b.ctl (slotOf w.ig.pc)) (b.word (slotOf w.ig.pc)))
    (decodeSlot w.kern.legacy (b.ctl (slotOf w.ig.pc)) (b.word (slotOf w.ig.pc)))

theorem ready {b : Bundle} {w : Who} (s : State) (h : free b w = true) : SlotReady s w b := by
  unfold free at h
  rw [Bool.and_eq_true, decide_eq_true_eq, Bool.not_eq_true'] at h
  exact ⟨Or.inl h.1, fun _ => h.2⟩

theorem ofSome {α : Type} {x : Option α} {p : α → Bool} (h : x.all p = true) : ∀ v, x = some v → p v = true := by
  rintro v rfl
  exact h

theorem witness_StepRunsDecoded_entry : ∃ s1 w, issuing.agenda = .issue 0 0 false :: [] ∧
    (({ issuing with agenda := [] } : State).wakeAll 0 0).compTurn 0 0 = s1 ∧ s1.chooseComp 0 0 = some (w, none) ∧ w.trapDue = none ∧
    let s2 : State := { (s1.setCur w).setComp 0 0 none with switch := false }
    s2.fetchBundle w.core w.b.ctx (bundleOf w.ig.pc) = .ok issued ∧ s2.fetchRefused w = none ∧ w.ig.bundleOk issued = true ∧
    (issued.regionEntry && slotOf w.ig.pc == 0 && !w.ig.entered) = true ∧ w.g.negEntry w.ig = none ∧
    w.g.custodyHeld w.ig.handler = false ∧ w.part < (s1.core w.core).parts.length ∧
    let s4 := (s2.noteFetch w).enterRegion w
    ∀ v, s4.whoOf w.core w.slot w.grp w.ig.id = some v → SlotReady s4 v issued := by
  refine ⟨_, _, rfl, rfl, rfl, rfl, ?_, ?_, ?_, ?_, ?_, ?_, ?_, fun v hv => ready _ (ofSome (p := free issued) ?_ v hv)⟩ <;> decide +kernel

/-- The same with slot 0 behind it. -/
def issuingSlot1 : State := issuing.modGroup 0 0 0 fun g => g.modIg 0 fun x => { x with pc := 0x1010, entered := true }

theorem witness_StepRunsDecoded_slot : ∃ s1 w, issuingSlot1.agenda = .issue 0 0 false :: [] ∧
    (({ issuingSlot1 with agenda := [] } : State).wakeAll 0 0).compTurn 0 0 = s1 ∧ s1.chooseComp 0 0 = some (w, none) ∧ w.trapDue = none ∧
    let s2 : State := { (s1.setCur w).setComp 0 0 none with switch := false }
    s2.fetchBundle w.core w.b.ctx (bundleOf w.ig.pc) = .ok issued ∧ s2.fetchRefused w = none ∧ w.ig.bundleOk issued = true ∧
    (issued.regionEntry && slotOf w.ig.pc == 0 && !w.ig.entered) = false ∧ slotOf w.ig.pc = 1 ∧
    SlotReady (s2.noteFetch w) w issued := by
  refine ⟨_, _, rfl, rfl, rfl, rfl, ?_, ?_, ?_, ?_, ?_, ready _ ?_⟩ <;> decide +kernel

theorem witness_StepRunsDecoded_event : isEvent (.stealRequest 1 0) = true ∧
    ({ s1 with agenda := [.event (.stealRequest 1 0)] } : State).agenda = .event (.stealRequest 1 0) :: [] ∧
    ({ s1 with clock := 1 } : State).out = s1.out := ⟨rfl, rfl, rfl⟩

/-- A group with a pending token W3, and the bundle whose slot 0 waits for it. -/
def b3 : Block := withGroup fun g => { g with results := [{ id := 0, tok := some 3 }] }
def w3 : Who := who b3 (ig 5)

/-- The same with a second group that is ready, in composite issue with it. -/
def b3c : Block := { b3 with groups := b3.groups ++ [{ grp (ig 5) with idx := 1 }] }
def w3c : Who := who b3c (ig 5)
def pair : State := (mach b3c).setComp 0 0 (some { slot := 0, gen := 1, pc := w3.ig.pc, lead := (0, 1), igs := [(0, 1), (1, 1)], drawn := none })

theorem witness_WaitHoldsTheSlot_composite : pair.issuer = some w3c ∧ (pair.compOf w3c).isSome = true ∧ w3c.g.negs = [] ∧
    (pair.fellows w3c).length = 2 ∧ ((pair.fellows w3c).map fun v => v.slotPending 8) = [true, false] := by
  refine ⟨rfl, ?_, rfl, ?_, ?_⟩ <;> decide +kernel

theorem witness_WaitHoldsTheSlot : (mach b3).issuer = some w3 ∧ (mach b3).compOf w3 = none ∧
    w3.ig.bundleOk ⟨0x8000000000000100, 0x0407050304000320, 0x0007000000000000, 0x0067000000000000⟩ = true ∧
    (((⟨0x8000000000000100, 0x0407050304000320, 0x0007000000000000, 0x0067000000000000⟩ : Bundle).regionEntry
      && slotOf w3.ig.pc == 0 && !w3.ig.entered) = false) ∧
    waitMask ((⟨0x8000000000000100, 0x0407050304000320, 0x0007000000000000, 0x0067000000000000⟩ : Bundle).ctl (slotOf w3.ig.pc)) = 8 ∧
    waitsFirst (decodeSlot w3.kern.legacy 0x100 0x0407050304000320) = true ∧ w3.ig.waited = false ∧
    (∃ r ∈ w3.g.results, ∃ n, r.tok = some n ∧ (8 : BitVec 8).getLsbD n.toNat = true) ∧ w3.g.negs = [] :=
  ⟨rfl, rfl, by decide +kernel, by decide, by decide, by decide +kernel, rfl, ⟨_, List.Mem.head _, 3, rfl, by decide⟩, rfl⟩

/-! ### Vector and uniform instructions -/

theorem witness_IntegerResults : ∃ p, intOps (.iadd ⟨h0, w0, .i64, 14, .reg 4, .s 4, true⟩) = some p ∧ s1.issuer = some w1 ∧
    Readable w1 (w1.active p.h.g) p.reads [⟨p.d, p.wide⟩] ∧ w1.active p.h.g = 5 :=
  ⟨_, rfl, rfl, Who.readable_check (by decide +kernel), by decide +kernel⟩

theorem witness_LogicResults : ∃ p, logicOps (.lop3 ⟨h0, w0, .b32, 15, .reg 5, .s 4, 0xE4⟩) = some p ∧ s1.issuer = some w1 ∧
    Readable w1 (w1.active p.h.g) p.reads [⟨p.d, p.wide⟩] ∧ w1.active p.h.g = 5 :=
  ⟨_, rfl, rfl, Who.readable_check (by decide +kernel), by decide +kernel⟩

theorem witness_MoveResults : ∃ p, moveOps (.bfi ⟨h0, w0, .b64, 14, .reg 4, .v (.reg 4), .s 4, false⟩) = some p ∧
    s1.issuer = some w1 ∧ Readable w1 (w1.active p.h.g) p.reads [⟨p.d, p.wide⟩] ∧ w1.active p.h.g = 5 :=
  ⟨_, rfl, rfl, Who.readable_check (by decide +kernel), by decide +kernel⟩

theorem witness_FloatResults : ∃ p, floatOps (.ffma ⟨h0, w0, .f32, 15, .reg 4, .s 4, .v (.reg 5), m0⟩) = some p ∧
    s1.issuer = some w1 ∧ Readable w1 (w1.active p.h.g) p.reads [⟨p.d, p.wide⟩] ∧ w1.active p.h.g = 5 :=
  ⟨_, rfl, rfl, Who.readable_check (by decide +kernel), by decide +kernel⟩

/-- FRSQ of 4 and FEXP2 of -3 have exact results, FRSQ and FTANH of 3 bounded ones. -/
theorem witness_FloatResults_special : specialCase 1 (.inf true) = some 0x7FC00000 ∧ specialCase 7 (.fin true 0 0) = some 0x80000000 ∧
    (match special 1 (.fin false 1 2), special 3 (.fin true 3 0) with
      | .exact (.fin false 1 e), .exact (.fin false m f) => e == -1 && m == 2 ^ 320 && f == -323
      | _, _ => false) = true ∧
    (∀ n ∈ [1, 7], (match special n (.fin false 3 0) with | .near _ _ => true | _ => false) = true) ∧
    (match special 4 (.fin false 3 0) with | .near v _ => specialBound 4 (.fin false 3 0) v == .fin false 2 (-23) | _ => false) = true ∧
    (match special 4 (.fin false 3 (-1)) with | .near v _ => specialBound 4 (.fin false 3 (-1)) v == .fin false 1 (-22) | _ => false) = true ∧
    (-1000 : Int) ≠ 0 := by decide +kernel

theorem witness_CrossLaneResults : ∃ p, crossOps (.shfl ⟨h0, w0, .b64, .xor, 5, 14, .reg 4, .imm 2⟩) = some p ∧
    s1.issuer = some w1 ∧ Readable w1 (w1.active p.h.g) p.reads [⟨p.d, p.wide⟩] ∧ w1.active p.h.g = 5 :=
  ⟨_, rfl, rfl, Who.readable_check (by decide +kernel), by decide +kernel⟩

theorem witness_PredicateResults : ∃ p, predOps (.icmp ⟨h0, .i64, .ge, .por, 6, .reg 4, .s 4⟩) = some p ∧ s1.issuer = some w1 ∧
    Readable w1 (w1.active p.h.g) p.reads [] ∧ w1.active p.h.g = 5 :=
  ⟨_, rfl, rfl, Who.readable_check (by decide +kernel), by decide +kernel⟩

theorem witness_UniformResults : ∃ p, uniOps (.sadd ⟨k0, .i64, 62, 4, .s 12, true⟩) = some p ∧ s1.issuer = some w1 :=
  ⟨_, rfl, rfl⟩

/-- A partition in a composite issue of the group of s1 and another, before and after its advance for the slot. -/
def together (drawn : Option Word) : Comp :=
  { slot := 0, gen := 1, pc := w1.ig.pc, lead := (0, 1), igs := [(0, 1), (4, 9)], drawn := drawn }
def composite (drawn : Option Word) : State := s1.setComp 0 0 (some (together drawn))

theorem witness_ConversionResults :
    (∃ p, cvOps (.cvtsr ⟨h0, w0, .e2m1, .f32, some .rne, 15, .reg 4⟩) = some p ∧ p.draws w1 = true ∧
      Readable w1 (w1.active p.o.h.g) [⟨p.o.a, p.srcWide⟩] [⟨p.o.d, p.wide⟩] ∧ p.halves = false) ∧
    (∃ p, cvOps (.qenc ⟨h0, w0, .sq7, .f32, some .rmi, 15, .reg 4⟩) = some p ∧ s2.issuer = some w2 ∧ p.draws w2 = false ∧
      Readable w2 (w2.active p.o.h.g) [⟨p.o.a, p.srcWide⟩] [⟨p.o.d, p.wide⟩] ∧ p.halves = true ∧
      splitHalf (w2.active p.o.h.g) = none) ∧
    (∃ p, vecOps.pairOps (.unpack2 ⟨h0, w0, .f32, .f16x2, some .rne, 14, .reg 4⟩) = some p ∧
      Readable w1 (w1.active p.h.g) p.reads [⟨p.d, p.wide⟩]) ∧
    3 < (s1.core 0).parts.length ∧ (listGet {} (s1.core 0).parts 0).comp = none ∧
    ∀ g : Option Word, (composite g).issuer = some w1 ∧ w1.part < ((composite g).core 0).parts.length ∧
      (listGet {} ((composite g).core 0).parts w1.part).comp = some (together g) ∧ (together g).slot = w1.slot ∧
      (together g).gen = w1.b.gen ∧ (together g).pc = w1.ig.pc ∧ (w1.grp, w1.ig.id) ∈ (together g).igs :=
  ⟨⟨_, rfl, rfl, Who.readable_check (by decide +kernel), rfl⟩,
    ⟨_, rfl, rfl, by decide +kernel, Who.readable_check (by decide +kernel), rfl, by decide +kernel⟩,
    ⟨_, rfl, Who.readable_check (by decide +kernel)⟩, by decide +kernel, rfl,
    fun _ => ⟨rfl, (by decide : 0 < 4), rfl, rfl, rfl, rfl, List.Mem.head _⟩⟩

/-- Hypotheses of rows 6 and 7 for an instruction of w1. -/
def latchTrap (i : Instr) : Prop :=
  ∃ p, vOperands i = some p ∧ (w1.active p.h.g).getLsbD 0 = true ∧ ∃ r ∈ p.reads, w1.src? 0 r.wide r.x = none
def sourceTrap (i : Instr) : Prop :=
  ∃ p, vOperands i = some p ∧ w1.active p.h.g ≠ 0 ∧
    (∀ l, (w1.active p.h.g).getLsbD l = true → ∀ r ∈ p.reads, (w1.src? l r.wide r.x).isSome) ∧
    ∃ r ∈ p.reads, ∃ n, r.x = .reg n ∧ 8 * w1.ig.allot ≤ n.toNat + (if r.wide then 1 else 0)

theorem witness_OperandTraps : s1.issuer = some w1 ∧ latchTrap (.iadd ⟨h0, w0, .i32, 5, .latch 3, .s 4, false⟩) ∧
    latchTrap (.cvtsr ⟨h0, w0, .e2m1, .f32, some .rne, 15, .latch 2⟩) ∧ latchTrap (.icmp ⟨h0, .i64, .ge, .por, 6, .latch 1, .s 4⟩) ∧
    sourceTrap (.iadd ⟨h0, w0, .i64, 4, .reg 16, .s 4, false⟩) ∧ sourceTrap (.pmov ⟨h0, 1, .reg 16, 31⟩) ∧
    ∃ p, vOperands (.movi ⟨h0, w0, .i32, 16, 0, 0⟩) = some p ∧ w1.active p.h.g ≠ 0 ∧ p.reads = [] ∧
      ∃ d ∈ p.dests, 8 * w1.ig.allot ≤ d.n.toNat + (if d.wide then 1 else 0) :=
  ⟨rfl, ⟨_, rfl, by decide +kernel, _, List.Mem.head _, by decide +kernel⟩, ⟨_, rfl, by decide +kernel, _, List.Mem.head _, by decide +kernel⟩,
    ⟨_, rfl, by decide +kernel, _, List.Mem.head _, by decide +kernel⟩,
    ⟨_, rfl, by decide +kernel, allLanes (by decide +kernel), _, List.Mem.head _, 16, rfl, by decide +kernel⟩,
    ⟨_, rfl, by decide +kernel, allLanes (by decide +kernel), _, List.Mem.head _, 16, rfl, by decide +kernel⟩,
    ⟨_, rfl, by decide +kernel, rfl, _, List.Mem.head _, by decide +kernel⟩⟩

/-- Lanes 16 to 30 of QENC, the lower half without a lane, and bit 32 of PMOV. -/
def b9 : Block := blk (grp (ig 0x7FFF0000))
def w9 : Who := who b9 (ig 0x7FFF0000)

theorem witness_OperandTraps_halves : (∃ p, cvOps (.qenc ⟨h0, w0, .sq7, .f32, some .rmi, 15, .reg 4⟩) = some p ∧ p.halves = true ∧
      (mach b9).issuer = some w9 ∧ Readable w9 (w9.active p.o.h.g) [⟨p.o.a, p.srcWide⟩] [⟨p.o.d, p.wide⟩] ∧
      (w9.active p.o.h.g).getLsbD 16 = true ∧ (∃ j, 16 ≤ j ∧ j < 16 + 16 ∧ (w9.active p.o.h.g).getLsbD j = false) ∧
      ∀ j, j < 16 → (w9.active p.o.h.g).getLsbD j = false) ∧
    32 ≤ (32 : BitVec 8).toNat ∧ Readable w1 (w1.active h0.g) (vr32 (.reg 4)) [] ∧ w1.active h0.g ≠ 0 :=
  ⟨⟨_, rfl, rfl, rfl, Who.readable_check (by decide +kernel), by decide +kernel, ⟨31, by decide, by decide, by decide +kernel⟩, by decide +kernel⟩,
    by decide, Who.readable_check (by decide +kernel), by decide +kernel⟩

theorem witness_NoLaneNoEffect : ∃ h, onceOps (.tmma ⟨⟨false, 0⟩, k0⟩ 5 12) = some h ∧ s1.issuer = some w1 ∧ w1.active h.g = 0 :=
  ⟨_, rfl, rfl, by decide +kernel⟩

/-! ### Control -/

/-- The machine at a segment entry with its issue group in focus, and its issuer. -/
def atEntry : State := { issuing with
  cores := [(0, { slots := [(0, probeBlock false)], parts := [{ cur := some (0, 0, 0) }, {}, {}, {}] })] }
def wEntry : Who := ⟨0, 0, 0, 0, probeBlock false, (probeBlock false).group 0, listGet (ig 0) ((probeBlock false).group 0).igs 0⟩

theorem segment0 : atEntry.segEntry 0 0 wEntry.kern 0 = some 0x1000 := by decide +kernel

theorem witness_TerminatorsDepart : (∃ p, termOps (.nextSeg k0 0) = some p ∧ atEntry.issuer = some wEntry ∧
      Calm wEntry atEntry ∧ wEntry.live = 0xFFFFFFFF ∧
      ∀ l, wEntry.live.getLsbD l = true → p.ok (wEntry.g.thread l) = true ∧ match p.target wEntry l with
        | none => (some 0x1000 : Option Dword) = none
        | some n => ∃ a, atEntry.segEntry wEntry.core wEntry.b.ctx wEntry.kern n = some a ∧ some 0x1000 = some a) ∧
    (∃ p, termOps (.exit k0) = some p ∧ s1.issuer = some w1 ∧ Calm w1 s1 ∧
      ∀ l, p.ok (w1.g.thread l) = true ∧ p.target w1 l = none) :=
  ⟨⟨_, rfl, rfl, ⟨rfl, by decide +kernel⟩, by decide +kernel, fun _ _ => ⟨rfl, _, segment0, rfl⟩⟩,
    ⟨_, rfl, rfl, ⟨rfl, by decide +kernel⟩, fun _ => ⟨rfl, rfl⟩⟩⟩

/-- A group whose lane 0 has no return address and whose lane 2 has sixteen. -/
def b4 : Block := withGroup fun g => g.modThread 2 fun t => { t with stack := List.replicate 16 0 }
def w4 : Who := who b4 (ig 5)

theorem witness_TerminatorsTrap : (mach b4).issuer = some w4 ∧ w4.live.getLsbD 0 = true ∧ w4.live.getLsbD 2 = true ∧
    (∀ l, (w4.g.thread l).stack.length ≤ 16) ∧
    (∃ p, termOps (.nextSeg k0 255) = some p ∧ p.target w4 0 = some 255 ∧ (mach b4).segEntry 0 0 w4.kern 255 = none) ∧
    (∃ p, termOps (.ret k0 0) = some p ∧ p.ok (w4.g.thread 0) = false) ∧
    (∃ p, termOps (.call k0 0 0) = some p ∧ p.ok (w4.g.thread 2) = false ∧ p.ok (w4.g.thread 0) = true) := by
  refine ⟨rfl, by decide +kernel, by decide +kernel, ?_, ⟨_, rfl, rfl, by decide +kernel⟩, ⟨_, rfl, by decide +kernel⟩,
    ⟨_, rfl, by decide +kernel, by decide +kernel⟩⟩
  intro l
  by_cases h : l < 32
  · exact (by decide +kernel : ∀ l, l < 32 → (w4.g.thread l).stack.length ≤ 16) l h
  · have : w4.g.thread l = {} := listGet_default _ _ _ (by show 32 ≤ l; omega)
    rw [this]; decide

theorem witness_NopAndWait : (mach b3).issuer = some w3 ∧ w3.active h0.g ≠ 0 ∧ w3.g.negs = [] ∧
    (∀ r ∈ w3.g.results, ∀ n, r.tok = some n → (0xF7 : BitVec 8).getLsbD n.toNat = false) ∧
    ∃ r ∈ w3.g.results, ∃ n, r.tok = some n ∧ (8 : BitVec 8).getLsbD n.toNat = true := by
  refine ⟨rfl, by decide +kernel, rfl, ?_, _, List.Mem.head _, 3, rfl, by decide⟩
  intro r hr n hn
  cases List.mem_singleton.1 hr
  cases hn
  decide

theorem witness_SoftwareTraps : s1.issuer = some w1 ∧ w1.active h0.g ≠ 0 ∧ (s1.ctx w1.b.ctx).bkpten = false ∧
    ({ s1 with ctxs := [(0, { state := .live, bkpten := true })] } : State).issuer = some w1 ∧
    (({ s1 with ctxs := [(0, { state := .live, bkpten := true })] } : State).ctx w1.b.ctx).bkpten = true :=
  ⟨rfl, by decide +kernel, rfl, rfl, rfl⟩

/-- A group whose lane 2 has P0 set. -/
def b5 : Block := withGroup fun g => g.modThread 2 fun t => { t with preds := 1 }
def w5 : Who := who b5 (ig 5)

theorem witness_AssertStops : (mach b5).issuer = some w5 ∧ w5.active h0.g ≠ 0 ∧
    (∀ l, (w5.active h0.g).getLsbD l = true → (w5.g.thread l).psrc ⟨false, 7⟩ = true) ∧
    (w5.active h0.g).getLsbD 2 = true ∧ (w5.g.thread 2).psrc ⟨true, 0⟩ = false ∧
    (∀ j, j < 2 → (w5.active h0.g).getLsbD j = true → (w5.g.thread j).psrc ⟨true, 0⟩ = true) ∧
    w5.ig.handler = false ∧ ((mach b5).ctx w5.b.ctx).state = .live :=
  ⟨rfl, by decide +kernel, allLanes (by decide +kernel), by decide +kernel, by decide +kernel, by decide +kernel, rfl, rfl⟩

/-! ### Memory instructions -/

/-- A page of 64 KiB of device memory in a format, held as a translation of core 0. -/
def page (fmt : Nat) : Xlate :=
  { ctx := 0, va := 0, size := 65536, pa := 0, tgt := 0, fmt := fmt, geom := false, floor := 0, ext := false, cp := 0, r := true, w := true }

/-- A group whose lanes 0 and 2 hold addresses 128 and 160 in V6, 128 and 2^17 in V8, and 1 in V10. -/
def addressed (g : Group) : Group :=
  { g with v := [(128, 64), (160, 7), (192, 128), (194, 160), (256, 128), (258, 0x20000), (320, 1), (322, 1)] }

/-- A machine of one block with a page of device memory that its context may reach. -/
def machPage (fmt : Nat) (b : Block) : State :=
  { ctxs := [(0, { state := .live })], granules := [(0, { v := true, sh := false, owner := 0, share := 0 })], mem := [(160, 0x81)]
    cores := [(0, { slots := [(0, b)], tlb := [page fmt], parts := [{ cur := some (0, 0, 1) }, {}, {}, {}] })] }

def b6 : Block := withGroup addressed
def w6 : Who := who b6 (ig 5)
def s6 : State := machPage 0 b6

theorem active6 : ∀ l, (w6.active h0.g).getLsbD l = true → l = 0 ∨ l = 2 := allLanes (by decide +kernel)

theorem okOf {ε α : Type} {x : Except ε α} (d : α) (h : x.toOption.isSome = true) : x = .ok (x.toOption.getD d) := by
  cases x with
  | ok a => rfl
  | error e => cases h

theorem plain6 : Plain s6 := ⟨rfl, rfl, fun _ => rfl⟩

theorem witness_LoadsReadMemory : ∃ p, loadOps (.ld ⟨h0, w0, .i8, ⟨.rc, .dev, .acq⟩, 15, .v (.reg 6), 0⟩) = some p ∧
    s6.issuer = some w6 ∧ Readable w6 (w6.active p.h.g) p.reads [⟨p.d, p.wide⟩] ∧ badMark loadMarks p.acc = false ∧ Quiet w6 s6 ∧
    Plain s6 ∧ ∀ l, (w6.active p.h.g).getLsbD l = true → ∃ ps, p.pieces s6 w6 l = .ok ps ∧
      s6.piecesBytes w6.b.ctx ps = some (if l = 2 then [0x81] else [0]) := by
  refine ⟨_, rfl, rfl, Who.readable_check (by decide +kernel), by decide, quietOf rfl rfl rfl (by decide +kernel), plain6, fun l hl => ?_⟩
  rcases active6 l hl with rfl | rfl
  · exact ⟨[⟨page 0, 128, 1⟩], rfl, rfl⟩
  · exact ⟨[⟨page 0, 160, 1⟩], rfl, rfl⟩

theorem witness_LocalLoads : s6.issuer = some w6 ∧ Readable w6 (w6.active h0.g) (baseReads false (.s 12)) [⟨14, true⟩] ∧
    badMark loadMarks ⟨.rc, .blk, .acq⟩ = false ∧ Quiet w6 s6 ∧
    (∀ l, (w6.active h0.g).getLsbD l = true → w6.laddr l (.s 12) 127 + Machine.sizeOf .b64 ≤ w6.b.locSize) ∧
    (let words := bankList (w6.active h0.g) (fun l => w6.laddr l (.s 12) 127) (Machine.sizeOf .b64)
     s6.bankNow words = words ∧ ({ s6 with pick := 4 } : State).bankNow words = words ∧
        ({ s6 with pick := 1 } : State).bankNow words ≠ words ∧ words.length = 2) :=
  ⟨rfl, Who.readable_check (by decide +kernel), by decide, quietOf rfl rfl rfl (by decide +kernel), allLanes (by decide +kernel),
    by decide +kernel⟩

theorem witness_StoresQueue : ∃ p, storeOps (.st ⟨h0, .b64, ⟨.rc, .dev, .rel⟩, .v (.reg 6), .reg 4, 0⟩) = some p ∧
    s6.issuer = some w6 ∧ Readable w6 (w6.active p.h.g) p.reads [] ∧ badMark storeMarks p.acc = false ∧
    ∀ l, (w6.active p.h.g).getLsbD l = true → p.puts s6 w6 l = .ok (((p.puts s6 w6 l).toOption).getD []) :=
  ⟨_, rfl, rfl, Who.readable_check (by decide +kernel), by decide, fun l hl => by
    rcases active6 l hl with rfl | rfl <;> exact okOf [] (by decide +kernel)⟩

/-- STX from lanes 0 and 2 into a page of F32, and from all 32 lanes into a page of SQ2 blocks, each lane its own element. -/
def b7 : Block := blk { grp (ig 0xFFFFFFFF) with v := (List.range 32).map fun l => (l, BitVec.ofNat 32 l) }
def w7 : Who := who b7 (ig 0xFFFFFFFF)
def stx1 : StxOp := ⟨h0, .f32, ⟨.rc, .dev, .rel⟩, .s 12, .reg 4, .reg 5⟩
def stx2 : StxOp := ⟨h0, .f32, ⟨.rc, .dev, .none⟩, .s 12, .reg 4, .reg 0⟩
def elemAt (o : StxOp) (s : State) (w : Who) (l : Nat) : Elem :=
  ((s.elem w l (needOf false true o.acc.dom) (rank o.acc.dom) o.ty (w.base l true o.base) (w.src l false o.idx).toNat).toOption).getD
    ⟨0, 0, 0, []⟩

theorem witness_StoreConverted :
    ((machPage 1 b6).issuer = some w6 ∧
      Readable w6 (w6.active stx1.h.g) (baseReads true stx1.base ++ vr32 stx1.data ++ vr32 stx1.idx) [] ∧
      badMark storeMarks stx1.acc = false ∧
      (∀ l, (w6.active stx1.h.g).getLsbD l = true → (machPage 1 b6).elem w6 l (needOf false true stx1.acc.dom) (rank stx1.acc.dom)
        stx1.ty (w6.base l true stx1.base) (w6.src l false stx1.idx).toNat = .ok (elemAt stx1 (machPage 1 b6) w6 l)) ∧
      ∀ l, (w6.active stx1.h.g).getLsbD l = true → fmtSq (elemAt stx1 (machPage 1 b6) w6 l).fmt = false) ∧
    ((machPage 8 b7).issuer = some w7 ∧
      Readable w7 (w7.active stx2.h.g) (baseReads true stx2.base ++ vr32 stx2.data ++ vr32 stx2.idx) [] ∧
      (∀ l, (w7.active stx2.h.g).getLsbD l = true → (machPage 8 b7).elem w7 l (needOf false true stx2.acc.dom) (rank stx2.acc.dom)
        stx2.ty (w7.base l true stx2.base) (w7.src l false stx2.idx).toNat = .ok (elemAt stx2 (machPage 8 b7) w7 l)) ∧
      ∀ l, (w7.active stx2.h.g).getLsbD l = true → fmtSq (elemAt stx2 (machPage 8 b7) w7 l).fmt = true ∧ ∀ i, i < 16 →
        (w7.active stx2.h.g).getLsbD (l / 16 * 16 + i) = true ∧
          (elemAt stx2 (machPage 8 b7) w7 (l / 16 * 16 + i)).fmt = (elemAt stx2 (machPage 8 b7) w7 l).fmt ∧
          (elemAt stx2 (machPage 8 b7) w7 (l / 16 * 16 + i)).at_ = (elemAt stx2 (machPage 8 b7) w7 l).at_ ∧
          (elemAt stx2 (machPage 8 b7) w7 (l / 16 * 16 + i)).within = i) :=
  ⟨⟨rfl, Who.readable_check (by decide +kernel), by decide, allLanes fun l h1 h2 => okOf _
      ((by decide +kernel : ∀ l, l < 32 → (w6.active stx1.h.g).getLsbD l = true → ((machPage 1 b6).elem w6 l
        (needOf false true stx1.acc.dom) (rank stx1.acc.dom) stx1.ty (w6.base l true stx1.base)
        (w6.src l false stx1.idx).toNat).toOption.isSome = true) l h1 h2), allLanes (by decide +kernel)⟩,
    ⟨rfl, Who.readable_check (by decide +kernel), allLanes fun l h1 h2 => okOf _
      ((by decide +kernel : ∀ l, l < 32 → (w7.active stx2.h.g).getLsbD l = true → ((machPage 8 b7).elem w7 l
        (needOf false true stx2.acc.dom) (rank stx2.acc.dom) stx2.ty (w7.base l true stx2.base)
        (w7.src l false stx2.idx).toNat).toOption.isSome = true) l h1 h2), allLanes (by decide +kernel)⟩⟩

theorem witness_AccessTraps :
    (∃ p, loadOps (.ld ⟨h0, w0, .b32, ⟨.ub, .dev, .acq⟩, 15, .v (.reg 6), 0⟩) = some p ∧ s6.issuer = some w6 ∧
      Readable w6 (w6.active p.h.g) p.reads [⟨p.d, p.wide⟩] ∧ w6.active p.h.g ≠ 0 ∧ badMark loadMarks p.acc = true) ∧
    (∃ p, loadOps (.ld ⟨h0, w0, .b32, c0, 15, .v (.reg 8), 0⟩) = some p ∧
      Readable w6 (w6.active p.h.g) p.reads [⟨p.d, p.wide⟩] ∧ badMark loadMarks p.acc = false ∧
      (w6.active p.h.g).getLsbD 2 = true ∧ (∃ f, p.pieces s6 w6 2 = .error f ∧ f.cause = 9) ∧
      ∀ j, j < 2 → (w6.active p.h.g).getLsbD j = true → (p.pieces s6 w6 j).toOption.isSome) ∧
    (∃ p, storeOps (.st ⟨h0, .b32, ⟨.rc, .dev, .acq⟩, .v (.reg 6), .reg 4, 0⟩) = some p ∧
      Readable w6 (w6.active p.h.g) p.reads [] ∧ badMark storeMarks p.acc = true) ∧
    (∃ p, storeOps (.barinit ⟨h0, c0, .s 12, .reg 5, 0⟩) = some p ∧ Readable w6 (w6.active p.h.g) p.reads [] ∧
      badMark storeMarks p.acc = false ∧ (∃ f, p.puts s6 w6 2 = .error f ∧ f.cause = 3) ∧
      ∀ j, j < 2 → (w6.active p.h.g).getLsbD j = true → (p.puts s6 w6 j).toOption.isSome) :=
  ⟨⟨_, rfl, rfl, Who.readable_check (by decide +kernel), by decide +kernel, by decide⟩,
    ⟨_, rfl, Who.readable_check (by decide +kernel), by decide, by decide +kernel, ⟨_, rfl, rfl⟩, by decide +kernel⟩,
    ⟨_, rfl, Who.readable_check (by decide +kernel), by decide⟩,
    ⟨_, rfl, Who.readable_check (by decide +kernel), by decide, ⟨_, rfl, rfl⟩, by decide +kernel⟩⟩

/-- A CAS of every active lane on one word, and a local one on two. -/
def cas : AtomOp := ⟨h0, w0, .cas, .b32, ⟨.rc, .dev, .ar⟩, 15, .s 12, .cas (.reg 4) (.reg 10)⟩
def addLocal : AtomOp := ⟨h0, w0, .add, .i64, ⟨.rc, .blk, .none⟩, 14, .v (.reg 6), .one (.reg 4) 0⟩

theorem witness_AtomicsInLaneOrder :
    (s6.issuer = some w6 ∧ Readable w6 (w6.active cas.h.g) (baseReads true cas.base ++ argReads cas.ty cas.arg) [⟨cas.d, wide cas.ty⟩] ∧
      badMark atomMarks cas.acc = false ∧ Quiet w6 s6 ∧ Plain s6 ∧ (s6.ctx w6.b.ctx).domain = none ∧ s6.mem.wf = true ∧
      s6.hmem.wf = true ∧
      ∀ l, (w6.active cas.h.g).getLsbD l = true → ∃ ps,
        s6.atomAddr w6 l (needOf true true cas.acc.dom) (rank cas.acc.dom) (w6.gaddr l cas.base (argImm cas.arg)) (Machine.sizeOf cas.ty)
          = .ok ps ∧
        s6.wordPlace w6.b.ctx ps = .glob (.dev 64) ∧ s6.admitsTgt w6.b.ctx (.dev 64) = true ∧ ∀ a, (.dev 64 : Tgt) ≠ .mmio a) ∧
    (Readable w6 (w6.active addLocal.h.g) (baseReads false addLocal.base ++ argReads addLocal.ty addLocal.arg) [⟨14, true⟩] ∧
      badMark atomMarks addLocal.acc = false ∧
      (let words := bankList (w6.active addLocal.h.g) (fun l => w6.laddr l addLocal.base (argImm addLocal.arg)) (Machine.sizeOf addLocal.ty)
       s6.bankNow words = words) ∧ w6.b.mem.wf = true ∧
      ∀ l, (w6.active addLocal.h.g).getLsbD l = true → w6.laddr l addLocal.base (argImm addLocal.arg) % Machine.sizeOf addLocal.ty = 0 ∧
        w6.b.locCheck (w6.laddr l addLocal.base (argImm addLocal.arg)) (Machine.sizeOf addLocal.ty) true = true) := by
  refine ⟨⟨rfl, Who.readable_check (by decide +kernel), by decide, quietOf rfl rfl rfl (by decide +kernel), plain6, rfl, by decide +kernel, by decide +kernel,
    fun l hl => ⟨[⟨page 0, 64, 4⟩], ?_, rfl, by decide +kernel, fun a h => by cases h⟩⟩,
    Who.readable_check (by decide +kernel), by decide, by decide +kernel, by decide +kernel, allLanes (by decide +kernel)⟩
  rcases active6 l hl with rfl | rfl <;> rfl

/-- ACCRD and ACCWR of a word pair that ends the accumulator of 64 granules, from S12 of 65,534. -/
def b8 : Block := withGroup fun g => { g with s := [(12, 65534)] }
def w8 : Who := who b8 (ig 5)

theorem witness_AccumulatorAccess : (mach b8).issuer = some w8 ∧
    Readable w8 (w8.active h0.g) (baseReads false (.s 12)) [⟨14, true⟩] ∧
    (Instr.accwr ⟨h0, .b64, .s 12, .reg 4, 0⟩).legal = true ∧
    Readable w8 (w8.active h0.g) (baseReads false (.s 12) ++ vr .b64 (.reg 4)) [] ∧
    (∀ l, (w8.active h0.g).getLsbD l = true → w8.laddr l (.s 12) 0 % (Machine.sizeOf .b64 / 4) = 0 ∧
      w8.laddr l (.s 12) 0 + Machine.sizeOf .b64 / 4 = w8.b.accSize) ∧
    w8.b.cmds = [] ∧ KMap.wfFrom 0 0 w8.b.acc = true :=
  ⟨rfl, Who.readable_check (by decide +kernel), by decide, Who.readable_check (by decide +kernel), allLanes (by decide +kernel), rfl,
    by decide⟩

theorem witness_CacheControl : s6.issuer = some w6 ∧ Readable w6 (w6.active h0.g) (baseReads true (.v (.reg 6))) [] ∧ s6.cu = [] ∧
    s6.holds = [] ∧ Readable w6 (w6.active h0.g) [⟨.reg 6, true⟩] [] ∧ w6.active h0.g ≠ 0 :=
  ⟨rfl, Who.readable_check (by decide +kernel), rfl, rfl, Who.readable_check (by decide +kernel), by decide +kernel⟩

/-- A machine with a store of lane 2 that is still to be performed in RC. -/
def queued : State := { s6 with
  cores := s6.cores.map fun x => (x.1, { x.2 with stores := [{ id := 9, who := w6.agent 2, dom := .rc, scope := .dev, rel := false, place := .glob (.dev 64), work := .bytes [(1, 255)], after := [], lanes := 4, irrev := false, leg := 0, pc := 0, node := 0, block := 0 }] }) }

theorem witness_FencesOrder : queued.issuer = some w6 ∧ (w6.active h0.g).getLsbD 2 = true ∧ queued.isOpen 9 = true ∧
    9 ∈ queued.threadPending w6 2 .rc :=
  ⟨rfl, by decide +kernel, by decide +kernel, by decide +kernel⟩

/-- Barrier instructions on the word at 64, with counts and tokens in V5, V10 and V4. -/
def bar (data : BitVec 8) : BarOp := ⟨h0, w0, ⟨.rc, .blk, .none⟩, false, 15, .s 12, .reg data, 0⟩

theorem witness_BarrierWords : s6.issuer = some w6 ∧
    Readable w6 (w6.active h0.g) (baseReads false (.s 12) ++ vr32 (.reg 5)) [⟨15, false⟩] ∧
    badMark storeMarks (bar 5).acc = false ∧ badMark loadMarks (bar 5).acc = false ∧ Quiet w6 s6 ∧ w6.b.mem.wf = true ∧
    (∀ l, (w6.active h0.g).getLsbD l = true → w6.laddr l (bar 5).base (bar 5).imm % 8 = 0 ∧
      w6.laddr l (bar 5).base (bar 5).imm + 8 ≤ w6.b.locSize) ∧
    (∀ l, (w6.active h0.g).getLsbD l = true →
      (bwPhase (w6.b.word64 (w6.laddr l (bar 10).base (bar 10).imm)) != (w6.src l false (bar 10).data).getLsbD 0) = true) ∧
    (∃ l, (w6.active h0.g).getLsbD l = true ∧
      (bwPhase (w6.b.word64 (w6.laddr l (bar 4).base (bar 4).imm)) != (w6.src l false (bar 4).data).getLsbD 0
        || bwFault (w6.b.word64 (w6.laddr l (bar 4).base (bar 4).imm))) = false) :=
  ⟨rfl, Who.readable_check (by decide +kernel), by decide, by decide, quietOf rfl rfl rfl (by decide +kernel), by decide, allLanes (by decide +kernel),
    allLanes (by decide +kernel), 2, by decide +kernel, by decide +kernel⟩

theorem witness_BlockBarrier : s1.issuer = some w1 ∧ w1.active h0.g ≠ 0 ∧ w1.ig.wait = .none ∧
    ({ w1.b with barrier := w1.b.barrier ++ (lanesOf (w1.active h0.g)).map fun l => ⟨w1.grp * 32 + l, .rc, .blk⟩ } : Block).phaseDone = false ∧
    s2.issuer = some w2 ∧
    ({ w2.b with barrier := w2.b.barrier ++ (lanesOf (w2.active h0.g)).map fun l => ⟨w2.grp * 32 + l, .rc, .sys⟩ } : Block).phaseDone = true :=
  ⟨rfl, by decide +kernel, rfl, by decide +kernel, rfl, by decide +kernel⟩

/-! ### Engines -/

/-- A block whose tile 2 is 16 rows of 64 bytes of format 1, and one with 32 commands that use it. -/
def b10 : Block := { b1 with tcfg := [0, 0, 0x10100040, 0, 0, 0, 0, 0] }
def w10 : Who := who b10 (ig 5)
def zeroing (n : Nat) : Cmd :=
  { id := n, tag := 5, grp := 0, lanes := 5, pc := 0x1008, iword := 0, slotctl := 0, leg := 0, mode := 0, acc := plainAcc, op := .tzero 2 }
def b11 : Block := { b10 with cmds := (List.range 32).map zeroing, nextCmd := 32, tags := [(5, { count := 32 })] }
def w11 : Who := who b11 (ig 5)
def b12 : Block := { b10 with tags := [(5, { count := 0xFFFF })] }
def w12 : Who := who b12 (ig 5)

theorem witness_CommandsIssue : (∃ p, cmdReqs (.tzero h0 5 2) = some p ∧ (mach b10).issuer = some w10 ∧
      Readable w10 (w10.active p.h.g) p.reads [] ∧ w10.active p.h.g ≠ 0 ∧ badFlags p.acc = false ∧
      (mach b10).pendingStores w10.core = [] ∧ p.op (mach b10) w10 = some (.tzero 2, none) ∧
      (w10.b.tag p.tag.toNat).count ≠ 0xFFFF ∧ (mach b10).queueFull w10.core (.tzero 2) = false ∧
      (mach b11).issuer = some w11 ∧ p.op (mach b11) w11 = some (.tzero 2, none) ∧ (mach b11).queueFull w11.core (.tzero 2) = true ∧
      (mach b12).issuer = some w12 ∧ p.op (mach b12) w12 = some (.tzero 2, none) ∧ (w12.b.tag p.tag.toNat).count = 0xFFFF) ∧
    ∃ p, cmdReqs (.tld ⟨h0, ⟨.ub, .grp, true, false⟩, 5, 2, 12⟩) = some p ∧ badFlags p.acc = true ∧
      Readable w10 (w10.active p.h.g) p.reads [] :=
  ⟨⟨_, rfl, rfl, Who.readable_check (by decide +kernel), by decide +kernel, rfl, rfl, rfl, by decide +kernel, by decide +kernel, rfl, rfl,
    by decide +kernel, rfl, rfl, rfl⟩, _, rfl, rfl, Who.readable_check (by decide +kernel)⟩

/-- Groups that name tags 0 and 5, with tag 5 at a count of one, both at a count, and tag 5 faulted by a command. -/
def tagged (l : KMap Tag) : Block :=
  { blk { grp (ig 5) with s := [(4, 0x21), (6, 0x20)] } with tags := l }
def w13 : Who := who (tagged [(5, { count := 1 })]) (ig 5)
def w14 : Who := who (tagged [(0, { count := 2 }), (5, { count := 1 })]) (ig 5)
def w15 : Who := who (tagged [(0, { count := 2 }), (5, { fault := true, record := { cause := 8, eng := true } })]) (ig 5)

theorem witness_TagsRead : (mach w13.b).issuer = some w13 ∧ w13.active h0.g ≠ 0 ∧
    (∀ k, (w13.g.readS 4 true).getLsbD k = true → (w13.b.tag k).count = 0 → (w13.b.tag k).fault = false) ∧
    ((w13.g.readS 4 true).getLsbD 0 = true ∧ (w13.b.tag 0).count = 0) ∧
    ((w13.g.readS 4 true).getLsbD 5 = true ∧ (w13.b.tag 5).count ≠ 0) ∧ w13.g.readS 4 true ≠ 0 ∧ w13.g.readS 8 true = 0 ∧
    (mach w14.b).issuer = some w14 ∧ (∀ k, (w14.g.readS 4 true).getLsbD k = true → (w14.b.tag k).count ≠ 0) ∧
    ∀ k, (w13.g.readS 10 true).getLsbD k = true → (w13.b.tag k).count = 0 := by
  have bits : ∀ k, (0x21 : Dword).getLsbD k = true → k = 0 ∨ k = 5 := fun k h => by
    have := BitVec.lt_of_getLsbD h
    exact (by decide +kernel : ∀ k, k < 64 → (0x21 : Dword).getLsbD k = true → k = 0 ∨ k = 5) k this h
  refine ⟨rfl, by decide +kernel, ?_, by decide +kernel, by decide +kernel, by decide +kernel, by decide +kernel, rfl, ?_, ?_⟩
  · intro k h
    rcases bits k h with rfl | rfl <;> decide +kernel
  · intro k h
    rcases bits k h with rfl | rfl <;> decide +kernel
  · intro k h
    have hz : w13.g.readS 10 true = 0 := by decide +kernel
    rw [hz] at h
    simp at h

theorem witness_TagFaultsDeliver : (mach w15.b).issuer = some w15 ∧ w15.active h0.g ≠ 0 ∧
    (w15.g.readS 4 true).getLsbD 5 = true ∧ (w15.b.tag 5).count = 0 ∧ (w15.b.tag 5).fault = true ∧
    (∀ j, j < 5 → ¬ ((w15.g.readS 4 true).getLsbD j = true ∧ (w15.b.tag j).count = 0 ∧ (w15.b.tag j).fault = true)) ∧
    (w15.b.tag 5).record.cause.toNat ≠ 13 := by
  refine ⟨rfl, ?_, ?_, ?_, ?_, ?_, ?_⟩ <;> decide +kernel

/-- Good configurations at the ends of their ranges, and bad ones. -/
theorem witness_TileConfiguration : s1.issuer = some w1 ∧ w1.active h0.g ≠ 0 ∧ w1.b.cmds = [] ∧
    (∀ x ∈ [0x10010000, 0xA0017FFF - 0xA0017FFF % 2 ^ 16, 0x11000000 + 128, 0x10018000], (7 : BitVec 3).toNat < w1.b.nodeRec.kern.tiles ∧
      1 ≤ x / 2 ^ 28 ∧ x / 2 ^ 28 ≤ 10 ∧ x / 2 ^ 25 % 8 = 0 ∧ 1 ≤ x / 2 ^ 16 % 2 ^ 9 ∧ x / 2 ^ 16 % 2 ^ 9 ≤ 256 ∧
      x % 2 ^ 16 % fmtBlk (x / 2 ^ 28) = 0 ∧ x / 2 ^ 16 % 2 ^ 9 * (x % 2 ^ 16) ≤ 32768) ∧
    ∀ x ∈ [0x10000000, 0xB0010000, 0x11010000, 0x10018004, 0x12010000], ¬ (x = 0 ∨ (1 ≤ x / 2 ^ 28 ∧ x / 2 ^ 28 ≤ 10 ∧ x / 2 ^ 25 % 8 = 0 ∧
      1 ≤ x / 2 ^ 16 % 2 ^ 9 ∧ x / 2 ^ 16 % 2 ^ 9 ≤ 256 ∧ x % 2 ^ 16 % fmtBlk (x / 2 ^ 28) = 0 ∧
      x / 2 ^ 16 % 2 ^ 9 * (x % 2 ^ 16) ≤ 32768)) := by
  refine ⟨rfl, ?_, ?_, ?_, ?_⟩ <;> decide +kernel

/-! ### Remote, recovery and system instructions -/

/-- Entry 3 of a core endpoint with every right and an allowance, entry 4 with none, entry 6 of a home endpoint of one 64 KiB window. -/
def allowed : Entry := BitVec.ofNat 256 (0x7F + 2 ^ 63 + 2 ^ 68 + 16 * 2 ^ 112 + 2 ^ 128)
def bare : Entry := BitVec.ofNat 256 (0x41 + 2 ^ 63 + 2 ^ 68 + 2 ^ 128)
def home : Entry := BitVec.ofNat 256 (0x8F + 16 * 2 ^ 112 + 2 ^ 160)
def machMan (b : Block) : State :=
  { mach b with ctxs := [(0, { state := .live, manlen := 8, manifest := [(3, allowed), (4, bare), (6, home)] })] }
def b16 : Block := { withGroup fun g => { g with s := [(4, 3), (6, 255), (8, 256), (12, 64)] } with convoys := [(1, { entry := some 3 })] }
def s16 : State := machMan b16
def w16 : Who := who b16 (ig 5)
def xld (e : Endp) : Instr := .xld ⟨h0, w0, .b32, ⟨.rc, .fab, .none⟩, 15, e, .reg 4⟩
def xst (e : Endp) : Instr := .xst ⟨h0, .b64, ⟨.rc, .fab, .rel⟩, e, .reg 5, .reg 4⟩

/-- Hypotheses of RemoteSends for an instruction through entry m. -/
def sendsThrough (i : Instr) (m : Nat) (cv : Option Nat) : Prop :=
  ∃ p man, remReqs i = some p ∧ s16.issuer = some w16 ∧ Readable w16 (w16.active p.h.g) p.reads p.names ∧ w16.active p.h.g ≠ 0 ∧
    p.marks = false ∧ p.ep w16 = some (m, cv) ∧ s16.entry w16.b.ctx m = some man ∧ man.grants p.right = true ∧
    p.ok s16 w16 man = true ∧ s16.sentOn w16.b.ctx m = 0

theorem witness_RemoteSends : sendsThrough (xld (.entry 3)) 3 none ∧ sendsThrough (xst (.entry 6)) 6 none ∧
    sendsThrough (.fencef h0 .rc 1 12 0) 3 (some 1) ∧ sendsThrough (.slotrsv h0 20 4 8) 3 none := by
  refine ⟨⟨_, _, rfl, rfl, Who.readable_check (by decide +kernel), ?_, ?_, rfl, rfl, ?_, ?_, ?_⟩,
    ⟨_, _, rfl, rfl, Who.readable_check (by decide +kernel), ?_, ?_, rfl, rfl, ?_, ?_, ?_⟩,
    ⟨_, _, rfl, rfl, Who.readable_check (by decide +kernel), ?_, ?_, rfl, rfl, ?_, ?_, ?_⟩,
    ⟨_, _, rfl, rfl, Who.readable_check (by decide +kernel), ?_, ?_, rfl, rfl, ?_, ?_, ?_⟩⟩ <;> decide +kernel

theorem witness_RemoteTraps : s16.issuer = some w16 ∧
    (∃ p, remReqs (xld (.convoy 2)) = some p ∧ Readable w16 (w16.active p.h.g) p.reads p.names ∧ w16.active p.h.g ≠ 0 ∧
      p.marks = false ∧ p.ep w16 = none) ∧
    (∃ p, remReqs (xld (.entry 8)) = some p ∧ p.ep w16 = some (8, none) ∧ s16.entry w16.b.ctx 8 = none) ∧
    (∃ p man, remReqs (xld (.entry 4)) = some p ∧ p.ep w16 = some (4, none) ∧ s16.entry w16.b.ctx 4 = some man ∧
      man.grants p.right = false) :=
  ⟨rfl, ⟨_, rfl, Who.readable_check (by decide +kernel), by decide +kernel, by decide +kernel, by decide +kernel⟩,
    ⟨_, rfl, by decide +kernel, by decide +kernel⟩, ⟨_, _, rfl, rfl, rfl, by decide +kernel⟩⟩

/-- A block whose serai of four slots at 0x400 has slot 0 in use and full, and one in which it has failed. -/
def seraiBlock (fault : Bool) : Block :=
  let b := { b1 with nodeRec := { b1.nodeRec with kern := { b1.nodeRec.kern with serai := some (0x400, 64, 4) } } }
  (b.putWord64 0x400 (sawMake 1 1 4)).putWord64 (slotBar 0x400 0) (bwMake true fault false 64 0)
def b17 : Block := seraiBlock false

/-- SLOTREL, or SLOTREL.FAULT, of slot x is legal in a block with such a serai. -/
abbrev legalRel (b : Block) (x : Nat) (fault : Bool) : Prop :=
  let a := b.word64 0x400
  let y := b.word64 (0x400 + 40 + 8 * x)
  x < 4 ∧ (∃ q, q < a / 2 ^ 16 % 512 ∧ (a / 2 ^ 8 % 256 + 4 - a / 2 ^ 16 % 512 % 4 + q) % 4 = x) ∧
    if fault then y.testBit 62 = true else y.testBit 62 = false ∧ y.testBit 63 ≠ y.testBit 60

theorem witness_ConvoysAndSlots_slots : w16.b.serai = none ∧ (∀ f : Bool, (mach (seraiBlock f)).issuer = some (who (seraiBlock f) (ig 5)) ∧
    (who (seraiBlock f) (ig 5)).active h0.g ≠ 0 ∧ ((seraiBlock f).group 0).sreg 0 = 0 ∧ ((seraiBlock f).group 0).sreg 4 = 3 ∧
    (seraiBlock f).serai = some (0x400, 64, 4) ∧ (seraiBlock f).mem.wf = true ∧ legalRel (seraiBlock f) 0 f ∧
    ¬ legalRel (seraiBlock f) 0 (!f) ∧ ¬ legalRel (seraiBlock f) 3 f) := by
  have h : ∀ x fault, x < 4 → (legalRel (seraiBlock fault) x fault ↔ x = 0) ∧ ¬ legalRel (seraiBlock fault) 0 (!fault) := by
    intro x fault hx
    have e : (seraiBlock fault).word64 0x400 = sawMake 1 1 4 := by cases fault <;> decide +kernel
    have e0 : (seraiBlock fault).word64 (0x400 + 40 + 8 * 0) = bwMake true fault false 64 0 := by cases fault <;> decide +kernel
    unfold legalRel
    rw [e]
    refine ⟨⟨?_, ?_⟩, ?_⟩
    · rintro ⟨_, ⟨q, hq, hx⟩, _⟩
      have : q = 0 := Nat.lt_one_iff.1 hq
      subst this
      exact hx.symm
    · rintro rfl
      rw [e0]
      exact ⟨by decide, ⟨0, by decide +kernel, by decide +kernel⟩, by cases fault <;> decide +kernel⟩
    · rw [e0]
      rintro ⟨_, _, hf⟩
      revert hf
      cases fault <;> decide +kernel
  refine ⟨rfl, fun f => ⟨by cases f <;> rfl, by cases f <;> decide +kernel, by cases f <;> decide +kernel, by cases f <;> decide +kernel,
    by cases f <;> rfl, by cases f <;> decide +kernel, (h 0 f (by decide)).1.2 rfl, (h 0 f (by decide)).2, fun k => ?_⟩⟩
  exact absurd ((h 3 f (by decide)).1.1 k) (by decide)

theorem witness_ConvoysAndSlots : s16.issuer = some w16 ∧ w16.active h0.g ≠ 0 ∧
    256 ≤ (w16.g.sreg 8).toNat ∧ (KMap.get ({} : Convoy) w16.b.convoys 1).entry ≠ none ∧
    (KMap.get ({} : Convoy) w16.b.convoys 15).entry = none ∧
    ((w16.g.sreg 6).toNat < 256 ∧ s16.entry w16.b.ctx (w16.g.sreg 6).toNat = none) ∧
    ((w16.g.sreg 4).toNat < 256 ∧ s16.entry w16.b.ctx (w16.g.sreg 4).toNat ≠ none) ∧
    w16.b.slotrel 3 false = none ∧ b17.slotrel 0 false ≠ none := by
  refine ⟨rfl, ?_, ?_, ?_, ?_, ?_, ?_, ?_, ?_⟩ <;> decide +kernel

/-- An issue group in handler mode, and its machine. -/
def inHandler : IGroup := { ig 5 with handler := true }
def trapCtx (cause : BitVec 6) : TrapCtx :=
  { record := { cause := cause, pc := 0x1008, region := 0x1000, lane := 2, lanes := 5 }, floor := 0x200, kern := probeKernel false
    lanes := 5, opBase := 0 }
def b18 (cause : BitVec 6) : Block := blk { grp inHandler with trap := some (trapCtx cause) }
def w18 (cause : BitVec 6) : Who := who (b18 cause) inHandler

/-- A domain of context 0, idle or with a request. -/
def dom (wanted : Bool) : Domain :=
  { num := 7, members := [0], lost := [], leg := 3, interval := 50, waitLimit := 1000, capacity := 1024, phase := .idle, ready := []
    acked := [], applying := false, wanted := wanted, since := 0, reqAt := 0, stopped := false, doneBy := [], rolling := 0
    overflow := none, injected := false, cut := [], cutWindows := [], cutOrdered := [], cutItins := [] }
def inDom (wanted : Bool) (s : State) : State :=
  { s with ctxs := [(0, { s.ctx 0 with domain := some 7 })], domains := [dom wanted] }

/-- An XATOM at the offset 64 or 7 of lane 0, and a domain without package 1, to which entry 3 leads. -/
def xadd (off : BitVec 8) : Instr := .xatom ⟨h0, w0, .add, .i32, ⟨.rc, .fab, .none⟩, 15, .entry 3, .reg off, .reg 4⟩
def sOut : State :=
  { s16 with ctxs := [(0, { state := .live, domain := some 7, manlen := 8, manifest := [(3, allowed ||| BitVec.ofNat 256 (2 ^ 84))] })], domains := [dom false] }

theorem witness_RemoteTraps_operands : (∀ off ∈ ([4, 5] : List (BitVec 8)), ∃ p, remReqs (xadd off) = some p ∧
      Readable w16 (w16.active p.h.g) p.reads p.names ∧ w16.active p.h.g ≠ 0 ∧ p.marks = false ∧ p.ep w16 = some (3, none)) ∧
    (w16.src (lowest (w16.active h0.g)) false (.reg 5)).toNat % Machine.sizeOf .i32 ≠ 0 ∧
    (w16.src (lowest (w16.active h0.g)) false (.reg 4)).toNat % Machine.sizeOf .i32 = 0 ∧
    sOut.issuer = some w16 ∧ ∃ man, sOut.entry w16.b.ctx 3 = some man ∧ sOut.outside w16.b.ctx man.pkg = true := by
  refine ⟨fun off h => ?_, ?_, ?_, rfl, _, rfl, ?_⟩
  · fin_cases h <;> exact ⟨_, rfl, Who.readable_check (by decide +kernel), by decide +kernel, by decide +kernel, by decide +kernel⟩
  all_goals decide +kernel

theorem witness_ChunksAndLegs : (mach (b18 2)).issuer = some (w18 2) ∧ (w18 2).ig.handler = true ∧ (w18 2).g.trap = some (trapCtx 2) ∧
    (mach { b1 with chunk := some 4 }).issuer = some (who { b1 with chunk := some 4 } (ig 5)) ∧
    (w1.g.sreg 4).toNat < (4 : Word).toNat ∧ s1.issuer = some w1 ∧ w1.ig.handler = false ∧ w1.b.chunk = none ∧ w1.b.halt = none ∧
    (mach { b1 with halt := some 3 }).issuer = some (who { b1 with halt := some 3 } (ig 5)) ∧ (3 : Word).toNat ≤ (w1.g.sreg 4).toNat ∧
    (s1.ctx w1.b.ctx).domain = none ∧ (inDom false s1).issuer = some w1 ∧ ((inDom false s1).ctx w1.b.ctx).domain = some 7 ∧
    (inDom false s1).domain? 7 = some (dom false) ∧ (dom false).stopped = false ∧ (dom false).pending = false := by
  refine ⟨rfl, rfl, rfl, rfl, ?_, rfl, rfl, rfl, rfl, rfl, ?_, rfl, rfl, rfl, rfl, rfl, ?_⟩ <;> decide +kernel

/-- A machine that fetches WAYMARK S20, 2 granules, in a bundle that ends in NEXT, with a writable page and a waymark area at 0x8000. -/
def b19 : Block := { b2 with nodeRec := { b1.nodeRec with wmbase := 0x8000, kern := { b1.nodeRec.kern with wmgrp := 4096, wmsize := 16384 } } }
def s19 : State := { machPage 0 b19 with
  mem := Memory.writeN [] 0x1000 (leBytes 8 0x8000000000000000 ++ leBytes 8 0 ++ leBytes 8 0x0007000000000000 ++ leBytes 8 0x0017000000000000) }
def w19 : Who := who b19 (ig 0xFFFFFFFF)

theorem witness_WaymarkPassesOrParks : (mach (b18 2)).issuer = some (w18 2) ∧ (w18 2).ig.handler = true ∧
    s19.issuer = some w19 ∧ w19.ig.handler = false ∧ s19.wayCheck w19 20 2 = none ∧ (inDom true s19).wayCheck w19 20 2 = none ∧
    w19.g.igs = [w19.ig] ∧ w19.ig.wait = .none ∧
    (inDom true s19).issuer = some w19 ∧ s19.sealPending w19.b.ctx = false ∧ (inDom true s19).sealPending w19.b.ctx = true ∧
    w19.b.cmds = [] ∧ w19.g.ops = [] ∧ (∀ x ∈ w19.b.tags, x.2.fault = false) ∧ w19.b.wayDiffers w19.g 20 = false ∧
    ∀ l, l < 32 → (w19.g.thread l).live = true → w19.ig.mask.getLsbD l = true := by
  refine ⟨rfl, rfl, rfl, rfl, ?_, ?_, rfl, rfl, rfl, ?_, ?_, rfl, rfl, ?_, ?_, ?_⟩ <;> decide +kernel

/-- A machine whose partition 0 has 124 granules in four other groups, so that two of its 128 are left. -/
def crowd : Block := { probeBlock false with
  groups := [{ grp (ig 1) with allot := 32 }, { grp (ig 1) with idx := 1, allot := 32 }, { grp (ig 1) with idx := 2, allot := 32 },
    { grp (ig 1) with idx := 3, allot := 28 }] }
def crowded : State :=
  { s2 with cores := [(0, { slots := [(0, b2), (1, crowd)], parts := [{ cur := some (0, 0, 1) }, {}, {}, {}] })] }

theorem witness_AllotmentsChange : (mach (b18 2)).issuer = some (w18 2) ∧ (w18 2).ig.handler = true ∧
    s2.issuer = some w2 ∧ w2.ig.handler = false ∧ 32 < w2.g.allot + (31 : BitVec 5).toNat ∧ w2.g.allot ≤ (2 : BitVec 5).toNat ∧
    w2.g.igs = [w2.ig] ∧ Calm w2 s2 ∧ (∀ l, l < 32 → (w2.g.thread l).live = true → w2.ig.mask.getLsbD l = true) ∧
    w2.ig.wait = .none ∧ w2.g.allot + (30 : BitVec 5).toNat ≤ 32 ∧ s2.partUsed w2.core w2.g.part + (30 : BitVec 5).toNat ≤ 128 ∧
    (1 : BitVec 5).toNat < w2.g.allot ∧
    crowded.issuer = some w2 ∧ Calm w2 crowded ∧ crowded.partUsed w2.core w2.g.part + (2 : BitVec 5).toNat ≤ 128 ∧
    128 < crowded.partUsed w2.core w2.g.part + (3 : BitVec 5).toNat ∧
    ∃ slot b j, (slot ≠ w2.slot ∨ j ≠ w2.grp) ∧ crowded.block w2.core slot = some b ∧ j < b.groups.length ∧
      (b.group j).part = w2.part ∧ (b.group j).here = true ∧ (b.group j).liveMask ≠ 0 := by
  refine ⟨rfl, rfl, rfl, rfl, ?_, ?_, rfl, ⟨rfl, ?_⟩, ?_, rfl, ?_, ?_, ?_, rfl, ⟨rfl, ?_⟩, ?_, ?_, 1, crowd, 0, Or.inl (by decide), rfl,
    ?_, rfl, ?_, ?_⟩ <;> decide +kernel

/-- The same machine with another word, or pair, in S4, a page of device memory and one of host memory, a core of this package behind
entry 5, and a route to package 1. -/
def bLoc (lo hi : Word) : Block := { b16 with groups := b16.groups.map fun g => { g with s := [(4, lo), (5, hi)] } }
def sLoc (lo hi : Word) : State :=
  { machMan (bLoc lo hi) with
    ctxs := [(0, { state := .live, manlen := 8, manifest := [(3, allowed ||| BitVec.ofNat 256 (2 ^ 84)), (5, BitVec.ofNat 256 0x7F), (6, home)] })]
    cores := [(0, { slots := [(0, bLoc lo hi)], tlb := [page 0, { page 0 with va := 65536, tgt := 1 }], parts := [{ cur := some (0, 0, 1) }, {}, {}, {}] })] }
def wLoc (lo hi : Word) : Who := who (bLoc lo hi) (ig 5)
def routed : State := { sLoc 3 0 with ports := [(0, { state := .up })], routes := [(1, 0x80000000)] }
def walkTo (s : State) (w : Who) : Walked :=
  s.lookupLast (s.lastPage w.core w.g.part (lowest (w.active h0.g))) w.core w.b.ctx (w.g.readS 4 true).toNat

theorem witness_LocalityQuery :
    (∀ x ∈ ([(3, 0), (768, 0), (65536, 0), (0x20000, 0), (0, 0x100000), (7, 0), (5, 0), (6, 0)] : List (Word × Word)),
      (sLoc x.1 x.2).issuer = some (wLoc x.1 x.2) ∧ (wLoc x.1 x.2).active h0.g ≠ 0) ∧
    ((wLoc 3 0).g.sreg 4).toNat < (sLoc 3 0).sys.liveCount ∧ (sLoc 768 0).sys.liveCount ≤ ((wLoc 768 0).g.sreg 4).toNat ∧
    walkTo (sLoc 3 0) (wLoc 3 0) = .leaf (page 0) ∧ walkTo (sLoc 65536 0) (wLoc 65536 0) = .leaf { page 0 with va := 65536, tgt := 1 } ∧
    walkTo (sLoc 0x20000 0) (wLoc 0x20000 0) = .absent ∧ 2 ^ 52 ≤ ((wLoc 0 0x100000).g.readS 4 true).toNat ∧
    256 ≤ ((wLoc 768 0).g.sreg 4).toNat ∧ (sLoc 7 0).entry 0 7 = none ∧
    (∃ e, (sLoc 3 0).entry 0 3 = some e ∧ e.pkg ≠ (sLoc 3 0).sys.pkg.toNat ∧ (sLoc 3 0).routeInUse e.pkg = none ∧
      routed.routeInUse e.pkg = some 0x80000000) ∧
    (∃ e, (sLoc 5 0).entry 0 5 = some e ∧ e.pkg = (sLoc 5 0).sys.pkg.toNat ∧ e.isCore = true ∧ e.unit < (sLoc 5 0).sys.liveCount) ∧
    ∃ e, (sLoc 6 0).entry 0 6 = some e ∧ e.pkg = (sLoc 6 0).sys.pkg.toNat ∧ e.isCore = false := by
  refine ⟨fun x h => ?_, ?_, ?_, ?_, ?_, ?_, ?_, ?_, ?_, ⟨_, rfl, ?_, ?_, ?_⟩, ⟨_, rfl, ?_, ?_, ?_⟩, _, rfl, ?_, ?_⟩
  · fin_cases h <;> exact ⟨rfl, by decide +kernel⟩
  all_goals decide +kernel

/-- A context whose queue 0 is on, with and without 16 launched itineraries that have not completed. -/
def launchedItin (n : Nat) : Itin :=
  { id := n, ctx := 0, queue := 0, launched := true, addr := 0, crec := 0, prio := 0, hold := false, holdbuf := 0, released := false
    heldPosted := false, nodes := [probeNode false], retired := [], placed := [], cores := [0], stolen := [], admittedAt := 0, leg := 0 }
def queueOn (n : Nat) : State :=
  { s1 with ctxs := [(0, { state := .live, queues := [(0, { en := true })] })], itins := (List.range n).map launchedItin }

theorem witness_LaunchAndPriority : (mach (b18 2)).issuer = some (w18 2) ∧ (w18 2).ig.handler = true ∧
    s1.issuer = some w1 ∧ w1.ig.handler = false ∧ (w1.g.sreg 4).toNat % 64 ≠ 0 ∧ 15 < (w1.g.sreg 12).toNat ∧
    (w1.g.sreg 12).toNat % 64 = 0 ∧ (w1.g.sreg 0).toNat ≤ 15 ∧ (w1.g.sreg 12).toNat + 64 ≤ w1.b.locSize ∧ Quiet w1 s1 ∧
    (∀ l, ∀ id ∈ (w1.g.thread l).known, s1.unperformed id = false) ∧
    (KMap.get ({} : Queue) (s1.ctx w1.b.ctx).queues 0).en = false ∧
    (queueOn 0).issuer = some w1 ∧ Quiet w1 (queueOn 0) ∧ (KMap.get ({} : Queue) ((queueOn 0).ctx w1.b.ctx).queues 0).en = true ∧
    (queueOn 16).issuer = some w1 ∧ Quiet w1 (queueOn 16) ∧
    2 ^ (KMap.get ({} : Queue) ((queueOn 16).ctx w1.b.ctx).queues 0).log2n.toNat ≤ (queueOn 16).launched w1.b.ctx 0 ∧
    w1.b.submitPrio < (w1.g.sreg 4).toNat ∧ (w1.g.sreg 0).toNat ≤ w1.b.submitPrio := by
  refine ⟨rfl, rfl, rfl, rfl, ?_, ?_, ?_, ?_, ?_, quietOf rfl rfl rfl (by decide +kernel), ?_, rfl, rfl, quietOf rfl rfl rfl (by decide +kernel), rfl,
    rfl, quietOf rfl rfl rfl (by decide +kernel), ?_, ?_, ?_⟩ <;> try decide +kernel
  exact fun l => ofThreads (P := fun t => ∀ id ∈ t.known, s1.unperformed id = false) (by decide) (by decide +kernel) l

theorem witness_ReturnsFromTraps : s1.issuer = some w1 ∧ w1.ig.handler = false ∧
    (∀ c ∈ ([1, 2, 3, 19] : List (BitVec 6)), (mach (b18 c)).issuer = some (w18 c) ∧ (w18 c).ig.handler = true ∧
      (w18 c).g.trap = some (trapCtx c) ∧ (trapCtx c).record.cause = c) := by
  refine ⟨rfl, rfl, fun c h => ?_⟩
  fin_cases h <;> exact ⟨rfl, rfl, rfl, rfl⟩

theorem witness_ControlRegisters : s1.issuer = some w1 ∧ w1.active h0.g ≠ 0 ∧ w1.ig.handler = false ∧
    (mach (b18 14)).issuer = some (w18 14) ∧ (w18 14).active h0.g ≠ 0 ∧ (w18 14).ig.handler = true ∧
    (w18 14).g.trap = some (trapCtx 14) ∧
    (∀ x ∈ [0, 4, 0x4000, 0xC034, 0x8004], x < 2 ^ 16 ∧ x % 8 ≤ 4 ∧ x / 2 ^ 3 % 2 = 0 ∧ x / 2 ^ 6 % 16 = 0 ∧ x / 2 ^ 10 % 32 ≤ 16) ∧
    ∀ x ∈ [5, 8, 0x40, 0x200, 0x4400, 0x10000], ¬ (x < 2 ^ 16 ∧ x % 8 ≤ 4 ∧ x / 2 ^ 3 % 2 = 0 ∧ x / 2 ^ 6 % 16 = 0 ∧
      x / 2 ^ 10 % 32 ≤ 16) := by
  refine ⟨rfl, ?_, rfl, rfl, ?_, rfl, rfl, ?_, ?_⟩ <;> decide +kernel

theorem witness_TrapRecordWords : s1.issuer = some w1 ∧ w1.active h0.g ≠ 0 ∧ w1.ig.handler = false ∧
    (mach (b18 8)).issuer = some (w18 8) ∧ (w18 8).active h0.g ≠ 0 ∧ (w18 8).ig.handler = true ∧ (w18 8).g.trap = some (trapCtx 8) := by
  refine ⟨rfl, ?_, rfl, rfl, ?_, rfl, rfl⟩ <;> decide +kernel

/-! ### Events of a core and its engines -/

/-- A group with a result and a trap that wait, and one that is held at GROW. -/
def igTrap : IGroup := { ig 5 with trap := some { cause := 14 } }
def b20 : Block := blk { grp igTrap with results := [{ id := 4, tok := some 1 }] }
def igGrow : IGroup := { ig 0xFFFFFFFF with wait := .grow true 3 }
def b21 : Block := blk (grp igGrow)
def igClk : IGroup := { ig 5 with wait := .clk 7 false }
def b22 : Block := blk (grp igClk)

theorem witness_CoreSteps_groups : (mach b20).block 0 0 = some b20 ∧
    (b20.group 0).results.find? (fun x => x.id == 4) = some { id := 4, tok := some 1 } ∧
    (mach b20).whoOf 0 0 0 1 = some (who b20 igTrap) ∧ ((mach b20).ctx b20.ctx).state = .live ∧
    (who b20 igTrap).trapDue = some { cause := 14 } ∧
    (mach b21).block 0 0 = some b21 ∧ (b21.group 0).igs ≠ [] ∧ (b21.group 0).idx = 0 ∧ (b21.group 0).part = 0 ∧
    (b21.group 0).here = true ∧ (∀ x ∈ (b21.group 0).igs, x.wait = .grow true 3) ∧
    (b21.group 0).allAt (fun x => x == .grow true 3) = true ∧ (mach b21).partUsed 0 0 + 3 ≤ 128 ∧
    (∀ x ∈ (mach b21).partGroups 0 0, x.2.growHeld.isSome → x.1 = 0 ∧ x.2.idx = 0) ∧
    ({ mach b22 with clock := 7 } : State).whoOf 0 0 0 1 = some (who b22 igClk) ∧ igClk.wait = .clk 7 false ∧
    ({ mach b22 with clock := 7 } : State).draining b22.ctx = false := by
  refine ⟨rfl, rfl, rfl, rfl, rfl, rfl, ?_, rfl, rfl, rfl, ?_, ?_, ?_, ?_, rfl, rfl, rfl⟩ <;> decide +kernel

/-- Five groups of one partition that leave it two granules, all held at a GROW of three; the fourth of slot 1 has entered last. -/
def heldGrow (i a since : Nat) : Group := { grp { igGrow with since := since } with idx := i, allot := a }
def stuck : State :=
  { s2 with cores := [(0, {
      slots := [(0, blk (heldGrow 0 2 5)), (1, { probeBlock false with groups := [heldGrow 0 32 1, heldGrow 1 32 2, heldGrow 2 32 3, heldGrow 3 28 9] })]
      parts := [{}, {}, {}, {}] })] }

theorem witness_CoreSteps_stuck : (1, heldGrow 3 28 9) ∈ stuck.partGroups 0 0 ∧
    (∀ y ∈ stuck.partGroups 0 0, y.2.growHeld.isSome = true ∧ stuck.canGrant 0 0 y.2 = false) ∧
    (∀ y ∈ stuck.partGroups 0 0, y ≠ (1, heldGrow 3 28 9) → y.2.growHeld.getD 0 < (heldGrow 3 28 9).growHeld.getD 0) ∧
    ((heldGrow 3 28 9).igs.find? (fun i => i.wait.gathers)).isSome = true ∧ (stuck.whoOf 0 1 3 1).isSome = true := by
  refine ⟨?_, ?_, ?_, ?_, ?_⟩ <;> decide +kernel

/-- A queued store to device memory and one to local memory, an invalidation on its way and one that has arrived, contributions to a
word, and a write held at its home. -/
def toDev : Store :=
  { id := 9, who := w6.agent 2, dom := .rc, scope := .dev, rel := false, place := .glob (.dev 64), work := .bytes [(1, 255)], after := []
    lanes := 4, irrev := false, leg := 0, pc := 0, node := 0, block := 0 }
def toLoc : Store := { toDev with id := 10, place := .loc 0 0xFFF8 }
def busy : State := { s6 with
  clock := 5000
  homeHeld := [{ dom := 0, store := toDev }]
  cores := s6.cores.map fun x => (x.1, { x.2 with
    stores := [toDev, toLoc] })
  l1s := [(0, {
    sectors := [(2, { bytes := [], stamp := 0, marks := [] })]
    invs := [{ id := 1, store := 7, sector := 2, src := w6.agent 0, arrived := none, applied := [] },
      { id := 2, store := 8, sector := 2, src := w6.agent 0, arrived := some 904, applied := [.sc, .tso] }] })] }
def requests : State := { busy with
  cores := s6.cores.map fun x => (x.1, { x.2 with
    stores := [{ toLoc with req := 4 }, { toLoc with id := 11, req := 4, place := .loc 0 0xFFFC }] }) }
def merging : State := { s6 with cu := [{ pa := 64, op := .add, ty := .i32, parts := [1, 2] }] }

theorem leaves : Leaves busy toDev 64 [(1, 255)] :=
  ⟨rfl, rfl, ⟨rfl, rfl⟩, by decide +kernel, by decide +kernel, (fun d h => by cases h), rfl, fun h => by cases h⟩

theorem witness_CoreSteps_stores : (busy.core 0).stores.find? (fun x => x.id == 9) = some toDev ∧ toDev.who.core = 0 ∧
    Leaves busy toDev 64 [(1, 255)] ∧ (busy.core 0).stores.find? (fun x => x.id == 10) = some toLoc ∧ toLoc.place = .loc 0 0xFFF8 ∧
    busy.mayLeave 0 toLoc = true ∧ busy.block 0 0 = some b6 ∧ b6.gen = toLoc.who.gen ∧
    ((busy.l1 0).invs[0]?.map (·.arrived)) = some none ∧ ((busy.l1 0).invs[1]?.map (·.arrived)) = some (some 904) ∧
    904 + 4096 ≤ busy.clock ∧ (.rc : Dom) ∉ ([.sc, .tso] : List Dom) ∧
    (∃ e, (requests.core 0).stores.find? (fun x => x.id == 10) = some e ∧ e.req = 4 ∧ e.place.isLoc = true ∧
      ∀ r ∈ (requests.core 0).stores.filter (fun x => x.req == e.req), r.place.isLoc = true ∧ r.after = [] ∧ b6.gen = r.who.gen ∧
        ∀ x ∈ requests.pendingStores 0, x.id < r.id → (∀ y ∈ (requests.core 0).stores.filter (fun x => x.req == e.req), y.id ≠ x.id) →
          mustPrecede x r = false) ∧
    (busy.homeHeld[0]?.map (·.store)) = some toDev ∧ (merging.cu[0]?.map (·.parts)) = some [1, 2] :=
  ⟨rfl, rfl, leaves, rfl, rfl, by decide +kernel, rfl, rfl, rfl, rfl, by decide, by decide, ⟨_, rfl, rfl, rfl, by decide +kernel⟩, rfl, rfl⟩

/-- A block with one command. -/
def cmdOf (op : CmdOp) : Cmd := { zeroing 1 with op := op }
def blkCmd (op : CmdOp) : Block := { b10 with cmds := [cmdOf op], nextCmd := 2, tags := [(5, { count := 1 })] }
def tile2 : TileCfg := { fmt := 1, rows := 16, rowb := 64 }
def mma : Mma := { z := false, ta := 2, tb := 2, ca := tile2, cb := tile2, abase := 0, next := 0, desc := 0 }
def shape0 : Shape :=
  { ord := false, coll := false, nofill := false, geom := false, fmt := 1, toTensor := false, dtile := true, dspace := 1, tspace := 0
    scale := 0, box := [16, 16], ext := [16, 16], stride := [1, 16], tbase := 0 }
def followOn : Block :=
  { blkCmd (.tcpy shape0 [0, 0] (.tile 2 tile2) none none (some mma)) with
    cmds := [{ cmdOf (.tcpy shape0 [0, 0] (.tile 2 tile2) none none (some mma)) with state := .landed }] }
def runOf (b : Block) : Run := ⟨0, 0, b, b.cmds.headD (zeroing 0)⟩

/-- A multiply whose MODE has every second sub-block checked, after n sub-blocks of its context. -/
def telBlock : Block :=
  { blkCmd (.tmma mma) with cmds := [{ cmdOf (.tmma mma) with mode := 0x8400 }] }
def telling (n : Nat) : State :=
  { mach telBlock with
    ctxs := [(0, { state := .live, telbase := 0x800, telLog2n := 8 })]
    cores := [(0, { slots := [(0, telBlock)], telCount := [(0, n)], parts := [{ cur := some (0, 0, 1) }, {}, {}, {}] })] }

theorem witness_EngineSteps :
    (∀ op ∈ ([.tld 2 tile2 0xFC00, .tst 2 tile2 0, .tzero 2] : List CmdOp), (mach (blkCmd op)).run? 0 0 1 = some (runOf (blkCmd op)) ∧
      (mach (blkCmd op)).mayRun (runOf (blkCmd op)) = true ∧ (runOf (blkCmd op)).c.state = .queued ∧ (runOf (blkCmd op)).c.did = [] ∧
      (runOf (blkCmd op)).c.credited = false ∧ (blkCmd op).canonical = true ∧ tile2.rows * tile2.rowb ≤ 32768 ∧
      (runOf (blkCmd op)).c.op = op) ∧
    ((mach (blkCmd (.tmma mma))).run? 0 0 1 = some (runOf (blkCmd (.tmma mma))) ∧
      (mach (blkCmd (.tmma mma))).mmaRuns (runOf (blkCmd (.tmma mma))) = true ∧ (runOf (blkCmd (.tmma mma))).c.credited = false ∧
      (runOf (blkCmd (.tmma mma))).c.mode.getLsbD 15 = false ∧ (blkCmd (.tmma mma)).canonical = true ∧ mma.elems mma.next ≠ []) ∧
    (∀ n, (telling n).run? 0 0 1 = some (runOf telBlock) ∧ (runOf telBlock).c.op = .tmma mma ∧ (runOf telBlock).c.mode.getLsbD 15 = true ∧
      (runOf telBlock).c.mode.toNat / 2 ^ 10 % 32 = 1 ∧ ((telling n).ctx telBlock.ctx).telLog2n ≠ 0 ∧
      KMap.get 0 ((telling n).core 0).telCount telBlock.ctx = n) ∧ (telling 0).mmaRuns (runOf telBlock) = true ∧
    (mach followOn).run? 0 0 1 = some (runOf followOn) ∧ (runOf followOn).c.state = .landed ∧
    (mach followOn).mayRun (runOf followOn) = true := by
  refine ⟨fun op h => ?_, ⟨rfl, ?_, rfl, ?_, ?_, ?_⟩, fun n => ⟨rfl, rfl, rfl, rfl, (by decide : (8 : BitVec 5) ≠ 0), rfl⟩, ?_, rfl, rfl, ?_⟩
  · fin_cases h <;> (refine ⟨rfl, ?_, rfl, rfl, rfl, ?_, ?_, rfl⟩ <;> decide +kernel)
  all_goals decide +kernel

/-! ### Packets -/

/-- A packet of group 0 of the block of core 0, for that block from package 0 or for another package, and where it is. -/
def pkt (op : PktOp) (pkg : BitVec 12) (bar : Option Nat) : Packet :=
  { id := 5, op := op, dom := .rc, scope := .fab, rel := false, pkg := pkg, tctx := 0, toCore := true, unit := 0, slot := 0, gen := 1
    wbase := 0, bar := bar, srcPkg := 0, srcCtx := 0, gate := 1, seq := 3, leg := 0, rdom := none, irrev := false, convoy := none, item := 0
    coll := none, after := [], srcId := 5, tags := [], issuer := { core := 0, slot := 0, gen := 1, grp := 0, node := 0, block := 0, pc := 0x1008, leg := 0 }
    entry := 3, payload := 8 }
def flight (op : PktOp) (pkg : BitVec 12) (a : PktAt) : Flight := { p := pkt op pkg none, at_ := a, who := w1.agent 0 }
def storeAll : PktOp := .store [(0, [(1, 255)]), (0xFFFF, [(2, 15)])]

/-- A machine with one flight and a block, whose ports 0 and 1 are up and lead to package 9. -/
def flying (b : Block) (f : Flight) : State :=
  { mach b with
    flights := [f], ports := [(0, { state := .up }), (1, { state := .up })], routes := [(9, 0x8000000180000000)]
    sys := { fabcfg := true } }
def irrevStore : Flight := { flight storeAll 9 .source with p := { pkt storeAll 9 none with irrev := true } }

theorem witness_PacketSteps_way :
    (let f := flight storeAll 0 .source; (flying b1 f).flight? 5 = some f ∧ f.inbound = false ∧ f.p.irrev = false ∧ f.cmd = none) ∧
    (let s := inDom false (flying b1 irrevStore); s.flight? 5 = some irrevStore ∧ (s.ctx irrevStore.p.srcCtx.toNat).domain = some 7 ∧
      irrevStore.p.after.any s.unperformed = false ∧ s.convoySent irrevStore.p = true ∧
      s.holdUsed (s.packetDie irrevStore.p) + packetHold irrevStore.p < 3 * 2 ^ 20) ∧
    (let f := flight storeAll 9 (.gateway 1); let s := flying b1 f; s.flight? 5 = some f ∧ f.irrevHeld = false ∧ f.answer = none ∧
      (s.liveRoutes f.p.pkg.toNat f.inbound).head? = some (0, 0x80000000) ∧ routePort 0x80000000 = 0 ∧ f.resends < s.sys.retry) ∧
    (let f := flight storeAll 8 (.gateway 1); (flying b1 f).liveRoutes f.p.pkg.toNat false = []) ∧
    (let f := flight storeAll 9 (.gateway 1); HasRoom (flying b1 f) 0 f.p) ∧
    (let f := flight storeAll 9 (.gateway 1); let s : State := { flying b1 f with
        sys := { encreq := true }, ports := [(0, { state := .up, tx := { cur := some ⟨1, 1⟩, ctr := 2 ^ 48 - 1 } })] }
      s.sys.encreq = true ∧ (s.port 0).tx.next = none ∧ (s.port 0).tx.cur = some ⟨1, 1⟩ ∧ (s.liveRoutes 9 false).head? = some (0, 0x80000000) ∧
      2 ^ 48 - 2 < (s.port 0).tx.ctr) ∧
    (let f := flight storeAll 9 (.link 0 0); (flying b1 f).time < f.sentAt + usec (flying b1 f).sys.cto ∧
      let s : State := { flying b1 f with time := usec 20 }
      f.sentAt + usec s.sys.cto ≤ s.time ∧ f.resends < s.sys.retry ∧ HasRoom s 1 f.p) ∧
    (let s : State := { routes := [(9, 0x80000001C0000450)] }; let r := (KMap.get (0 : Route) s.routes 9).toNat
      r.testBit 31 = true ∧ r % 16 = 0 ∧ r.testBit 30 = true) ∧
    (let f := { flight storeAll 9 (.link 0 0) with resends := 4 }; (flying b1 f).flight? 5 = some f ∧ (flying b1 f).sys.retry ≤ f.resends) ∧
    (let p := { pkt storeAll 0 none with srcPkg := 3 }; let s := flying b1 (flight storeAll 9 .away)
      s.sys.fabcfg = true ∧ 1 < 16 ∧ ((s.port 1).state = .up ∨ (s.port 1).state = .held) ∧ p.pkg = s.sys.pkg ∧ s.seqRepeats 0 p = false ∧ s.dropsLeg p = false ∧ s.sys.encreq = false ∧
      ({ s with accepted := [(0, 3, 1, [3])] } : State).seqRepeats 0 p = true) := by
  refine ⟨⟨rfl, rfl, rfl, rfl⟩, ⟨rfl, rfl, ?_, ?_, ?_⟩, ⟨rfl, rfl, rfl, ?_, ?_, ?_⟩, ?_, Or.inl rfl, ?_, ⟨?_, ?_, ?_, Or.inl rfl⟩, ?_, ⟨rfl, ?_⟩,
    ⟨rfl, ?_, Or.inl rfl, ?_, ?_, ?_, rfl, ?_⟩⟩ <;> decide +kernel

theorem witness_PacketSteps_target :
    (let f := flight storeAll 0 .target; AtDoor (flying b1 f) 5 f ∧ isReserve f.p.op = false ∧
      (flying b1 f).coreEnd f.p = .ok (.block 0 0 b1) ∧ (b1.arriveAt f.p).toOption.isSome = true) ∧
    (let f := { flight storeAll 0 .target with p := { pkt storeAll 0 none with gen := 2 } }; AtDoor (flying b1 f) 5 f ∧
      ∃ e, (flying b1 f).coreEnd f.p = .error e) ∧
    (let f := flight (.reserve 65) 0 .target; AtDoor (flying b17 f) 5 f ∧ (flying b17 f).coreEnd f.p = .ok (.block 0 0 b17) ∧
      (b17.slotrsv 65).isSome = true) ∧
    b1.serai = none ∧ (pkt storeAll 0 none).bar = none ∧
    (∀ r ∈ ([(0, [(1, 255)]), (0xFFFF, [(2, 15)])] : List (Nat × List (Byte × Byte))), r.1 + r.2.length ≤ b1.locSize) ∧
    b1.locSize < 0x10000 + ([(1, 255)] : List (Byte × Byte)).length ∧
    (mach b1).slotEnd 0 (0 : BitVec 5).toNat 1 = .ok (.block 0 0 b1) ∧ 0xFFF8 % 8 = 0 ∧ 0xFFF8 + 8 ≤ b1.locSize := by
  refine ⟨⟨⟨rfl, ⟨rfl, rfl, rfl, rfl⟩, ?_, ?_⟩, rfl, rfl, ?_⟩, ⟨⟨rfl, ⟨rfl, rfl, rfl, rfl⟩, ?_, ?_⟩, _, rfl⟩,
    ⟨⟨rfl, ⟨rfl, rfl, rfl, rfl⟩, ?_, ?_⟩, rfl, ?_⟩, rfl, rfl, ?_, ?_, rfl, ?_, ?_⟩ <;> decide +kernel

/-- The group's one operation with its packet. -/
def remOp (d : RDest) (x : Dom) : RemOp :=
  { id := 3, pkts := [(5, 5)], dest := d, result := 0, dom := x, scope := .fab, acquire := false, custody := true, lanes := 5
    threads := 5, issue := {} }
def asking (d : RDest) (x : Dom) : Block := withGroup fun g => { g with ops := [remOp d x], results := [{ id := 0, tok := some 3, remote := true }] }
def answered (op : PktOp) (a : Answer) : Flight := { flight op 9 .gone with answer := some a }

theorem asked (d : RDest) (x : Dom) (f : Flight) (hp : f.p = pkt f.p.op 9 none) (hi : f.inbound = false) (hc : f.cmd = none) :
    Asked (flying (asking d x) f) f 0 0 (asking d x) (remOp d x) 5 := by
  have h : f.p.issuer = (pkt f.p.op 9 none).issuer := congrArg Packet.issuer hp
  refine ⟨⟨hi, (congrArg Packet.irrev hp).trans rfl, hc⟩, ⟨?_, rfl⟩, ?_, ?_, ⟨rfl, rfl, rfl⟩, ?_⟩
  · rw [h]; rfl
  · rw [h]; rfl
  · show [(5, (5 : LaneMask))] = [(f.p.id, 5)]
    rw [congrArg Packet.id hp]; rfl
  · rw [h]; rfl

theorem witness_PacketSteps_answers :
    (let f := answered (.reserve 64) (.data (.word 0x101)); (flying (asking (.s 20) .ub) f).flight? 5 = some f ∧
      Asked (flying (asking (.s 20) .ub) f) f 0 0 (asking (.s 20) .ub) (remOp (.s 20) .ub) 5 ∧ f.answer = some (.data (.word 0x101)) ∧
      replyValues f.p.op (.word 0x101) = some [0x101]) ∧
    (let f := answered (.load [0, 8] 8) (.data (.values [1, 2])); let d : RDest := .v 14 w0 .b64 5
      Asked (flying (asking d .rc) f) f 0 0 (asking d .rc) (remOp d .rc) 5 ∧ replyValues f.p.op (.values [1, 2]) = some [1, 2] ∧
      w0.nowb = false ∧ ([1, 2] : List Dword).length = (lanesOf 5).length) ∧
    (let f := answered storeAll .ack; Asked (flying (asking .nothing .rc) f) f 0 0 (asking .nothing .rc) (remOp .nothing .rc) 5) ∧
    (let f := answered (.load [0, 8] 8) (.neg { sub := 3 }); Asked (flying (asking (.s 20) .rc) f) f 0 0 (asking (.s 20) .rc) (remOp (.s 20) .rc) 5) ∧
    (let f := answered storeAll (.neg { sub := 3 }); Asked (flying (asking .nothing .ub) f) f 0 0 (asking .nothing .ub) (remOp .nothing .ub) 5 ∧
      ((flying (asking .nothing .ub) f).ctx f.p.srcCtx.toNat).state = .live) :=
  ⟨⟨rfl, asked _ _ _ rfl rfl rfl, rfl, rfl⟩, ⟨asked _ _ _ rfl rfl rfl, rfl, rfl, by decide +kernel⟩, asked _ _ _ rfl rfl rfl,
    asked _ _ _ rfl rfl rfl, asked _ _ _ rfl rfl rfl, rfl⟩

/-! ### Ports, mailbox commands and distributors -/

theorem optOf {α : Type} {x : Option α} (d : α) (h : x.isSome = true) : x = some (x.getD d) := by
  cases x with
  | some a => rfl
  | none => cases h

/-- A machine that runs a mailbox command with arguments. -/
def running (s : State) (code : Word) (l : List Dword) : State :=
  { s with sys := { s.sys with ctrls := List.replicate 8 .ready, busy := true, cmd := code, latched := l ++ List.replicate (8 - l.length) 0 } }
def ports (p : Port) : State := { clock := 0, time := usec 10000, ports := [(15, p)], sys := { fabcfg := true, encreq := true } }
def key (n : BitVec 8) : Key := { idx := n, bits := 1 }

theorem witness_PortsAndFabric_ports : (15 : Nat) < 16 ∧
    (let s := ports { state := .up, drops := List.replicate 15 (usec 9500) };
      ((s.time :: (s.port 15).drops.filter fun t => decide (s.time < t + usec 1000)).length ≤ 16)) ∧
    (let s := ports { state := .up, drops := List.replicate 16 (usec 9500) };
      16 < (s.time :: (s.port 15).drops.filter fun t => decide (s.time < t + usec 1000)).length) ∧
    (let s := ports { state := .down, tx := { next := some (key 1) }, rx := { cur := some (key 1) } }; let y := s.port 15
      y.state = .down ∧ s.sys.fabcfg = true ∧ (s.sys.encreq = true → y.tx.keyed = true ∧ y.rx.keyed = true)) ∧
    (let s := ports { state := .up, tx := { cur := some (key 1) } }; let y := s.port 15
      y.state = .up ∧ s.sys.encreq = true ∧ y.tx.next = none ∧ y.keylow = false) ∧
    (let s := ports { state := .held, heldAt := 0 }; let y := s.port 15
      y.state = .held ∧ y.heldAt + usec (1000 * s.sys.ksto) ≤ s.time) ∧
    (let y := (ports { state := .up, tx := { next := some (key 2) }, rx := { next := some (key 3) } }).port 15;
      y.state = .up ∧ y.tx.next = some (key 2) ∧ y.rx.next = some (key 3)) := by
  decide +kernel

theorem witness_PortsAndFabric_commands :
    (let s := running {} 13 [0x1005, 1000, 8, 1000];
      s.running 13 = true ∧ s.sys.fabcfg = false ∧ s.arg 1 ≤ 1000 ∧ s.arg 2 ≤ 8 ∧ s.arg 3 ≤ 1000) ∧
    (let s := running (ports {}) 13 []; s.running 13 = true ∧ s.sys.fabcfg = true) ∧
    (let s := running {} 14 [0]; s.running 14 = true ∧ s.arg 0 = s.sys.pkg.toNat) ∧
    (let s := running {} 14 [4095, 0x8000000180000000]; s.arg 0 < 4096 ∧ s.arg 0 ≠ s.sys.pkg.toNat ∧ field (s.arg 1) 16 14 = 0 ∧
      field (s.arg 1) 48 14 = 0 ∧ ((s.arg 1).testBit 30 = false → field (s.arg 1) 4 12 = 0) ∧
      ((s.arg 1).testBit 62 = false → field (s.arg 1) 36 12 = 0)) ∧
    (let s := running (ports { tx := { next := some (key 1) } }) 15 [0x20F, 1]; s.running 15 = true ∧ 15 = s.arg 0 % 16 ∧
      0 = s.arg 0 / 16 % 2 ∧ ((s.port 15).dir 0).next.isSome = true) ∧
    (let s := running (ports { tx := { cur := some (key 1) } }) 15 [0x20F, 1]; (s.port 15).tx.next = none ∧
      ((s.port 15).tx.cur.map fun x => x.idx) ≠ some (BitVec.ofNat 8 (s.arg 0 / 256)) ∧ (s.port 15).state ≠ .held) ∧
    (let s := running (ports { state := .held, rx := { ctr := 2 ^ 48 - 2 } }) 15 [0x21F, 1]; s.running 15 = true ∧ 15 = s.arg 0 % 16 ∧
      1 = s.arg 0 / 16 % 2 ∧ (s.port 15).rx.next = none ∧ ((s.port 15).rx.cur.map fun x => x.idx) ≠ some (BitVec.ofNat 8 (s.arg 0 / 256)) ∧
      (s.port 15).state = .held ∧ ((s.port 15).dir 1).ctr = 2 ^ 48 - 2) ∧
    (let s := running (ports {}) 16 [16]; s.running 16 = true ∧ 16 ≤ s.arg 0) ∧
    (let s := running (ports {}) 17 [15, 2]; s.running 17 = true ∧ 1 < s.arg 1) ∧
    (let s := running {} 13 [0, 1001]; s.running 13 = true ∧ s.sys.fabcfg = false ∧ 1000 < s.arg 1) ∧
    (let s := running {} 14 [1, 0x10]; s.running 14 = true ∧ (s.arg 1).testBit 30 = false ∧ field (s.arg 1) 4 12 ≠ 0) ∧
    (let s := running (ports { state := .up }) 16 [15]; s.running 16 = true ∧ s.arg 0 < 16 ∧ 0 < s.sys.args.length) ∧
    (let s := running (ports { state := .up }) 17 [15, 0]; s.running 17 = true ∧ s.arg 1 = 0 ∧ (s.port (s.arg 0)).state ≠ .retired) ∧
    (let s := running (ports {}) 17 [15, 1]; s.arg 1 = 1 ∧ s.sys.encreq = true ∧ (s.port (s.arg 0)).tx.keyed = false) ∧
    (let s := running (ports { state := .retired, tx := { cur := some (key 1) }, rx := { cur := some (key 1) } }) 17 [15, 1];
      s.arg 1 = 1 ∧ (s.port (s.arg 0)).state = .retired ∧
        (s.sys.encreq = true → (s.port (s.arg 0)).tx.keyed = true ∧ (s.port (s.arg 0)).rx.keyed = true)) ∧
    (running {} 25 []).running (25 : Word).toNat = true ∧ 24 < (25 : Word).toNat ∧ (running {} 0 []).running (0 : Word).toNat = true := by
  decide +kernel

/-- What an admission reads, the bytes that are not zero: the page tables of the probe, a kernel header at virtual address 0 with its
segment entry and a region entry, a launch record of 33 threads at 0x3000, a node at 0x3040 and an itinerary of it at 0x3080. -/
def pageTables : Memory := [(0x80000, 1), (0x80002, 0x10), (0x100000, 1), (0x100001, 8), (0x100002, 0x10), (0x100800, 0x33), (0x100802, 0x20)]
def kernelBytes : Memory :=
  [(0x200000, 0x56), (0x200001, 0x4F), (0x200002, 0x49), (0x200003, 0x4E), (0x200004, 3), (0x20000C, 2), (0x20000E, 2), (0x200020, 1),
    (0x200025, 1), (0x200029, 0x10), (0x20002C, 0x20), (0x200103, 0x80), (0x201007, 0x80), (0x203010, 33)]
def itinBytes : Memory := [(0x203080, 0x49), (0x203081, 0x54), (0x203082, 0x49), (0x203083, 0x4E), (0x203088, 0x40), (0x203089, 0x30), (0x203091, 0x40)]

/-- A machine with such a memory and a host queue whose ring names the itinerary. -/
def submitting (m : Memory) : State :=
  { sys := { powered := true, ctrls := List.replicate 8 .ready }, mem := pageTables ++ m ++ itinBytes, hmem := [(0x40, 0x80), (0x41, 0x30)]
    granules := [(1, { v := true, sh := false, owner := 0, share := 0 })]
    ctxs := [(0, { state := .live, ptroot := 1, queues := [(15, { base := 1, en := true, host := true, tail := 1 })] })] }
def headTaken (s : State) : State :=
  s.modCtx 0 fun x => { x with queues := KMap.put x.queues 15 { KMap.get {} (s.ctx 0).queues 15 with head := (KMap.get {} (s.ctx 0).queues 15).head + 1 } }

/-- A node of two blocks, and one with a bit of its reserved field set. -/
def admitting : State := submitting (kernelBytes ++ [(0x203041, 0x30), (0x203048, 2)])
def badNode : State := submitting [(0x203041, 0x30), (0x203048, 2), (0x203060, 1)]
def endingCtx (s : State) : State := s.modCtx 0 fun x => { x with state := .ending }

/-- The queue of context 0 holds an entry, which names the itinerary. -/
def Submits (s : State) : Prop :=
  (s.ctx 0).state ≠ .free ∧ s.nextQueue 0 15 = true ∧
    s.ringEntry 0 (KMap.get {} (s.ctx 0).queues 15) = some 0x3080

theorem witness_DistributorSteps_admit : ∀ x ∈ ([.live, .stopped] : List CtxState), let s := admitting.modCtx 0 fun y => { y with state := x }
    Submits s ∧ (s.ctx 0).state = x ∧ ∃ t, (headTaken s).tryAdmit 0 15 0x3080 = .ok t := by
  intro x h
  fin_cases h <;> exact ⟨⟨by decide +kernel, by decide +kernel, by decide +kernel⟩, rfl, _, okOf (launchedItin 0) (by decide +kernel)⟩

theorem witness_DistributorSteps_reject : Submits badNode ∧ (badNode.ctx 0).state = .live ∧
    (headTaken badNode).tryAdmit 0 15 0x3080 = .error (0, 1) ∧ (headTaken badNode).crecOf 0 0x3080 = some 0x4000 :=
  ⟨⟨by decide +kernel, by decide +kernel, by decide +kernel⟩, rfl, by decide +kernel, by decide +kernel⟩

theorem witness_DistributorSteps_ending : Submits (endingCtx badNode) ∧ ((endingCtx badNode).ctx 0).state = .ending ∧
    (headTaken (endingCtx badNode)).crecOf 0 0x3080 = some 0x4000 :=
  ⟨⟨by decide +kernel, by decide +kernel, by decide +kernel⟩, rfl, by decide +kernel⟩

/-- A queue of the device whose ring lies where no page is. -/
def unreadable : State := (submitting []).modCtx 0 fun x => { x with queues := [(15, { base := 0x800000, en := true, tail := 1 })] }

theorem witness_DistributorSteps_stop : (unreadable.ctx 0).state ≠ .free ∧ unreadable.nextQueue 0 15 = true ∧
    unreadable.ringEntry 0 (KMap.get {} (unreadable.ctx 0).queues 15) = none := by decide +kernel

/-- An itinerary of four blocks on cores of two dies, and a package on which nothing runs. -/
def four : Itin := { launchedItin 3 with launched := false, nodes := [{ probeNode false with gx := 4 }], cores := [0, 24] }
def dispatch (t : Itin) : State := { issuing with cores := [], itins := [t], agenda := [] }
def head (s : State) : Cand := (firstBy Cand.rank (s.pool 0)).getD ⟨four, ⟨0, 0, 0⟩, ⟨0, 0, 0, 0⟩⟩
def stealing : State := dispatch { four with placed := [⟨0, 1, 0⟩, ⟨0, 3, 0⟩] }

theorem witness_DistributorSteps_place : let s := dispatch four
    firstBy Cand.rank (s.pool 0) = some (head s) ∧ (∀ y ∈ s.savedPool 0, y.rank.before (head s).rank = false) ∧
    ((head s).t.nodes[(head s).k.node]?).map (s.nodeNow (head s).t.ctx) = some { probeNode false with gx := 4 } ∧
    s.bestCore 0 (head s).t.cores (probeKernel false) ({ probeNode false with gx := 4 } : Node).allots = some (0, [0]) ∧
    s.freeSlot 0 = some 0 ∧ (head s).t.hold = false ∧ s.segEntry 0 (head s).t.ctx (probeKernel false) 0 = some 0x1000 := by
  refine ⟨optOf _ ?_, ?_, ?_, ?_, ?_, ?_, ?_⟩ <;> decide +kernel

theorem witness_DistributorSteps_steal : (stealing.pool 1).isEmpty = true ∧ (stealing.savedPool 1).isEmpty = true ∧
    (∀ d, d < 32 → d ≠ 1 → stealing.rangeLen 1 d ≤ stealing.rangeLen 1 0) ∧
    stealing.largest 1 0 = some ({ four with placed := [⟨0, 1, 0⟩, ⟨0, 3, 0⟩] }, [⟨0, 0, 0⟩, ⟨0, 2, 0⟩]) := by
  refine ⟨?_, ?_, ?_, ?_⟩ <;> decide +kernel

/-- A block whose threads have exited, alone and with its itinerary and a tag that holds a fault. -/
def gone : Block := blk { grp (ig 0) with threads := List.replicate 32 { present := true, exited := true }, igs := [] }
def goneFault : Block := { gone with tags := [(2, { fault := true, record := { cause := 8 } })] }
def itin0 : Itin := { four with id := 0, nodes := [probeNode false], placed := [⟨0, 0, 0⟩] }
def timed : State := { s1 with time := usec 10000000 + 1 }

theorem witness_DistributorSteps_ends : (mach gone).block 0 0 = some gone ∧ (gone.group 0).liveMask = 0 ∧ (gone.group 0).results = [] ∧
    (gone.group 0).place = .resident ∧ (mach gone).noneGather 0 ∧ (mach gone).halts = [] ∧ ((mach gone).ctx gone.ctx).state = .live ∧ (mach gone).blockDone 0 0 gone = true ∧
    gone.lateFault = none ∧ ({ mach gone with itins := [itin0] } : State).itins.find? (fun x => x.id == gone.itin) = some itin0 ∧
    ({ itin0 with retired := [(gone.task, 0)] } : Itin).finished = true ∧
    ({ four with retired := [(gone.task, 0)] } : Itin).finished = false ∧
    (mach goneFault).block 0 0 = some goneFault ∧ (mach goneFault).blockDone 0 0 goneFault = true ∧
    goneFault.lateFault = some { cause := 8, iret := true } ∧
    ((endingCtx s1).ctx b1.ctx).state = .ending ∧ (endingCtx s1).blockIdle 0 0 b1 = true ∧
    timed.block 0 0 = some b1 ∧ ((timed.ctx b1.ctx).state = .live ∨ (timed.ctx b1.ctx).state = .stopped) ∧ (timed.ctx b1.ctx).wdog.toNat ≠ 0 ∧ b1.since + usec (1000 * (timed.ctx b1.ctx).wdog.toNat) < timed.time ∧
    b1.firstRunning = some (grp (ig 5), ig 5) ∧ timed.whoOf 0 0 0 1 = some w1 ∧
    ({ endingCtx s1 with cores := [] } : State).ctxIdle 0 = true := by
  refine ⟨rfl, ?_, rfl, rfl, ?_, rfl, rfl, ?_, rfl, rfl, ?_, ?_, rfl, ?_, rfl, ?_, ?_, rfl, Or.inl rfl, ?_, ?_, ?_, rfl, ?_⟩ <;> decide +kernel

/-- The same in a stopped context, and a block that its watchdog finds with no thread that runs. -/
theorem witness_DistributorSteps_stopped : let s := (mach gone).modCtx 0 fun x => { x with state := .stopped }
    s.block 0 0 = some gone ∧ (s.ctx gone.ctx).state = .stopped ∧ s.blockDone 0 0 gone = true ∧ s.noneGather 0 ∧ s.halts = [] ∧
    let t : State := { mach gone with time := usec 10000000 + 1 }
    t.block 0 0 = some gone ∧ (t.ctx gone.ctx).wdog.toNat ≠ 0 ∧ gone.since + usec (1000 * (t.ctx gone.ctx).wdog.toNat) < t.time ∧
      gone.firstRunning.isNone = true := by
  refine ⟨rfl, rfl, ?_, ?_, rfl, rfl, ?_, ?_, ?_⟩ <;> decide +kernel

theorem witness_DistributorSteps_release :
    let held := { itin0 with hold := true }
    (running { s1 with itins := [held] } 9 [0, 0]).running 9 = true ∧
    ((running { s1 with itins := [held] } 9 [0, 0]).itins.find? (fun t =>
      t.addr == (running { s1 with itins := [held] } 9 [0, 0]).arg 0 && t.ctx == (running { s1 with itins := [held] } 9 [0, 0]).arg 1
        && t.hold && !t.released && !t.launched)) = some held ∧ held.allHeld = true ∧
    ({ held with placed := [] } : Itin).allHeld = false := by
  refine ⟨?_, ?_, ?_, ?_⟩ <;> decide +kernel

/-! ### Eviction and caravan halts -/

/-- A context with a save area, and a machine of it with one block and work that waits. -/
def saving (b : Block) (its : List Itin) (l : List Saved) : State :=
  { mach b with ctxs := [(0, { state := .live, ptroot := 1, savebase := 1, saveunits := 4096 })], itins := its, saved := l, time := usec 10 }

/-- A block that takes every granule of its core, and a block-task of a higher priority for that core. -/
def full : Block := { probeBlock false with
  groups := (List.range 4).map fun i => { grp (ig 1) with idx := i, part := i, allot := 128 } }
def lean : Node :=
  let n := probeNode false
  { n with kern := { n.kern with tiles := 0, acc := 0 } }
def wanting : State := saving full [{ four with cores := [0], prio := 5, nodes := [lean] }] []
def wanted : Want := ⟨5, [32], some lean.kern, [0]⟩
def evicts : Nat × List EvictGroup := match wanting.bestPlan wanted 64 [] with
  | (_, some (c, .groups l)) => (c, l)
  | _ => (0, [])

/-- The same where the context's save area has no room. -/
def noRoom : State := wanting.modCtx 0 fun x => { x with saveunits := 0 }

theorem witness_EvictionSteps_decision : wanting.want 0 = some wanted ∧
    wanting.bestPlan wanted 64 [] = ([], some (evicts.1, .groups evicts.2)) ∧ evicts.2 ≠ [] ∧
    noRoom.want 0 = some wanted ∧ noRoom.bestPlan wanted 64 [] = ([0], none) := by
  refine ⟨?_, ?_, ?_, ?_, ?_⟩
  · decide +kernel
  · have h : (match wanting.bestPlan wanted 64 [] with | ([], some (_, .groups _)) => true | _ => false) = true := by decide +kernel
    unfold evicts
    revert h
    generalize wanting.bestPlan wanted 64 [] = p
    intro h
    match p with
    | ([], some (_, .groups _)) => rfl
    | ([], some (_, .blocks _)) => cases h
    | ([], none) => cases h
    | (_ :: _, _) => cases h
  · decide +kernel
  · decide +kernel
  · exact Prod.ext (by decide +kernel) (Option.isNone_iff_eq_none.mp (by decide +kernel))

/-- The same where the block that waits needs the accumulator of the one that runs, which therefore leaves as a whole. -/
def wantingBlock : State := { wanting with itins := [{ four with cores := [0], prio := 5, nodes := [probeNode false] }] }
def wantedBlock : Want := ⟨5, [32], some (probeKernel false), [0]⟩

theorem witness_EvictionSteps_blocks : wantingBlock.want 0 = some wantedBlock ∧
    (match wantingBlock.bestPlan wantedBlock 64 [] with | ([], some (0, .blocks [(0, _)])) => true | _ => false) = true := by
  refine ⟨?_, ?_⟩ <;> decide +kernel

/-- A group that has been asked to stop and runs on, one that has stopped at a region entry, and a block that leaves. -/
def stopping : Block := withGroup fun g => { g with place := .stopping 0 }
def stoppedAt : Block := blk { grp { ig 5 with entered := false } with place := .stopping 0 }
def leaving : Block := { stoppedAt with leaving := true }

theorem witness_EvictionSteps_stop : (saving stopping [] []).block 0 0 = some stopping ∧ (stopping.group 0).place = .stopping 0 ∧
    0 + usec 2 ≤ (saving stopping [] []).time ∧ (stopping.group 0).trap = none ∧ (stopping.group 0).ops = [] ∧
    (∀ x ∈ (stopping.group 0).igs, x.stands = false) ∧
    (stoppedAt.group 0).stopped = true ∧ stoppedAt.leaving = false ∧ (saving stoppedAt [] []).noneGather 0 ∧
    ((saving stoppedAt [] []).imageAt 0 (stoppedAt.imageSize false [0])).isSome = true ∧
    leaving.leaving = true ∧ leaving.quiet = true ∧ leaving.cmdsStopped = true ∧ (saving leaving [] []).pendingStores 0 = [] ∧
    (saving leaving [] []).noneGather 0 ∧
    ((saving leaving [] []).imageAt 0 (leaving.imageSize true (leaving.groups.map fun g => g.idx))).isSome = true ∧
    ((saving leaving [] []).core 0).absent.length < 64 := by
  refine ⟨rfl, rfl, ?_, rfl, rfl, ?_, ?_, rfl, ?_, ?_, rfl, ?_, ?_, rfl, ?_, ?_, ?_⟩ <;> decide +kernel

/-- A block saved whole, for any slot and, after a rollback, for its own. -/
def savedBlock (fixed : Bool) : Saved :=
  { core := 0, slot := 3, gen := 1, ctx := 0, image := 65536, whole := true, groups := [0], blk := b1, at_ := 0, fixed := fixed }
def restoring (fixed : Bool) : State :=
  let s := saving b1 [] [savedBlock fixed]
  { s with cores := [] }

theorem witness_EvictionSteps_restore : ∀ fixed : Bool, let s := restoring fixed
    s.saved[0]? = some (savedBlock fixed) ∧ s.deviceWaits 0 = false ∧ savedBlock fixed ∈ s.savedPool (s.sys.dieOfCore 0) ∧
    (∀ y ∈ s.savedPool (s.sys.dieOfCore 0), y.rank.before (savedBlock fixed).rank = false) ∧
    (∀ y ∈ s.pool (s.sys.dieOfCore 0), y.rank.before (savedBlock fixed).rank = false) ∧
    s.accept 0 b1.nodeRec.kern (savedBlock fixed).allots = some [0] ∧ s.block 0 3 = none ∧ s.freeSlot 0 = some 0 := by
  intro fixed
  cases fixed <;> (refine ⟨rfl, rfl, ?_, ?_, ?_, ?_, rfl, ?_⟩ <;> decide +kernel)

/-- The block of slot 0 as a list names it, a block held at a CHUNK, and a machine whose mailbox runs a command on that list. -/
def member : Dword := dw (s1.memberWord 0 0 b1.gen)
def farMember : Dword := member + 5
def heldIg : IGroup := { ig 5 with wait := .chunk }
def heldBlock : Block :=
  let b := withGroup fun g => { g with igs := [heldIg] }
  { b with halt := some 1 }
def halt (complete : Bool) : Halt := { ctx := 0, members := [member], chunk := some 1, waiting := false, complete := complete }
def halting (b : Block) (hs : List Halt) (code : Word) : State :=
  running { mach b with mem := Memory.writeN [] 64 (leBytes 8 member.toNat), halts := hs } code [0, 64, 1]

theorem witness_EvictionSteps_halts :
    (((halting b1 [] 5).modCtx 0 fun x => { x with state := .stopped }).ctx 0).state ≠ .free ∧
    (let s := halting b1 [] 5;
      (s.ctx 0).state ≠ .free ∧ s.sealPending 0 = false ∧ s.halts = [] ∧ s.sys.pkg ∈ packagesOf [member] ∧ s.running 5 = true ∧
      (0 : Nat) = s.arg 0 ∧ 1 ≤ s.arg 2 ∧ s.arg 2 ≤ 64 ∧ [member] = s.memberList (s.arg 1) (s.arg 2) ∧ s.onList [member] 0 0 b1 = true ∧
      s.otherPackages [member] = [] ∧ s.otherPackages [member, farMember] = [5] ∧ s.sys.pkg ∈ packagesOf [member, farMember] ∧
      (∀ p ∈ s.otherPackages [member, farMember], p ∈ ([(5, 3)] : List (BitVec 12 × Word)).map (·.1)) ∧
      ∃ p ∈ s.otherPackages [member, farMember], p ∉ ([] : List (BitVec 12))) ∧
    (let s := halting heldBlock [halt false] 0; let h := { halt true with saving := true }
      s.halts.find? (fun x => x.is 0 [member] && x.chunk.isSome && (!x.complete || x.saving)) = some (halt false) ∧
      (∀ x ∈ s.memberBlocks 0 [member], x.2.2.haltHeld = true) ∧ (∀ p ∈ s.otherPackages [member], p ∈ ([] : List (BitVec 12))) ∧
      (∃ k ∈ s.cores, ∃ y ∈ k.2.slots, y.2.ctx = 0 ∧ s.onList [member] k.1 y.1 y.2 = true) ∧
      ({ s with halts := [h] } : State).halts.find? (fun x => x.is 0 [member] && x.chunk.isSome && (!x.complete || x.saving)) = some h ∧
      ¬ ∃ k ∈ ({ s with cores := [] } : State).cores, ∃ y ∈ k.2.slots, y.2.ctx = 0 ∧ s.onList [member] k.1 y.1 y.2 = true) ∧
    (let s := halting heldBlock [halt true] 6;
      s.running 6 = true ∧ s.sys.pkg ∈ packagesOf [member] ∧ s.arg 0 < 64 ∧ 0 < s.arg 2 ∧ s.arg 2 ≤ 64 ∧ (s.halts.filter fun x => x.ctx == s.arg 0) = [halt true] ∧
      (halt true).complete = true ∧ (halt true).members ≠ [] ∧
      ∀ m ∈ (halt true).members, m.toNat ∈ s.namesOf (s.arg 0) (s.memberList (s.arg 1) (s.arg 2))) := by
  refine ⟨?_, ⟨?_, ?_, rfl, ?_, ?_, ?_, ?_, ?_, ?_, ?_, ?_, ?_, ?_, ?_, ?_⟩, ⟨?_, ?_, ?_, ?_, ?_, ?_⟩, ⟨?_, ?_, ?_, ?_, ?_, ?_, rfl, ?_, fun m hm => ?_⟩⟩
  case refine_29 =>
    have h : (halting heldBlock [halt true] 6).memberList ((halting heldBlock [halt true] 6).arg 1) ((halting heldBlock [halt true] 6).arg 2)
        = [member] := by decide +kernel
    exact List.mem_append_left _ (List.mem_map_of_mem (h ▸ hm))
  all_goals decide +kernel
/-! ### Seals and rollback -/

/-- A domain of packages 0 and 5 in a phase, and one of this package alone. -/
def duo (x : SealPhase) : Domain := { dom false with members := [0, 5], phase := x }
def solo (x : SealPhase) : Domain := { dom false with phase := x }

/-- A machine that is a package of the domain of its context 0, which has a save area and a block. -/
def sealing (pkg : BitVec 12) (d : Domain) (b : Block) : State :=
  let s := saving b [] []
  { s with sys := { pkg := pkg }, ctxs := [(0, { s.ctx 0 with domain := some 7 })], domains := [d], time := usec 50000 }

/-- A block whose group is held at a marked BLKSYNC. -/
def igSync : IGroup := { ig 5 with wait := .sync true }
def parkedBlock : Block := blk (grp igSync)

theorem witness_SealProtocol_begin :
    (let s := sealing 0 (dom false) b1; s.domain? 7 = some (dom false) ∧ (dom false).stopped = false ∧ (dom false).pending = false ∧
      (dom false).since + usec (1000 * (dom false).interval) ≤ s.time ∧ (dom false).coordinates s.sys.pkg = true ∧
      (dom false).phase = .idle ∧ (dom false).applying = false ∧ s.domHalting 7 = false) ∧
    (let s := running (sealing 0 (dom false) b1) 21 [7]; s.running 21 = true ∧ s.domain? 7 = some (dom false) ∧ s.arg 0 = 7) ∧
    (let s := running (sealing 0 (dom false) b1) 21 [8]; s.running 21 = true ∧ s.domain? (s.arg 0) = none) ∧
    (dom true).pending = true ∧ (duo .requested).phase = .requested ∧ (duo .idle).coordinates 5 = false ∧ (duo .idle).phase = .idle ∧
    (let s := sealing 5 (duo .prep) parkedBlock; s.domain? 7 = some (duo .prep) ∧ (duo .prep).phase = .prep ∧
      (∀ x ∈ s.domBlocks 7, x.2.2.atSeal = true) ∧ s.domBlocks 7 ≠ [] ∧ (∃ m ∈ (duo .prep).alive, m ≠ s.sys.pkg) ∧
      (∀ m ∈ (duo .prep).alive, m = s.sys.pkg ∨ m ∈ ([0] : List (BitVec 12)))) ∧
    (let s := sealing 0 (duo .prep) b1; (duo .prep).reqAt + usec (duo .prep).waitLimit ≤ s.time ∧ s.block 0 0 = some b1 ∧
      s.inDomain 7 b1.ctx = true ∧ b1.atSeal = false) ∧
    ({ dom false with stopped := true }).stopped = true ∧
    (let s : State := { sealing 5 (duo .prep) parkedBlock with halts := [halt false] }; s.domain? 7 = some (duo .prep) ∧ s.domHalting 7 = true) := by
  decide +kernel

theorem witness_SealProtocol_save :
    (let s := sealing 0 (solo .drain) gone;
      s.domain? 7 = some (solo .drain) ∧ (solo .drain).phase = .drain ∧ s.drained (solo .drain) = true ∧
      ∃ s1, s.sealBlocks (solo .drain).leg (s.domBlocks 7) = .ok s1 ∧ s1.domain? 7 = some (solo .drain)) ∧
    (let s := sealing 0 (solo .drain) parkedBlock;
      s.block 0 0 = some parkedBlock ∧ (∃ g ∈ parkedBlock.groups, g.liveMask ≠ 0) ∧ parkedBlock.allWay = false ∧
      s.imageAt parkedBlock.ctx (parkedBlock.imageSize true (parkedBlock.groups.map fun g => g.idx)) = some 65536) ∧
    (let s := inDom false (mach parkedBlock);
      s.drained (solo .drain) = true ∧ s.sealBlocks (solo .drain).leg (s.domBlocks 7) = .error 0) := by
  refine ⟨⟨rfl, rfl, ?_, _, rfl, rfl⟩, ⟨rfl, ?_, ?_, ?_⟩, ?_, rfl⟩ <;> decide +kernel

/-- The same domain as its coordinator has it while members answer, and once one or two have been lost. -/
def readyDuo : Domain := { duo .saved with ready := [0, 5] }
def applyingDuo (l : List (BitVec 12)) : Domain := { duo .idle with applying := true, acked := l }
def lostTrio : Domain := { duo .drain with members := [0, 5, 9], lost := [0] }

/-- It has applied the cut of leg 2, and its partner has been heard. -/
def appliedDuo (m : BitVec 12) : Domain := { duo .idle with applying := true, lastCut := 2, acked := [m] }
def heardDuo : Domain := { duo .drain with heard := [(5, 1)] }

/-- A domain of three packages, as the third sees it: in a seal, with its own request, and with nothing of either. -/
def trio (x : SealPhase) (wanted : Bool) : Domain := { dom wanted with members := [0, 5, 9], phase := x }

/-- What a package makes of the silence of a member. -/
abbrev judges (pkg m : BitVec 12) (d : Domain) : Prop :=
  d.sealing pkg = true ∨ d.mayBeSealing = true ∧ d.coordinates pkg = false ∧ m ∈ d.members.take 2

theorem witness_SealProtocol_silence : ¬ judges 0 5 (duo .idle) ∧ ¬ judges 9 0 (trio .idle false) ∧
    (judges 9 0 (trio .drain false) ∧ (trio .drain false).members.head? = some 0 ∧ (trio .drain false).witness ≠ some 9) ∧
    (judges 9 5 (trio .idle true) ∧ (trio .idle true).members.head? ≠ some 5 ∧ (trio .idle true).sealing 9 = false ∧
      ∃ k ∈ (trio .idle true).members.take 2, k ≠ 5 ∧ k ∉ (trio .idle true).lost) ∧
    (judges 9 5 (trio .saved false) ∧ (trio .saved false).members.head? ≠ some 5 ∧ (trio .saved false).sealing 9 = true) ∧
    (judges 5 0 (duo .drain) ∧ (duo .drain).members.head? = some 0 ∧ (duo .drain).witness = some 5 ∧ (duo .drain).phase ≠ .committed ∧
      (duo .drain).phase ≠ .idle) ∧
    (judges 5 0 (appliedDuo 5) ∧ (appliedDuo 5).witness = some 5 ∧ (appliedDuo 5).phase = .idle ∧ (appliedDuo 5).applying = true) ∧
    judges 5 0 (duo .committed) ∧ judges 0 5 (duo .drain) := by
  unfold judges
  refine ⟨?_, ?_, ?_, ?_, ?_, ?_, ?_, ?_, ?_⟩ <;> decide +kernel

theorem witness_SealProtocol_cut :
    ((duo .saved).stopped = false ∧ (duo .saved).coordinates 0 = true ∧ (duo .saved).phase = .saved) ∧
    (0 ∈ (duo .saved).alive ∧ 0 ∉ (duo .saved).ready ∧ ∃ k ∈ (duo .saved).alive, k ∉ (duo .saved).ready ++ [0]) ∧
    (0 ∈ (solo .saved).alive ∧ 0 ∉ (solo .saved).ready ∧ ∀ k ∈ (solo .saved).alive, k ∈ (solo .saved).ready ++ [0]) ∧
    ((duo .saved).witness = some 5 ∧ ∀ k ∈ readyDuo.alive, k ∈ readyDuo.ready) ∧
    (sealing 0 (duo .committed) b1).domain? 7 = some (duo .committed) ∧
    (0 ∈ (applyingDuo []).alive ∧ 0 ∉ (applyingDuo []).acked ∧ ∃ k ∈ (applyingDuo []).alive, k ∉ (applyingDuo []).acked ++ [0]) ∧
    (5 ∈ (applyingDuo [0]).alive ∧ 5 ∉ (applyingDuo [0]).acked ∧ ∀ k ∈ (applyingDuo [0]).alive, k ∈ (applyingDuo [0]).acked ++ [5]) ∧
    ((duo .drain).phase ≠ .idle ∧ (duo .drain).stopped = false ∧ (5 : BitVec 12) ≠ 0 ∧ 5 ∈ (duo .drain).alive ∧
      2 ≤ (duo .drain).members.length ∧ (∃ k ∈ (duo .drain).members.take 2, k ≠ 5 ∧ k ∉ (duo .drain).lost) ∧
      (duo .drain).members.head? ≠ some 5) ∧
    (0 ∈ (duo .committed).alive ∧ (∃ k ∈ (duo .committed).members.take 2, k ≠ 0 ∧ k ∉ (duo .committed).lost) ∧
      (duo .committed).members.head? = some 0 ∧ (duo .committed).witness = some 5 ∧ (duo .committed).phase = .committed ∧
      (duo .committed).witness ≠ some 9) ∧
    (5 ∈ lostTrio.alive ∧ ∀ k ∈ lostTrio.members.take 2, k = 5 ∨ k ∈ lostTrio.lost) ∧
    ((appliedDuo 5).witness = some 5 ∧ (2 : Word) ≠ 0 ∧ 2 = (appliedDuo 5).lastCut ∧ 2 ≠ (appliedDuo 5).leg ∧
      (appliedDuo 5).applying = true ∧ (appliedDuo 5).phase = .idle ∧ 0 ∈ (appliedDuo 5).alive) ∧
    ((duo .drain).sealAt + usec 50000 ≤ (sealing 0 (duo .drain) b1).time ∧
      (sealing 0 (duo .drain) b1).time < 1 + usec 50000 ∧ (heardDuo.heard.find? fun x => x.1 == 5) = some (5, 1)) := by
  refine ⟨?_, ?_, ?_, ?_, rfl, ?_, ?_, ?_, ?_, ?_, ?_, ?_⟩ <;> decide +kernel

/-- The block in a context of a domain, whose granule 0 is the context's, with the log of a sector. -/
def entry (pa : Nat) : LogEnt := { pa := pa, old := List.replicate 64 1, dom := 7, ctx := 0, leg := 3, home := 0 }
def logging (d : Domain) : State :=
  let s := sealing 0 d b1
  { s with granules := [(0, { v := true, sh := false, owner := 0, share := 0 })], logs := [entry 128, entry 0] }
def rolling (l : List (BitVec 12)) (lost : Option Nat) : Domain := { duo .idle with stopped := true, rolling := 3, doneBy := l, overflow := lost }

theorem witness_ErrorsAndRollback_errors :
    (let s := inDom false s1; s.block 0 0 = some b1 ∧ (s.ctx b1.ctx).domain = some 7 ∧ s.domain? 7 = some (dom false)) ∧
    (s1.block 0 0 = some b1 ∧ (s1.ctx b1.ctx).domain = none ∧ (s1.ctx b1.ctx).state = .live ∧ b1.ctx ∈ s1.dieCtxs 0) ∧
    (b1.ctx ∈ (inDom false s1).dieCtxs 0) ∧ s1.domain? 7 = none ∧ (∀ n pa, ErrSite.localMem 0 0 ≠ .undoLog n pa) ∧
    (let s := logging (dom false); s.sys.installed 130 = true ∧ s.granuleCtxs 130 = [0] ∧ (s.ctx 0).domain = some 7 ∧
      s.domain? 7 = some (dom false) ∧ s.logged (dom false) 130 = true ∧ s.sys.installed 64 = true ∧ s.granuleCtxs 64 = [0] ∧
      s.logged (dom false) 64 = false) := by
  refine ⟨⟨rfl, rfl, rfl⟩, ⟨rfl, rfl, rfl, ?_⟩, ?_, rfl, (fun n pa h => by cases h), ?_, ?_, rfl, rfl, ?_, ?_, ?_, ?_⟩ <;> decide +kernel

theorem witness_ErrorsAndRollback_rollback :
    (let s := logging (duo .committed); s.domain? 7 = some (duo .committed) ∧ (duo .committed).coordinates s.sys.pkg = true ∧ s.mem.wf = true ∧
      (∀ e ∈ s.logs, e.dom = 7 → e.pa % 64 = 0 ∧ e.old.length = 64) ∧
      s.logs ≠ [] ∧ s.lostSectors (duo .committed) 3 = [] ∧ (duo .committed).leg = 3 ∧
      (s.logs.find? fun x => x.dom == 7 && x.pa == 0) = some (entry 0)) ∧
    (∀ k : Option Nat, let d := { duo .idle with struck := [64], overflow := k };
      (logging d).domain? 7 = some d ∧ (logging d).lostSectors d d.leg = [64] ∧ d.overflow = k) ∧
    (let d := rolling [] none; d.stopped = true ∧ d.coordinates 0 = true ∧ d.rolling ≠ 0 ∧ 0 ∈ d.alive ∧ 0 ∉ d.doneBy ∧
      (∃ k, k ∈ d.alive ∧ k ∉ d.doneBy ++ [0]) ∧ d.overflow = none ∧ d.cut = []) ∧
    (let d := rolling [0] (some 0); 5 ∈ d.alive ∧ 5 ∉ d.doneBy ∧ (∀ k ∈ d.alive, k ∈ d.doneBy ++ [5]) ∧ d.overflow = some 0) := by
  refine ⟨⟨rfl, ?_, ?_, ?_, ?_, ?_, ?_, ?_⟩, fun k => ⟨rfl, rfl, rfl⟩, ⟨rfl, ?_, ?_, ?_, ?_, ⟨5, ?_, ?_⟩, rfl, rfl⟩, ?_, ?_, ?_, rfl⟩ <;>
    decide +kernel

def debugging : State := { s1 with sys := { debug := true } }

theorem witness_ErrorsAndRollback_injections :
    (let s := running (logging (dom false)) 22 [1, 7, 130, 5]; s.running 22 = true ∧ s.arg 1 = 7 ∧ s.arg 0 = 1 ∧ s.peopled 7 = true ∧
      s.domGranule 7 (s.arg 2) = true) ∧
    (let s := running (logging (dom false)) 22 [2, 7, 31]; s.arg 0 = 2 ∧ s.peopled (s.arg 1) = true ∧ s.arg 2 < 32) ∧
    (let s := running (logging (dom false)) 22 [3, 7]; s.arg 0 = 3 ∧ s.peopled (s.arg 1) = true) ∧
    (let s := running s1 22 [3, 7]; s.running 22 = true ∧ s.arg 0 = 3 ∧ s.peopled (s.arg 1) = false) ∧
    (let s := running s1 22 [4, 0, 15]; s.arg 0 = 4 ∧ s.arg 2 < 16) ∧
    (let s := running s1 22 [5, 0, 15]; s.arg 0 = 5 ∧ s.arg 2 < 16 ∧ s.sys.debug = false) ∧
    (let s := running debugging 22 [5, 0, 15]; s.running 22 = true ∧ s.arg 0 = 5 ∧ s.sys.debug = true) ∧
    (let s := running s1 22 [6]; s.running 22 = true ∧ 5 < s.arg 0) ∧
    (let s : State := { inDom false s1 with injects := [⟨3, 7, 0, 0⟩, ⟨4, 0, 15, 0⟩] };
      s.injects[0]? = some ⟨3, 7, 0, 0⟩ ∧ s.injects[1]? = some ⟨4, 0, 15, 0⟩ ∧ s.domain? 7 = some (dom false) ∧
        (s.port 15).state ≠ .retired) := by
  refine ⟨⟨?_, ?_, ?_, ?_, ?_⟩, ⟨?_, ?_, ?_⟩, ⟨?_, ?_⟩, ⟨?_, ?_, ?_⟩, ⟨?_, ?_⟩, ⟨?_, ?_, ?_⟩, ⟨?_, ?_, ?_⟩, ⟨?_, ?_⟩, rfl, rfl, rfl, ?_⟩ <;>
    decide +kernel

/-- A packet that waits for another of the same group, and a domain that is rolling its leg back. -/
def waitsFlight : Flight := { flight storeAll 9 .source with p := { pkt storeAll 9 none with id := 6, after := [5] } }
def late : Packet := { pkt storeAll 0 none with srcPkg := 3, leg := 3, rdom := some 7 }

def twoFlights : State := { flying b1 (flight storeAll 0 .source) with flights := [flight storeAll 0 .source, waitsFlight] }
def rollsBack : State :=
  let s := sealing 0 (rolling [] none) b1
  { s with sys := { fabcfg := true }, ports := [(0, { state := .up })] }

theorem witness_PacketSteps_order :
    (let f := flight storeAll 9 .source; let s := flying b1 f; s.flight? 5 = some f ∧ f.p.pkg ≠ s.sys.pkg ∧ s.mayDepart f.p = true ∧
      f.p.irrev = false ∧ f.cmd = none) ∧
    (let s := twoFlights;
      s.flight? 6 = some waitsFlight ∧ s.mayDepart waitsFlight.p = false) ∧
    (let s := inDom false (flying b1 irrevStore); s.mayDepart irrevStore.p = true) ∧
    (let f := flight storeAll 9 (.gateway 1); (flying b1 f).behind f = false) ∧
    (let f := flight storeAll 9 (.link 0 0); let s := flying b1 f; let live := s.liveRoutes f.p.pkg.toNat false
      (live.find? fun r => r.1 != f.route) = some (1, 0x80000001) ∧ (live.find? fun r => routePort r.2 != 0) = some (1, 0x80000001) ∧
      routePort 0x80000001 = 1) ∧
    (let f := { flight storeAll 9 (.link 0 0) with route := 1 }; let s : State := { flying b1 f with routes := [(9, 0x8000000080000000)] }
      let live := s.liveRoutes f.p.pkg.toNat false
      (live.find? fun r => r.1 != f.route) = some (0, 0x80000000) ∧ (live.find? fun r => routePort r.2 != 0) = none) ∧
    (let f := flight storeAll 9 (.link 0 0); let s : State := { flying b1 f with routes := [(9, 0x80000000)] }
      let live := s.liveRoutes f.p.pkg.toNat false
      (live.find? fun r => r.1 != f.route) = none ∧ live.head? = some (0, 0x80000000)) ∧
    (let s := rollsBack;
      s.seqRepeats 0 late = false ∧ s.dropsLeg late = true) := by
  refine ⟨⟨rfl, ?_, ?_, rfl, rfl⟩, ⟨rfl, ?_⟩, ?_, ?_, ⟨?_, ?_, ?_⟩, ⟨?_, ?_⟩, ⟨?_, ?_⟩, ?_, ?_⟩ <;> decide +kernel

/-- Messages that leave on a port, an acknowledgement and one for package 9 or for package 8, to which no route leads, and a port that hears. -/
theorem witness_PacketSteps_messages : let s := flying b1 (flight storeAll 9 .source)
    FlitRoom s 0 (Config.msgFlits s.freeCtr).length ∧ s.sentTo (.pause 0 9 []) = [9] ∧ (9 : BitVec 12) ≠ s.sys.pkg ∧
    (∀ q p, FabMsg.pause 0 9 [] ≠ .hopAck q p) ∧ s.routeInUse (9 : BitVec 12).toNat = some 0x80000000 ∧
    s.sentTo (.pause 0 8 []) = [8] ∧ s.routeInUse (8 : BitVec 12).toNat = none ∧ ((s.port 0).state = .up ∨ (s.port 0).state = .held) ∧
    s.sys.encreq = false := by
  refine ⟨Or.inl rfl, ?_, ?_, (fun _ _ h => by cases h), ?_, ?_, ?_, Or.inl ?_, rfl⟩ <;> decide +kernel

/-! ### Boot, the host's windows and contexts -/

/-- A machine whose controllers stand at a state but that of one die, and whose slots hold two images. -/
def booting (die : Nat) (x rest : BootState) (a b : ImgSlot) : State :=
  { sys := { ctrls := listSet (List.replicate 8 rest) die x, imgA := a, imgB := b, fuseSvn := 1 } }
def image (svn : Nat) : ImgSlot := { svn := svn, keyOk := true, sigOk := true }
def booted (y : Sys) : State := { sys := { y with ctrls := List.replicate 8 .ready } }

def fewCores : State := { sys := { fusedOff := [767] } }

theorem witness_BootAndPower_boot :
    (Boots 0 .verify (booting 0 .verify .rom (image 0) {}) ∧ (image 0).svn < 1) ∧
    (Boots 0 .verify (booting 0 .verify .rom (image 2) (image 2)) ∧ (image 2).keyOk = true ∧ (image 2).sigOk = true ∧ 1 ≤ (image 2).svn) ∧
    (Boots 0 .verify (booting 0 .verify .rom (image 1) (image 2)) ∧ (image 1).svn < (image 2).svn) ∧
    (Boots 7 .verify (booting 7 .verify .rom {} {}) ∧ Boots 0 .rom (booting 7 .verify .rom {} {})) ∧
    Boots 7 .rom (booting 7 .rom .verify {} {}) ∧
    (Boots 7 .verify (booting 7 .verify .init {} {}) ∧ Boots 0 .init (booting 7 .verify .init {} {})) ∧ Boots 7 .init (booting 7 .init .ready {} {}) ∧
    Boots 7 .enum (booting 7 .enum .ready {} {}) ∧
    (∀ i, i < 4 → (booting 7 .enum .ready {} {}).sys.gradeCores ≤ (booting 7 .enum .ready {} {}).sys.dieCores (4 * (7 : BitVec 3).toNat + i)) ∧
    (fewCores.sys.dieCores (4 * (7 : BitVec 3).toNat + 3) < fewCores.sys.gradeCores) ∧
    (booted {}).sys.ctrls[(7 : BitVec 3).toNat]? ≠ none ∧ (booted {}).sys.i3cUp = [] ∧ (booted { i3cUp := [7] }).sys.i3cUp ≠ [] ∧
    (booted {}).sys.boot = .ready ∧ (booted {}).sys.powered = true ∧ ({ sys := { powered := false } } : State).sys.powered = false := by
  unfold Boots
  refine ⟨⟨⟨rfl, ?_, rfl⟩, ?_⟩, ⟨⟨rfl, ?_, rfl⟩, rfl, rfl, ?_⟩, ⟨⟨rfl, ?_, rfl⟩, ?_⟩, ⟨⟨rfl, ?_, rfl⟩, rfl, ?_, rfl⟩,
    ⟨rfl, ?_, rfl⟩, ⟨⟨rfl, ?_, rfl⟩, rfl, ?_, rfl⟩, ⟨rfl, ?_, rfl⟩, ⟨rfl, ?_, rfl⟩, ?_, ?_, ?_, rfl, ?_, ?_, rfl, rfl⟩ <;> decide +kernel

theorem witness_BootAndPower_commands :
    (let s := running {} 2 [5]; s.running 2 = true ∧ s.sys.fwsvn < s.arg 0 % 128) ∧
    (let s := running (booted { fwsvn := 6, fuseSvn := 4 }) 2 [5]; s.running 2 = true ∧ s.sys.fuseSvn ≤ s.arg 0 % 128 ∧ s.arg 0 % 128 ≤ s.sys.fwsvn) ∧
    (let s := running (booted { fuseSvn := 4 }) 3 [0, 64, 3, 64]; s.running 3 = true ∧ s.arg 2 % 128 < s.sys.fuseSvn) ∧
    (let s := running {} 3 [0, 64, 0, 64]; s.sys.fuseSvn ≤ s.arg 2 % 128 ∧ 0 < s.arg 1 ∧ s.arg 1 ≤ 2 ^ 28 ∧ s.sys.installed (s.arg 0) = true ∧
      s.sys.installed (s.arg 0 + s.arg 1 - 1) = true ∧ (s.sys.cacheAt [] (s.arg 1)).isSome = true) ∧
    (let s := running (booted { tcache := List.replicate 4096 ⟨[], 0, 0, 0, []⟩ }) 3 [0, 64, 0, 64];
      4096 ≤ (s.sys.tcache.filter fun e => e.digest != s.firmRead (s.arg 3) 64).length) ∧
    (let e : CacheEnt := ⟨List.replicate 64 0, 2, 0, 64, []⟩;
      (running {} 4 [0]).running 4 = true ∧ (running {} 4 [0]).sys.tcache.find? (fun e => e.digest == (running {} 4 [0]).firmRead 0 64) = none ∧
      (running (booted { tcache := [e] }) 4 [0]).sys.tcache.find? (fun e => e.digest == (running {} 4 [0]).firmRead 0 64) = some e ∧
      (booted { fuseSvn := 3 }).sys.fuseSvn > e.svn ∧ (booted {}).sys.fuseSvn ≤ e.svn) ∧
    (let s := running {} 24 [0, 64]; s.running 24 = true ∧ 0 < s.arg 1 ∧ s.arg 1 ≤ 2 ^ 25) ∧ (running {} 24 [0, 0]).arg 1 = 0 ∧
    (let s := running {} 23 [768, 1]; s.running 23 = true ∧ s.sys.liveCount ≤ s.arg 0) ∧
    (let s := running {} 23 [5, 1]; s.arg 0 < s.sys.liveCount ∧ s.arg 1 = 1 ∧ 2 ≤ s.clusterLeft 5 (5 :: s.sys.retireList) ∧ 5 ∉ s.sys.retireList) ∧
    (let s := running (booted { retireList := [4, 6] }) 23 [5, 1]; s.clusterLeft 5 (5 :: s.sys.retireList) < 2) ∧
    (let s := running (booted { retireList := [0, 4, 8, 12, 16, 20, 24, 28] }) 23 [33, 1];
      2 ≤ s.clusterLeft 33 (33 :: s.sys.retireList) ∧ 33 ∉ s.sys.retireList ∧ 8 ≤ s.sys.retireList.length) ∧
    (let s := running (booted { retireList := [5] }) 23 [5, 0]; s.arg 0 < s.sys.liveCount ∧ s.arg 1 = 0 ∧ s.arg 0 ∈ s.sys.retireList) ∧
    (let s := running {} 23 [5, 0]; s.arg 0 ∉ s.sys.retireList) := by
  refine ⟨?_, ?_, ?_, ⟨?_, ?_, ?_, ?_, ?_, ?_⟩, ?_, ⟨?_, ?_, ?_, ?_, ?_⟩, ⟨?_, ?_, ?_⟩, ?_, ?_, ?_, ?_, ?_, ?_, ?_⟩ <;> decide +kernel

/-- A context with a live queue of 16 entries, one of them to be read. -/
def fullQueue : State := booted {} |>.setCtx 0 { state := .live, queues := [(0, { en := true, tail := 1 })] }

/-- A machine with a kernel header at virtual address 128. -/
def handled : State := submitting (kernelBytes.map fun c => (c.1 + 128, c.2))

theorem witness_HostWindows :
    (booted {}).sys.boot = .ready ∧ ({} : State).sys.boot ≠ .ready ∧ (booted {}).sys.powered = true ∧ (booted {}).sys.busy = false ∧
    (booted { ctrls := [.failed] }).sys.boot = .ready ∧ ({ sys := { ctrls := [.failed] } } : State).sys.boot = .failed ∧
    (running {} 1 []).sys.busy = true ∧ (booted {}).cu = [] ∧ (booted {}).mem.wf = true ∧
    (let y := KMap.get {} (fullQueue.ctx 0).queues 0;
      y.en = true ∧ ((1 : Word) - y.head).toNat ≤ 2 ^ y.log2n.toNat ∧ 2 ^ y.log2n.toNat < ((17 : Word) - y.head).toNat) ∧
    (KMap.get {} (fullQueue.ctx 0).queues 1).en = false ∧ (fullQueue.ctx 0).invBusy = false ∧
    (let s := fullQueue.modCtx 0 fun x => { x with invBusy := true }; (s.ctx 0).invBusy = true ∧ s.storesDone 0 = true) ∧
    (0x7F : Dword).extractLsb' 7 57 = 0 ∧ (0x80 : Dword).extractLsb' 7 57 ≠ 0 ∧
    (fullQueue.setCtx 0 { fullQueue.ctx 0 with handler := 1 }).handlerAt 0 128 0 = none ∧
    ((handled.setCtx 0 { handled.ctx 0 with handler := 1 }).handlerAt 0 128 0).isSome = true ∧
    ((2 : Dword).getLsbD 0 = false) ∧ (0x41 : Dword).getLsbD 0 = true ∧ entryOk ((0 : BitVec 192) ++ (0x41 : Dword)) = true ∧
    entryOk ((0xFFFFFFFFFFFFFFFF : BitVec 192) ++ (0x41 : Dword)) = false := by
  refine ⟨rfl, ?_, rfl, rfl, rfl, rfl, rfl, rfl, rfl, ⟨rfl, ?_, ?_⟩, rfl, rfl, ⟨rfl, ?_⟩, ?_, ?_, ?_, ?_, ?_, ?_, ?_, ?_⟩ <;> decide +kernel

/-- A context in a state, with a granule of its page tables. -/
def inState (x : CtxState) : State :=
  let s := booted {}
  { s with ctxs := [(0, { state := x, ptroot := 1 })], granules := [(0, { v := true, sh := false, owner := 0, share := 0 })] }

theorem witness_ContextCommands_contexts :
    (let s := running (inState .stopped) 7 [0]; s.running 7 = true ∧ (s.ctx 0).state = .stopped) ∧
    (let s := running (mach b5) 7 [64]; s.running 7 = true ∧ 64 ≤ s.arg 0) ∧
    (let s := running (inState .live) 8 [0]; s.running 8 = true ∧ (s.ctx 0).state = .live) ∧
    (let s := running (inState .free) 8 [0]; (s.ctx 0).state = .free) ∧
    (let s := running (inState .free) 10 [0]; s.running 10 = true ∧ (s.ctx 0).state = .free ∧
      s.sys.installed ((s.ctx 0).ptroot.toNat * 2 ^ 19) = true ∧ (s.granule ((s.ctx 0).ptroot.toNat * 2 ^ 19 / 2 ^ 21)).v = true) ∧
    (let s := running (inState .ended) 11 [0]; s.running 11 = true ∧ (s.ctx 0).state = .ended) ∧
    (let s := running (inState .live) 11 [0]; (s.ctx 0).state ≠ .ended) := by
  refine ⟨⟨?_, rfl⟩, ⟨?_, ?_⟩, ⟨?_, rfl⟩, rfl, ⟨?_, rfl, ?_, ?_⟩, ⟨?_, rfl⟩, ?_⟩ <;> decide +kernel

theorem witness_ContextCommands_granules :
    (let s := running (inState .live) 12 [31, 0, 1, 0x80]; s.running 12 = true ∧ s.arg 0 < 32 ∧ 0 < s.arg 2 ∧
      s.arg 1 + s.arg 2 ≤ s.sys.stackGib * 512 ∧ (∀ g ∈ (List.range (s.arg 2)).map fun i => s.arg 0 * 2 ^ 15 + s.arg 1 + i, s.reserved g = false) ∧
      (s.arg 3).testBit 6 = false) ∧
    (let s := running (inState .live) 12 [31, 0, 65, 0xC0, 3]; (s.arg 3).testBit 6 = true ∧
      64 < s.sharers (s.arg 0) ((List.range (s.arg 2)).map fun i => s.arg 0 * 2 ^ 15 + s.arg 1 + i) + s.arg 2) ∧
    (let s := running (inState .live) 12 [32]; s.running 12 = true ∧ 32 ≤ s.arg 0) := by
  refine ⟨⟨?_, ?_, ?_, ?_, ?_, ?_⟩, ⟨?_, ?_⟩, ?_, ?_⟩ <;> decide +kernel

/-- A machine that runs DOMCREATE, and one that waits for its partners. -/
def creating : State := running (inState .live) 18 [7, 0, 1]
def waitsFor (m : List (BitVec 12)) : State := { inState .live with domPending := some { num := 7, args := { members := m, interval := 50, waitLimit := 1000, capacity := 1024 }, since := 0 } }
def askedFor (m : List (BitVec 12)) (cap : Nat) : DomArgs := { members := m, interval := 50, waitLimit := 1000, capacity := cap }
def unjoined : State := { inState .live with domains := [dom false] }
def joined : State := inDom false (inState .live)

theorem witness_ContextCommands_domains :
    (creating.running 18 = true ∧ creating.domPending = none ∧ creating.domArgs.isSome = true ∧ creating.domains = [] ∧
      creating.logRoom 1024 = true) ∧
    (running (inState .live) 18 [7, 0, 0]).domArgs = none ∧
    (∃ x, (waitsFor [0]).domPending = some x ∧ (waitsFor [0]).domain? x.num = none ∧ x.args.members.length ≤ ([] : List DomArgs).length + 1) ∧
    (∃ x, (waitsFor [0, 5]).domPending = some x ∧ ([] : List DomArgs).length + 1 < x.args.members.length ∧
      (∃ y ∈ [askedFor [0, 5] 512], y ≠ x.args) ∧ (∀ y ∈ [askedFor [0, 5] 1024], y = x.args) ∧
      x.args.members.length ≤ [askedFor [0, 5] 1024].length + 1 ∧
      x.since + usec 10000000 ≤ (waitsFor [0, 5]).time + usec 10000000 ∧ (waitsFor [0, 5]).time + 0 < x.since + usec 10000000) ∧
    (let s := running unjoined 19 [0, 7]; s.running 19 = true ∧ (s.ctx 0).state = .live ∧
      (s.ctx 0).domain = none ∧ s.itins = [] ∧ s.ctxBlocks 0 = [] ∧ s.saved = [] ∧ (s.domain? (s.arg 1)).isSome = true) ∧
    (let s := running joined 19 [0, 7]; s.running 19 = true ∧ (s.ctx 0).domain.isSome = true) ∧
    (let s := running unjoined 20 [7]; s.running 20 = true ∧ (s.domain? (s.arg 0)).isSome = true ∧
      s.domCtxs 7 = []) ∧
    (let s := running joined 20 [7]; s.running 20 = true ∧ (s.ctx 0).domain = some (s.arg 0)) := by
  refine ⟨⟨?_, rfl, ?_, rfl, ?_⟩, ?_, ⟨_, rfl, rfl, ?_⟩, ⟨_, rfl, ?_, ?_, ?_, ?_, ?_, ?_⟩, ⟨?_, rfl, rfl, rfl, rfl, rfl, ?_⟩, ⟨?_, rfl⟩, ⟨?_, ?_, ?_⟩, ?_, rfl⟩ <;> decide +kernel

/-! ### What every step keeps -/

theorem witness_MemoryCanonical : Sys2Proof.Machine.State.reset.mem.wf = true ∧ Sys2Proof.Machine.State.reset.hmem.wf = true ∧
    ∃ t, step Sys2Proof.Machine.State.reset = .next t := ⟨rfl, rfl, _, rfl⟩

end Sys2Proof.Tests
end

section
/-! # No step changes a fuse (O60), and the machine after reset (O58)

`Sys.fuses` collects the six fields O60 speaks of. Every function of the model that makes a state gets one equation `f_fuses`, and every
function that answers an `Outcome` one lemma `f_keeps`; `exec_keeps` puts them together for every instruction and event but FUSEADV, the one
that moves the counter (R432). `step_advances` carries this over the turns of the agenda. -/

namespace Sys2Proof.Machine
open Host (Outcome)

/-- The fuses that no step may change (R1, R425), and the fuse counter (R432). -/
structure Fuses where
  grade : Nat
  stackGib : Nat
  fusedOff : List Nat
  debug : Bool
  stepping : BitVec 8
  svn : Nat

def Sys.fuses (y : Sys) : Fuses := ⟨y.grade, y.stackGib, y.fusedOff, y.debug, y.stepping, y.fuseSvn⟩

/-- A next state, if this is one, has the fuses `F`. -/
def Keeps (F : Fuses) (o : Outcome State Fault Refusal) : Prop := ∀ t, o = .next t → t.sys.fuses = F

@[simp] theorem keeps_next {F : Fuses} {t : State} : Keeps F (.next t) ↔ t.sys.fuses = F := by simp [Keeps]
@[simp] theorem keeps_fault (F : Fuses) (r : Fault) : Keeps F (.fault r) := by simp [Keeps]
@[simp] theorem keeps_refused (F : Fuses) (r : Refusal) : Keeps F (.refused r) := by simp [Keeps]
@[simp] theorem keeps_ite {F : Fuses} {c : Prop} [Decidable c] {a b : Outcome State Fault Refusal} :
    Keeps F (if c then a else b) ↔ (c → Keeps F a) ∧ (¬c → Keeps F b) := by
  split <;> simp [*]
@[simp] theorem sys_fuses_ite {F : Fuses} {c : Prop} [Decidable c] {a b : State} :
    (if c then a else b).sys.fuses = F ↔ (c → a.sys.fuses = F) ∧ (¬c → b.sys.fuses = F) := by
  split <;> simp [*]

/-! ### Folds -/

theorem foldl_fuses_of {α β : Type} (g : β → Fuses) {f : β → α → β} (hf : ∀ b x, g (f b x) = g b) (l : List α) (b : β) :
    g (l.foldl f b) = g b :=
  List.foldlRecOn l f (motive := fun c => g c = g b) rfl fun c hc x _ => (hf c x).trans hc
@[simp] theorem foldl_fuses {α : Type} {f : State → α → State} (hf : ∀ s x, (f s x).sys.fuses = s.sys.fuses) (l : List α)
    (s : State) : (l.foldl f s).sys.fuses = s.sys.fuses :=
  foldl_fuses_of (·.sys.fuses) hf l s
theorem foldl_snd_fuses {α β : Type} {f : β × State → α → β × State} (hf : ∀ p x, (f p x).2.sys.fuses = p.2.sys.fuses)
    (l : List α) (p : β × State) : (l.foldl f p).2.sys.fuses = p.2.sys.fuses :=
  foldl_fuses_of (·.2.sys.fuses) hf l p

/-! ### The state inside a result

The model's sum types of results hold a state in each constructor. Stated about that state, one equation serves every case of a later
match, through the lemmas `…fuses_ok`, `…fuses_wait` and so on. -/

def Logged.state : Logged → State
  | .ok s | .wait s | .over s => s
@[simp] theorem Logged.state_ok (s : State) : (Logged.ok s).state = s := rfl
@[simp] theorem Logged.state_wait (s : State) : (Logged.wait s).state = s := rfl
@[simp] theorem Logged.state_over (s : State) : (Logged.over s).state = s := rfl
def Did.state : Did → State
  | .done s | .held s | .failed s _ => s
@[simp] theorem Did.state_done (s : State) : (Did.done s).state = s := rfl
@[simp] theorem Did.state_held (s : State) : (Did.held s).state = s := rfl
@[simp] theorem Did.state_failed (s : State) (f : Flt) : (Did.failed s f).state = s := rfl
def Landed.state : Landed → State
  | .answered s _ _ | .held s => s
@[simp] theorem Landed.state_answered (s : State) (a : Answer) (ms : List Mark) : (Landed.answered s a ms).state = s := rfl
@[simp] theorem Landed.state_held (s : State) : (Landed.held s).state = s := rfl
def Issued.state : Issued → State
  | .run s _ | .done s | .held s | .idle s => s
@[simp] theorem Issued.state_run (s : State) (i : Instr) : (Issued.run s i).state = s := rfl
@[simp] theorem Issued.state_done (s : State) : (Issued.done s).state = s := rfl
@[simp] theorem Issued.state_held (s : State) : (Issued.held s).state = s := rfl
@[simp] theorem Issued.state_idle (s : State) : (Issued.idle s).state = s := rfl
/-- The state a tensor row's read leaves, with its values or with its fault. -/
def rowState {α : Type} : Except (Flt × State) (α × State) → State
  | .ok p => p.2
  | .error p => p.2
@[simp] theorem rowState_ok {α : Type} (p : α × State) : rowState (.ok p) = p.2 := rfl
@[simp] theorem rowState_error {α : Type} (p : Flt × State) : rowState (.error p : Except _ (α × State)) = p.2 := rfl

section

variable {F : Fuses} {t : State}

@[simp] theorem Logged.fuses_ite {c : Prop} [Decidable c] {a b : Logged} :
    (if c then a else b).state.sys.fuses = F ↔ (c → a.state.sys.fuses = F) ∧ (¬c → b.state.sys.fuses = F) := by
  split <;> simp [*]
theorem Logged.fuses_ok {r : Logged} (h : r = .ok t) (hr : r.state.sys.fuses = F) : t.sys.fuses = F := by rwa [h] at hr
theorem Logged.fuses_wait {r : Logged} (h : r = .wait t) (hr : r.state.sys.fuses = F) : t.sys.fuses = F := by rwa [h] at hr
theorem Logged.fuses_over {r : Logged} (h : r = .over t) (hr : r.state.sys.fuses = F) : t.sys.fuses = F := by rwa [h] at hr
theorem Did.fuses_done {r : Did} (h : r = .done t) (hr : r.state.sys.fuses = F) : t.sys.fuses = F := by rwa [h] at hr
theorem fuses_snd {β : Type} {p : β × State} {b : β} (h : p = (b, t)) (hp : p.2.sys.fuses = F) : t.sys.fuses = F := by
  rwa [h] at hp
theorem fuses_row_ok {α : Type} {r : Except (Flt × State) (α × State)} {a : α} (h : r = .ok (a, t))
    (hr : (rowState r).sys.fuses = F) : t.sys.fuses = F := by
  rwa [h] at hr
theorem fuses_row_error {α : Type} {r : Except (Flt × State) (α × State)} {a : Flt} (h : r = .error (a, t))
    (hr : (rowState r).sys.fuses = F) : t.sys.fuses = F := by
  rwa [h] at hr

end

theorem foldE_fuses {α β : Type} {f : β × State → α → Except (Flt × State) (β × State)}
    (hf : ∀ p x, (rowState (f p x)).sys.fuses = p.2.sys.fuses) (l : List α) (p : β × State) :
    (rowState (foldE f l p)).sys.fuses = p.2.sys.fuses := by
  induction l generalizing p with
  | nil => rfl
  | cons x l ih =>
    unfold foldE
    split
    · next heq => exact fuses_row_error heq (hf p x)
    · next heq => exact (ih _).trans (fuses_row_ok heq (hf p x))

/-! ### Counters and translation -/

section

variable {F : Fuses} (s : State)

@[simp] theorem State.bump_fuses (off n) : (s.bump off n).sys.fuses = s.sys.fuses := rfl
@[simp] theorem State.bumpMerges_fuses (pa n) : (s.bumpMerges pa n).sys.fuses = s.sys.fuses := by simp [State.bumpMerges]
@[simp] theorem State.mergeWord_fuses (w) : (s.mergeWord w).sys.fuses = s.sys.fuses := by simp [State.mergeWord]
@[simp] theorem State.mergeLine_fuses (pa n) : (s.mergeLine pa n).sys.fuses = s.sys.fuses := by simp [State.mergeLine]
@[simp] theorem State.countWalk_fuses (core) : (s.countWalk core).sys.fuses = s.sys.fuses := by simp [State.countWalk]
@[simp] theorem State.fill_fuses (core x) : (s.fill core x).sys.fuses = s.sys.fuses := by simp [State.fill]
@[simp] theorem State.touchCore_fuses (core c va) : (s.touchCore core c va).sys.fuses = s.sys.fuses := by
  unfold State.touchCore
  (repeat' split) <;> simp
@[simp] theorem State.setLast_fuses (core part lane x) : (s.setLast core part lane x).sys.fuses = s.sys.fuses := by simp [State.setLast]
@[simp] theorem State.bumpTx_fuses (core cls n) : (s.bumpTx core cls n).sys.fuses = s.sys.fuses := by simp [State.bumpTx]
@[simp] theorem State.bumpRx_fuses (src die n) : (s.bumpRx src die n).sys.fuses = s.sys.fuses := by simp [State.bumpRx]
@[simp] theorem State.txTo_fuses (core t n) : (s.txTo core t n).sys.fuses = s.sys.fuses := by simp [State.txTo]
@[simp] theorem State.rxHome_fuses (core t n) : (s.rxHome core t n).sys.fuses = s.sys.fuses := by
  unfold State.rxHome
  split <;> simp
@[simp] theorem State.rxCore_fuses (core t n) : (s.rxCore core t n).sys.fuses = s.sys.fuses := by simp [State.rxCore]
@[simp] theorem State.fillAll_fuses (core ps) : (s.fillAll core ps).sys.fuses = s.sys.fuses := by simp [State.fillAll]
@[simp] theorem State.touchAt.go_fuses (core part lane c va) : (State.touchAt.go s core part lane c va).sys.fuses = s.sys.fuses := by
  unfold State.touchAt.go
  (repeat' split) <;> simp
@[simp] theorem State.touchAt_fuses (core part lane c va) : (s.touchAt core part lane c va).sys.fuses = s.sys.fuses := by
  unfold State.touchAt
  split <;> simp
@[simp] theorem State.touchEng_fuses (core c va n) : (s.touchEng core c va n).sys.fuses = s.sys.fuses := by
  unfold State.touchEng
  (repeat' split) <;> simp
@[simp] theorem State.touch_fuses (core part lane c va n) : (s.touch core part lane c va n).sys.fuses = s.sys.fuses := by simp [State.touch]

/-! ### The home agents: memory, undo log, barrier words -/

@[simp] theorem State.postRas_fuses (r) : (s.postRas r).sys.fuses = s.sys.fuses := by
  unfold State.postRas
  dsimp only
  (repeat' split) <;> rfl
@[simp] theorem State.requestSeal_fuses (d) : (s.requestSeal d).sys.fuses = s.sys.fuses := by
  unfold State.requestSeal
  split <;> simp
@[simp] theorem State.endCtx_fuses (c cause r) : (s.endCtx c cause r).sys.fuses = s.sys.fuses := by simp [State.endCtx]
@[simp] theorem State.abortDomain_fuses (d overflow injected) : (s.abortDomain d overflow injected).sys.fuses = s.sys.fuses := by
  unfold State.abortDomain
  split <;> simp
@[simp] theorem State.addRed_fuses (pa op ty x) : (s.addRed pa op ty x).sys.fuses = s.sys.fuses := by simp [State.addRed]
@[simp] theorem State.addReds_fuses (pa op ty xs) : (s.addReds pa op ty xs).sys.fuses = s.sys.fuses := by simp [State.addReds]
@[simp] theorem State.logSector_fuses (c leg d sector) : (s.logSector c leg d sector).state.sys.fuses = s.sys.fuses := by
  simp [State.logSector]
@[simp] theorem State.logSectors_fuses (c leg d xs) : (s.logSectors c leg d xs).state.sys.fuses = s.sys.fuses := by
  induction xs generalizing s with
  | nil => rfl
  | cons x xs ih =>
    unfold State.logSectors
    split
    · rfl
    · rename_i dm _
      have h := s.logSector_fuses c leg dm x
      split <;> simp_all
@[simp] theorem State.logFor_fuses (m pa n) : (s.logFor m pa n).state.sys.fuses = s.sys.fuses := by
  unfold State.logFor
  split <;> simp
@[simp] theorem State.logWrite_fuses (c pa n) : (s.logWrite c pa n).state.sys.fuses = s.sys.fuses := by simp [State.logWrite]
@[simp] theorem State.overflowFor_fuses (m detail) : (s.overflowFor m detail).sys.fuses = s.sys.fuses := by
  unfold State.overflowFor
  split <;> simp
@[simp] theorem State.legOverflow_fuses (c detail) : (s.legOverflow c detail).sys.fuses = s.sys.fuses := by simp [State.legOverflow]
@[simp] theorem State.arriveAt_fuses (pos p) : (s.arriveAt pos p).sys.fuses = s.sys.fuses := by simp [State.arriveAt]
@[simp] theorem State.arriveAll_fuses (p) : (s.arriveAll p).sys.fuses = s.sys.fuses := by simp [State.arriveAll]
@[simp] theorem State.settle_fuses (ids) : (s.settle ids).sys.fuses = s.sys.fuses := by simp [State.settle]
@[simp] theorem State.dropKeys_fuses (keys) : (s.dropKeys keys).sys.fuses = s.sys.fuses := by simp [State.dropKeys]
@[simp] theorem State.rawWrite_fuses (t bs) : (s.rawWrite t bs).sys.fuses = s.sys.fuses := by
  unfold State.rawWrite
  split <;> simp
@[simp] theorem State.freeBytes_fuses (n) : (s.freeBytes n).2.sys.fuses = s.sys.fuses := by simp [State.freeBytes]
@[simp] theorem State.readFor_fuses (dom t n) : (s.readFor dom t n).2.sys.fuses = s.sys.fuses := by
  unfold State.readFor
  split <;> simp
@[simp] theorem State.homeRead_fuses (c t n) : (s.homeRead c t n).2.sys.fuses = s.sys.fuses := by simp [State.homeRead]
@[simp] theorem State.coreRead_fuses (core c t n) : (s.coreRead core c t n).2.sys.fuses = s.sys.fuses := by simp [State.coreRead]
@[simp] theorem State.writeFor_fuses (m t bs) : (s.writeFor m t bs).state.sys.fuses = s.sys.fuses := by
  unfold State.writeFor
  split
  · rename_i pa
    have h := s.logFor_fuses m pa bs.length
    split <;> simp_all
  · simp
@[simp] theorem State.homeWrite_fuses (c t bs) : (s.homeWrite c t bs).state.sys.fuses = s.sys.fuses := by simp [State.homeWrite]
@[simp] theorem State.hold_fuses (die d core leg what size) : (s.hold die d core leg what size).state.sys.fuses = s.sys.fuses := by
  simp [State.hold]
@[simp] theorem State.vWrite_fuses (c va bs) : (s.vWrite c va bs).sys.fuses = s.sys.fuses := by
  induction bs generalizing s va with
  | nil => rfl
  | cons b bs ih =>
    unfold State.vWrite
    split <;> simp [ih]
@[simp] theorem State.devicePut_fuses (c x t bs) : (s.devicePut c x t bs).sys.fuses = s.sys.fuses := by
  unfold State.devicePut
  dsimp only
  split
  · split
    · next heq => simpa using Logged.fuses_ok heq (State.hold_fuses ..)
    · next heq => split <;> simpa using Logged.fuses_wait heq (State.hold_fuses ..)
    · next heq => simpa using Logged.fuses_over heq (State.hold_fuses ..)
  · split
    · next heq => simpa using Logged.fuses_ok heq (State.homeWrite_fuses ..)
    · next heq => split <;> simpa using Logged.fuses_wait heq (State.homeWrite_fuses ..)
    · next heq => simpa using Logged.fuses_over heq (State.homeWrite_fuses ..)
@[simp] theorem State.vWriteLogged_fuses (c va bs) : (s.vWriteLogged c va bs).sys.fuses = s.sys.fuses := by
  refine foldl_fuses (fun s x => ?_) _ _
  (repeat' split) <;> simp

/-! ### Shared parts of the instructions -/

@[simp] theorem State.writeEvent_fuses (c kind arg addr clock) : (s.writeEvent c kind arg addr clock).sys.fuses = s.sys.fuses := by
  simp [State.writeEvent]
@[simp] theorem State.writeRec_fuses (c leg r) : (s.writeRec c leg r).sys.fuses = s.sys.fuses := by
  unfold State.writeRec
  split <;> simp
@[simp] theorem State.post_fuses (c r) : (s.post c r).sys.fuses = s.sys.fuses := by
  unfold State.post
  (repeat' split) <;> simp
@[simp] theorem State.postEvent_fuses (c kind arg addr) : (s.postEvent c kind arg addr).sys.fuses = s.sys.fuses := by simp [State.postEvent]
@[simp] theorem State.withIssuer_keeps {s : State} {f} (h : ∀ w, Keeps F (f w)) : Keeps F (s.withIssuer f) := by
  unfold State.withIssuer
  split <;> simp [h]
@[simp] theorem State.modPart_fuses (core part f) : (s.modPart core part f).sys.fuses = s.sys.fuses := by simp [State.modPart]
@[simp] theorem State.clearCur_fuses (w) : (s.clearCur w).sys.fuses = s.sys.fuses := by simp [State.clearCur]
@[simp] theorem State.schedule_fuses (w) : (s.schedule w).sys.fuses = s.sys.fuses := by simp [State.schedule]
@[simp] theorem State.yieldNow_fuses (w) : (s.yieldNow w).sys.fuses = s.sys.fuses := by simp [State.yieldNow]
@[simp] theorem State.finish_fuses (w k f) : (s.finish w k f).sys.fuses = s.sys.fuses := by simp [State.finish]
@[simp] theorem State.skip_fuses (w k) : (s.skip w k).sys.fuses = s.sys.fuses := by simp [State.skip]
@[simp] theorem State.finishRemote_fuses (w k f) : (s.finishRemote w k f).sys.fuses = s.sys.fuses := by simp [State.finishRemote]
@[simp] theorem State.stopCtx_fuses (c r) : (s.stopCtx c r).sys.fuses = s.sys.fuses := by simp [State.stopCtx]
@[simp] theorem State.takeTrap_fuses (w r floor) : (s.takeTrap w r floor).sys.fuses = s.sys.fuses := by
  unfold State.takeTrap
  dsimp only
  (repeat' split) <;> simp
@[simp] theorem State.raise_keeps {s : State} (w lanes f) (hF : s.sys.fuses = F) : Keeps F (s.raise w lanes f) := by simp [State.raise, hF]
@[simp] theorem State.returnTrap_fuses (w next) : (s.returnTrap w next).sys.fuses = s.sys.fuses := by
  unfold State.returnTrap
  split <;> simp
@[simp] theorem State.vector_keeps {s : State} (h rs ds f) (hF : s.sys.fuses = F) : Keeps F (s.vector h rs ds f) := by
  refine State.withIssuer_keeps fun w => ?_
  dsimp only
  (repeat' split) <;> simp [hF]
@[simp] theorem State.uniform_keeps {s : State} (k f) (hF : s.sys.fuses = F) : Keeps F (s.uniform k f) := by simp [State.uniform, hF]
@[simp] theorem State.anyLane_keeps {s : State} {h f} (hs : s.sys.fuses = F) (hf : ∀ w m, Keeps F (f w m)) : Keeps F (s.anyLane h f) := by
  simp [State.anyLane, hs, hf]

/-! ### Integer instructions -/

@[simp] theorem State.unary_keeps {s : State} (o wd f) (hF : s.sys.fuses = F) : Keeps F (s.unary o wd f) := by simp [State.unary, hF]
@[simp] theorem State.binary_keeps {s : State} (o f) (hF : s.sys.fuses = F) : Keeps F (s.binary o f) := by simp [State.binary, hF]
@[simp] theorem State.counted_keeps {s : State} (o f) (hF : s.sys.fuses = F) : Keeps F (s.counted o f) := by simp [State.counted, hF]
@[simp] theorem State.ternary_keeps {s : State} (o f) (hF : s.sys.fuses = F) : Keeps F (s.ternary o f) := by simp [State.ternary, hF]
@[simp] theorem State.ternaryCount_keeps {s : State} (o f) (hF : s.sys.fuses = F) : Keeps F (s.ternaryCount o f) := by
  simp [State.ternaryCount, hF]
@[simp] theorem execPmov_keeps (o) {s : State} (hF : s.sys.fuses = F) : Keeps F (execPmov o s) := by
  refine State.withIssuer_keeps fun w => ?_
  dsimp only
  (repeat' split) <;> simp [hF]

/-! ### Floating point -/

@[simp] theorem State.funary_keeps {s : State} (o f) (hF : s.sys.fuses = F) : Keeps F (s.funary o f) := by simp [State.funary, hF]
@[simp] theorem State.fbinary_keeps {s : State} (o f) (hF : s.sys.fuses = F) : Keeps F (s.fbinary o f) := by simp [State.fbinary, hF]

/-! ### Conversions -/

@[simp] theorem State.advanceGen_fuses (core part c) : (s.advanceGen core part c).2.sys.fuses = s.sys.fuses := by simp [State.advanceGen]
@[simp] theorem State.issueGen_fuses (w) : (s.issueGen w).2.sys.fuses = s.sys.fuses := by
  unfold State.issueGen
  dsimp only
  (repeat' split) <;> simp
@[simp] theorem State.converted_keeps {s : State} (o rm) (hF : s.sys.fuses = F) : Keeps F (s.converted o rm) := by
  refine State.withIssuer_keeps fun w => ?_
  dsimp only
  (repeat' split) <;> simp [hF]
@[simp] theorem State.halves_keeps {s : State} {o f} (hs : s.sys.fuses = F) (hf : ∀ w m, Keeps F (f w m)) : Keeps F (s.halves o f) := by
  unfold State.halves
  refine State.withIssuer_keeps fun w => ?_
  dsimp only
  (repeat' split) <;> simp [hs, hf]
@[simp] theorem execQenc_keeps (o) {s : State} (hF : s.sys.fuses = F) : Keeps F (execQenc o s) := by
  refine State.withIssuer_keeps fun w => ?_
  dsimp only
  (repeat' split) <;> simp [hF]

/-! ### The memory order: sectors, queued stores, reads -/

@[simp] theorem State.dropSector_fuses (core key) : (s.dropSector core key).sys.fuses = s.sys.fuses := by simp [State.dropSector]
@[simp] theorem State.invalidate_fuses (own src store keys tctx) : (s.invalidate own src store keys tctx).sys.fuses = s.sys.fuses := by
  simp [State.invalidate]
@[simp] theorem State.putMark_fuses (m atomic) : (s.putMark m atomic).2.sys.fuses = s.sys.fuses := by simp [State.putMark]
@[simp] theorem State.updateL1_fuses (core t bs m) : (s.updateL1 core t bs m).sys.fuses = s.sys.fuses := by
  refine foldl_fuses (fun s x => ?_) _ _
  simp
@[simp] theorem State.homeRefuses_fuses (who eng pa pc node block leg) :
    (s.homeRefuses who eng pa pc node block leg).sys.fuses = s.sys.fuses := by
  simp [State.homeRefuses]
@[simp] theorem State.removeStore_fuses (core id) : (s.removeStore core id).sys.fuses = s.sys.fuses := by simp [State.removeStore]
@[simp] theorem State.afterStore_fuses (d id) : (s.afterStore d id).sys.fuses = s.sys.fuses := by simp [State.afterStore]
@[simp] theorem State.stored_fuses (e t bs) : (s.stored e t bs).sys.fuses = s.sys.fuses := by simp [State.stored]
@[simp] theorem State.storedPast_fuses (e t atomic) : (s.storedPast e t atomic).sys.fuses = s.sys.fuses := by simp [State.storedPast]
@[simp] theorem State.putHome_fuses (m d e t bs atomic) : (s.putHome m d e t bs atomic).state.sys.fuses = s.sys.fuses := by
  unfold State.putHome
  split
  · rename_i d
    have h := s.hold_fuses (holdDie t) d e.who.core e.leg (.inl e) (holdSize t bs.length)
    split <;> simp_all
  · have h := s.writeFor_fuses m t bs
    split <;> simp_all
@[simp] theorem State.perform_fuses (e) : (s.perform e).state.sys.fuses = s.sys.fuses := by
  unfold State.perform
  dsimp only
  split
  · (repeat' split) <;> simp
  · split
    · split
      · split
        · next heq => simp [Logged.fuses_ok heq (State.hold_fuses ..)]
        · simp
      · rfl
    · split
      · simp
      · split
        · split
          · next heq => simp [Logged.fuses_ok heq (State.homeWrite_fuses ..)]
          · simp
        · split
          · next heq => simp [Logged.fuses_ok heq (State.logWrite_fuses ..)]
          · simp
        · simp
@[simp] theorem State.drainOne_fuses (e) : (s.drainOne e).2.sys.fuses = s.sys.fuses := by
  have h := s.perform_fuses e
  unfold State.drainOne
  dsimp only
  (repeat' split) <;> simp_all
@[simp] theorem State.drainList_fuses (es) : (s.drainList es).2.sys.fuses = s.sys.fuses := by
  induction es generalizing s with
  | nil => rfl
  | cons e es ih =>
    have h := s.drainOne_fuses e
    unfold State.drainList
    split <;> simp_all
@[simp] theorem State.drainFor_fuses (core need) : (s.drainFor core need).2.sys.fuses = s.sys.fuses := State.drainList_fuses ..
@[simp] theorem State.noteRead_fuses (me d sc acq ms) : (s.noteRead me d sc acq ms).sys.fuses = s.sys.fuses := by simp [State.noteRead]
@[simp] theorem State.noteWrite_fuses (me d sc id) : (s.noteWrite me d sc id).sys.fuses = s.sys.fuses := by simp [State.noteWrite]
@[simp] theorem State.filterApply_fuses (core d p) : (s.filterApply core d p).sys.fuses = s.sys.fuses := by simp [State.filterApply]
@[simp] theorem State.acquire_fuses (me d sc) : (s.acquire me d sc).sys.fuses = s.sys.fuses := by simp [State.acquire]
@[simp] theorem State.makeRoom_fuses (pos key) : (s.makeRoom pos key).sys.fuses = s.sys.fuses := by simp [State.makeRoom]
@[simp] theorem State.snoopMiss_fuses (core key) : (s.snoopMiss core key).sys.fuses = s.sys.fuses := by simp [State.snoopMiss]
@[simp] theorem State.readSector_fuses (me cached key) : (s.readSector me cached key).2.2.sys.fuses = s.sys.fuses := by
  unfold State.readSector
  dsimp only
  (repeat' split) <;> simp
@[simp] theorem State.mustArrive_fuses (core must keys) : (s.mustArrive core must keys).sys.fuses = s.sys.fuses := by
  simp [State.mustArrive]
@[simp] theorem State.readShared_fuses (me cached rd key) : (s.readShared me cached rd key).2.2.2.sys.fuses = s.sys.fuses := by
  unfold State.readShared
  split <;> simp
@[simp] theorem State.readKeys_fuses (me cached rd ks) : (s.readKeys me cached rd ks).2.2.2.sys.fuses = s.sys.fuses := by
  induction ks generalizing s rd with
  | nil => rfl
  | cons k ks ih => simp [State.readKeys, ih]
@[simp] theorem State.readMmio_fuses (me rd a n) : (s.readMmio me rd a n).2.2.sys.fuses = s.sys.fuses := by
  induction n generalizing s rd a with
  | zero => rfl
  | succ n ih =>
    unfold State.readMmio
    split <;> simp [ih]
@[simp] theorem State.readPiece_fuses (me d rd p pc node block) : (s.readPiece me d rd p pc node block).2.2.2.sys.fuses = s.sys.fuses := by
  unfold State.readPiece
  dsimp only
  (repeat' split) <;> simp
@[simp] theorem State.readPieces_fuses (me d rd pc node block ps) :
    (s.readPieces me d rd pc node block ps).2.2.2.sys.fuses = s.sys.fuses := by
  induction ps generalizing s rd with
  | nil => rfl
  | cons p ps ih => simp [State.readPieces, ih]
@[simp] theorem State.noteFed_fuses (me d places) : (s.noteFed me d places).sys.fuses = s.sys.fuses := by simp [State.noteFed]
@[simp] theorem State.placeTx_fuses (core p n) : (s.placeTx core p n).sys.fuses = s.sys.fuses := by
  unfold State.placeTx
  split <;> simp
@[simp] theorem State.enqueue_fuses (w batch ls a sc place work irrev req) :
    (s.enqueue w batch ls a sc place work irrev req).sys.fuses = s.sys.fuses := by
  simp [State.enqueue]
@[simp] theorem State.enqueuePieces_fuses (w batch ls a ps bs) : (s.enqueuePieces w batch ls a ps bs).sys.fuses = s.sys.fuses := by
  induction ps generalizing s bs with
  | nil => rfl
  | cons p ps ih => simp [State.enqueuePieces, ih]
@[simp] theorem State.bridge1_fuses (w x y sc lane) : (s.bridge1 w x y sc lane).sys.fuses = s.sys.fuses := by simp [State.bridge1]
@[simp] theorem State.applyAll_fuses (core p) : (s.applyAll core p).sys.fuses = s.sys.fuses := by simp [State.applyAll]

/-! ### Load and store instructions -/

@[simp] theorem State.touchLanes_fuses (w m f) : (s.touchLanes w m f).sys.fuses = s.sys.fuses := by simp [State.touchLanes]
@[simp] theorem State.accessAt_keeps {α : Type} {s : State} {h : Hd} {rs : List VRead} {ds : List VName} {bad : Bool}
    {touch : Who → State → Nat → List (Nat × Nat)} {f : Who → Nat → Except Flt α}
    {go : State → Who → LaneMask → List (Nat × α) → Outcome State Fault Refusal} (hs : s.sys.fuses = F)
    (hg : ∀ t w m xs, t.sys.fuses = F → Keeps F (go t w m xs)) : Keeps F (s.accessAt h rs ds bad touch f go) := by
  unfold State.accessAt
  refine State.withIssuer_keeps fun w => ?_
  dsimp only
  (repeat' split) <;> simp [hs, hg]
@[simp] theorem State.access_keeps {α : Type} {s : State} {h : Hd} {rs : List VRead} {ds : List VName} {bad : Bool}
    {f : Who → Nat → Except Flt α} {go : Who → LaneMask → List (Nat × α) → Outcome State Fault Refusal} (hs : s.sys.fuses = F)
    (hg : ∀ w m xs, Keeps F (go w m xs)) : Keeps F (s.access h rs ds bad f go) :=
  State.accessAt_keeps hs fun _ w m xs _ => hg w m xs
@[simp] theorem State.beforeLoads_fuses (w a xs) : (s.beforeLoads w a xs).2.sys.fuses = s.sys.fuses := by
  unfold State.beforeLoads
  dsimp only
  split
  · rfl
  · split <;> next h => exact fuses_snd h (State.drainFor_fuses ..)
theorem State.beforeLoads_fuses_of_some {s t u : State} {w a xs} (h : s.beforeLoads w a xs = (some t, u)) : t.sys.fuses = s.sys.fuses := by
  rw [← fuses_snd h (State.beforeLoads_fuses ..)]
  unfold State.beforeLoads at h
  dsimp only at h
  (repeat' split at h) <;> grind
@[simp] theorem State.afterRead_fuses (w a l sc ms) : (s.afterRead w a l sc ms).sys.fuses = s.sys.fuses := by simp [State.afterRead]
@[simp] theorem State.seeAll_fuses (w a xs) : (s.seeAll w a xs).sys.fuses = s.sys.fuses := by simp [State.seeAll]
@[simp] theorem State.readLanes_fuses (w a xs rd) : (s.readLanes w a xs rd).2.sys.fuses = s.sys.fuses := by
  induction xs generalizing s rd with
  | nil => rfl
  | cons x xs ih => simp [State.readLanes, ih]
@[simp] theorem State.loadGlobal_keeps {s : State} {w h a xs wb d wd f} (hF : s.sys.fuses = F) :
    Keeps F (s.loadGlobal w h a xs wb d wd f) := by
  unfold State.loadGlobal
  split
  · next heq => simp [fuses_snd heq (State.beforeLoads_fuses ..), hF]
  · next heq => simp [State.beforeLoads_fuses_of_some heq, hF]
@[simp] theorem execLd_keeps (o) {s : State} (hF : s.sys.fuses = F) : Keeps F (execLd o s) := by
  refine State.withIssuer_keeps fun w => ?_
  dsimp only
  (repeat' split) <;> simp [hF]
@[simp] theorem State.bankDone_fuses (w h new all f) : (s.bankDone w h new all f).sys.fuses = s.sys.fuses := by simp [State.bankDone]
@[simp] theorem State.readBanks_fuses (w a n xs) : (s.readBanks w a n xs).2.sys.fuses = s.sys.fuses := by
  induction xs generalizing s with
  | nil => rfl
  | cons x xs ih => simp [State.readBanks, ih]
@[simp] theorem execLdl_keeps (o) {s : State} (hF : s.sys.fuses = F) : Keeps F (execLdl o s) := by
  refine State.access_keeps hF fun w m xs => ?_
  dsimp only
  split
  · next heq => simp [fuses_snd heq (State.beforeLoads_fuses ..), hF]
  · next heq => simp [State.beforeLoads_fuses_of_some heq, hF]
@[simp] theorem execStl_keeps (o) {s : State} (hF : s.sys.fuses = F) : Keeps F (execStl o s) := by
  refine State.withIssuer_keeps fun w => ?_
  dsimp only
  (repeat' split) <;> simp [hF]
@[simp] theorem execLdx_keeps (o) {s : State} (hF : s.sys.fuses = F) : Keeps F (execLdx o s) := by
  refine State.withIssuer_keeps fun w => ?_
  dsimp only
  (repeat' split) <;> simp [hF]
@[simp] theorem State.stxLane_fuses (w batch o g l e) : (s.stxLane w batch o g l e).sys.fuses = s.sys.fuses := by simp [State.stxLane]
@[simp] theorem execStx_keeps (o) {s : State} (hF : s.sys.fuses = F) : Keeps F (execStx o s) := by
  refine State.withIssuer_keeps fun w => ?_
  dsimp only
  (repeat' split) <;> simp [hF]
@[simp] theorem State.prefetch_fuses (w l a) : (s.prefetch w l a).sys.fuses = s.sys.fuses := by
  unfold State.prefetch
  dsimp only
  split
  · simp
  · refine (foldl_fuses (fun s p => ?_) _ _).trans (by simp)
    split <;> simp
@[simp] theorem execPref_keeps (o) {s : State} (hF : s.sys.fuses = F) : Keeps F (execPref o s) := by
  refine State.withIssuer_keeps fun w => ?_
  dsimp only
  (repeat' split) <;> simp [hF]
@[simp] theorem execCctlIv_keeps (h base imm) {s : State} (hF : s.sys.fuses = F) : Keeps F (execCctlIv h base imm s) := by
  refine State.withIssuer_keeps fun w => ?_
  dsimp only
  split
  · simp [hF]
  · simp only [keeps_next, State.skip_fuses]
    refine (foldl_fuses (fun s l => ?_) _ _).trans hF
    split
    · simp
    · refine (foldl_fuses (fun s p => ?_) _ _).trans (by simp)
      split <;> simp

/-! ### Atomics -/

@[simp] theorem State.readWords_fuses (w n ps) : (s.readWords w n ps).2.sys.fuses = s.sys.fuses := by
  induction ps generalizing s with
  | nil => rfl
  | cons p ps ih =>
    unfold State.readWords
    dsimp only
    rw [ih]
    (repeat' split) <;> simp
@[simp] theorem State.logWords_fuses (w n xs) : (s.logWords w n xs).2.sys.fuses = s.sys.fuses := by
  induction xs generalizing s with
  | nil => rfl
  | cons x xs ih =>
    unfold State.logWords
    split
    · next pa _ _ =>
      have h := s.logWrite_fuses w.ctx pa n
      (repeat' split) <;> simp_all
    · exact ih s
theorem State.logWords_fuses_of_some {s t u : State} {w n xs} (h : s.logWords w n xs = (some t, u)) : t.sys.fuses = s.sys.fuses := by
  rw [← fuses_snd h (State.logWords_fuses ..)]
  induction xs generalizing s with
  | nil => grind [State.logWords]
  | cons x xs ih => grind [State.logWords]
@[simp] theorem State.atomEvents_fuses (w a sc ms id wrote ls new) :
    (s.atomEvents w a sc ms id wrote ls new).2.sys.fuses = s.sys.fuses := by
  induction ls generalizing s new with
  | nil => rfl
  | cons l ls ih => simp only [State.atomEvents]; split <;> simp [ih]
@[simp] theorem State.writeWord_fuses (w n id d ls rels x) : (s.writeWord w n id d ls rels x).sys.fuses = s.sys.fuses := by
  unfold State.writeWord
  split <;> simp
@[simp] theorem State.writeWords_fuses (w a n wrote xs ws) : (s.writeWords w a n wrote xs ws).sys.fuses = s.sys.fuses := by
  simp [State.writeWords]
@[simp] theorem State.placeAtomic_fuses (core p n) : (s.placeAtomic core p n).sys.fuses = s.sys.fuses := by
  unfold State.placeAtomic
  split <;> simp
@[simp] theorem State.atomic_keeps {s : State} {w o all} (hF : s.sys.fuses = F) : Keeps F (s.atomic w o all) := by
  unfold State.atomic
  dsimp only
  split
  · simp [hF]
  · split
    · next heq => simp [fuses_snd heq (State.drainFor_fuses ..), hF]
    · next heq =>
      have hd := (fuses_snd heq (State.drainFor_fuses ..)).trans hF
      split
      · simpa using hd
      · split
        · next heq => simp [fuses_snd heq (State.logWords_fuses ..), hd]
        · next heq => simp [State.logWords_fuses_of_some heq, hd]
@[simp] theorem execAtom_keeps (o) {s : State} (hF : s.sys.fuses = F) : Keeps F (execAtom o s) := by
  refine State.withIssuer_keeps fun w => ?_
  dsimp only
  (repeat' split) <;> simp [hF]

/-! ### Barriers -/

@[simp] theorem State.arriveEvents_fuses (w o xs) : (s.arriveEvents w o xs).sys.fuses = s.sys.fuses := by simp [State.arriveEvents]
@[simp] theorem execBararrive_keeps (o) {s : State} (hF : s.sys.fuses = F) : Keeps F (execBararrive o s) := by
  refine State.access_keeps hF fun w m xs => ?_
  dsimp only
  split
  · simp [hF]
  · split
    · next heq => simp [fuses_snd heq (State.drainFor_fuses ..), hF]
    · next heq => split <;> simp [fuses_snd heq (State.drainFor_fuses ..), hF]
@[simp] theorem State.observeFlip_fuses (w) : (s.observeFlip w).sys.fuses = s.sys.fuses := by simp [State.observeFlip]
@[simp] theorem State.barEvents_fuses (w o ls) : (s.barEvents w o ls).sys.fuses = s.sys.fuses := by simp [State.barEvents]
@[simp] theorem State.barPass_fuses (w o ls) : (s.barPass w o ls).sys.fuses = s.sys.fuses := by simp [State.barPass]
@[simp] theorem State.waitOn_fuses (w x) : (s.waitOn w x).sys.fuses = s.sys.fuses := by simp [State.waitOn]
@[simp] theorem execBarwait_keeps (o) {s : State} (hF : s.sys.fuses = F) : Keeps F (execBarwait o s) := by
  refine State.access_keeps hF fun w m xs => ?_
  split
  · next heq => simp [fuses_snd heq (State.beforeLoads_fuses ..), hF]
  · next heq => simp [State.beforeLoads_fuses_of_some heq, hF]
@[simp] theorem execBartest_keeps (o) {s : State} (hF : s.sys.fuses = F) : Keeps F (execBartest o s) := by
  refine State.access_keeps hF fun w m xs => ?_
  split
  · next heq => simp [fuses_snd heq (State.beforeLoads_fuses ..), hF]
  · next heq => simp [State.beforeLoads_fuses_of_some heq, hF]
@[simp] theorem State.syncRelease_fuses (core slot b) : (s.syncRelease core slot b).sys.fuses = s.sys.fuses := by simp [State.syncRelease]
@[simp] theorem State.trySync_fuses (core slot) : (s.trySync core slot).sys.fuses = s.sys.fuses := by
  unfold State.trySync
  split <;> simp
@[simp] theorem execBlksync_keeps (o) {s : State} (hF : s.sys.fuses = F) : Keeps F (execBlksync o s) := by
  refine State.withIssuer_keeps fun w => ?_
  dsimp only
  (repeat' split) <;> simp [hF]

/-! ### Allotments -/

@[simp] theorem State.tryResize_fuses (core slot grp) : (s.tryResize core slot grp).sys.fuses = s.sys.fuses := by
  unfold State.tryResize
  dsimp only
  (repeat' split) <;> simp
@[simp] theorem State.growStuck_fuses (core part) : (s.growStuck core part).sys.fuses = s.sys.fuses := by
  unfold State.growStuck
  dsimp only
  (repeat' split) <;> simp
@[simp] theorem State.allStuck_fuses (core) : (s.allStuck core).sys.fuses = s.sys.fuses := by simp [State.allStuck]
@[simp] theorem State.everyStuck_fuses : s.everyStuck.sys.fuses = s.sys.fuses := by simp [State.everyStuck]
@[simp] theorem State.clash_fuses (w) : (s.clash w).sys.fuses = s.sys.fuses := by
  unfold State.clash
  dsimp only
  (repeat' split) <;> simp
@[simp] theorem State.gatherAt_fuses {w x go} (hg : ∀ t, (go t).sys.fuses = t.sys.fuses) :
    (s.gatherAt w x go).sys.fuses = s.sys.fuses := by
  simp [State.gatherAt, hg]
@[simp] theorem State.holdPoint_fuses (w k) : (s.holdPoint w k).sys.fuses = s.sys.fuses := by
  unfold State.holdPoint
  split <;> simp
@[simp] theorem State.resize_keeps {s : State} (k up n) (hF : s.sys.fuses = F) : Keeps F (s.resize k up n) := by simp [State.resize, hF]
@[simp] theorem execGrowGrant_keeps (core part) {s : State} (hF : s.sys.fuses = F) : Keeps F (execGrowGrant core part s) := by
  unfold execGrowGrant
  dsimp only
  (repeat' split) <;> simp [hF]

/-! ### Control flow -/

@[simp] theorem State.terminate_keeps {s : State} (go st) (hF : s.sys.fuses = F) : Keeps F (s.terminate go st) := by
  refine State.withIssuer_keeps fun w => ?_
  dsimp only
  (repeat' split) <;> simp [hF]
@[simp] theorem State.takeNeg_fuses (w n) : (s.takeNeg w n).sys.fuses = s.sys.fuses := by
  unfold State.takeNeg
  dsimp only
  (repeat' split) <;> simp
@[simp] theorem execWaitTok_keeps (h wm mask) {s : State} (hF : s.sys.fuses = F) : Keeps F (execWaitTok h wm mask s) := by
  refine State.withIssuer_keeps fun w => ?_
  dsimp only
  (repeat' split) <;> simp [hF]
@[simp] theorem execWaitClkExpiry_keeps (core slot grp ig) {s : State} (hF : s.sys.fuses = F) :
    Keeps F (execWaitClkExpiry core slot grp ig s) := by
  unfold execWaitClkExpiry
  (repeat' split) <;> simp [hF]
@[simp] theorem execAssert_keeps (h n p) {s : State} (hF : s.sys.fuses = F) : Keeps F (execAssert h n p s) := by
  refine State.withIssuer_keeps fun w => ?_
  dsimp only
  (repeat' split) <;> simp [hF]
@[simp] theorem State.encodingFault_keeps {s : State} (c x cause) (hF : s.sys.fuses = F) : Keeps F (s.encodingFault c x cause) := by
  simp [State.encodingFault, hF]

/-! ### Packets -/

@[simp] theorem State.packetTx_fuses (core man o) : (s.packetTx core man o).sys.fuses = s.sys.fuses := by simp [State.packetTx]
@[simp] theorem State.send_fuses (x m man op d sc rel payload seat cmd rop) :
    (s.send x m man op d sc rel payload seat cmd rop).2.sys.fuses = s.sys.fuses := by
  simp [State.send]
@[simp] theorem State.nextItem_fuses (core slot cv) : (s.nextItem core slot cv).2.sys.fuses = s.sys.fuses := by
  unfold State.nextItem
  split <;> simp

/-! ### Endpoints -/

@[simp] theorem State.putImage_fuses (x old new) : (s.putImage x old new).sys.fuses = s.sys.fuses := by simp [State.putImage]
@[simp] theorem State.modEnd_fuses (e f) : (s.modEnd e f).sys.fuses = s.sys.fuses := by
  unfold State.modEnd
  split <;> simp

/-! ### Commands of the engines -/

@[simp] theorem State.settleLocal_fuses (w m) : (s.settleLocal w m).2.sys.fuses = s.sys.fuses := State.drainFor_fuses ..
@[simp] theorem State.bumpCe_fuses (core i n) : (s.bumpCe core i n).sys.fuses = s.sys.fuses := by simp [State.bumpCe]
@[simp] theorem State.issueCmd_keeps {s : State} (w m k tag a op ep) (hF : s.sys.fuses = F) : Keeps F (s.issueCmd w m k tag a op ep) := by
  simp [State.issueCmd, hF]
@[simp] theorem State.modCmd_fuses (x f) : (s.modCmd x f).sys.fuses = s.sys.fuses := by simp [State.modCmd]
@[simp] theorem State.faultFar_fuses (c e) : (s.faultFar c e).sys.fuses = s.sys.fuses := by
  unfold State.faultFar
  dsimp only
  (repeat' split) <;> simp
@[simp] theorem State.releaseCmd_fuses (x) : (s.releaseCmd x).sys.fuses = s.sys.fuses := by simp [State.releaseCmd]
@[simp] theorem State.completeCmd_fuses (x) : (s.completeCmd x).sys.fuses = s.sys.fuses := by simp [State.completeCmd]
@[simp] theorem State.failCmd_fuses (x f) : (s.failCmd x f).sys.fuses = s.sys.fuses := by simp [State.failCmd]
@[simp] theorem State.engRead_fuses (x fresh ps) : (s.engRead x fresh ps).2.sys.fuses = s.sys.fuses := by
  refine foldl_snd_fuses (fun p y => ?_) _ _
  dsimp only
  (repeat' split) <;> simp
@[simp] theorem State.engPut_fuses (x p bs) : (s.engPut x p bs).state.sys.fuses = s.sys.fuses := by simp [State.engPut]
@[simp] theorem State.engWrite_fuses (x ps bs) : (s.engWrite x ps bs).state.sys.fuses = s.sys.fuses := by
  induction ps generalizing s bs with
  | nil => rfl
  | cons p ps ih =>
    have h := s.engPut_fuses x p (bs.take p.n)
    unfold State.engWrite
    split <;> simp_all
@[simp] theorem State.sealFor_fuses (c) : (s.sealFor c).sys.fuses = s.sys.fuses := by
  unfold State.sealFor
  split <;> simp
@[simp] theorem Logged.did_fuses {r : Logged} {s : State} {c} (h : r.state.sys.fuses = s.sys.fuses) :
    (r.did s c).state.sys.fuses = s.sys.fuses := by
  cases r <;> simp_all [Logged.did]
@[simp] theorem State.runUnits_fuses {x step is} (hs : ∀ t i, (step t i).state.sys.fuses = t.sys.fuses) :
    (s.runUnits x step is).1.sys.fuses = s.sys.fuses := by
  induction is generalizing s with
  | nil => rfl
  | cons i is ih =>
    have h := hs s i
    unfold State.runUnits
    split <;> simp_all
@[simp] theorem State.engDraw_fuses (x) : (s.engDraw x).2.sys.fuses = s.sys.fuses := by
  unfold State.engDraw
  dsimp only
  (repeat' split) <;> simp
@[simp] theorem State.observeTags_fuses (w p) : (s.observeTags w p).sys.fuses = s.sys.fuses := by simp [State.observeTags]
@[simp] theorem State.tagTrap_fuses (w m k) : (s.tagTrap w m k).sys.fuses = s.sys.fuses := by simp [State.tagTrap]

/-! ### Tensor movement -/

@[simp] theorem State.tensorRead_fuses (x h a n fresh) : (rowState (s.tensorRead x h a n fresh)).sys.fuses = s.sys.fuses := by
  unfold State.tensorRead
  dsimp only
  (repeat' split) <;> simp
@[simp] theorem State.readRow_fuses (x v r) : (rowState (s.readRow x v r)).sys.fuses = s.sys.fuses := by
  refine foldE_fuses (fun p o => ?_) _ _
  dsimp only
  split
  · next heq => exact fuses_row_error heq (State.tensorRead_fuses ..)
  · next heq => exact fuses_row_ok heq (State.tensorRead_fuses ..)
@[simp] theorem State.engDraws_fuses (x n) : (s.engDraws x n).2.sys.fuses = s.sys.fuses := by
  induction n generalizing s with
  | zero => rfl
  | succ n ih => simp [State.engDraws, ih]
@[simp] theorem State.encodeVals_fuses (x df sf vs fill) : (s.encodeVals x df sf vs fill).2.sys.fuses = s.sys.fuses := by
  refine foldl_snd_fuses (fun p v => ?_) _ _
  cases v <;> simp
@[simp] theorem State.encodeBlock_fuses (x df vs) : (s.encodeBlock x df vs).2.sys.fuses = s.sys.fuses := by simp [State.encodeBlock]
@[simp] theorem State.denseRow_fuses (x v r) : (rowState (s.denseRow x v r)).sys.fuses = s.sys.fuses := by
  unfold State.denseRow
  dsimp only
  split
  · next heq => exact fuses_row_error heq (State.readRow_fuses ..)
  · next heq =>
    have h := fuses_row_ok heq (State.readRow_fuses ..)
    split
    · exact h
    · split
      · exact h
      · split
        · refine Eq.trans ?_ h
          refine foldl_snd_fuses (fun p b => ?_) _ _
          split <;> simp
        · simpa using h
@[simp] theorem State.putDense_fuses (x v r bs) : (s.putDense x v r bs).sys.fuses = s.sys.fuses := by simp [State.putDense]
@[simp] theorem State.tensorOuts_fuses (x v r) : (s.tensorOuts x v r).2.sys.fuses = s.sys.fuses := by
  unfold State.tensorOuts
  dsimp only
  split
  · rfl
  · split
    · split
      · rfl
      · refine foldl_snd_fuses (fun p j => ?_) _ _
        split <;> simp
    · split
      · refine foldl_snd_fuses (fun p j => ?_) _ _
        split <;> simp
      · refine foldl_snd_fuses (fun p j => ?_) _ _
        (repeat' split) <;> simp
@[simp] theorem State.putTensor_fuses {s0 s : State} {x h os} (hs : s.sys.fuses = s0.sys.fuses) :
    (State.putTensor s0 s x h os).state.sys.fuses = s0.sys.fuses := by
  induction os generalizing s with
  | nil => exact hs
  | cons o os ih =>
    unfold State.putTensor
    split
    · simp [ih, hs]
    · split
      · simp [hs]
      · dsimp only
        split
        · simp [hs]
        · split
          · simp [hs]
          · split
            · next heq => exact ih (Did.fuses_done heq (Logged.did_fuses (by simp [hs])))
            · exact Logged.did_fuses (by simp [hs])
@[simp] theorem State.creditOwn_fuses (x n) : (s.creditOwn x n).sys.fuses = s.sys.fuses := by
  unfold State.creditOwn
  split <;> simp
@[simp] theorem State.moveRow_fuses (x v r) : (s.moveRow x v r).state.sys.fuses = s.sys.fuses := by
  unfold State.moveRow
  dsimp only
  split
  · have h := State.putTensor_fuses (x := x) (h := v.h) (os := joinHalves (s.tensorOuts x v r).1) (s.tensorOuts_fuses x v r)
    split
    · next heq => simpa using Did.fuses_done heq h
    · exact h
  · split
    · next heq => exact fuses_row_error heq (State.denseRow_fuses ..)
    · next heq => simpa using fuses_row_ok heq (State.denseRow_fuses ..)
@[simp] theorem State.remoteOuts_fuses (x v r) : (rowState (s.remoteOuts x v r)).sys.fuses = s.sys.fuses := by
  unfold State.remoteOuts
  dsimp only
  split
  · simp
  · split
    · next heq => exact fuses_row_error heq (State.denseRow_fuses ..)
    · next heq => exact fuses_row_ok heq (State.denseRow_fuses ..)
@[simp] theorem State.flushPackets_fuses (x l ready total fuel) : (s.flushPackets x l ready total fuel).2.sys.fuses = s.sys.fuses := by
  induction fuel generalizing s with
  | zero => rfl
  | succ n ih =>
    unfold State.flushPackets
    dsimp only
    (repeat' split) <;> simp [ih]
@[simp] theorem State.remoteUnit_fuses (x v coll bar i) : (s.remoteUnit x v coll bar i).state.sys.fuses = s.sys.fuses := by
  unfold State.remoteUnit
  dsimp only
  split
  · next t heq =>
    split at heq
    · cases heq
    · exact fuses_snd heq (State.flushPackets_fuses ..)
  · next t heq =>
    have h : t.sys.fuses = s.sys.fuses := by
      split at heq
      · cases heq
        rfl
      · exact fuses_snd heq (State.flushPackets_fuses ..)
    generalize hu : (ite (i % v.h.rows = 0) _ t : State) = u
    have h : u.sys.fuses = s.sys.fuses := by
      simp [← hu, h]
    split
    · exact h
    · split <;>
      · split
        · exact h
        · split
          · next heq => exact (fuses_row_error heq (State.remoteOuts_fuses ..)).trans h
          · next heq =>
            have h := (fuses_row_ok heq (State.remoteOuts_fuses ..)).trans h
            split <;> simp [h]
@[simp] theorem State.askRow_fuses (x v r) : (s.askRow x v r).sys.fuses = s.sys.fuses := by simp [State.askRow]

/-! ### The matrix engine -/

@[simp] theorem State.telAppend_fuses (core c bits) : (s.telAppend core c bits).sys.fuses = s.sys.fuses := by simp [State.telAppend]
@[simp] theorem State.countSteps_fuses (core m) : (s.countSteps core m).sys.fuses = s.sys.fuses := by simp [State.countSteps]
@[simp] theorem State.telemetry_fuses (x m i b res) : (s.telemetry x m i b res).sys.fuses = s.sys.fuses := by simp [State.telemetry]
@[simp] theorem State.subBlock_fuses (x m) : (s.subBlock x m).sys.fuses = s.sys.fuses := by
  unfold State.subBlock
  split <;> simp
@[simp] theorem State.subBlocks_fuses (core slot k n) : (s.subBlocks core slot k n).sys.fuses = s.sys.fuses := by
  induction n generalizing s with
  | zero => rfl
  | succ n ih =>
    unfold State.subBlocks
    (repeat' split) <;> simp [ih]
@[simp] theorem execTmmaSubblock_keeps (core slot k) {s : State} (hF : s.sys.fuses = F) : Keeps F (execTmmaSubblock core slot k s) := by
  unfold execTmmaSubblock
  (repeat' split) <;> simp [hF]
@[simp] theorem execFollowOnStart_keeps (core slot k) {s : State} (hF : s.sys.fuses = F) : Keeps F (execFollowOnStart core slot k s) := by
  unfold execFollowOnStart
  (repeat' split) <;> simp [hF]

/-! ### Copies and tags -/

@[simp] theorem State.fail_keeps {s : State} (w m cause) (hF : s.sys.fuses = F) : Keeps F (s.fail w m cause) := by simp [State.fail, hF]
@[simp] theorem State.once_keeps {s : State} {h a f} (hs : s.sys.fuses = F) (hf : ∀ t w m, t.sys.fuses = F → Keeps F (f t w m)) :
    Keeps F (s.once h a f) := by
  simp [State.once, State.fail, hs, hf]
@[simp] theorem State.onceLocal_keeps {s : State} {h a f} (hs : s.sys.fuses = F) (hf : ∀ t w m, t.sys.fuses = F → Keeps F (f t w m)) :
    Keeps F (s.onceLocal h a f) := by
  refine State.once_keeps hs fun s w m hs => ?_
  split
  · next heq => simpa using (fuses_snd heq (State.settleLocal_fuses ..)).trans hs
  · next heq =>
    have ht := (fuses_snd heq (State.settleLocal_fuses ..)).trans hs
    split
    · exact hf _ _ _ ht
    · simpa using ht
@[simp] theorem execCpy_keeps (o) {s : State} (hF : s.sys.fuses = F) : Keeps F (execCpy o s) := by
  refine State.access_keeps hF fun w m xs => ?_
  split
  · simp [hF]
  · split
    · simp [hF]
    · split
      · next heq => simp [fuses_snd heq (State.settleLocal_fuses ..), hF]
      · next heq => split <;> simp [fuses_snd heq (State.settleLocal_fuses ..), hF]
@[simp] theorem State.cpyUnit_fuses (x dir n c) : (s.cpyUnit x dir n c).state.sys.fuses = s.sys.fuses := by
  unfold State.cpyUnit
  dsimp only
  split
  · simp
  · next bs t heq =>
    have h : t.sys.fuses = s.sys.fuses := by
      (repeat' split at heq) <;> simp only [Except.ok.injEq, reduceCtorEq, Prod.mk.injEq] at heq
      · simp [← heq.2]
      · simp [← heq.2]
      · simp [fuses_snd heq (State.engRead_fuses ..)]
      · simp [← heq.2]
      · simp [← heq.2]
    split
    · split
      · simp [h]
      · exact Logged.did_fuses (by simp [h])
    · simp [h]
@[simp] theorem State.passTags_fuses (w mask any) : (s.passTags w mask any).sys.fuses = s.sys.fuses := by simp [State.passTags]
@[simp] theorem execCpywait_keeps (h any mask) {s : State} (hF : s.sys.fuses = F) : Keeps F (execCpywait h any mask s) := by
  refine State.withIssuer_keeps fun w => ?_
  dsimp only
  (repeat' split) <;> simp [hF]
@[simp] theorem execTagff_keeps (h d mask) {s : State} (hF : s.sys.fuses = F) : Keeps F (execTagff h d mask s) := by
  refine State.withIssuer_keeps fun w => ?_
  dsimp only
  (repeat' split) <;> simp [hF]
@[simp] theorem State.tileMove_keeps {s : State} (o load) (hF : s.sys.fuses = F) : Keeps F (s.tileMove o load) := by
  refine State.onceLocal_keeps hF fun s w m hs => ?_
  (repeat' split) <;> simp [hs]
@[simp] theorem execTzero_keeps (h tag tile) {s : State} (hF : s.sys.fuses = F) : Keeps F (execTzero h tag tile s) := by
  refine State.onceLocal_keeps hF fun s w m hs => ?_
  (repeat' split) <;> simp [hs]
@[simp] theorem execTacc_keeps (h add tag tile base) {s : State} (hF : s.sys.fuses = F) : Keeps F (execTacc h add tag tile base s) := by
  refine State.onceLocal_keeps hF fun s w m hs => ?_
  (repeat' split) <;> simp [hs]
@[simp] theorem State.taccUnit_fuses (x t c base add) : (s.taccUnit x t c base add).sys.fuses = s.sys.fuses := by simp [State.taccUnit]
@[simp] theorem execTmma_keeps (h tag desc) {s : State} (hF : s.sys.fuses = F) : Keeps F (execTmma h tag desc s) := by
  refine State.onceLocal_keeps hF fun s w m hs => ?_
  (repeat' split) <;> simp [hs]
@[simp] theorem execTcpy_keeps (o) {s : State} (hF : s.sys.fuses = F) : Keeps F (execTcpy o s) := by
  refine State.onceLocal_keeps hF fun s w m hs => ?_
  dsimp only
  (repeat' split) <;> simp [hs]
@[simp] theorem execTdrain_keeps (o) {s : State} (hF : s.sys.fuses = F) : Keeps F (execTdrain o s) := by
  refine State.onceLocal_keeps hF fun s w m hs => ?_
  dsimp only
  (repeat' split) <;> simp [hs]
@[simp] theorem State.xsendUnit_fuses (x src len dst bar i) : (s.xsendUnit x src len dst bar i).state.sys.fuses = s.sys.fuses := by
  unfold State.xsendUnit
  dsimp only
  (repeat' split) <;> simp
@[simp] theorem State.unit_fuses (x i) : (s.unit x i).state.sys.fuses = s.sys.fuses := by
  unfold State.unit
  (repeat' split) <;> simp
@[simp] theorem State.settleCmd_fuses (core slot k) : (s.settleCmd core slot k).sys.fuses = s.sys.fuses := by
  unfold State.settleCmd
  split <;> simp
@[simp] theorem State.landCmd_fuses (x) : (s.landCmd x).sys.fuses = s.sys.fuses := by
  unfold State.landCmd
  split <;> simp
@[simp] theorem State.askRows_fuses (x v n) : (s.askRows x v n).2.sys.fuses = s.sys.fuses := by
  unfold State.askRows
  split <;> simp
@[simp] theorem State.advanceCmd_fuses (x is) : (s.advanceCmd x is).sys.fuses = s.sys.fuses := by
  have h := State.runUnits_fuses (s := s) (x := x) (is := is) fun t i => t.unit_fuses x i
  unfold State.advanceCmd
  split
  · simp_all
  · (repeat' split) <;> simp_all
@[simp] theorem State.beginCmd_fuses (x) : (s.beginCmd x).sys.fuses = s.sys.fuses := by
  unfold State.beginCmd
  dsimp only
  (repeat' split) <;> simp
@[simp] theorem State.workCmd_fuses (x part) : (s.workCmd x part).sys.fuses = s.sys.fuses := by
  unfold State.workCmd
  (repeat' split)
  · next heq => simpa using fuses_snd heq (State.askRows_fuses ..)
  · next heq => exact fuses_snd heq (State.askRows_fuses ..)
  · simp
  · simp
@[simp] theorem execCommandComplete_keeps (core slot k part) {s : State} (hF : s.sys.fuses = F) :
    Keeps F (execCommandComplete core slot k part s) := by
  unfold execCommandComplete
  dsimp only
  (repeat' split) <;> simp [hF]

/-! ### Remote operations -/

@[simp] theorem State.sendDrafts_fuses (w act m man k seat rop ds sent) :
    (s.sendDrafts w act m man k seat rop ds sent).2.sys.fuses = s.sys.fuses := by
  induction ds generalizing s sent with
  | nil => rfl
  | cons d ds ih => simp [State.sendDrafts, ih]
@[simp] theorem State.remote_keeps {s : State} (w k act m cv man x ds) (hF : s.sys.fuses = F) :
    Keeps F (s.remote w k act m cv man x ds) := by
  simp [State.remote, hF]
@[simp] theorem execXld_keeps (o) {s : State} (hF : s.sys.fuses = F) : Keeps F (execXld o s) := by
  refine State.withIssuer_keeps fun w => ?_
  dsimp only
  (repeat' split) <;> simp [hF]
@[simp] theorem execXst_keeps (o) {s : State} (hF : s.sys.fuses = F) : Keeps F (execXst o s) := by
  refine State.withIssuer_keeps fun w => ?_
  dsimp only
  (repeat' split) <;> simp [hF]
@[simp] theorem execXatom_keeps (o) {s : State} (hF : s.sys.fuses = F) : Keeps F (execXatom o s) := by
  refine State.withIssuer_keeps fun w => ?_
  dsimp only
  (repeat' split) <;> simp [hF]
@[simp] theorem execXsend_keeps (h acc tag desc bar) {s : State} (hF : s.sys.fuses = F) : Keeps F (execXsend h acc tag desc bar s) := by
  refine State.onceLocal_keeps hF fun s w m hs => ?_
  (repeat' split) <;> simp [hs]
@[simp] theorem execCvopen_keeps (h c e) {s : State} (hF : s.sys.fuses = F) : Keeps F (execCvopen h c e s) := by
  refine State.withIssuer_keeps fun w => ?_
  dsimp only
  (repeat' split) <;> simp [hF]
@[simp] theorem execFencef_keeps (h dom c bar n) {s : State} (hF : s.sys.fuses = F) : Keeps F (execFencef h dom c bar n s) := by
  refine State.withIssuer_keeps fun w => ?_
  dsimp only
  (repeat' split) <;> simp [hF]
@[simp] theorem execSlotrsv_keeps (h d e b) {s : State} (hF : s.sys.fuses = F) : Keeps F (execSlotrsv h d e b s) := by
  refine State.withIssuer_keeps fun w => ?_
  dsimp only
  (repeat' split) <;> simp [hF]
@[simp] theorem State.slotFree_keeps {s : State} (h j fault) (hF : s.sys.fuses = F) : Keeps F (s.slotFree h j fault) := by
  refine State.withIssuer_keeps fun w => ?_
  dsimp only
  (repeat' split) <;> simp [hF]

/-! ### WAYMARK and IRREV -/

@[simp] theorem State.wayWho_fuses (core slot grp) : (s.wayWho core slot grp).2.sys.fuses = s.sys.fuses := by
  unfold State.wayWho
  (repeat' split) <;> simp
@[simp] theorem State.tryWay_fuses (core slot grp) : (s.tryWay core slot grp).sys.fuses = s.sys.fuses := by
  have hw {o t} (h : s.wayWho core slot grp = (o, t)) := fuses_snd h (State.wayWho_fuses ..)
  unfold State.tryWay
  dsimp only
  (repeat' split) <;> simp_all
@[simp] theorem execWaymark_keeps (k d vg) {s : State} (hF : s.sys.fuses = F) : Keeps F (execWaymark k d vg s) := by
  refine State.withIssuer_keeps fun w => ?_
  (repeat' split) <;> simp [hF]
@[simp] theorem execIrrev_keeps (h) {s : State} (hF : s.sys.fuses = F) : Keeps F (execIrrev h s) := by
  refine State.withIssuer_keeps fun w => ?_
  dsimp only
  (repeat' split) <;> simp [hF]

/-! ### Itineraries -/

@[simp] theorem State.modItin_fuses (id f) : (s.modItin id f).sys.fuses = s.sys.fuses := by simp [State.modItin]

/-! ### System instructions -/

@[simp] theorem State.locTouch_fuses (w kind a l) : (s.locTouch w kind a l).sys.fuses = s.sys.fuses := by
  unfold State.locTouch
  split <;> simp
@[simp] theorem execLocq_keeps (h kind d a) {s : State} (hF : s.sys.fuses = F) : Keeps F (execLocq h kind d a s) := by
  refine State.withIssuer_keeps fun w => ?_
  dsimp only
  (repeat' split) <;> simp [hF]
@[simp] theorem State.launch_fuses (c q rec top) : (s.launch c q rec top).2.sys.fuses = s.sys.fuses := by
  unfold State.launch
  dsimp only
  (repeat' split) <;> simp
@[simp] theorem execLaunch_keeps (k d r q) {s : State} (hF : s.sys.fuses = F) : Keeps F (execLaunch k d r q s) := by
  refine State.withIssuer_keeps fun w => ?_
  dsimp only
  iterate 4
    split
    · simp [State.fail, hF]
  split
  · next heq => simp [fuses_snd heq (State.drainFor_fuses ..), hF]
  · next heq => simp [fuses_snd heq (State.drainFor_fuses ..), hF]
@[simp] theorem State.rfe_keeps {s : State} (next) (hF : s.sys.fuses = F) : Keeps F (s.rfe next) := by simp [State.rfe, hF]
@[simp] theorem execCtlrd_keeps (h d r) {s : State} (hF : s.sys.fuses = F) : Keeps F (execCtlrd h d r s) := by
  refine State.withIssuer_keeps fun w => ?_
  dsimp only
  (repeat' split) <;> simp [hF]
@[simp] theorem execCtlwr_keeps (h r n) {s : State} (hF : s.sys.fuses = F) : Keeps F (execCtlwr h r n s) := by
  unfold execCtlwr
  split <;> simp [hF]
@[simp] theorem execTraprd_keeps (h d k) {s : State} (hF : s.sys.fuses = F) : Keeps F (execTraprd h d k s) := by
  refine State.withIssuer_keeps fun w => ?_
  dsimp only
  (repeat' split) <;> simp [hF]

/-! ### What a packet does where it lands -/

@[simp] theorem State.homeStore_fuses (f atomic ps bs) : (s.homeStore f atomic ps bs).state.sys.fuses = s.sys.fuses := by
  induction ps generalizing s bs with
  | nil => rfl
  | cons p ps ih =>
    unfold State.homeStore
    dsimp only
    split
    · next heq => simp [ih, Logged.fuses_ok heq (State.putHome_fuses ..)]
    · simp
@[simp] theorem State.homeStores_fuses (f xs) : (s.homeStores f xs).state.sys.fuses = s.sys.fuses := by
  induction xs generalizing s with
  | nil => rfl
  | cons x xs ih =>
    have h := s.homeStore_fuses f false x.1 x.2
    unfold State.homeStores
    split <;> simp_all
@[simp] theorem State.homeLoad_fuses (f ps) : (s.homeLoad f ps).2.sys.fuses = s.sys.fuses := foldl_snd_fuses (fun p x => by simp) ps ([], s)
@[simp] theorem State.homeAtoms_fuses (f op ty xs) : (s.homeAtoms f op ty xs).1.state.sys.fuses = s.sys.fuses := by
  induction xs generalizing s with
  | nil => rfl
  | cons x xs ih =>
    have h (o : Option Dword) : (match o with
        | some v => (s.homeLoad f x.1).2.homeStore f true x.1 (whole (leBytes (sizeOf ty) v.toNat))
        | none => Logged.ok (s.homeLoad f x.1).2).state.sys.fuses = s.sys.fuses := by
      cases o <;> simp
    unfold State.homeAtoms
    dsimp only
    split
    · next heq => exact (ih _).trans (Logged.fuses_ok heq (h _))
    · exact h _
@[simp] theorem State.mergeElem_fuses (f rop ps v) : (s.mergeElem f rop ps v).state.sys.fuses = s.sys.fuses := by
  unfold State.mergeElem
  (repeat' split) <;> simp
@[simp] theorem State.reduceElem_fuses (f rop ps v) : (s.reduceElem f rop ps v).state.sys.fuses = s.sys.fuses := by
  unfold State.reduceElem
  dsimp only
  split
  · split
    · next pa _ =>
      have h := s.logFor_fuses (s.makerOf f) pa v.length
      split <;> simp_all
    · simp
  · simp
@[simp] theorem State.reduceAll_fuses (f rop ordered xs) : (State.reduceAll f rop ordered xs s).state.sys.fuses = s.sys.fuses := by
  induction xs generalizing s with
  | nil => rfl
  | cons x xs ih =>
    have hx : (if ordered then s.mergeElem f rop x.1 x.2 else s.reduceElem f rop x.1 x.2).state.sys.fuses = s.sys.fuses := by simp
    unfold State.reduceAll
    split
    · next heq => exact (ih _).trans (Logged.fuses_ok heq hx)
    · exact hx
@[simp] theorem State.noteRank_fuses (rank cmask pa) : (s.noteRank rank cmask pa).sys.fuses = s.sys.fuses := by simp [State.noteRank]
@[simp] theorem State.dropDup_fuses (home) : (s.dropDup home).sys.fuses = s.sys.fuses := by simp [State.dropDup]
@[simp] theorem State.collMark_fuses (dom p home) : (s.collMark dom p home).sys.fuses = s.sys.fuses := by
  unfold State.collMark
  split <;> simp
@[simp] theorem Logged.landed_fuses {r : Logged} {s0 : State} {f a ms} (h : r.state.sys.fuses = s0.sys.fuses) :
    (r.landed s0 f a ms).state.sys.fuses = s0.sys.fuses := by
  unfold Logged.landed
  split
  · exact h
  · split <;> simp
  · simp
@[simp] theorem State.landHome_fuses (f) : (s.landHome f).state.sys.fuses = s.sys.fuses := by
  unfold State.landHome
  dsimp only
  split
  · split
    · rfl
    · split
      · simp
      · exact Logged.landed_fuses (by simp)
  · split
    · rfl
    · exact foldl_snd_fuses (fun p l => by simp) _ _
  · split
    · rfl
    · split
      · rfl
      · exact Logged.landed_fuses (by simp)
  · split
    · rfl
    · split
      · rfl
      · split
        · simp
        · split
          · exact Logged.landed_fuses (by simp)
          · split
            · exact Logged.landed_fuses (by simp)
            · rfl
  · rfl
  · rfl
@[simp] theorem State.localMarks_fuses (f core slot) : (s.localMarks f core slot).sys.fuses = s.sys.fuses := by simp [State.localMarks]
@[simp] theorem State.landCore_fuses (f) : (s.landCore f).state.sys.fuses = s.sys.fuses := by
  unfold State.landCore
  dsimp only
  (repeat' split) <;> simp
@[simp] theorem State.landRx_fuses (f) : (s.landRx f).sys.fuses = s.sys.fuses := by simp [State.landRx]
@[simp] theorem State.land_fuses (f) : (s.land f).state.sys.fuses = s.sys.fuses := by
  unfold State.land
  split
  · simp
  · split
    · rfl
    · have h : (if f.p.toCore then s.landCore f else s.landHome f).state.sys.fuses = s.sys.fuses := by
        split <;> simp
      split
      · next heq =>
        rw [heq] at h
        split <;> simpa using h
      · exact h

/-! ### The fabric -/

@[simp] theorem State.modFlight_fuses (id f) : (s.modFlight id f).sys.fuses = s.sys.fuses := by simp [State.modFlight]
@[simp] theorem State.dropFlight_fuses (id) : (s.dropFlight id).sys.fuses = s.sys.fuses := by simp [State.dropFlight]
@[simp] theorem State.answer_fuses (id a) : (s.answer id a).sys.fuses = s.sys.fuses := by simp [State.answer]
@[simp] theorem State.modIssuer_fuses (x f) : (s.modIssuer x f).sys.fuses = s.sys.fuses := by
  unfold State.modIssuer
  split <;> simp
@[simp] theorem State.creditEntry_fuses (p) : (s.creditEntry p).sys.fuses = s.sys.fuses := by simp [State.creditEntry]
@[simp] theorem State.carryOn_fuses (me d pkt acqs) : (s.carryOn me d pkt acqs).sys.fuses = s.sys.fuses := by simp [State.carryOn]
@[simp] theorem State.farRead_fuses (f o core slot b m vs) : (s.farRead f o core slot b m vs).sys.fuses = s.sys.fuses := by
  simp [State.farRead]
@[simp] theorem State.groupDone_fuses (f vs) : (s.groupDone f vs).sys.fuses = s.sys.fuses := by
  unfold State.groupDone
  dsimp only
  (repeat' split) <;> simp
@[simp] theorem State.cmdDone_fuses (f k vs) : (s.cmdDone f k vs).sys.fuses = s.sys.fuses := by
  unfold State.cmdDone
  split <;> simp
@[simp] theorem State.positive_fuses (f vs) : (s.positive f vs).sys.fuses = s.sys.fuses := by
  unfold State.positive
  (repeat' split) <;> simp
@[simp] theorem State.groupNegative_fuses (f r) : (s.groupNegative f r).sys.fuses = s.sys.fuses := by
  unfold State.groupNegative
  dsimp only
  (repeat' split) <;> simp
@[simp] theorem State.cmdNegative_fuses (f k r) : (s.cmdNegative f k r).sys.fuses = s.sys.fuses := by
  unfold State.cmdNegative
  (repeat' split) <;> simp
@[simp] theorem State.negative_fuses (f r) : (s.negative f r).sys.fuses = s.sys.fuses := by
  unfold State.negative
  (repeat' split) <;> simp
@[simp] theorem State.leaveSource_fuses (f) : (s.leaveSource f).sys.fuses = s.sys.fuses := by
  unfold State.leaveSource
  split <;> simp
@[simp] theorem State.ackHeld_fuses (f) : (s.ackHeld f).sys.fuses = s.sys.fuses := by
  unfold State.ackHeld
  split <;> simp
@[simp] theorem State.depart_fuses (f) : (s.depart f).sys.fuses = s.sys.fuses := by simp [State.depart]
@[simp] theorem execFirstHopCustody_keeps (id) {s : State} (hF : s.sys.fuses = F) : Keeps F (execFirstHopCustody id s) := by
  unfold execFirstHopCustody
  dsimp only
  split
  · simp [hF]
  · split
    · simp [hF]
    · split
      · simp [hF]
      · split
        · split
          · next heq => simp [Logged.fuses_ok heq (State.hold_fuses ..), hF]
          · next heq => simp [Logged.fuses_wait heq (State.hold_fuses ..), hF]
          · next heq => simp [Logged.fuses_over heq (State.hold_fuses ..), hF]
        · simp [hF]
@[simp] theorem State.lose_fuses (f) : (s.lose f).sys.fuses = s.sys.fuses := by simp [State.lose]
@[simp] theorem State.setPort_fuses (p y) : (s.setPort p y).sys.fuses = s.sys.fuses := by simp [State.setPort]
@[simp] theorem State.exhaust_fuses (port dir) : (s.exhaust port dir).sys.fuses = s.sys.fuses := by simp [State.exhaust]
@[simp] theorem State.count_fuses (port dir n) : (s.count port dir n).sys.fuses = s.sys.fuses := by simp [State.count]
@[simp] theorem State.flitsOut_fuses (port n msg) : (s.flitsOut port n msg).sys.fuses = s.sys.fuses := by simp [State.flitsOut]
@[simp] theorem State.flitsIn_fuses (port n) : (s.flitsIn port n).sys.fuses = s.sys.fuses := by simp [State.flitsIn]
@[simp] theorem State.sendOn_fuses (f r) : (s.sendOn f r).sys.fuses = s.sys.fuses := by simp [State.sendOn]
@[simp] theorem State.forward_fuses (f) : (s.forward f).sys.fuses = s.sys.fuses := by
  unfold State.forward
  split <;> simp
@[simp] theorem State.reroute_fuses (f port) : (s.reroute f port).sys.fuses = s.sys.fuses := by
  unfold State.reroute
  split <;> simp
@[simp] theorem State.acceptSeq_fuses (gate p) : (s.acceptSeq gate p).sys.fuses = s.sys.fuses := by simp [State.acceptSeq]
@[simp] theorem State.receive_fuses (p port) : (s.receive p port).sys.fuses = s.sys.fuses := by
  unfold State.receive
  dsimp only
  (repeat' split) <;> simp
@[simp] theorem execPacketHop_keeps (h) {s : State} (hF : s.sys.fuses = F) : Keeps F (execPacketHop h s) := by
  unfold execPacketHop
  (repeat' split) <;> simp [hF]
@[simp] theorem execCustodyTimeout_keeps (id) {s : State} (hF : s.sys.fuses = F) : Keeps F (execCustodyTimeout id s) := by
  unfold execCustodyTimeout
  dsimp only
  (repeat' split) <;> simp [hF]
@[simp] theorem execLinkFailure_keeps (id) {s : State} (hF : s.sys.fuses = F) : Keeps F (execLinkFailure id s) := by
  unfold execLinkFailure
  (repeat' split) <;> simp [hF]
@[simp] theorem State.arrival_fuses (f) : (s.arrival f).sys.fuses = s.sys.fuses := by
  have h := s.land_fuses f
  unfold State.arrival
  split
  · simp_all
  · split <;> simp_all
@[simp] theorem execPacketArrival_keeps (id) {s : State} (hF : s.sys.fuses = F) : Keeps F (execPacketArrival id s) := by
  unfold execPacketArrival
  split <;> simp [hF]
@[simp] theorem execSlotrsvRequest_keeps (id) {s : State} (hF : s.sys.fuses = F) : Keeps F (execSlotrsvRequest id s) := by
  unfold execSlotrsvRequest
  split <;> simp [hF]
@[simp] theorem State.replyRx_fuses (f) : (s.replyRx f).sys.fuses = s.sys.fuses := by simp [State.replyRx]
@[simp] theorem execRemoteReply_keeps (id r) {s : State} (hF : s.sys.fuses = F) : Keeps F (execRemoteReply id r s) := by
  unfold execRemoteReply
  dsimp only
  (repeat' split) <;> simp [hF]
@[simp] theorem execCustodyAck_keeps (id) {s : State} (hF : s.sys.fuses = F) : Keeps F (execCustodyAck id s) := by
  unfold execCustodyAck
  split <;> simp [hF]
@[simp] theorem execNegativeReply_keeps (id r) {s : State} (hF : s.sys.fuses = F) : Keeps F (execNegativeReply id r s) := by
  unfold execNegativeReply
  (repeat' split) <;> simp [hF]
@[simp] theorem execErrorNoticeArrival_keeps (core slot gen off) {s : State} (hF : s.sys.fuses = F) :
    Keeps F (execErrorNoticeArrival core slot gen off s) := by
  unfold execErrorNoticeArrival
  split <;> simp [hF]

/-! ### Events of the core -/

@[simp] theorem State.deliver_fuses (w) : (s.deliver w).sys.fuses = s.sys.fuses := by
  unfold State.deliver
  split <;> simp
@[simp] theorem execTrapDelivery_keeps (core slot grp ig) {s : State} (hF : s.sys.fuses = F) :
    Keeps F (execTrapDelivery core slot grp ig s) := by
  unfold execTrapDelivery
  split <;> simp [hF]
@[simp] theorem State.leave_fuses (core k) : (s.leave core k).sys.fuses = s.sys.fuses := by
  unfold State.leave
  split <;> simp
@[simp] theorem State.leaveRequest_fuses (core k) : (s.leaveRequest core k).sys.fuses = s.sys.fuses := by
  unfold State.leaveRequest
  split <;> simp
@[simp] theorem execInvalidationArrival_keeps (core k) {s : State} (hF : s.sys.fuses = F) : Keeps F (execInvalidationArrival core k s) := by
  unfold execInvalidationArrival
  split <;> simp [hF]
@[simp] theorem execFilterAgeExpiry_keeps (core k dom) {s : State} (hF : s.sys.fuses = F) : Keeps F (execFilterAgeExpiry core k dom s) := by
  unfold execFilterAgeExpiry
  (repeat' split) <;> simp [hF]
@[simp] theorem State.cuMerge_fuses (k i j) : (s.cuMerge k i j).sys.fuses = s.sys.fuses := by
  unfold State.cuMerge
  split <;> simp
@[simp] theorem State.refuseStore_fuses (core slot grp pa) : (s.refuseStore core slot grp pa).sys.fuses = s.sys.fuses := by
  unfold State.refuseStore
  split <;> simp
@[simp] theorem execHomeAgentWrite_keeps (x) {s : State} (hF : s.sys.fuses = F) : Keeps F (execHomeAgentWrite x s) := by
  unfold execHomeAgentWrite
  (repeat' split) <;> simp [hF]

/-! ### Ports and the mailbox's shared parts -/

@[simp] theorem Sys.serveAttests_fuses (y : Sys) : y.serveAttests.fuses = y.fuses := by
  unfold Sys.serveAttests
  split <;> rfl
@[simp] theorem State.done_fuses (r) : (s.done r).sys.fuses = s.sys.fuses := s.sys.serveAttests_fuses
@[simp] theorem State.retArg_fuses (k x) : (s.retArg k x).sys.fuses = s.sys.fuses := rfl
@[simp] theorem State.command_keeps {s : State} {code f} (hs : s.sys.fuses = F) (hf : (f s).sys.fuses = F) :
    Keeps F (s.command code f) := by
  simp [State.command, hs, hf]
@[simp] theorem State.cleanPort_fuses (p) : (s.cleanPort p).sys.fuses = s.sys.fuses := by simp [State.cleanPort]
@[simp] theorem State.retirePort_fuses (p cause) : (s.retirePort p cause).sys.fuses = s.sys.fuses := by simp [State.retirePort]
@[simp] theorem execFabcfg_keeps {s : State} (hF : s.sys.fuses = F) : Keeps F (execFabcfg s) := by
  refine State.command_keeps hF ?_
  dsimp only
  split <;> exact (State.done_fuses _ _).trans hF
@[simp] theorem State.installKey_fuses (port dir k) : (s.installKey port dir k).sys.fuses = s.sys.fuses := by simp [State.installKey]

/-! ### Admission and placement -/

@[simp] theorem State.modQueue_fuses (c q f) : (s.modQueue c q f).sys.fuses = s.sys.fuses := by simp [State.modQueue]
@[simp] theorem State.stopQueue_fuses (c q) : (s.stopQueue c q).sys.fuses = s.sys.fuses := by simp [State.stopQueue]
@[simp] theorem State.complete_fuses (c crec addr node reason status) :
    (s.complete c crec addr node reason status).sys.fuses = s.sys.fuses := by
  simp [State.complete]
@[simp] theorem execItineraryAdmit_keeps (ctx q) {s : State} (hF : s.sys.fuses = F) : Keeps F (execItineraryAdmit ctx q s) := by
  unfold execItineraryAdmit
  dsimp only
  (repeat' split) <;> simp [hF]
@[simp] theorem State.bindSlot_fuses (core slot) : (s.bindSlot core slot).sys.fuses = s.sys.fuses := by simp [State.bindSlot]
@[simp] theorem State.setFused_fuses (core fused) : (s.setFused core fused).sys.fuses = s.sys.fuses := by
  unfold State.setFused
  dsimp only
  split
  · rfl
  · exact (foldl_fuses (fun s i => by simp) _ _).trans (foldl_fuses (fun s k => by simp) _ _)
@[simp] theorem State.place_fuses (t k core slot parts) : (s.place t k core slot parts).sys.fuses = s.sys.fuses := by
  unfold State.place
  dsimp only
  (repeat' split) <;> simp
@[simp] theorem execBlockPlace_keeps (die) {s : State} (hF : s.sys.fuses = F) : Keeps F (execBlockPlace die s) := by
  unfold execBlockPlace
  (repeat' split) <;> simp [hF]
@[simp] theorem execStealRequest_keeps (thief victim) {s : State} (hF : s.sys.fuses = F) : Keeps F (execStealRequest thief victim s) := by
  unfold execStealRequest
  (repeat' split) <;> simp [hF]
@[simp] theorem State.freeBlock_fuses (core slot b) : (s.freeBlock core slot b).sys.fuses = s.sys.fuses := by simp [State.freeBlock]
@[simp] theorem State.noteRetired_fuses (b) : (s.noteRetired b).sys.fuses = s.sys.fuses := by
  unfold State.noteRetired
  dsimp only
  (repeat' split) <;> simp
@[simp] theorem State.retireBlock_fuses (core slot b) : (s.retireBlock core slot b).sys.fuses = s.sys.fuses := by
  unfold State.retireBlock
  split <;> simp
@[simp] theorem State.tellHalted_fuses : s.tellHalted.sys.fuses = s.sys.fuses := by simp [State.tellHalted]
@[simp] theorem execBlockTaskRetire_keeps (core slot) {s : State} (hF : s.sys.fuses = F) : Keeps F (execBlockTaskRetire core slot s) := by
  unfold execBlockTaskRetire
  (repeat' split) <;> simp [hF]
@[simp] theorem execWatchdogExpiry_keeps (core slot) {s : State} (hF : s.sys.fuses = F) : Keeps F (execWatchdogExpiry core slot s) := by
  unfold execWatchdogExpiry
  (repeat' split) <;> simp [hF]

/-! ### Images -/

@[simp] theorem State.restartGroup_fuses (core slot grp) : (s.restartGroup core slot grp).sys.fuses = s.sys.fuses := by
  simp [State.restartGroup]
@[simp] theorem execEvictionStopTimeout_keeps (core slot grp) {s : State} (hF : s.sys.fuses = F) :
    Keeps F (execEvictionStopTimeout core slot grp s) := by
  unfold execEvictionStopTimeout
  dsimp only
  (repeat' split) <;> simp [hF]

/-! ### Eviction -/

@[simp] theorem State.askGroup_fuses (core slot grp) : (s.askGroup core slot grp).sys.fuses = s.sys.fuses := by simp [State.askGroup]
@[simp] theorem State.askBlock_fuses (core slot) : (s.askBlock core slot).sys.fuses = s.sys.fuses := by simp [State.askBlock]
@[simp] theorem execEvictionDecision_keeps (die) {s : State} (hF : s.sys.fuses = F) : Keeps F (execEvictionDecision die s) := by
  unfold execEvictionDecision
  (repeat' split) <;> simp [hF]
@[simp] theorem State.keepGroup_fuses (core slot grp) : (s.keepGroup core slot grp).sys.fuses = s.sys.fuses := by simp [State.keepGroup]
@[simp] theorem State.countEvicts_fuses (core n) : (s.countEvicts core n).sys.fuses = s.sys.fuses := by simp [State.countEvicts]
@[simp] theorem State.saveGroup_fuses (core slot grp b) : (s.saveGroup core slot grp b).sys.fuses = s.sys.fuses := by
  unfold State.saveGroup
  split <;> simp
@[simp] theorem State.makeAbsent_fuses (core slot b a) : (s.makeAbsent core slot b a).sys.fuses = s.sys.fuses := by simp [State.makeAbsent]
@[simp] theorem State.settleLoc_fuses (core slot) : (s.settleLoc core slot).sys.fuses = s.sys.fuses := by simp [State.settleLoc]
@[simp] theorem State.saveBlock_fuses (core slot b) : (s.saveBlock core slot b).sys.fuses = s.sys.fuses := by
  unfold State.saveBlock
  split <;> simp
@[simp] theorem execBlockSave_keeps (v) {s : State} (hF : s.sys.fuses = F) : Keeps F (execBlockSave v s) := by
  unfold execBlockSave
  split
  · simp [hF]
  · simp [hF]
  · split
    · simp [hF]
    · split
      · next heq => simp [fuses_snd heq (State.drainFor_fuses ..), hF]
      · next heq => split <;> simp [fuses_snd heq (State.drainFor_fuses ..), hF]
@[simp] theorem State.restoreGroups_fuses (x) : (s.restoreGroups x).sys.fuses = s.sys.fuses := by
  unfold State.restoreGroups
  dsimp only
  (repeat' split) <;> simp
@[simp] theorem State.rewriteEntries_fuses (c pkg ns core' slot' gen') :
    (s.rewriteEntries c pkg ns core' slot' gen').sys.fuses = s.sys.fuses := by
  simp [State.rewriteEntries]
@[simp] theorem State.putBlock_fuses (x core slot parts) : (s.putBlock x core slot parts).sys.fuses = s.sys.fuses := by
  simp [State.putBlock]
@[simp] theorem State.putBack_fuses (x parts) : (s.putBack x parts).sys.fuses = s.sys.fuses := by simp [State.putBack]
@[simp] theorem State.restoreBlock_fuses (x core) : (s.restoreBlock x core).sys.fuses = s.sys.fuses := by
  unfold State.restoreBlock
  (repeat' split) <;> simp
@[simp] theorem execBlockRestore_keeps (k core) {s : State} (hF : s.sys.fuses = F) : Keeps F (execBlockRestore k core s) := by
  unfold execBlockRestore
  split <;> simp [hF]
@[simp] theorem State.modMembers_fuses (c ms f) : (s.modMembers c ms f).sys.fuses = s.sys.fuses := by simp [State.modMembers]
@[simp] theorem State.hearChunks_fuses (c ms rs) : (s.hearChunks c ms rs).sys.fuses = s.sys.fuses := by simp [State.hearChunks]
@[simp] theorem State.startHalt_fuses (c ms) : (s.startHalt c ms).sys.fuses = s.sys.fuses := by simp [State.startHalt]
@[simp] theorem State.haltCtx_fuses (c ms) : (s.haltCtx c ms).sys.fuses = s.sys.fuses := by simp [State.haltCtx]
@[simp] theorem State.tellHeld_fuses (h) : (s.tellHeld h).sys.fuses = s.sys.fuses := by simp [State.tellHeld]
@[simp] theorem execCaravanHaltComplete_keeps (r) {s : State} (hF : s.sys.fuses = F) : Keeps F (execCaravanHaltComplete r s) := by
  unfold execCaravanHaltComplete
  split <;> simp [hF]
@[simp] theorem State.liftHalts_fuses (c ns) : (s.liftHalts c ns).sys.fuses = s.sys.fuses := by simp [State.liftHalts]

/-! ### The seal -/

@[simp] theorem execSealIntervalExpiry_keeps (dom) {s : State} (hF : s.sys.fuses = F) : Keeps F (execSealIntervalExpiry dom s) := by
  unfold execSealIntervalExpiry
  split <;> simp [hF]
@[simp] theorem execSealRequestMessage_keeps (dom) {s : State} (hF : s.sys.fuses = F) : Keeps F (execSealRequestMessage dom s) := by
  unfold execSealRequestMessage
  split <;> simp [hF]
@[simp] theorem execSealreq_keeps {s : State} (hF : s.sys.fuses = F) : Keeps F (execSealreq s) := by
  refine State.command_keeps hF ?_
  split <;> simp [hF]
@[simp] theorem execSealPrep_keeps (dom leg) {s : State} (hF : s.sys.fuses = F) : Keeps F (execSealPrep dom leg s) := by
  unfold execSealPrep
  split <;> simp [hF]
@[simp] theorem State.tellAtSeal_fuses (d) : (s.tellAtSeal d).sys.fuses = s.sys.fuses := by simp [State.tellAtSeal]
@[simp] theorem execSealDrainBegin_keeps (r) {s : State} (hF : s.sys.fuses = F) : Keeps F (execSealDrainBegin r s) := by
  unfold execSealDrainBegin
  split <;> simp [hF]
@[simp] theorem execSealWaitLimit_keeps (dom) {s : State} (hF : s.sys.fuses = F) : Keeps F (execSealWaitLimit dom s) := by
  unfold execSealWaitLimit
  split <;> simp [hF]
@[simp] theorem State.saveRecords_fuses (core slot b) : (s.saveRecords core slot b).sys.fuses = s.sys.fuses := by simp [State.saveRecords]
@[simp] theorem State.saveWay_fuses (core slot b x leg) : (s.saveWay core slot b x leg).sys.fuses = s.sys.fuses := by simp [State.saveWay]
theorem State.sealBlock_fuses {s t : State} {core slot b leg} (h : s.sealBlock core slot b leg = .ok t) : t.sys.fuses = s.sys.fuses := by
  unfold State.sealBlock at h
  dsimp only at h
  split at h
  · simp [← Except.ok.inj h]
  · split at h
    · simp [← Except.ok.inj h]
    · split at h
      · nomatch h
      · simp [← Except.ok.inj h]
theorem State.sealBlocks_fuses {s t : State} {leg bs} (h : s.sealBlocks leg bs = .ok t) : t.sys.fuses = s.sys.fuses := by
  induction bs generalizing s with
  | nil => simp_all [State.sealBlocks]
  | cons b bs ih =>
    unfold State.sealBlocks at h
    split at h
    · simp at h
    · next heq => exact (ih h).trans (State.sealBlock_fuses heq)
@[simp] theorem State.mergeAll_fuses : s.mergeAll.sys.fuses = s.sys.fuses := by simp [State.mergeAll]
@[simp] theorem execSealSave_keeps (dom) {s : State} (hF : s.sys.fuses = F) : Keeps F (execSealSave dom s) := by
  unfold execSealSave
  split
  · simp [hF]
  · split
    · simp [hF]
    · split
      · simp [hF]
      · next heq =>
        have h := (State.sealBlocks_fuses heq).trans hF
        dsimp only
        split <;> simp [h]
@[simp] theorem execSealReady_keeps (dom member) {s : State} (hF : s.sys.fuses = F) : Keeps F (execSealReady dom member s) := by
  unfold execSealReady
  split <;> simp [hF]
@[simp] theorem execSealCommitWitness_keeps (dom leg) {s : State} (hF : s.sys.fuses = F) : Keeps F (execSealCommitWitness dom leg s) := by
  unfold execSealCommitWitness
  split <;> simp [hF]
@[simp] theorem execSealCut_keeps (dom) {s : State} (hF : s.sys.fuses = F) : Keeps F (execSealCut dom s) := by
  unfold execSealCut
  (repeat' split) <;> simp [hF]
@[simp] theorem State.sendHeld_fuses (id) : (s.sendHeld id).sys.fuses = s.sys.fuses := by simp [State.sendHeld]
@[simp] theorem State.releaseHeld_fuses (h) : (s.releaseHeld h).sys.fuses = s.sys.fuses := by
  unfold State.releaseHeld
  (repeat' split) <;> simp
@[simp] theorem State.releaseHolds_fuses (dom leg) : (s.releaseHolds dom leg).sys.fuses = s.sys.fuses := by simp [State.releaseHolds]
@[simp] theorem State.postWaiting_fuses (dom leg) : (s.postWaiting dom leg).sys.fuses = s.sys.fuses := by simp [State.postWaiting]
@[simp] theorem State.passWays_fuses (dom) : (s.passWays dom).sys.fuses = s.sys.fuses := by simp [State.passWays]
@[simp] theorem State.startHalts_fuses (dom) : (s.startHalts dom).sys.fuses = s.sys.fuses := by simp [State.startHalts]
@[simp] theorem State.cutOrders_fuses (dom) : (s.cutOrders dom).sys.fuses = s.sys.fuses := by simp [State.cutOrders]
@[simp] theorem State.afterCut_fuses (dom leg) : (s.afterCut dom leg).sys.fuses = s.sys.fuses := by simp [State.afterCut]
@[simp] theorem State.applyCut_fuses (d) : (s.applyCut d).sys.fuses = s.sys.fuses := by simp [State.applyCut]
@[simp] theorem execSealApply_keeps (dom leg) {s : State} (hF : s.sys.fuses = F) : Keeps F (execSealApply dom leg s) := by
  unfold execSealApply
  split <;> simp [hF]
@[simp] theorem execSealApplyAck_keeps (dom member) {s : State} (hF : s.sys.fuses = F) : Keeps F (execSealApplyAck dom member s) := by
  unfold execSealApplyAck
  split <;> simp [hF]
@[simp] theorem State.endBare_fuses (cause c) : (s.endBare cause c).sys.fuses = s.sys.fuses := by simp [State.endBare]
@[simp] theorem State.endDomain_fuses (dom cause) : (s.endDomain dom cause).sys.fuses = s.sys.fuses := by simp [State.endDomain]
@[simp] theorem State.memberLost_fuses (d member) : (s.memberLost d member).sys.fuses = s.sys.fuses := by simp [State.memberLost]
@[simp] theorem execMemberSilence_keeps (dom member) {s : State} (hF : s.sys.fuses = F) : Keeps F (execMemberSilence dom member s) := by
  unfold execMemberSilence
  split <;> simp [hF]

/-! ### Errors and rollback -/

@[simp] theorem State.errorEnds_fuses (c) : (s.errorEnds c).sys.fuses = s.sys.fuses := by simp [State.errorEnds]
@[simp] theorem State.strike_fuses (cs r overflow injected) : (s.strike cs r overflow injected).sys.fuses = s.sys.fuses := by
  simp [State.strike]
@[simp] theorem State.poisonAt_fuses (pa) : (s.poisonAt pa).sys.fuses = s.sys.fuses := by simp [State.poisonAt]
@[simp] theorem State.memoryError_fuses (pa r) : (s.memoryError pa r).sys.fuses = s.sys.fuses := by
  unfold State.memoryError
  dsimp only
  split
  · exact (foldl_fuses (fun s d => by simp) _ _).trans (by simp)
  · rw [State.postRas_fuses]
    exact (foldl_fuses (fun s d => by simp) _ _).trans (by simp)
@[simp] theorem State.coreError_fuses (core slot r) : (s.coreError core slot r).sys.fuses = s.sys.fuses := by simp [State.coreError]
@[simp] theorem execUncorrectableError_keeps (site) {s : State} (hF : s.sys.fuses = F) : Keeps F (execUncorrectableError site s) := by
  unfold execUncorrectableError
  (repeat' split) <;> simp [hF]
@[simp] theorem execCorrectedError_keeps (site) {s : State} (hF : s.sys.fuses = F) : Keeps F (execCorrectedError site s) := by
  unfold execCorrectedError
  (repeat' split) <;> simp [hF]
@[simp] theorem State.dieFault_fuses (die detail) : (s.dieFault die detail).sys.fuses = s.sys.fuses := by
  unfold State.dieFault
  dsimp only
  rw [foldl_fuses fun s d => State.abortDomain_fuses .., foldl_fuses State.errorEnds_fuses,
    foldl_fuses fun s c => by simp, State.postRas_fuses]
@[simp] theorem execRollbackAbort_keeps (r) {s : State} (hF : s.sys.fuses = F) : Keeps F (execRollbackAbort r s) := by
  unfold execRollbackAbort
  split <;> simp [hF]
@[simp] theorem State.undo_fuses (e) : (s.undo e).sys.fuses = s.sys.fuses := by simp [State.undo]
@[simp] theorem State.undoLeg_fuses (d leg) : (s.undoLeg d leg).sys.fuses = s.sys.fuses := by
  refine foldl_fuses (fun s x => ?_) _ _
  simp
@[simp] theorem State.loseSectors_fuses (d pas) : (s.loseSectors d pas).sys.fuses = s.sys.fuses := by simp [State.loseSectors]
@[simp] theorem execRollbackStop_keeps (r leg) {s : State} (hF : s.sys.fuses = F) : Keeps F (execRollbackStop r leg s) := by
  unfold execRollbackStop
  dsimp only
  (repeat' split) <;> simp [hF]
@[simp] theorem execRollbackDone_keeps (dom member) {s : State} (hF : s.sys.fuses = F) : Keeps F (execRollbackDone dom member s) := by
  unfold execRollbackDone
  split <;> simp [hF]
@[simp] theorem State.putResumed_fuses (t b core slot make) : (s.putResumed t b core slot make).sys.fuses = s.sys.fuses := by
  simp [State.putResumed]
theorem State.resumeWay_fuses {s t : State} {x b cores leg} (h : s.resumeWay x b cores leg = some t) : t.sys.fuses = s.sys.fuses := by
  unfold State.resumeWay at h
  split at h
  · cases h
  · cases h
    simp
theorem State.resumeImage_fuses {s t : State} {cut x b a cores} (h : s.resumeImage cut x b a cores = some t) :
    t.sys.fuses = s.sys.fuses := by
  unfold State.resumeImage at h
  dsimp only at h
  split at h
  · cases h
    simp
  · split at h
    · cases h
    · cases h
      simp
theorem State.resumeTasks_fuses {s t : State} {cut leg xs} (h : s.resumeTasks cut leg xs = some t) : t.sys.fuses = s.sys.fuses := by
  induction xs generalizing s with
  | nil => simp_all [State.resumeTasks]
  | cons x xs ih =>
    unfold State.resumeTasks at h
    dsimp only at h
    split at h
    · split at h
      · next heq => exact (ih h).trans (State.resumeWay_fuses heq)
      · simp at h
    · split at h
      · next heq => exact (ih h).trans (State.resumeImage_fuses heq)
      · simp at h
    · exact ih h
@[simp] theorem State.tellRollback_fuses (d leg) : (s.tellRollback d leg).sys.fuses = s.sys.fuses := by simp [State.tellRollback]
@[simp] theorem State.followMoved_fuses (dom xs) : (s.followMoved dom xs).sys.fuses = s.sys.fuses := by simp [State.followMoved]
@[simp] theorem execRollbackResume_keeps (x) {s : State} (hF : s.sys.fuses = F) : Keeps F (execRollbackResume x s) := by
  unfold execRollbackResume
  dsimp only
  split
  · simp [hF]
  · split
    · simp [hF]
    · split
      · simp [hF]
      · split
        · next heq => simp [State.resumeTasks_fuses heq, hF]
        · simp [hF]
@[simp] theorem State.arm_keeps {s : State} (kind ok) (hF : s.sys.fuses = F) : Keeps F (s.arm kind ok) := by simp [State.arm, hF]
@[simp] theorem State.starve_fuses (port) : (s.starve port).sys.fuses = s.sys.fuses := by simp [State.starve]
@[simp] theorem State.injectRollback_fuses (dom r) : (s.injectRollback dom r).sys.fuses = s.sys.fuses := by
  unfold State.injectRollback
  (repeat' split) <;> simp
@[simp] theorem State.fire_fuses (x) : (s.fire x).sys.fuses = s.sys.fuses := by
  unfold State.fire
  split <;> simp
@[simp] theorem execInjectFire_keeps (k) {s : State} (hF : s.sys.fuses = F) : Keeps F (execInjectFire k s) := by
  unfold execInjectFire
  split <;> simp [hF]

/-! ### Boot and power -/

@[simp] theorem State.restart_fuses : s.restart.sys.fuses = s.sys.fuses := rfl
@[simp] theorem execPowerLoss_keeps {s : State} (hF : s.sys.fuses = F) : Keeps F (execPowerLoss s) := by
  unfold execPowerLoss
  split <;> exact keeps_next.2 hF
@[simp] theorem State.bootFails_fuses (die cause) : (s.bootFails die cause).sys.fuses = s.sys.fuses := rfl
@[simp] theorem Sys.goesTo_fuses (y : Sys) (die x) : (y.goesTo die x).fuses = y.fuses := rfl
@[simp] theorem State.selectImage_fuses : s.selectImage.sys.fuses = s.sys.fuses := by
  unfold State.selectImage
  split <;> rfl
@[simp] theorem execBootVerify_keeps (x) {s : State} (hF : s.sys.fuses = F) : Keeps F (execBootVerify x s) := by
  unfold execBootVerify
  split <;> simp [hF]
@[simp] theorem execBootInit_keeps (x) {s : State} (hF : s.sys.fuses = F) : Keeps F (execBootInit x s) := by
  unfold execBootInit
  split <;> simp [hF]
@[simp] theorem execBootEnum_keeps (x) {s : State} (hF : s.sys.fuses = F) : Keeps F (execBootEnum x s) := by
  unfold execBootEnum
  (repeat' split) <;> exact keeps_next.2 hF
@[simp] theorem execPowerSample_keeps (power) {s : State} (hF : s.sys.fuses = F) : Keeps F (execPowerSample power s) := by
  unfold execPowerSample
  dsimp only
  (repeat' split)
  · exact keeps_next.2 hF
  · exact keeps_next.2 hF
  · exact keeps_next.2 ((State.postRas_fuses _ _).trans hF)
@[simp] theorem State.setLimit_fuses (v) : (s.setLimit v).sys.fuses = s.sys.fuses := by
  unfold State.setLimit
  split <;> rfl
@[simp] theorem execI3cRasRead_keeps {s : State} (hF : s.sys.fuses = F) : Keeps F (execI3cRasRead s) := by
  unfold execI3cRasRead
  split <;> exact keeps_next.2 hF
@[simp] theorem execAttest_keeps {s : State} (hF : s.sys.fuses = F) : Keeps F (execAttest s) :=
  State.command_keeps hF ((State.done_fuses _ _).trans hF)
@[simp] theorem execI3cAttest_keeps (nonce) {s : State} (hF : s.sys.fuses = F) : Keeps F (execI3cAttest nonce s) := by
  unfold execI3cAttest
  dsimp only
  (repeat' split)
  · exact keeps_next.2 hF
  · exact keeps_next.2 ((Sys.serveAttests_fuses _).trans hF)
  · exact keeps_next.2 hF

/-! ### Cross-lane instructions -/

@[simp] theorem State.shuffle_keeps {s : State} (o n) (hF : s.sys.fuses = F) : Keeps F (s.shuffle o n) := by simp [State.shuffle, hF]
@[simp] theorem State.vote_keeps {s : State} (o n) (hF : s.sys.fuses = F) : Keeps F (s.vote o n) := by simp [State.vote, hF]

/-! ### Host registers -/

@[simp] theorem State.setReadback_fuses (bs) : (s.setReadback bs).sys.fuses = s.sys.fuses := rfl
@[simp] theorem State.hostStore_fuses (a bs) : (s.hostStore a bs).sys.fuses = s.sys.fuses := by simp [State.hostStore]
@[simp] theorem State.onQueue_keeps {s : State} {c q f} (hs : s.sys.fuses = F) (hf : (f s).sys.fuses = F) : Keeps F (s.onQueue c q f) := by
  simp [State.onQueue, hs, hf]
@[simp] theorem State.ring_fuses (ctx q v) : (s.ring ctx q v).sys.fuses = s.sys.fuses := by simp [State.ring]
@[simp] theorem State.onCtx_keeps {s : State} {c f} (hs : s.sys.fuses = F) (hf : (f s).sys.fuses = F) : Keeps F (s.onCtx c f) := by
  simp [State.onCtx, hs, hf]
@[simp] theorem State.dropXlates_fuses (c r) : (s.dropXlates c r).sys.fuses = s.sys.fuses := by simp [State.dropXlates]
@[simp] theorem State.readReg_keeps {s : State} {ok off f} (hs : s.sys.fuses = F) (hf : ∀ t, t.sys.fuses = F → (f t).sys.fuses = F) :
    Keeps F (s.readReg ok off f) := by
  simp [State.readReg, hs, hf]
@[simp] theorem execInvctlRead_keeps (ctx) {s : State} (hF : s.sys.fuses = F) : Keeps F (execInvctlRead ctx s) :=
  State.readReg_keeps hF fun t ht => by simp [ht]
@[simp] theorem execCtxstatRead_keeps (ctx) {s : State} (hF : s.sys.fuses = F) : Keeps F (execCtxstatRead ctx s) :=
  State.readReg_keeps hF fun t ht => by simp [ht]
@[simp] theorem execCmdstatRead_keeps {s : State} (hF : s.sys.fuses = F) : Keeps F (execCmdstatRead s) :=
  State.readReg_keeps hF fun _ ht => ht
@[simp] theorem State.installHandler_fuses (c x) : (s.installHandler c x).sys.fuses = s.sys.fuses := by
  unfold State.installHandler
  (repeat' split) <;> simp
@[simp] theorem State.writeHandler_fuses (c v) : (s.writeHandler c v).sys.fuses = s.sys.fuses := by simp [State.writeHandler]
@[simp] theorem State.writeCfg_fuses (c v) : (s.writeCfg c v).sys.fuses = s.sys.fuses := by simp [State.writeCfg]
@[simp] theorem State.stageEntry_fuses (c entry word v) : (s.stageEntry c entry word v).sys.fuses = s.sys.fuses := by
  simp [State.stageEntry]
@[simp] theorem State.installEntry_fuses (c entry v) : (s.installEntry c entry v).sys.fuses = s.sys.fuses := by simp [State.installEntry]
@[simp] theorem State.writeCmd_fuses (v) : (s.writeCmd v).sys.fuses = s.sys.fuses := by
  unfold State.writeCmd
  dsimp only
  split <;> rfl
@[simp] theorem State.writeArg_fuses (k v) : (s.writeArg k v).sys.fuses = s.sys.fuses := by
  unfold State.writeArg
  split <;> rfl
@[simp] theorem State.writeGlobal_fuses (off v) : (s.writeGlobal off v).sys.fuses = s.sys.fuses := by
  unfold State.writeGlobal
  dsimp only
  split
  · rfl
  · rfl
  · rfl
  · simp
  · simp
  · simp
@[simp] theorem State.writeQueue_fuses (c q off v) : (s.writeQueue c q off v).sys.fuses = s.sys.fuses := by
  unfold State.writeQueue
  split <;> simp
@[simp] theorem State.writeCtxReg_fuses (c off v) : (s.writeCtxReg c off v).sys.fuses = s.sys.fuses := by simp [State.writeCtxReg]

/-! ### Mailbox commands -/

@[simp] theorem State.modCtxBlocks_fuses (c f) : (s.modCtxBlocks c f).sys.fuses = s.sys.fuses := by simp [State.modCtxBlocks]
@[simp] theorem execRelease_keeps {s : State} (hF : s.sys.fuses = F) : Keeps F (execRelease s) := by
  refine State.command_keeps hF ?_
  (repeat' split) <;> simp [hF]
@[simp] theorem State.endItins_fuses (c) : (s.endItins c).sys.fuses = s.sys.fuses := by simp [State.endItins]
@[simp] theorem execAccset_keeps {s : State} (hF : s.sys.fuses = F) : Keeps F (execAccset s) := by
  refine State.command_keeps hF ?_
  dsimp only
  (repeat' split) <;> simp [hF]
@[simp] theorem execDomcreate_keeps {s : State} (hF : s.sys.fuses = F) : Keeps F (execDomcreate s) := by
  refine State.command_keeps hF ?_
  (repeat' split) <;> simp [hF]
@[simp] theorem execDomcreateMatch_keeps (dom others) {s : State} (hF : s.sys.fuses = F) : Keeps F (execDomcreateMatch dom others s) := by
  unfold execDomcreateMatch
  split <;> simp [hF]
@[simp] theorem execDomcreateTimeout_keeps (r) {s : State} (hF : s.sys.fuses = F) : Keeps F (execDomcreateTimeout r s) := by
  unfold execDomcreateTimeout
  split <;> simp [hF]
theorem Sys.fuses_tcache (y : Sys) (es) : ({ y with tcache := es } : Sys).fuses = y.fuses := rfl
@[simp] theorem execCacheput_keeps {s : State} (hF : s.sys.fuses = F) : Keeps F (execCacheput s) := by
  refine State.command_keeps hF ?_
  extract_lets +onlyGivenNames n svn digest es
  split
  · exact (State.done_fuses ..).trans hF
  · split
    · exact (State.done_fuses ..).trans hF
    · split
      · exact (State.done_fuses ..).trans hF
      · split
        · exact (State.done_fuses ..).trans hF
        · rw [State.done_fuses, State.retArg_fuses, Sys.fuses_tcache, hF]
@[simp] theorem execCacheget_keeps {s : State} (hF : s.sys.fuses = F) : Keeps F (execCacheget s) := by
  refine State.command_keeps hF ?_
  dsimp only
  (repeat' split) <;> exact (State.done_fuses _ _).trans hF
@[simp] theorem execCoreretRetire_keeps {s : State} (hF : s.sys.fuses = F) : Keeps F (execCoreretRetire s) := by
  refine State.command_keeps hF ?_
  dsimp only
  (repeat' split)
  · exact hF
  · exact (State.done_fuses ..).trans hF
  · exact (State.done_fuses ..).trans hF
  · exact ((State.done_fuses ..).trans (State.postRas_fuses ..)).trans hF
  · exact ((State.done_fuses ..).trans (State.postRas_fuses ..)).trans hF
@[simp] theorem execCoreretReturn_keeps {s : State} (hF : s.sys.fuses = F) : Keeps F (execCoreretReturn s) := by
  refine State.command_keeps hF ?_
  dsimp only
  (repeat' split)
  · exact hF
  · exact (State.done_fuses ..).trans hF
  · exact ((State.done_fuses ..).trans (State.postRas_fuses ..)).trans hF
@[simp] theorem execFwstage_keeps {s : State} (hF : s.sys.fuses = F) : Keeps F (execFwstage s) := by
  refine State.command_keeps hF ?_
  dsimp only
  split
  · exact (State.done_fuses ..).trans hF
  · rw [State.done_fuses, State.postRas_fuses]
    split <;> exact hF

/-! ### Bridges -/

@[simp] theorem State.bridges_fuses (w m ps sc) : (s.bridges w m ps sc).sys.fuses = s.sys.fuses := by
  refine foldl_fuses (fun s x => ?_) _ _
  simp

/-! ### Scalar instructions -/

@[simp] theorem State.ubin_keeps {s : State} (o f) (hF : s.sys.fuses = F) : Keeps F (s.ubin o f) := by simp [State.ubin, hF]
@[simp] theorem State.ushift_keeps {s : State} (o f) (hF : s.sys.fuses = F) : Keeps F (s.ushift o f) := by simp [State.ushift, hF]

/-! ### Issue -/

@[simp] theorem State.unwait_fuses (w f) : (s.unwait w f).sys.fuses = s.sys.fuses := by simp [State.unwait]
@[simp] theorem State.wake_fuses (w) : (s.wake w).sys.fuses = s.sys.fuses := by
  unfold State.wake
  (repeat' split) <;> simp
@[simp] theorem State.wakeAll_fuses (core part) : (s.wakeAll core part).sys.fuses = s.sys.fuses := by
  refine foldl_fuses (fun s x => ?_) _ _
  (repeat' split) <;> simp
@[simp] theorem State.compTurn_fuses (core part) : (s.compTurn core part).sys.fuses = s.sys.fuses := by
  unfold State.compTurn
  split <;> simp
@[simp] theorem State.setCur_fuses (w) : (s.setCur w).sys.fuses = s.sys.fuses := by simp [State.setCur]
@[simp] theorem State.setComp_fuses (core part c) : (s.setComp core part c).sys.fuses = s.sys.fuses := by simp [State.setComp]
@[simp] theorem State.enterRegion_fuses (w) : (s.enterRegion w).sys.fuses = s.sys.fuses := by simp [State.enterRegion]
@[simp] theorem State.waitSlot_fuses (w mask) : (s.waitSlot w mask).sys.fuses = s.sys.fuses := by simp [State.waitSlot]
@[simp] theorem State.slotTurn_fuses (w b) : (s.slotTurn w b).state.sys.fuses = s.sys.fuses := by
  unfold State.slotTurn
  dsimp only
  (repeat' split) <;> simp
@[simp] theorem State.bundleTurn_fuses (w b) : (s.bundleTurn w b).state.sys.fuses = s.sys.fuses := by
  unfold State.bundleTurn
  dsimp only
  (repeat' split) <;> simp
@[simp] theorem State.noteFetch_fuses (w) : (s.noteFetch w).sys.fuses = s.sys.fuses := by
  unfold State.noteFetch
  split <;> simp
@[simp] theorem State.igTurn_fuses (w) : (s.igTurn w).state.sys.fuses = s.sys.fuses := by
  unfold State.igTurn
  (repeat' split) <;> simp
@[simp] theorem State.countIssue_fuses (w c) : (s.countIssue w c).sys.fuses = s.sys.fuses := by simp [State.countIssue]
@[simp] theorem State.partTurn_fuses (core part switch) : (s.partTurn core part switch).state.sys.fuses = s.sys.fuses := by
  unfold State.partTurn
  dsimp only
  (repeat' split) <;> simp
@[simp] theorem State.tick_fuses (n) : (s.tick n).sys.fuses = s.sys.fuses := by simp [State.tick]
@[simp] theorem State.dropXlate_fuses (core k) : (s.dropXlate core k).sys.fuses = s.sys.fuses := by simp [State.dropXlate]
@[simp] theorem State.dropDieXlate_fuses (die k) : (s.dropDieXlate die k).sys.fuses = s.sys.fuses := by simp [State.dropDieXlate]
@[simp] theorem State.dropPage_fuses (core part lane) : (s.dropPage core part lane).sys.fuses = s.sys.fuses := by simp [State.dropPage]
@[simp] theorem State.l1Drop_fuses (pos sector) : (s.l1Drop pos sector).sys.fuses = s.sys.fuses := by simp [State.l1Drop]

/-! ### The wire -/

@[simp] theorem State.flitsOn_fuses (port via) : (s.flitsOn port via).sys.fuses = s.sys.fuses := by simp [State.flitsOn]
@[simp] theorem State.flitsTo_fuses (pkg) : (s.flitsTo pkg).sys.fuses = s.sys.fuses := by
  unfold State.flitsTo
  split <;> simp
@[simp] theorem State.sendFlits_fuses (m) : (s.sendFlits m).sys.fuses = s.sys.fuses := by
  unfold State.sendFlits
  split <;> simp
@[simp] theorem State.wire_fuses (s t : State) : (s.wire t).sys.fuses = t.sys.fuses := foldl_fuses State.sendFlits_fuses _ t
@[simp] theorem State.hearOn_fuses (port) : (s.hearOn port).sys.fuses = s.sys.fuses := by simp [State.hearOn]
@[simp] theorem State.hearFrom_fuses (pkg) : (s.hearFrom pkg).sys.fuses = s.sys.fuses := by
  unfold State.hearFrom
  split <;> simp
@[simp] theorem State.hearOf_fuses (id) : (s.hearOf id).sys.fuses = s.sys.fuses := by
  unfold State.hearOf
  split <;> simp
@[simp] theorem State.hears_fuses (i) : (s.hears i).sys.fuses = s.sys.fuses := by
  have hs := fun l => foldl_fuses State.hearFrom_fuses l s
  unfold State.hears
  split
  case h_1 => (repeat' split) <;> simp
  all_goals simp only [State.hearOf_fuses, State.hearFrom_fuses, hs]

end

/-! ### Every instruction and event, and every turn -/

/-- The instructions named to `simp` are those whose `exec…` is a shared operation above at fixed arguments. -/
theorem exec_keeps {F : Fuses} {i : Instr} {s : State} (hi : i ≠ .fuseadv) (hF : s.sys.fuses = F) : Keeps F (exec i s) := by
  cases i
  case fuseadv => exact absurd rfl hi
  all_goals simp [exec, hF,
    execIadd, execIsub, execIadd3, execImul, execImulhi, execImad, execImin, execImax, execIabs, execIneg, execAnd, execOr, execXor,
    execNot, execLop3, execShl, execShr, execSar, execRotl, execFunnel, execBfx, execBfi, execPopc, execClz, execCtz, execBrev,
    execPermb, execSel, execMov, execMovi, execMovk, execIcmp, execPset, execFadd, execFsub, execFmul, execFfma, execFmin, execFmax,
    execFcmp, execFclass, execFrnd, execFrcp, execFrsq, execFsqrt, execFexp2, execFlog2, execFsin, execFcos, execFtanh, execCvt,
    execCvtsr, execQdec, execPack2, execUnpack2, execSt, execCctlIvall, execAtoml, execRed, execBarinit, execGrow, execShrink,
    execNextSeg, execNextp, execNextx, execCall, execRet, execExit, execNop, execWaitClk, execTrap, execBkpt, execExtensionWord,
    execIllegalWord, execTagrd, execTcfg, execTld, execTst, execTstat, execAccrd, execAccwr, execCvclose, execSlotrel, execSlotrelFault,
    execChunk, execLegrd, execPrio, execRfeRegion, execRfeNext, execResultWriteback, execStoreDrain, execBankRequestComplete,
    execFlitError, execPeerLost, execPortTrain, execKeylow, execKeyExhausted, execKeyStarveTimeout, execKeySwitch, execRouteset,
    execKeyinst, execLinkstat, execLinkctlRetire, execLinkctlUp, execGroupRelease, execHalt, execUnhalt, execCaravanHaltPause,
    execDieFault, execRailUndervolt, execInjectUe, execInjectDieFault, execInjectRollback, execInjectPortRetire, execInjectKeyStarve,
    execPowerUp, execFundamentalReset, execPwrlimWrite, execI3cPwrlimWrite, execShfl, execShfl16, execVote, execVote16, execBallot,
    execBallot16, execRedux, execScan, execMatchLanes, execBcast, execBar2Read, execBar2Write, execQtailWrite, execQueueEnable,
    execQueueDisable, execInvalidatePage, execInvalidateContext, execInvalidationComplete, execHandlerWrite, execCtxcfgWrite,
    execManifestStage, execManifestInstall, execRegisterWrite, execMailboxUnknownCode, execCtxresume, execCtxend, execCtxcreate,
    execCtxfree, execContextEnded, execDomjoin, execDomfree, execFence, execBridge, execSadd, execSsub, execSmul, execSand, execSor,
    execSxor, execSshl, execSshr, execSmov, execSmovi, execScmp, execMovsr]

/-- What a step may do to the fuses: nothing, except that the counter may move forward (R432). -/
def Fuses.Advances (F G : Fuses) : Prop := G = { F with svn := G.svn } ∧ F.svn ≤ G.svn

theorem Fuses.advances_iff {F G : Fuses} : F.Advances G ↔ G.grade = F.grade ∧ G.stackGib = F.stackGib ∧ G.fusedOff = F.fusedOff ∧
    G.debug = F.debug ∧ G.stepping = F.stepping ∧ F.svn ≤ G.svn := by
  cases F
  cases G
  simp [Fuses.Advances, and_assoc]

theorem Fuses.Advances.of_eq {F G : Fuses} (h : G = F) : F.Advances G := by
  subst h
  exact ⟨rfl, Nat.le_refl _⟩

theorem execFuseadv_advances {s t : State} (h : execFuseadv s = .next t) : s.sys.fuses.Advances t.sys.fuses := by
  obtain rfl := Outcome.next.inj h
  split
  · dsimp only
    split
    · exact .of_eq (State.done_fuses ..)
    · next hle =>
      rw [State.done_fuses, State.postRas_fuses]
      exact ⟨rfl, Nat.le_of_not_lt fun hlt => hle (.inl hlt)⟩
  · exact .of_eq rfl

theorem exec_advances {i : Instr} {s t : State} (h : exec i s = .next t) : s.sys.fuses.Advances t.sys.fuses := by
  by_cases hi : i = .fuseadv
  · subst hi
    exact execFuseadv_advances h
  · exact .of_eq (exec_keeps hi rfl t h)

theorem State.wired_next {s t : State} {o} (h : s.wired o = .next t) : ∃ u, o = .next u ∧ t.sys.fuses = u.sys.fuses := by
  unfold State.wired at h
  split at h
  · cases h
    exact ⟨_, rfl, State.wire_fuses ..⟩
  · exact ⟨t, h, rfl⟩

theorem State.slotIssued_next {s t : State} {o} (h : s.slotIssued o = .next t) :
    ∃ u, o = .next u ∧ t.sys.fuses = u.sys.fuses := by
  unfold State.slotIssued at h
  split at h
  · refine ⟨_, rfl, ?_⟩
    split at h <;> cases h
    · split <;> simp
    · rfl
  · exact ⟨t, h, rfl⟩

theorem State.eventStep_advances {s t : State} {i} (h : s.eventStep i = .next t) : s.sys.fuses.Advances t.sys.fuses := by
  unfold State.eventStep at h
  split at h
  · obtain ⟨u, hu, ht⟩ := State.wired_next h
    rw [ht, ← s.hears_fuses i]
    exact exec_advances hu
  · cases h

theorem State.issueStep_advances {s t : State} {core part switch} (h : s.issueStep core part switch = .next t) :
    s.sys.fuses.Advances t.sys.fuses := by
  have hp := s.partTurn_fuses core part switch
  obtain ⟨u, hu, ht⟩ := State.wired_next h
  rw [ht, ← hp]
  cases hq : s.partTurn core part switch with
  | run s i =>
    rw [hq] at hu
    obtain ⟨v, hv, huv⟩ := State.slotIssued_next hu
    exact huv ▸ exec_advances hv
  | done s => exact .of_eq (by rw [hq] at hu; cases hu; rfl)
  | held s => exact .of_eq (by rw [hq] at hu; cases hu; rfl)
  | idle s => exact .of_eq (by rw [hq] at hu; cases hu; rfl)

theorem State.turn_advances {s t : State} {x} (h : s.turn x = .next t) : s.sys.fuses.Advances t.sys.fuses := by
  cases x with
  | event i => exact State.eventStep_advances h
  | issue core part switch => exact State.issueStep_advances h
  | l1Drop pos sector => exact .of_eq (Outcome.next.inj h ▸ State.l1Drop_fuses ..)
  | tlbDrop core k => exact .of_eq (Outcome.next.inj h ▸ State.dropXlate_fuses ..)
  | dieDrop die k => exact .of_eq (Outcome.next.inj h ▸ State.dropDieXlate_fuses ..)
  | pageDrop core part lane => exact .of_eq (Outcome.next.inj h ▸ State.dropPage_fuses ..)
  | upperDrop k => exact .of_eq (Outcome.next.inj h ▸ rfl)
  | choose pick joint => exact .of_eq (Outcome.next.inj h ▸ rfl)
  | clock n => exact .of_eq (Outcome.next.inj h ▸ State.tick_fuses ..)

theorem State.idleStep_advances {s t : State} (h : s.idleStep = .next t) : s.sys.fuses.Advances t.sys.fuses := by
  unfold State.idleStep at h
  split at h
  · exact State.eventStep_advances h
  · split at h
    · exact .of_eq (Outcome.next.inj h ▸ State.tick_fuses ..)
    · next round _ =>
      have hr : (if round then s.tick 1 else s).sys.fuses = s.sys.fuses := by simp
      exact hr ▸ State.issueStep_advances h

theorem step_advances {s t : State} (h : step s = .next t) : s.sys.fuses.Advances t.sys.fuses := by
  unfold step at h
  split at h
  · next x rest _ => exact State.turn_advances (s := { s with agenda := rest }) h
  · exact State.idleStep_advances h

/-- Settles O60: FUSEADV alone moves the counter, and only forward (`exec_advances`), and every other instruction, event and turn keeps all
six fuses (`exec_keeps`). -/
theorem fusesPermanent : Obligations.FusesPermanent :=
  fun _ _ h => Fuses.advances_iff.1 (step_advances h)

/-- Settles O58: each field of `State.reset` is the value named, and its maps list nothing. -/
theorem resetState : Obligations.ResetState := by
  unfold Obligations.ResetState
  refine ⟨rfl, rfl, rfl, rfl, rfl, rfl, rfl, rfl, rfl, rfl, rfl, rfl, ?ctx, ?blocks, ?ports, rfl, rfl, rfl, rfl, ?mem⟩
  case ctx =>
    exact fun c => ⟨rfl, rfl, rfl, rfl, rfl, rfl, rfl, rfl, rfl, rfl, rfl, rfl, rfl, rfl, fun q => ⟨rfl, rfl, rfl, rfl, rfl⟩⟩
  case blocks => exact fun c k => rfl
  case ports => exact fun p => rfl
  case mem => exact fun a => rfl

end Sys2Proof.Machine

end

section
/-! # GROW beside another issue group (O41)

A group of two issue groups, one issuing and one held at a GROW: its fault record names the lanes of both. -/

namespace Sys2Proof.Machine
open Host (Outcome)

/-- An issue group of one lane at slot 0 of the bundle at 0x1000. -/
def oneLane (id : Nat) (m : LaneMask) (x : Wait) : IGroup := { id := id, mask := m, pc := 0x1008, wait := x, allot := 2 }

/-- A block of one group with two issue groups: lane 0 issues, lane 1 is held at a GROW of one granule. -/
def twoIssueGroups : Block :=
  { probeBlock false with
    groups := [{ idx := 0, part := 0, threads := [{ present := true }, { present := true }], allot := 2, mode := 0
                 igs := [oneLane 1 1 .none, oneLane 2 2 (.grow true 1)] }] }

/-- A machine that runs the block in a live context without a handler. -/
def growConflict : State :=
  { ctxs := [(0, { state := .live })]
    cores := [(0, { slots := [(0, twoIssueGroups)], parts := [{ cur := some (0, 0, 1) }, {}, {}, {}] })] }

/-- Its issuer, lane 0. -/
def growConflictIssuer : Who := ⟨0, 0, 0, 0, twoIssueGroups, twoIssueGroups.group 0, oneLane 1 1 .none⟩

/-- The slot control of a slot that sets nothing. -/
def plainCtl : Ctl := ⟨0, false, 0, none⟩

/-- GROW 31 in lane 0 joins the thread that is held at GROW 1, and the fault record names both lanes (R38). -/
theorem growConflict_names_both_lanes :
    ∀ t, exec (.grow plainCtl 31) growConflict = .next t → (t.ctx 0).fault.lanes = 3 := by
  have h : (match exec (.grow plainCtl 31) growConflict with
      | .next t => (t.ctx 0).fault.lanes
      | _ => 0) = 3 := by decide +kernel
  intro t ht
  rw [ht] at h
  exact h

/-- Refutes O41: a GROW past 32 granules is an illegal operand of its own threads alone only where no other thread of the group is held at a
request that contradicts it. Here lane 0 issues GROW 31 with two granules while lane 1 is held at GROW 1: the conflict of R38 comes first and
LANES of the one record holds both lanes. -/
theorem not_allotmentsChange : ¬ Obligations.AllotmentsChange := by
  intro h
  have hissuer : growConflict.issuer = some growConflictIssuer := rfl
  obtain ⟨-, huser⟩ := h plainCtl 31 growConflict growConflictIssuer hissuer rfl
  obtain ⟨htooMany, -⟩ := huser rfl
  obtain ⟨r, t, hexec, hrec, -, htraps⟩ := htooMany (by decide)
  have hcause : r.cause = 3 := hrec.cause
  have hends : EndsCtx 0 r.cause.toNat (growConflict.endRecord growConflictIssuer r) growConflict t := by
    have hentry : growConflict.handlerEntry growConflictIssuer r.cause.toNat = none := by rw [hcause]; rfl
    unfold Traps at htraps
    rw [hentry, hcause, if_neg (by decide)] at htraps
    rw [hcause]
    exact htraps.1
  have hfault : (t.ctx 0).fault.lanes = r.lanes := by
    rw [hends.own, if_pos (.inl rfl)]
    unfold State.endRecord
    split <;> rfl
  have hlanes : r.lanes = 1 := by rw [hrec.lanes]; decide +kernel
  have hboth := growConflict_names_both_lanes t hexec
  rw [hfault, hlanes] at hboth
  exact absurd hboth (by decide)
end Sys2Proof.Machine
end

section
/-! # Taking a trap (O17, and the steps that trap)

`Stands` says that a group stands in the state as its `Who` says, but for the order of its issue groups. `Stands.traps` is the one fact about
`State.takeTrap`: what it does is what `Traps` says. The terminators trap through it. -/

namespace Sys2Proof.Machine
open Host (Outcome)

/-! ## Latches and settled groups -/

theorem Group.thread_loseLatches (g : Group) (m : LaneMask) (l : Nat) :
    (g.loseLatches m).thread l =
      if m.getLsbD l = true then { g.thread l with latches := [none, none, none, none] } else g.thread l := by
  have key : ∀ (ls : List Nat) (q : Group),
      (ls.foldl (fun g l => g.modThread l (fun t => { t with latches := [none, none, none, none] })) q).thread l =
        if l ∈ ls then { q.thread l with latches := [none, none, none, none] } else q.thread l := by
    intro ls
    induction ls with
    | nil => intro q; simp
    | cons i ls ih =>
      intro q
      rw [List.foldl_cons, ih, Group.thread_modThread]
      by_cases hi : l = i
      · subst hi
        by_cases hr : l < q.threads.length
        · simp [hr]
        · have : q.thread l = {} := listGet_default _ _ _ (by omega)
          simp [hr, this]
      · simp [hi]
  unfold Group.loseLatches forLanes
  simp only [key, mem_lanesOf]
  rfl

theorem Group.settle_eq (g : Group) : ∃ th ops ns, g.settle = { g with threads := th, results := [], ops := ops, negs := ns } := by
  obtain ⟨th, ops, h, -⟩ := loseLatches_rest { g with
    results := []
    ops := (g.ops.filter (fun (o : RemOp) => !o.pkts.isEmpty)).map (fun (o : RemOp) =>
      { o with dest := .nothing, abandoned := o.abandoned || o.dest != RDest.nothing })
    negs := g.negs.map (fun (n : NegReply) => { n with tok := none }) } 0xFFFFFFFF
  exact ⟨th, ops, _, h⟩

@[simp] theorem Group.settle_results (g : Group) : g.settle.results = [] := by obtain ⟨_, _, _, h⟩ := g.settle_eq; rw [h]
@[simp] theorem Group.settle_v (g : Group) : g.settle.v = g.v := by obtain ⟨_, _, _, h⟩ := g.settle_eq; rw [h]
@[simp] theorem Group.settle_s (g : Group) : g.settle.s = g.s := by obtain ⟨_, _, _, h⟩ := g.settle_eq; rw [h]
@[simp] theorem Group.settle_igs (g : Group) : g.settle.igs = g.igs := by obtain ⟨_, _, _, h⟩ := g.settle_eq; rw [h]
@[simp] theorem Group.settle_mode (g : Group) : g.settle.mode = g.mode := by obtain ⟨_, _, _, h⟩ := g.settle_eq; rw [h]
@[simp] theorem Group.settle_place (g : Group) : g.settle.place = g.place := by obtain ⟨_, _, _, h⟩ := g.settle_eq; rw [h]

theorem Group.thread_settle (g : Group) (l : Nat) : g.settle.thread l =
    if (0xFFFFFFFF : LaneMask).getLsbD l = true then { g.thread l with latches := [none, none, none, none] } else g.thread l :=
  Group.thread_loseLatches _ _ _

theorem allLanes_getLsbD {l : Nat} (h : l < 32) : (0xFFFFFFFF : LaneMask).getLsbD l = true := by
  rw [show (0xFFFFFFFF : LaneMask) = BitVec.allOnes 32 from rfl, BitVec.getLsbD_allOnes]
  simpa using h

/-! ## A place in the state -/

/-- The group of `w` stands in the state, its issue groups maybe changed but for their order and the one of `w`, which is as `w` says. -/
structure Stands (s : State) (w : Who) : Prop where
  block : ∃ b, s.block w.core w.slot = some b ∧ { b with groups := w.b.groups } = w.b ∧
    b.groups.length = w.b.groups.length ∧ ∀ g, g ≠ w.grp → b.group g = w.b.group g
  group : ∃ l, w.grpIn s = { w.g with igs := l }
  own : w.igIn s = some w.ig
  others : ∀ id, id ≠ w.ig.id → (w.grpIn s).igs.find? (fun x => x.id == id) = w.g.igs.find? (fun x => x.id == id)
  inRange : w.grp < w.b.groups.length

theorem Issues.stands {s : State} {w : Who} (h : Issues s w) : Stands s w where
  block := ⟨w.b, h.block, rfl, rfl, fun _ _ => rfl⟩
  group := ⟨w.g.igs, by rw [h.grpIn]⟩
  own := by unfold Who.igIn; rw [h.grpIn, h.ig]
  others := by intro id _; rw [h.grpIn]
  inRange := h.inRange

/-- What `State.whoOf` finds stands in the state. -/
theorem State.whoOf_spec {s : State} {core slot grp id : Nat} {w : Who} (h : s.whoOf core slot grp id = some w) :
    Issues s w ∧ w.core = core ∧ w.slot = slot ∧ w.grp = grp ∧ w.ig.id = id ∧ w.part = w.g.part := by
  unfold State.whoOf at h
  split at h
  · cases h
  · rename_i b hb
    split at h
    · cases h
    · rename_i ig hi
      cases h
      have hid : ig.id = id := by simpa using List.find?_some hi
      refine ⟨⟨hb, rfl, by simpa [hid] using hi, ?_⟩, rfl, rfl, rfl, hid, rfl⟩
      by_contra hr
      have : b.group grp = Group.empty := listGet_default _ _ _ (by simpa using hr)
      simp [this, Group.empty] at hi

theorem Stands.onlyGroup {s : State} {w : Who} (h : Stands s w) : OnlyGroup w s s :=
  ⟨⟨⟨rfl, fun _ => rfl, fun _ => rfl⟩, fun _ => rfl, fun _ _ => rfl, fun _ _ _ => rfl⟩, h.block⟩

theorem Stands.group_modGroup {s : State} {w : Who} (h : Stands s w) (f : Group → Group) :
    w.grpIn (s.modGroup w.core w.slot w.grp f) = f (w.grpIn s) := by
  obtain ⟨b, hb, -, hlen, -⟩ := h.block
  have hr : w.grp < b.groups.length := hlen ▸ h.inRange
  unfold Who.grpIn Who.blockIn
  rw [State.modGroup_of_block hb, State.block_setBlock]
  simp [hb, Block.group_modGroup, hr]

theorem Stands.fresh {s : State} {w : Who} (h : Stands s w) : Stands s.fresh.2 w := ⟨h.block, h.group, h.own, h.others, h.inRange⟩

/-! ## Taking a trap (R40, R355, R356) -/

theorem Group.modIg_find (g : Group) (id j : Nat) {f : IGroup → IGroup} (hf : ∀ x, (f x).id = x.id) :
    (g.modIg id f).igs.find? (fun x => x.id == j) =
      (g.igs.find? (fun x => x.id == j)).map (fun x => if x.id == id then f x else x) := find_modIg _ _ _ _ hf

theorem Stands.find_own {s : State} {w : Who} (h : Stands s w) : (w.grpIn s).igs.find? (fun x => x.id == w.ig.id) = some w.ig := h.own

section
variable (g : Group) (id : Nat) (r : TrapRec) (floor : Word) (k : Kernel) (entry : Dword) (since : Nat)

/-- Entering the handler leaves registers, MODE, allotment and place alone. -/
theorem Group.enterHandler_eq : ∃ th ig rs ops ns c, g.enterHandler id r floor k entry since =
      { g with threads := th, igs := ig, results := rs, ops := ops, negs := ns, trap := c } := by
  obtain ⟨th, ops, ns, h⟩ := g.settle_eq
  unfold Group.enterHandler Group.modIg
  rw [h]
  exact ⟨_, _, _, _, _, _, rfl⟩

theorem Group.enterHandler_results : (g.enterHandler id r floor k entry since).results = [] := by
  unfold Group.enterHandler Group.modIg
  dsimp only
  exact g.settle_results

theorem Group.thread_enterHandler (l : Nat) : (g.enterHandler id r floor k entry since).thread l = g.settle.thread l := by
  unfold Group.enterHandler Group.modIg Group.thread
  dsimp only

/-- The issue group that enters stands at the handler's entry, the others as they stood. -/
theorem Group.enterHandler_find (j : Nat) : (g.enterHandler id r floor k entry since).igs.find? (fun x => x.id == j) =
    (g.igs.find? (fun x => x.id == j)).map (fun ig => if ig.id == id then { ig with
      pc := entry + 8, wait := .none, since := since, handler := true, jumped := true, entered := false,
      waited := false, trap := none, allot := g.allot, got := [] } else ig) := by
  have h := find_modIg g.settle.igs id j (fun ig => { ig with
      pc := entry + 8, wait := .none, since := since, handler := true, jumped := true, entered := false,
      waited := false, trap := none, allot := g.allot, got := [] }) (fun _ => rfl)
  rw [g.settle_igs] at h
  rw [← h]
  unfold Group.enterHandler Group.modIg
  dsimp only
  rw [g.settle_igs]

theorem Group.enterHandler_trap : (g.enterHandler id r floor k entry since).trap =
    some { record := r, floor := floor, kern := k, opBase := since
           lanes := match g.igs.find? (fun x => x.id == id) with | some ig => ig.mask | none => 0 } := rfl

end

/-- A trap that the context's handler takes. -/
theorem Stands.handled {s : State} {w : Who} (h : Stands s w) (r : TrapRec) (floor : Word) (a : Dword) :
    Handled w r floor a s ((s.fresh.2.modGroup w.core w.slot w.grp fun g =>
      g.enterHandler w.ig.id r floor (s.ctx w.ctx).hkern a s.fresh.1).clearCur w) := by
  have hg : w.grpIn ((s.fresh.2.modGroup w.core w.slot w.grp fun g =>
      g.enterHandler w.ig.id r floor (s.ctx w.ctx).hkern a s.fresh.1).clearCur w) =
      (w.grpIn s).enterHandler w.ig.id r floor (s.ctx w.ctx).hkern a s.fresh.1 := by
    rw [State.clearCur, State.grpIn_modPart]
    exact h.fresh.group_modGroup _
  obtain ⟨l, hgroup⟩ := h.group
  have hthread : ∀ l, (w.grpIn s).thread l = w.g.thread l := fun l => by rw [hgroup]; rfl
  constructor
  case frame => exact (h.onlyGroup.fresh.modGroup _).clearCur
  all_goals try unfold Who.igIn
  all_goals rw [hg]
  case group =>
    obtain ⟨_, _, _, _, _, _, he⟩ := (w.grpIn s).enterHandler_eq w.ig.id r floor (s.ctx w.ctx).hkern a s.fresh.1
    rw [he, hgroup]
  case results => exact Group.enterHandler_results ..
  case threads =>
    intro l
    rw [Group.thread_enterHandler, Group.thread_settle, hthread]
    split <;> rfl
  case latches =>
    intro l hl
    rw [Group.thread_enterHandler, Group.thread_settle, if_pos (allLanes_getLsbD hl)]
  case trap => exact ⟨_, Group.enterHandler_trap .., rfl, rfl, rfl, by rw [h.find_own]⟩
  case own =>
    rw [Group.enterHandler_find, h.find_own]
    simp [hgroup]
  case others =>
    intro id hid
    rw [Group.enterHandler_find, h.others id hid]
    cases hf : w.g.igs.find? (fun x => x.id == id) with
    | none => rfl
    | some x =>
      have : x.id = id := by simpa using List.find?_some hf
      simp [this, hid]

theorem State.ctx_setCtx (s : State) (c d : Nat) (x : Ctx) : (s.setCtx c x).ctx d = if d = c then x else s.ctx d := KMap.get_put ..

theorem State.ctx_modCtx (s : State) (c d : Nat) (f : Ctx → Ctx) : (s.modCtx c f).ctx d = if d = c then f (s.ctx c) else s.ctx d :=
  State.ctx_setCtx ..

/-- What ending a context does to the contexts (R454). -/
theorem State.ctx_endCtx (s : State) (c cause : Nat) (r : Option TrapRec) (d : Nat) : (s.endCtx c cause r).ctx d =
    if d = c ∧ ((s.ctx c).state = .live ∨ (s.ctx c).state = .stopped) then
      { s.ctx c with state := .ending, cause := BitVec.ofNat 8 cause, fault := r.getD (s.ctx c).fault }
    else s.ctx d := by
  unfold State.endCtx
  dsimp only
  by_cases h : (s.ctx c).state = .live ∨ (s.ctx c).state = .stopped
  · rw [if_pos (by simpa using h), State.ctx_setCtx]
    simp only [h, and_true]
  · rw [if_neg (by simpa using h), if_neg (fun x => h x.2)]

/-- Ending a context leaves the rest of the machine alone. -/
theorem State.endCtx_eq (s : State) (c cause : Nat) (r : Option TrapRec) : ∃ x, s.endCtx c cause r = { s with ctxs := x } := by
  unfold State.endCtx
  dsimp only
  split
  · exact ⟨_, rfl⟩
  · exact ⟨s.ctxs, rfl⟩

@[simp] theorem State.endCtx_cores (s : State) (c cause : Nat) (r : Option TrapRec) : (s.endCtx c cause r).cores = s.cores := by
  obtain ⟨x, h⟩ := s.endCtx_eq c cause r
  rw [h]

theorem State.clearCur_eq (s : State) (w : Who) : ∃ x, s.clearCur w = { s with cores := x } := ⟨_, rfl⟩

theorem State.modGroup_eq (s : State) (core slot grp : Nat) (f : Group → Group) : ∃ x, s.modGroup core slot grp f = { s with cores := x } := by
  unfold State.modGroup State.modBlock
  split
  · exact ⟨_, rfl⟩
  · exact ⟨s.cores, rfl⟩

/-- A context ends after a change of the cores alone. -/
theorem State.endCtx_endsCtx (s : State) (x : KMap Core) (c cause : Nat) (r : TrapRec) :
    EndsCtx c cause r s (State.endCtx { s with cores := x } c cause (some r)) where
  rest := by
    obtain ⟨y, h⟩ := State.endCtx_eq { s with cores := x } c cause (some r)
    rw [h]
  own := by rw [State.ctx_endCtx]; simp only [true_and]; rfl
  others := by intro d hd; rw [State.ctx_endCtx, if_neg (fun h => hd h.1)]; rfl

/-- A trap that no handler takes ends the context, and the group keeps its registers and loses its results (R40). -/
theorem Stands.ends {s : State} {w : Who} (h : Stands s w) (cause : Nat) (r : TrapRec) :
    let t := ((s.modGroup w.core w.slot w.grp Group.settle).clearCur w).endCtx w.ctx cause (some r)
    EndsCtx w.b.ctx cause r s t ∧ (w.grpIn t).v = w.g.v ∧ (w.grpIn t).s = w.g.s ∧ (w.grpIn t).results = [] := by
  intro t
  obtain ⟨x, hx⟩ := s.modGroup_eq w.core w.slot w.grp Group.settle
  obtain ⟨y, hy⟩ := (s.modGroup w.core w.slot w.grp Group.settle).clearCur_eq w
  have hg : w.grpIn t = (w.grpIn s).settle := by
    have : w.grpIn t = w.grpIn ((s.modGroup w.core w.slot w.grp Group.settle).clearCur w) := by
      unfold Who.grpIn Who.blockIn State.block State.core
      rw [State.endCtx_cores]
    rw [this, State.clearCur, State.grpIn_modPart, h.group_modGroup]
  obtain ⟨l, hgroup⟩ := h.group
  refine ⟨?_, ?_, ?_, ?_⟩
  · show EndsCtx _ _ _ _ (State.endCtx _ _ _ _)
    rw [hy, hx]
    exact State.endCtx_endsCtx _ _ _ _ _
  · rw [hg, Group.settle_v, hgroup]
  · rw [hg, Group.settle_s, hgroup]
  · rw [hg, Group.settle_results]

/-- Every trap but an assertion is taken as `Traps` says: in the handler where one runs, otherwise it ends the context. -/
theorem Stands.traps {s : State} {w : Who} (h : Stands s w) (r : TrapRec) (floor : Word) (hr : r.cause ≠ 13) :
    Traps w r floor s (s.takeTrap w r floor) := by
  have hr' : r.cause.toNat ≠ 13 := fun e => hr (BitVec.eq_of_toNat_eq e)
  have hends : ∀ r', s.handlerEntry w r.cause.toNat = none → r' = s.endRecord w r →
      Traps w r floor s (((s.modGroup w.core w.slot w.grp Group.settle).clearCur w).endCtx w.ctx r.cause.toNat (some r')) := by
    intro r' he e
    unfold Traps
    rw [he]
    dsimp only
    rw [if_neg (fun x => hr x.2), ← e]
    exact h.ends _ _
  unfold State.takeTrap
  dsimp only
  by_cases hh : w.ig.handler = true
  · rw [if_pos hh]
    exact hends _ (by simp [State.handlerEntry, hh]) (by simp [State.endRecord, hh])
  rw [if_neg hh, if_neg hr']
  by_cases hd : (driverCause r.cause.toNat || (s.ctx w.ctx).handler == 0) = true
  · rw [if_pos hd]
    refine hends _ ?_ ?_
    · rcases Bool.or_eq_true _ _ |>.mp hd with hd | hd
      · simp [State.handlerEntry, hd]
      · have : (s.ctx w.b.ctx).handler = 0 := eq_of_beq hd
        simp [State.handlerEntry, State.hasHandler, this]
    · rcases Bool.or_eq_true _ _ |>.mp hd with hd | hd
      · simp [State.endRecord, hh, hd]
      · have : (s.ctx w.b.ctx).handler = 0 := eq_of_beq hd
        simp [State.endRecord, hh, this]
  rw [if_neg hd]
  simp only [Bool.or_eq_true, not_or, Bool.not_eq_true, beq_eq_false_iff_ne] at hd
  obtain ⟨hd1, hd2⟩ := hd
  have hfits : s.hasHandler w = true ↔ ¬ (w.g.allot < (s.ctx w.ctx).hkern.regs ∨ w.b.nodeRec.kern.locKiB < (s.ctx w.ctx).hkern.locKiB) := by
    unfold State.hasHandler
    have : ((s.ctx w.b.ctx).handler != 0) = true := by simpa [Who.ctx] using hd2
    simp only [this, Bool.true_and, Bool.and_eq_true, decide_eq_true_eq, not_or, not_lt]
    exact Iff.rfl
  simp only [Bool.or_eq_true, decide_eq_true_eq]
  by_cases hsmall : w.g.allot < (s.ctx w.ctx).hkern.regs ∨ w.b.nodeRec.kern.locKiB < (s.ctx w.ctx).hkern.locKiB
  · rw [if_pos hsmall]
    have hn : s.hasHandler w = false := by rw [← Bool.not_eq_true, hfits, not_not]; exact hsmall
    refine hends _ (by simp [State.handlerEntry, hn]) ?_
    have : (s.ctx w.b.ctx).handler ≠ 0 := hd2
    unfold State.endRecord
    rw [hn, hd1, bne_iff_ne.2 this, if_pos (by simp)]
  rw [if_neg hsmall]
  have hn : s.hasHandler w = true := hfits.2 hsmall
  have hentry : s.handlerEntry w r.cause.toNat = s.segEntry w.core w.b.ctx (s.ctx w.b.ctx).hkern (s.ctx w.b.ctx).hseg.toNat := by
    unfold State.handlerEntry
    rw [if_neg]
    simp [hh, hr', hd1, hn]
  cases hs : s.segEntry w.core w.b.ctx (s.ctx w.b.ctx).hkern (s.ctx w.b.ctx).hseg.toNat with
  | none =>
    simp only [Who.ctx, hs]
    exact hends _ (by rw [hentry, hs]) (by simp [State.endRecord, hh, hn])
  | some a =>
    simp only [Who.ctx, hs]
    unfold Traps
    rw [hentry, hs]
    exact h.handled r floor a

/-- The record that an instruction's fault makes. -/
theorem State.record_recordAt (s : State) (w : Who) (lanes : LaneMask) (f : Flt) :
    RecordAt w s lanes f.cause f.lane (s.record w lanes f) :=
  ⟨rfl, rfl, rfl, rfl, rfl, rfl, ⟨rfl, rfl⟩, rfl, rfl, rfl, ⟨rfl, rfl, rfl⟩⟩

/-- An instruction that answers with a fault of its slot raises it. -/
theorem Issues.raises {s : State} {w : Who} (h : Issues s w) {i : Sys2Proof.Instr} {lanes : LaneMask} {f : Flt}
    (hexec : exec i s = s.raise w lanes f) (hf : f.floor = 0) (hc : BitVec.ofNat 6 f.cause ≠ 13) :
    Raises i w lanes f.cause f.lane f.addr s :=
  ⟨s.record w lanes f, _, hexec, State.record_recordAt .., rfl, hf ▸ h.stands.traps _ _ hc⟩

/-! ## Terminators (R238, R239) -/

/-- The first lane that fails decides what `gather` answers. -/
theorem gather_first_error {α : Type} {f : Nat → Except Flt α} {l : Nat} {e : Flt} (hf : f l = .error e) :
    ∀ {ls : List Nat}, ls.Pairwise (· < ·) → l ∈ ls → (∀ j ∈ ls, j < l → ∃ a, f j = .ok a) → gather ls f = .error e := by
  intro ls
  induction ls with
  | nil => intro _ hl; cases hl
  | cons i ls ih =>
    intro hs hl hlow
    obtain ⟨hhead, htail⟩ := List.pairwise_cons.1 hs
    unfold gather
    rcases List.mem_cons.1 hl with rfl | hl'
    · rw [hf]
    · obtain ⟨a, ha⟩ := hlow i List.mem_cons_self (hhead l hl')
      rw [ha, ih htail hl' fun j hj => hlow j (List.mem_cons_of_mem _ hj)]

theorem pairwise_lanesOf (m : LaneMask) : (lanesOf m).Pairwise (· < ·) := List.Pairwise.filter _ List.pairwise_lt_range

/-- The successor function of a terminator: the target of a thread that it admits, cause `c` for one that it does not. -/
def FollowsOp (w : Who) (p : TermOp) (c : Nat) (go : Who → Nat → Except Nat (Option Nat)) : Prop :=
  ∀ j, go w j = if p.ok (w.g.thread j) then .ok (p.target w j) else .error c

/-- A terminator traps in its lowest lane that may not go on: where the thread is refused with the terminator's own cause, and where its
segment has no entry with cause 5 (R27, R238). -/
theorem State.terminate_raises {s : State} {w : Who} (h : s.issuer = some w) {i : Instr} {p : TermOp} {c l : Nat}
    {go : Who → Nat → Except Nat (Option Nat)} {st : Thread → Thread} (hexec : exec i s = s.terminate go st)
    (hgo : FollowsOp w p c go) (hc : c = 3 ∨ c = 5) (hl : w.live.getLsbD l = true)
    (hbad : p.ok (w.g.thread l) = false ∨ ∃ n, p.target w l = some n ∧ s.segEntry w.core w.b.ctx w.kern n = none)
    (hlow : ∀ j, j < l → w.live.getLsbD j = true →
      ¬ (p.ok (w.g.thread j) = false ∨ ∃ n, p.target w j = some n ∧ s.segEntry w.core w.b.ctx w.kern n = none)) :
    Raises i w w.live (if p.ok (w.g.thread l) then 5 else c) l 0 s := by
  have hraise : exec i s = s.raise w w.live { cause := if p.ok (w.g.thread l) then 5 else c, lane := l } := by
    rw [hexec]
    unfold State.terminate
    rw [State.withIssuer_of h]
    dsimp only
    rw [gather_first_error (l := l) (e := { cause := if p.ok (w.g.thread l) then 5 else c, lane := l }) ?_ (pairwise_lanesOf _)
      ((mem_lanesOf _ _).2 hl)]
    · intro j hj hjl
      have hgood := hlow j hjl ((mem_lanesOf _ _).1 hj)
      rw [not_or, Bool.not_eq_false] at hgood
      obtain ⟨hok, hseg⟩ := hgood
      rw [hgo j, if_pos hok]
      cases hn : p.target w j with
      | none => exact ⟨_, rfl⟩
      | some n =>
        cases hs : s.segEntry w.core w.ctx w.kern n with
        | none => exact absurd ⟨n, hn, hs⟩ hseg
        | some a => exact ⟨some a, by simp only [hs]⟩
    · rw [hgo l]
      cases hok : p.ok (w.g.thread l) with
      | false => rfl
      | true =>
        obtain ⟨n, hn, hs⟩ := hbad.resolve_left (by simp [hok])
        simp [hn, show s.segEntry w.core w.ctx w.kern n = none from hs]
  refine (State.issuer_spec h).raises hraise rfl ?_
  rcases hc with rfl | rfl <;> dsimp only <;> split <;> decide

/-- Settles O17: the terminators differ in their successor function alone. -/
theorem terminatorsTrap : Obligations.TerminatorsTrap := by
  intro i p hp s w l h hl bad hdeep hbad hlow
  cases i <;> cases hp
  case nextSeg k n =>
    refine State.terminate_raises h (go := fun _ _ => .ok (some n.toNat)) (c := 5) rfl ?_ (.inr rfl) hl hbad hlow
    exact fun _ => rfl
  case nextp k q t f =>
    refine State.terminate_raises h (go := fun w l => .ok (some (if (w.g.thread l).pred q then t.toNat else f.toNat))) (c := 5) rfl ?_
      (.inr rfl) hl hbad hlow
    exact fun _ => rfl
  case nextx k n imm =>
    refine State.terminate_raises h (go := fun w _ => .ok (some (w.s32 n + imm.toNat))) (c := 5) rfl ?_ (.inr rfl) hl hbad hlow
    exact fun _ => rfl
  case exit k =>
    refine State.terminate_raises h (go := fun _ _ => .ok none) (c := 5) rfl ?_ (.inr rfl) hl hbad hlow
    exact fun _ => rfl
  case call =>
    refine State.terminate_raises h (c := 3) rfl (fun j => ?_) (.inl rfl) hl hbad hlow
    have := hdeep j
    by_cases hfull : (w.g.thread j).stack.length = 16
    · simp [hfull]
    · simp [hfull, show (w.g.thread j).stack.length < 16 by omega]
  case ret k imm =>
    have := State.terminate_raises h (i := .ret k imm) (c := 5) rfl (fun j => ?_) (.inr rfl) hl hbad hlow
    · simpa using this
    · cases hs : (w.g.thread j).stack <;> simp [hs]

end Sys2Proof.Machine
end

section
/-! # Steps inside a core and at the home agents (O47)

One lemma for each kind of step. A store that is performed leaves traces (counters, numbers, L1s, marks), which `State.sansTraces` forgets. -/

namespace Sys2Proof.Machine
open Host (Outcome)

/-! ## One block of a core -/

theorem State.setBlock_blockAt (s : State) (core slot : Nat) (b : Block) : BlockAt core slot b s (s.setBlock core slot b) where
  rest := rfl
  cores := by
    intro c
    unfold State.setBlock
    rw [State.core_modCore]
    split
    · subst_vars; rfl
    · rfl
  blocks := fun c k => State.block_setBlock ..

theorem State.modGroup_blockAt {s : State} {core slot : Nat} {b : Block} (h : s.block core slot = some b) (grp : Nat) (f : Group → Group) :
    BlockAt core slot (b.modGroup grp f) s (s.modGroup core slot grp f) := by
  rw [State.modGroup_of_block h]
  exact State.setBlock_blockAt ..

theorem listMod_congr {α : Type} (d : α) {f g : α → α} : ∀ (l : List α) (i : Nat), f (listGet d l i) = g (listGet d l i) →
    listMod l i f = listMod l i g
  | [], i, _ => by cases i <;> rfl
  | _ :: _, 0, h => by simpa [listMod, listGet] using h
  | _ :: t, i + 1, h => by simpa [listMod] using listMod_congr d t i h

theorem Block.modGroup_congr {b : Block} {grp : Nat} {f g : Group → Group} (h : f (b.group grp) = g (b.group grp)) :
    b.modGroup grp f = b.modGroup grp g := by
  unfold Block.modGroup
  rw [listMod_congr Group.empty _ _ h]

/-! ## Results, waiting traps, WAIT.CLK -/

theorem Group.writeBack_of_local {g : Group} {k : Nat} {r : Result} (h : g.results.find? (fun x => x.id == k) = some r)
    (hr : r.remote = false) : g.writeBack k = { g with results := g.results.filter fun x => x.id != k } := by
  unfold Group.writeBack
  rw [h]
  simp [hr]

/-- A result of the core's own is written back: it leaves the group (R219). -/
theorem State.writesBack {s : State} {core slot grp k : Nat} {b : Block} {r : Result} (hb : s.block core slot = some b)
    (hf : (b.group grp).results.find? (fun x => x.id == k) = some r) (hr : r.remote = false) :
    ∃ t, exec (.resultWriteback core slot grp k) s = .next t ∧ BlockAt core slot
      (b.modGroup grp fun g => { g with results := g.results.filter fun x => x.id != k }) s t := by
  refine ⟨_, rfl, ?_⟩
  rw [← Block.modGroup_congr (f := fun g => g.writeBack k) (Group.writeBack_of_local hf hr)]
  exact State.modGroup_blockAt hb _ _

theorem Who.trapDue_cause {w : Who} {r : TrapRec} (h : w.trapDue = some r) : r.cause ≠ 13 := by
  unfold Who.trapDue at h
  split at h
  · split at h
    · rename_i hc
      cases h
      intro e
      simp [e] at hc
    · cases h
  · cases h

theorem State.dueRecord_cause (s : State) (w : Who) (r : TrapRec) : (s.dueRecord w r).cause = r.cause := by
  have hrec : (s.record w w.live { cause := r.cause.toNat, lane := lowest w.live }).cause = r.cause :=
    BitVec.eq_of_toNat_eq (by simp [State.record])
  unfold State.dueRecord
  split
  · rfl
  · dsimp only
    split
    · exact hrec
    · exact hrec

/-- The issuer's group with its issue group replaced by `f` of it, where `f` keeps the number. -/
theorem Issues.stands_modIg {s : State} {w : Who} (h : Issues s w) {f : IGroup → IGroup} (hf : ∀ x, (f x).id = x.id) :
    Stands (s.modGroup w.core w.slot w.grp fun g => g.modIg w.ig.id f) { w with ig := f w.ig } := by
  have hg : w.grpIn (s.modGroup w.core w.slot w.grp fun g => g.modIg w.ig.id f) = w.g.modIg w.ig.id f := h.group_modGroup _
  have hfind : ∀ j, (w.g.modIg w.ig.id f).igs.find? (fun x => x.id == j) =
      (w.g.igs.find? (fun x => x.id == j)).map (fun x => if x.id == w.ig.id then f x else x) := fun j => find_modIg _ _ _ _ hf
  constructor
  case block =>
    refine ⟨w.b.modGroup w.grp fun g => g.modIg w.ig.id f, ?_, rfl, listMod_length .., ?_⟩
    · rw [h.block_modGroup]
      simp
    · intro g hg
      rw [Block.group_modGroup, if_neg (fun x => hg x.1)]
  case group => exact ⟨_, hg⟩
  case own =>
    show (w.grpIn _).igs.find? (fun x => x.id == (f w.ig).id) = _
    rw [hg, hf, hfind, h.ig]
    simp
  case others =>
    intro id hid
    replace hid : id ≠ w.ig.id := hf w.ig ▸ hid
    show (w.grpIn _).igs.find? _ = _
    rw [hg, hfind]
    cases hi : w.g.igs.find? (fun x => x.id == id) with
    | none => rfl
    | some x =>
      have : x.id = id := by simpa using List.find?_some hi
      simp [this, hid]
  case inRange => exact h.inRange

/-- A trap that waits is taken by its issue group as any other (R40). -/
theorem State.deliversTrap {s : State} {core slot grp ig : Nat} {w : Who} {r : TrapRec} (hw : s.whoOf core slot grp ig = some w)
    (hlive : (s.ctx w.b.ctx).state = .live) (hdue : w.trapDue = some r) :
    ∃ r' t, exec (.trapDelivery core slot grp ig) s = .next t ∧ r'.cause = r.cause ∧
      Traps { w with ig := { w.ig with trap := none } } r' 0
        (s.modGroup core slot grp fun g => g.modIg ig fun x => { x with trap := none }) t := by
  obtain ⟨hi, rfl, rfl, rfl, rfl, -⟩ := State.whoOf_spec hw
  refine ⟨s.dueRecord w r, s.deliver w, ?_, State.dueRecord_cause .., ?_⟩
  · show execTrapDelivery _ _ _ _ _ = _
    unfold execTrapDelivery
    rw [hw]
    dsimp only
    rw [if_pos (show (s.ctx w.ctx).state = .live from hlive)]
  · unfold State.deliver
    rw [hdue]
    refine (hi.stands_modIg (f := fun x => { x with trap := none }) fun _ => rfl).traps _ _ ?_
    rw [State.dueRecord_cause]
    exact Who.trapDue_cause hdue

/-- A WAIT.CLK whose count has run out ends where no drain holds it (R242, R243). -/
theorem State.endsWaitClk {s : State} {core slot grp ig till : Nat} {wm : Bool} {w : Who} (hw : s.whoOf core slot grp ig = some w)
    (hwait : w.ig.wait = .clk till wm) (htill : till ≤ s.clock) (hdrain : s.draining w.b.ctx = false) :
    ∃ t, exec (.waitClkExpiry core slot grp ig) s = .next t ∧ BlockAt core slot
      (w.b.modGroup grp fun g => g.modIg ig fun x => { x with wait := .none }) s t := by
  obtain ⟨hi, rfl, rfl, rfl, rfl, -⟩ := State.whoOf_spec hw
  refine ⟨_, ?_, State.modGroup_blockAt hi.block _ _⟩
  show execWaitClkExpiry _ _ _ _ _ = _
  unfold execWaitClkExpiry
  rw [hw]
  dsimp only
  rw [hwait]
  dsimp only
  rw [show s.draining w.ctx = false from hdrain, if_pos (by simpa using htill)]

/-! ## Held GROWs (R36) -/

theorem find?_eq_of_unique {α : Type} {p : α → Bool} {l : List α} {x : α} (hx : x ∈ l) (hp : p x = true)
    (hu : ∀ y ∈ l, p y = true → y = x) : l.find? p = some x := by
  cases hf : l.find? p with
  | none => exact absurd hp (List.find?_eq_none.1 hf x hx)
  | some y => rw [hu y (List.mem_of_find?_eq_some hf) (List.find?_some hf)]

/-- The held GROWs of a partition: since when, slot, group. -/
def State.heldGrows (s : State) (core part : Nat) : List (Nat × Nat × Group) :=
  (s.partGroups core part).filterMap fun x => x.2.growHeld.map fun t => (t, x.1, x.2)

/-- The held GROWs that the partition can grant: since when, slot, group number. -/
def State.grantable (s : State) (core part : Nat) : List (Nat × Nat × Nat) :=
  (s.partGroups core part).filterMap fun x => if s.canGrant core part x.2 then x.2.growHeld.map fun t => (t, x.1, x.2.idx) else none

theorem State.mem_heldGrows {s : State} {core part : Nat} {z : Nat × Nat × Group} :
    z ∈ s.heldGrows core part ↔ (z.2.1, z.2.2) ∈ s.partGroups core part ∧ z.2.2.growHeld = some z.1 := by
  unfold State.heldGrows
  rw [List.mem_filterMap]
  constructor
  · rintro ⟨x, hx, hz⟩
    obtain ⟨t, ht, rfl⟩ := Option.map_eq_some_iff.1 hz
    exact ⟨hx, ht⟩
  · rintro ⟨hx, ht⟩
    exact ⟨_, hx, by rw [ht]; rfl⟩

theorem State.mem_grantable {s : State} {core part : Nat} {z : Nat × Nat × Nat} : z ∈ s.grantable core part ↔
    ∃ x ∈ s.partGroups core part, s.canGrant core part x.2 = true ∧ x.2.growHeld = some z.1 ∧ z.2 = (x.1, x.2.idx) := by
  unfold State.grantable
  rw [List.mem_filterMap]
  constructor
  · rintro ⟨x, hx, hz⟩
    split at hz
    · rename_i hg
      obtain ⟨t, ht, rfl⟩ := Option.map_eq_some_iff.1 hz
      exact ⟨x, hx, hg, ht, rfl⟩
    · cases hz
  · rintro ⟨x, hx, hg, ht, hz⟩
    obtain ⟨t, z⟩ := z
    cases hz
    exact ⟨x, hx, by rw [if_pos hg, ht]; rfl⟩

section
variable {s : State} {core part : Nat} {x : Nat × Group} (hx : x ∈ s.partGroups core part)
  (hstuck : ∀ y ∈ s.partGroups core part, y.2.growHeld.isSome = true ∧ s.canGrant core part y.2 = false)
include hx hstuck

/-- The held GROW that came last is the one found. -/
theorem State.find_heldGrows_last (hlast : ∀ y ∈ s.partGroups core part, y ≠ x → y.2.growHeld.getD 0 < x.2.growHeld.getD 0) :
    (s.heldGrows core part).find? (fun z => (s.heldGrows core part).all fun y => decide (y.1 ≤ z.1)) =
      some (x.2.growHeld.getD 0, x.1, x.2) := by
  obtain ⟨t, ht⟩ := Option.isSome_iff_exists.1 (hstuck x hx).1
  rw [ht] at hlast ⊢
  have hmem : (t, x.1, x.2) ∈ s.heldGrows core part := State.mem_heldGrows.2 ⟨hx, ht⟩
  refine find?_eq_of_unique hmem ?_ ?_
  · rw [List.all_eq_true]
    intro y hy
    obtain ⟨hy, hyt⟩ := State.mem_heldGrows.1 hy
    by_cases hyx : (y.2.1, y.2.2) = x
    · subst hyx
      rw [hyt] at ht
      cases ht
      simp
    · have := hlast _ hy hyx
      rw [hyt] at this
      simpa using Nat.le_of_lt this
  · rintro ⟨u, y⟩ hy htop
    obtain ⟨hy, hyt⟩ := State.mem_heldGrows.1 hy
    have htu : t ≤ u := by simpa using List.all_eq_true.1 htop _ hmem
    by_cases hyx : y = x
    · subst hyx
      rw [hyt] at ht
      cases ht
      rfl
    · have := hlast y hy hyx
      rw [hyt] at this
      exact absurd this (Nat.not_lt.2 htu)

/-- Every group is held and none can be granted, so `growStuck` comes to the one that entered last. -/
theorem State.growStuck_of_last (hlast : ∀ y ∈ s.partGroups core part, y ≠ x → y.2.growHeld.getD 0 < x.2.growHeld.getD 0)
    {ig : IGroup} {w : Who} (hig : x.2.igs.find? (fun i => i.wait.gathers) = some ig)
    (hw : s.whoOf core x.1 x.2.idx ig.id = some w) :
    s.growStuck core part = s.takeTrap w (s.record w w.live { cause := 15, lane := lowest w.live }) 0 := by
  have hall : (s.heldGrows core part).length = (s.partGroups core part).length :=
    List.filterMap_length_eq_length.2 (fun y hy => by simpa using (hstuck y hy).1)
  have hgo : ¬ ((s.partGroups core part).isEmpty || (s.heldGrows core part).length != (s.partGroups core part).length ||
      (s.partGroups core part).any fun y => s.canGrant core part y.2) = true := by
    rw [hall]
    have hne : s.partGroups core part ≠ [] := List.ne_nil_of_mem hx
    have hno : ∀ a b, (a, b) ∈ s.partGroups core part → s.canGrant core part b = false := fun a b h => (hstuck _ h).2
    simpa [hne] using hno
  have hfind := State.find_heldGrows_last hx hstuck hlast
  unfold State.growStuck
  dsimp only
  unfold State.heldGrows at hgo hfind
  rw [if_neg hgo, hfind]
  dsimp only
  rw [hig]
  dsimp only
  rw [hw]

end

theorem execGrowGrant_eq (core part : Nat) (s : State) : exec (.growGrant core part) s =
    match (s.grantable core part).find? (fun x => (s.grantable core part).all fun y => decide (x.1 ≤ y.1)) with
    | some (_, slot, grp) => .next (s.tryResize core slot grp)
    | none => .next (s.growStuck core part) := rfl

/-- Where every group of a partition is held and none can be granted, the group that entered last takes the watchdog trap. -/
theorem State.stuckTraps {s : State} {core part : Nat} {x : Nat × Group} {ig : IGroup} {w : Who} (hx : x ∈ s.partGroups core part)
    (hstuck : ∀ y ∈ s.partGroups core part, y.2.growHeld.isSome = true ∧ s.canGrant core part y.2 = false)
    (hlast : ∀ y ∈ s.partGroups core part, y ≠ x → y.2.growHeld.getD 0 < x.2.growHeld.getD 0)
    (hig : x.2.igs.find? (fun i => i.wait.gathers) = some ig) (hw : s.whoOf core x.1 x.2.idx ig.id = some w) :
    ∃ r t, exec (.growGrant core part) s = .next t ∧ RecordAt w s w.live 15 (lowest w.live) r ∧ Traps w r 0 s t := by
  obtain ⟨hi, -⟩ := State.whoOf_spec hw
  have hnone : s.grantable core part = [] := by
    rw [List.eq_nil_iff_forall_not_mem]
    intro z hz
    obtain ⟨y, hy, hg, -⟩ := State.mem_grantable.1 hz
    rw [(hstuck y hy).2] at hg
    cases hg
  have hexec : exec (.growGrant core part) s =
      .next (s.takeTrap w (s.record w w.live { cause := 15, lane := lowest w.live }) 0) := by
    rw [execGrowGrant_eq, hnone, List.find?_nil]
    dsimp only
    rw [State.growStuck_of_last hx hstuck hlast hig hw]
  exact ⟨_, _, hexec, State.record_recordAt s w w.live { cause := 15, lane := lowest w.live },
    hi.stands.traps _ _ (show BitVec.ofNat 6 15 ≠ 13 by decide)⟩

/-- An entry of a list that is least by its first component is found. -/
theorem exists_find_least {α : Type} {l : List (Nat × α)} (h : l ≠ []) :
    ∃ z ∈ l, l.find? (fun x => l.all fun y => decide (x.1 ≤ y.1)) = some z := by
  cases hf : l.find? (fun x => l.all fun y => decide (x.1 ≤ y.1)) with
  | some z => exact ⟨z, List.mem_of_find?_eq_some hf, rfl⟩
  | none =>
    refine absurd ?_ (List.find?_eq_none.1 hf (l.minOn Prod.fst h) List.minOn_mem)
    rw [List.all_eq_true]
    intro y hy
    simpa using List.apply_minOn_le_of_mem (f := Prod.fst) hy

theorem KMap.mem_of_find {α : Type} {k : Nat} {v : α} : ∀ {m : KMap α}, KMap.find m k = some v → (k, v) ∈ m
  | [], h => by cases h
  | (j, u) :: m, h => by
    unfold KMap.find at h
    split at h
    · rename_i e
      cases h
      cases e
      exact List.mem_cons_self
    · exact List.mem_cons_of_mem _ (KMap.mem_of_find h)

theorem KMap.get_filter_key {α : Type} (d : α) (p : Nat → Bool) (k : Nat) :
    ∀ m : KMap α, KMap.get d (m.filter fun x => p x.1) k = if p k then KMap.get d m k else d
  | [] => by simp [KMap.get]
  | (j, v) :: m => by
    have ih := KMap.get_filter_key d p k m
    by_cases hj : k = j
    · subst hj
      cases hp : p k <;> simp [KMap.get, hp, ih]
    · cases hp : p j <;> simp [KMap.get, hp, hj, ih]

theorem listGet_mem {α : Type} (d : α) : ∀ {l : List α} {i : Nat}, i < l.length → listGet d l i ∈ l
  | _ :: _, 0, _ => List.mem_cons_self
  | _ :: _, _ + 1, h => List.mem_cons_of_mem _ (listGet_mem d (by simpa using h))

theorem Block.lt_of_igs {b : Block} {grp : Nat} (h : (b.group grp).igs ≠ []) : grp < b.groups.length := by
  by_contra hr
  exact h (by rw [show b.group grp = Group.empty from listGet_default _ _ _ (Nat.not_lt.1 hr)]; rfl)

theorem State.mem_partGroups {s : State} {core part slot grp : Nat} {b : Block} (hb : s.block core slot = some b)
    (hlt : grp < b.groups.length) (hpart : (b.group grp).part = part) (hhere : (b.group grp).here = true) :
    (slot, b.group grp) ∈ s.partGroups core part := by
  unfold State.partGroups
  refine List.mem_flatMap.2 ⟨(slot, b), KMap.mem_of_find hb, List.mem_map.2 ⟨_, List.mem_filter.2 ⟨listGet_mem _ hlt, ?_⟩, rfl⟩⟩
  show ((b.group grp).part == part && (b.group grp).here) = true
  rw [hpart, hhere, beq_self_eq_true, Bool.and_self]

/-- What a wait asks of the partition. -/
def Wait.resize : Wait → Option (Bool × Nat)
  | .grow up n => some (up, n)
  | _ => Option.none

/-- The granules that a held GROW asks for. -/
def Wait.growAsks : Wait → Option Nat
  | .grow true n => some n
  | _ => Option.none

theorem findSome?_of_all {α β : Type} {f : α → Option β} {l : List α} {y : β} (hne : l ≠ []) (h : ∀ x ∈ l, f x = some y) :
    l.findSome? f = some y := by
  cases l with
  | nil => exact absurd rfl hne
  | cons x xs => rw [List.findSome?_cons, h x List.mem_cons_self]

theorem Group.growAsks_eq (g : Group) : g.growAsks = g.igs.findSome? fun ig => ig.wait.growAsks := rfl

theorem Group.growHeld_of_asks {g : Group} {n : Nat} (ha : g.growAsks = some n) (hall : g.allAt (fun x => x == .grow true n) = true) :
    g.growHeld.isSome = true := by
  have heq : g.growHeld = match g.growAsks with
      | some n => if g.allAt (· == .grow true n) then some (g.igs.foldl (fun m ig => max m ig.since) 0) else none
      | none => none := rfl
  rw [heq, ha]
  dsimp only
  rw [if_pos hall]
  rfl

/-- Where the group in a slot asks for granules that the partition has, and every thread has reached the request, it grows. -/
theorem State.tryResize_of_resize {s : State} {core slot grp n : Nat} {b : Block} (hb : s.block core slot = some b)
    (hreq : (b.group grp).igs.findSome? (fun ig => ig.wait.resize) = some (true, n))
    (hall : (b.group grp).allAt (fun x => x == .grow true n) = true)
    (hroom : s.partUsed core (b.group grp).part + n ≤ 128) :
    s.tryResize core slot grp =
      s.fresh.2.modGroup core slot grp (fun g => (g.grow n).passAll (fun w => w == Wait.grow true n) s.fresh.1) := by
  unfold State.tryResize
  rw [hb]
  dsimp only
  split
  · rename_i hnone
    cases hreq.symm.trans hnone
  · rename_i hsome
    cases hreq.symm.trans hsome
    rw [hall]
    exact if_pos hroom

/-- A held GROW is granted: its registers beyond the old allotment read as zero, and its threads are past their slot. -/
theorem State.grantsGrow {s : State} {core part slot grp n : Nat} {b : Block} (hb : s.block core slot = some b)
    (hne : (b.group grp).igs ≠ []) (hpart : (b.group grp).part = part)
    (hhere : (b.group grp).here = true) (hwait : ∀ x ∈ (b.group grp).igs, x.wait = .grow true n)
    (hall : (b.group grp).allAt (fun x => x == .grow true n) = true) (hroom : s.partUsed core part + n ≤ 128)
    (honly : ∀ x ∈ s.partGroups core part, x.2.growHeld.isSome → x.1 = slot ∧ x.2.idx = grp) :
    ∃ t b', exec (.growGrant core part) s = .next t ∧
      ({ t with
        cores := s.cores, nextId := s.nextId } : State) = s ∧
      t.block core slot = some b' ∧ { b' with groups := b.groups } = b ∧
      (b'.group grp).allot = (b.group grp).allot + n ∧ (b'.group grp).s = (b.group grp).s ∧
      (∀ l r, l < 32 → (b'.group grp).vreg l r = if r < 8 * (b.group grp).allot then (b.group grp).vreg l r else 0) ∧
      (b'.group grp).igs.map (fun x => (x.id, x.pc, x.wait)) =
        (b.group grp).igs.map (fun x => (x.id, nextPc x.pc, .none)) := by
  have hasks : (b.group grp).growAsks = some n := by
    rw [Group.growAsks_eq]
    exact findSome?_of_all hne fun x hx => by rw [hwait x hx]; rfl
  have hreq : (b.group grp).igs.findSome? (fun ig => ig.wait.resize) = some (true, n) :=
    findSome?_of_all hne fun x hx => by rw [hwait x hx]; rfl
  have hmem := State.mem_partGroups hb (Block.lt_of_igs hne) hpart hhere
  have hheld := Group.growHeld_of_asks hasks hall
  have hcan : s.canGrant core part (b.group grp) = true := by
    unfold State.canGrant
    rw [hheld, hasks]
    exact decide_eq_true hroom
  obtain ⟨u, hu⟩ := Option.isSome_iff_exists.1 hheld
  have hgrantable : s.grantable core part ≠ [] :=
    List.ne_nil_of_mem (State.mem_grantable.2 ⟨_, hmem, hcan, hu, rfl⟩ : (u, slot, (b.group grp).idx) ∈ _)
  obtain ⟨z, hz, hfind⟩ := exists_find_least hgrantable
  obtain ⟨x, hx, -, hxt, hzx⟩ := State.mem_grantable.1 hz
  obtain ⟨h1, h2⟩ := honly x hx (by rw [hxt]; rfl)
  have hexec : exec (.growGrant core part) s = .next (s.tryResize core slot grp) := by
    rw [execGrowGrant_eq, hfind]
    obtain ⟨t, z⟩ := z
    cases hzx
    rw [← h1, ← h2]
  have hb' : s.fresh.2.block core slot = some b := hb
  rw [State.tryResize_of_resize hb hreq hall (hpart ▸ hroom), State.modGroup_of_block hb'] at hexec
  have hgroup := Block.group_modGroup b grp (fun g => (g.grow n).passAll (fun w => w == Wait.grow true n) s.fresh.1) grp
  rw [if_pos ⟨rfl, Block.lt_of_igs hne⟩] at hgroup
  refine ⟨_, _, hexec, rfl, (State.block_setBlock ..).trans (if_pos ⟨rfl, rfl⟩), rfl, ?_, ?_, ?_, ?_⟩ <;> rw [hgroup]
  · rfl
  · rfl
  · intro l r hl
    show KMap.get 0 ((b.group grp).v.filter fun p => decide (p.1 < 8 * (b.group grp).allot * 32)) (r * 32 + l) = _
    rw [KMap.get_filter_key 0 (fun k => decide (k < 8 * (b.group grp).allot * 32))]
    have : r * 32 + l < 8 * (b.group grp).allot * 32 ↔ r < 8 * (b.group grp).allot := by omega
    simp only [decide_eq_true_eq, this]
    rfl
  · show ((b.group grp).igs.map _).map _ = _
    rw [List.map_map]
    refine List.map_congr_left fun x hx => ?_
    simp only [Function.comp, hwait x hx, beq_self_eq_true, if_true, IGroup.advance_id, IGroup.advance_pc]

/-! ## What a performed store leaves behind: counters, numbers, L1s, marks -/

/-- The state without the traces of performed stores. -/
def State.sansTraces (s : State) : State := { s with sys := { s.sys with counters := [] }, nextId := 0, l1s := [], marks := [] }

/-- A state with the traces of another. -/
def State.tracesOf (t s : State) : State :=
  { t with nextId := s.nextId, l1s := s.l1s, marks := s.marks, sys := { t.sys with counters := s.sys.counters } }

theorem State.tracesOf_of_sans {s t : State} (h : t.sansTraces = s.sansTraces) : t.tracesOf s = s  :=
  (congrArg (State.tracesOf · s) h :)

theorem foldl_keeps {σ α β : Type} {F : σ → β} {f : σ → α → σ} (h : ∀ s x, F (f s x) = F s) : ∀ (l : List α) (s : σ), F (l.foldl f s) = F s
  | [], _ => rfl
  | x :: l, s => by rw [List.foldl_cons, foldl_keeps h l, h]

@[simp] theorem State.rxHome_sansTraces (s : State) (core : Nat) (t : Tgt) (n : Nat) : (s.rxHome core t n).sansTraces = s.sansTraces := by
  cases t <;> rfl

@[simp] theorem State.invalidate_sansTraces (s : State) (own : Option Nat) (src : Agent) (store : Nat) (keys : List Nat) (tc : Option Nat) :
    (s.invalidate own src store keys tc).sansTraces = s.sansTraces := rfl

@[simp] theorem State.putMark_sansTraces (s : State) (m : Mark) (atomic : Bool) : (s.putMark m atomic).2.sansTraces = s.sansTraces := rfl

@[simp] theorem State.updateL1_sansTraces (s : State) (core : Nat) (t : Tgt) (bs : List (Byte × Byte)) (m : Mark) :
    (s.updateL1 core t bs m).sansTraces = s.sansTraces := by
  unfold State.updateL1
  exact foldl_keeps (F := State.sansTraces) (by intros; rfl) _ _

@[simp] theorem State.afterStore_sansTraces (s : State) (d : Dom) (id : Nat) : (s.afterStore d id).sansTraces = s.sansTraces := by
  unfold State.afterStore
  split <;> rfl

/-- A store at its home leaves traces alone. -/
theorem State.stored_sansTraces (s : State) (e : Store) (t : Tgt) (bs : List (Byte × Byte)) :
    (s.stored e t bs).sansTraces = s.sansTraces := by
  unfold State.stored
  dsimp only
  rw [State.afterStore_sansTraces, State.updateL1_sansTraces, State.putMark_sansTraces, State.invalidate_sansTraces,
    State.rxHome_sansTraces]

/-! ## Stores to memory (R73, R179, R196) -/

theorem State.mergeLine_of_none {s : State} (h : s.cu = []) (pa n : Nat) : s.mergeLine pa n = s := by
  have : { s with cu := [] } = s := by rw [← h]
  unfold State.mergeLine
  dsimp only
  rw [h]
  exact this

theorem State.rawWrite_dev_of_none {s : State} (h : s.cu = []) (pa : Nat) (bs : List (Byte × Byte)) :
    s.rawWrite (.dev pa) bs = { s with mem := Memory.writeMasked s.mem pa bs } := by
  unfold State.rawWrite
  dsimp only
  rw [State.mergeLine_of_none h]

/-- A sector that the log of the leg holds needs no further entry. -/
theorem State.logSector_of_logged {s : State} {c : Nat} {leg : Word} {d : Domain} {a : Nat}
    (h : ∃ e ∈ s.logs, e.pa = a ∧ e.leg = leg ∧ e.dom = d.num) : s.logSector c leg d a = .ok s := by
  obtain ⟨e, he, rfl, rfl, hd⟩ := h
  have hany : s.logs.any (fun x => x.pa == e.pa && x.leg == e.leg && x.dom == d.num) = true :=
    List.any_eq_true.2 ⟨e, he, by simp [hd]⟩
  unfold State.logSector
  dsimp only
  rw [hany]
  rfl

theorem State.logSectors_of_logged {s : State} {c : Nat} {leg : Word} {d : Nat} : ∀ {as : List Nat},
    (∀ x, s.domain? d = some x → ∀ a ∈ as, ∃ e ∈ s.logs, e.pa = a ∧ e.leg = leg ∧ e.dom = d) → s.logSectors c leg d as = .ok s
  | [], _ => rfl
  | a :: as, h => by
    unfold State.logSectors
    cases hd : s.domain? d with
    | none => rfl
    | some x =>
      have hnum : x.num = d := by simpa using List.find?_some hd
      dsimp only
      rw [State.logSector_of_logged (hnum ▸ h x hd a List.mem_cons_self)]
      exact State.logSectors_of_logged fun x hx b hb => h x hx b (List.mem_cons_of_mem _ hb)

theorem State.logWrite_of_isLogged {s : State} {c pa n : Nat} (h : s.isLogged c pa n) : s.logWrite c pa n = .ok s := by
  unfold State.logWrite State.logFor State.maker
  dsimp only
  cases hd : (s.ctx c).domain with
  | none => rfl
  | some d =>
    dsimp only
    split
    · rfl
    · refine State.logSectors_of_logged fun x hx a ha => ?_
      have hleg : s.legOf c = x.leg := by
        unfold State.legOf State.domOf
        rw [hd]
        dsimp only
        rw [hx]
      rw [hleg]
      exact h d hd x hx a ha

theorem State.homeWrite_of_leaves {s : State} {c pa : Nat} {bs : List (Byte × Byte)} (hlog : s.isLogged c pa bs.length) (hcu : s.cu = []) :
    s.homeWrite c (.dev pa) bs = .ok { s with mem := Memory.writeMasked s.mem pa bs } := by
  have h := State.logWrite_of_isLogged hlog
  unfold State.logWrite at h
  unfold State.homeWrite State.writeFor
  dsimp only
  rw [h]
  dsimp only
  rw [State.rawWrite_dev_of_none hcu]

/-- A store behind no packet. -/
theorem State.awaitsPacket_of_none {s : State} {e : Store} (h : e.after = []) (hco : e.dom = .co → s.coLeft e.who.core = []) :
    s.awaitsPacket e = false := by
  unfold State.awaitsPacket State.remoteIds
  rw [h]
  by_cases hd : e.dom = .co
  · simp [hd, hco hd]
  · simp [hd]

theorem State.core_removeStore (s : State) (core id c : Nat) : (s.removeStore core id).core c =
    if c = core then { s.core c with stores := (s.core c).stores.filter fun x => x.id != id } else s.core c := by
  refine (State.core_modCore s core c fun k => { k with stores := k.stores.filter fun e => e.id != id }).trans ?_
  split
  · subst_vars; rfl
  · rfl

theorem State.block_removeStore (s : State) (core id c k : Nat) : (s.removeStore core id).block c k = s.block c k := by
  unfold State.block
  rw [State.core_removeStore]
  split <;> rfl

/-- A store that leaves its queue writes its bytes, and is in no queue. -/
theorem State.drainOne_performs {s : State} {e : Store} {pa : Nat} {bs : List (Byte × Byte)} (h : Leaves s e pa bs) :
    Performed e pa bs s (s.drainOne e).2 := by
  obtain ⟨hafter, hirrev⟩ := h.plain
  let u : State := { s with mem := Memory.writeMasked s.mem pa bs }
  have hperform : s.perform e = .ok (u.stored e (.dev pa) bs) := by
    unfold State.perform
    dsimp only
    rw [h.place]
    dsimp only
    rw [hirrev, if_neg (by simp), h.work, if_neg (by simp [State.admitsTgt, h.home])]
    dsimp only
    rw [State.homeWrite_of_leaves h.log h.merged]
  have hdrain : (s.drainOne e).2 = (u.stored e (.dev pa) bs).removeStore e.who.core e.id := by
    unfold State.drainOne
    rw [State.awaitsPacket_of_none hafter h.inOrder, if_neg (by simp), hperform]
  have hsans : (u.stored e (.dev pa) bs).sansTraces = u.sansTraces := State.stored_sansTraces ..
  have hcores : (u.stored e (.dev pa) bs).cores = s.cores := (congrArg State.cores hsans :)
  have hmem : (u.stored e (.dev pa) bs).mem = Memory.writeMasked s.mem pa bs := (congrArg State.mem hsans :)
  have hheld : (u.stored e (.dev pa) bs).homeHeld = s.homeHeld := (congrArg State.homeHeld hsans :)
  have htraces : (u.stored e (.dev pa) bs).tracesOf u = u := State.tracesOf_of_sans hsans
  have hcore : ∀ c, (u.stored e (.dev pa) bs).core c = s.core c := fun c => by unfold State.core; rw [hcores]
  rw [hdrain]
  generalize u.stored e (.dev pa) bs = v at *
  constructor
  case rest =>
    exact (congrArg (fun y : State => { y with mem := s.mem, cores := s.cores, homeHeld := s.homeHeld }) htraces :)
  case memory => exact hmem
  case blocks =>
    intro c k
    rw [State.block_removeStore]
    unfold State.block
    rw [hcore]
  case queue =>
    intro c
    rw [State.core_removeStore, hcore]
    split <;> rfl
  case held =>
    show v.homeHeld.filter _ = _
    rw [hheld]

theorem State.drainsStore {s : State} {core k pa : Nat} {e : Store} {bs : List (Byte × Byte)}
    (hf : (s.core core).stores.find? (fun x => x.id == k) = some e) (hcore : e.who.core = core) (h : Leaves s e pa bs) :
    ∃ t, exec (.storeDrain core k) s = .next t ∧ Performed e pa bs s t := by
  refine ⟨_, ?_, State.drainOne_performs h⟩
  show Outcome.next (s.leave core k) = _
  unfold State.leave
  rw [hf]
  dsimp only
  rw [h.place, if_pos (by rw [← hcore, h.order]; rfl)]

theorem State.drainsHeld {s : State} {k pa : Nat} {h : HomeHeld} {bs : List (Byte × Byte)} (hk : s.homeHeld[k]? = some h)
    (hl : Leaves s h.store pa bs) : ∃ t, exec (.homeAgentWrite (.held k)) s = .next t ∧ Performed h.store pa bs s t := by
  refine ⟨_, ?_, State.drainOne_performs hl⟩
  show execHomeAgentWrite (.held k) s = _
  unfold execHomeAgentWrite
  dsimp only
  rw [hk]
  dsimp only
  rw [if_pos hl.order]

/-! ## Bank requests (R53) -/

/-- A store to a block's local memory that waits for no packet. -/
structure LeavesHere (s : State) (core slot : Nat) (e : Store) (off : Nat) (bs : List (Byte × Byte)) (b : Block) : Prop where
  agent : e.who.core = core
  place : e.place = .loc slot off
  work : e.work = .bytes bs
  plain : e.after = []
  block : b.gen = e.who.gen
  inOrder : e.dom = .co → s.coLeft core = []

/-- Stores have been performed in the local memory of the block in a slot: it now holds `m`, and `left` of the core's queue stand. -/
structure PerformedHere (core slot : Nat) (b : Block) (m : Memory) (left : Store → Bool) (s t : State) : Prop where
  rest : { t with cores := s.cores, homeHeld := s.homeHeld, marks := s.marks } = s
  blocks : ∀ c j, t.block c j = if c = core ∧ j = slot then some { b with mem := m } else s.block c j
  stores : (t.core core).stores = (s.core core).stores.filter left

/-- The state without its store queues, blocks and marks. -/
def State.sansQueues (s : State) : State := { s with cores := [], homeHeld := [], marks := [] }

theorem State.putMark_sansQueues (s : State) (m : Mark) (atomic : Bool) : (s.putMark m atomic).2.sansQueues = s.sansQueues := rfl
theorem State.setBlock_sansQueues (s : State) (c k : Nat) (b : Block) : (s.setBlock c k b).sansQueues = s.sansQueues := rfl
theorem State.removeStore_sansQueues (s : State) (core id : Nat) : (s.removeStore core id).sansQueues = s.sansQueues := rfl

theorem State.drainOne_here {s : State} {core slot off : Nat} {e : Store} {bs : List (Byte × Byte)} {b : Block}
    (h : LeavesHere s core slot e off bs b) (hb : s.block core slot = some b) :
    (s.drainOne e).1 = true ∧ PerformedHere core slot b (Memory.writeMasked b.mem off bs) (fun x => x.id != e.id) s (s.drainOne e).2 := by
  have hcore := h.agent
  subst hcore
  let u := ((s.setBlock e.who.core slot { b with mem := Memory.writeMasked b.mem off bs }).putMark e.mark false).2
  have hperform : s.perform e = .ok u := by
    unfold State.perform
    dsimp only
    rw [h.place]
    dsimp only
    rw [hb, h.work]
    dsimp only
    rw [if_pos h.block]
  have hdrain : s.drainOne e = (true, u.removeStore e.who.core e.id) := by
    unfold State.drainOne
    rw [State.awaitsPacket_of_none h.plain h.inOrder, if_neg (by simp), hperform]
  have hcores : ∀ c, u.core c = (s.setBlock e.who.core slot { b with mem := Memory.writeMasked b.mem off bs }).core c := fun _ => rfl
  have hblocks : ∀ c j, u.block c j = if c = e.who.core ∧ j = slot then some { b with mem := Memory.writeMasked b.mem off bs }
      else s.block c j := fun c j => State.block_setBlock ..
  rw [hdrain]
  refine ⟨rfl, ?_, ?_, ?_⟩
  · have hsans : (u.removeStore e.who.core e.id).sansQueues = s.sansQueues := by
      rw [State.removeStore_sansQueues, State.putMark_sansQueues, State.setBlock_sansQueues]
    exact (congrArg (fun y : State => { y with cores := s.cores, homeHeld := s.homeHeld, marks := s.marks }) hsans :)
  · intro c j
    rw [← hblocks]
    exact State.block_removeStore ..
  · show ((u.removeStore e.who.core e.id).core e.who.core).stores = _
    rw [State.core_removeStore, if_pos rfl, hcores]
    unfold State.setBlock
    rw [State.core_modCore, if_pos rfl]

theorem State.drainList_of_ok {s : State} {e : Store} (h : (s.drainOne e).1 = true) (rs : List Store) :
    s.drainList (e :: rs) = (s.drainOne e).2.drainList rs := by
  rw [State.drainList]
  obtain ⟨u, hu⟩ : ∃ u, s.drainOne e = (true, u) := ⟨_, Prod.ext h rfl⟩
  rw [hu]

/-- The stores of one list are performed in order. -/
theorem State.drainList_here {core slot : Nat} {at_ : Store → Nat} {bytes : Store → List (Byte × Byte)} : ∀ {rs : List Store} {s : State}
    {b : Block}, s.block core slot = some b → (∀ r ∈ rs, LeavesHere s core slot r (at_ r) (bytes r) b) →
    PerformedHere core slot b (rs.foldl (fun m r => Memory.writeMasked m (at_ r) (bytes r)) b.mem) (fun x => rs.all fun r => x.id != r.id) s
      (s.drainList rs).2
  | [], s, b, hb, _ => by
    refine ⟨rfl, ?_, by simp [State.drainList]⟩
    intro c j
    show s.block c j = _
    split
    · rename_i h
      obtain ⟨rfl, rfl⟩ := h
      exact hb
    · rfl
  | r :: rs, s, b, hb, h => by
    obtain ⟨hok, hone⟩ := State.drainOne_here (h r List.mem_cons_self) hb
    have hflights : (s.drainOne r).2.flights = s.flights := (congrArg State.flights hone.rest :)
    have hb' := hone.blocks core slot
    rw [if_pos ⟨rfl, rfl⟩] at hb'
    have hrest := State.drainList_here hb' fun x hx => by
      have hx := h x (List.mem_cons_of_mem _ hx)
      refine ⟨hx.agent, hx.place, hx.work, hx.plain, hx.block, fun hd => ?_⟩
      rw [← hx.inOrder hd]
      unfold State.coLeft State.coreFlights
      rw [hflights]
    rw [State.drainList_of_ok hok]
    refine ⟨?_, ?_, ?_⟩
    · have h2 := congrArg (fun y : State => { y with cores := s.cores, homeHeld := s.homeHeld, marks := s.marks }) hrest.rest
      exact Eq.trans (h2 :) hone.rest
    · intro c j
      rw [hrest.blocks, hone.blocks]
      split <;> rfl
    · rw [hrest.stores, hone.stores, List.filter_filter]
      simp only [List.all_cons, Bool.and_comm]

theorem find?_and_of_find? {α : Type} {p q : α → Bool} {x : α} : ∀ {l : List α}, l.find? p = some x → q x = true →
    l.find? (fun y => p y && q y) = some x
  | [], h, _ => by cases h
  | y :: l, h, hq => by
    cases hp : p y with
    | true =>
      rw [List.find?_cons_of_pos hp] at h
      cases h
      rw [List.find?_cons_of_pos (by simp [hp, hq])]
    | false =>
      rw [List.find?_cons_of_neg (by simp [hp])] at h
      rw [List.find?_cons_of_neg (by simp [hp])]
      exact find?_and_of_find? h hq

/-- A bank request completes where no older store of another request comes before one of its own. -/
theorem State.completesRequest {s : State} {core k slot : Nat} {e : Store} {b : Block} {at_ : Store → Nat} {bytes : Store → List (Byte × Byte)}
    (hf : (s.core core).stores.find? (fun x => x.id == k) = some e) (hloc : e.place.isLoc = true) (hb : s.block core slot = some b)
    (hall : ∀ r ∈ s.request core e, LeavesHere s core slot r (at_ r) (bytes r) b)
    (horder : ∀ r ∈ s.request core e, ∀ x ∈ s.pendingStores core, x.id < r.id → (∀ y ∈ s.request core e, y.id ≠ x.id) →
      mustPrecede x r = false) :
    ∃ t, exec (.bankRequestComplete core k) s = .next t ∧
      PerformedHere core slot b ((s.request core e).foldl (fun m r => Memory.writeMasked m (at_ r) (bytes r)) b.mem)
        (fun x => (s.request core e).all fun r => x.id != r.id) s t := by
  refine ⟨_, ?_, State.drainList_here hb hall⟩
  have hfree : (s.request core e).any (fun r => s.awaitsPacket r || (s.pendingStores core).any fun a =>
      decide (a.id < r.id) && !(s.request core e).any (fun x => x.id == a.id) && mustPrecede a r) = false := by
    rw [List.any_eq_false]
    intro r hr
    have hr' := hall r hr
    have hpast : (s.pendingStores core).any (fun a =>
        decide (a.id < r.id) && !(s.request core e).any (fun x => x.id == a.id) && mustPrecede a r) = false := by
      rw [List.any_eq_false]
      intro a ha hc
      simp only [Bool.and_eq_true, decide_eq_true_eq, Bool.not_eq_true', List.any_eq_false, beq_iff_eq] at hc
      obtain ⟨⟨hlt, hother⟩, hmust⟩ := hc
      rw [horder r hr a ha hlt hother] at hmust
      cases hmust
    rw [State.awaitsPacket_of_none hr'.plain (hr'.agent ▸ hr'.inOrder), hpast]
    simp
  show Outcome.next (s.leaveRequest core k) = _
  unfold State.leaveRequest
  rw [find?_and_of_find? hf hloc]
  dsimp only
  rw [if_neg (by rw [hfree]; simp)]

/-- A store that makes a request of its own. -/
theorem State.completesStore {s : State} {core k slot off : Nat} {e : Store} {bs : List (Byte × Byte)} {b : Block}
    (hf : (s.core core).stores.find? (fun x => x.id == k) = some e) (hone : e.req = 0) (h : LeavesHere s core slot e off bs b)
    (hleave : s.mayLeave core e = true) (hb : s.block core slot = some b) :
    ∃ t, exec (.bankRequestComplete core k) s = .next t ∧
      PerformedHere core slot b (Memory.writeMasked b.mem off bs) (fun x => x.id != e.id) s t := by
  have hreq : s.request core e = [e] := if_pos hone
  obtain ⟨t, ht, hp⟩ := State.completesRequest (at_ := fun _ => off) (bytes := fun _ => bs) hf (by rw [h.place]; rfl) hb
    (by rw [hreq]; simpa using h) (by
      rw [hreq]
      intro r hr a ha hlt hne
      cases List.mem_singleton.1 hr
      have hne : ¬ a.id = e.id := fun h => hne e List.mem_cons_self h.symm
      unfold State.mayLeave at hleave
      rw [Bool.not_eq_true', List.any_eq_false] at hleave
      simpa [hlt, hne] using hleave a ha)
  rw [hreq] at hp
  refine ⟨t, ht, ?_⟩
  simpa using hp

/-! ## Invalidations (R91, R501) -/

theorem State.l1_modL1 (s : State) (p q : Nat) (f : L1 → L1) : (s.modL1 p f).l1 q = if q = p then f (s.l1 p) else s.l1 q := KMap.get_put ..

theorem State.modL1_l1At (s : State) (p : Nat) (f : L1 → L1) : L1At p (f (s.l1 p)) s (s.modL1 p f) where
  rest := rfl
  own := by rw [State.l1_modL1, if_pos rfl]
  others := fun q hq => by rw [State.l1_modL1, if_neg hq]

/-- An invalidation reaches an L1: both strict filters apply it and its sector leaves, unless it was filled later. -/
theorem L1.arrive_one {c : L1} {i : Inval} {now : Nat} (hi : i ∈ c.invs) (hnew : i.arrived = none) : c.arrive now (· == i) =
    { invs := c.invs.map fun x => if x = i then { x with arrived := some now, applied := [.sc, .tso] } else x
      sectors := c.sectors.filter fun x => !(x.1 == i.sector && decide (x.2.stamp < i.id)) } := by
  have hhit : ∀ x : Inval, (x == i && x.arrived.isNone) = decide (x = i) := by
    intro x
    by_cases hx : x = i
    · subst hx
      simp [hnew]
    · simp [hx]
  unfold L1.arrive
  dsimp only
  simp only [hhit, decide_eq_true_eq]
  congr 1
  refine List.filter_congr fun x hx => ?_
  congr 1
  rw [Bool.eq_iff_iff, List.any_eq_true]
  constructor
  · rintro ⟨j, hj, h⟩
    simp only [Bool.and_eq_true, decide_eq_true_eq, beq_iff_eq] at h ⊢
    obtain ⟨⟨rfl, hs⟩, hlt⟩ := h
    exact ⟨hs.symm, hlt⟩
  · intro h
    simp only [Bool.and_eq_true, decide_eq_true_eq, beq_iff_eq] at h
    exact ⟨i, hi, by simp [h.1, h.2]⟩

theorem State.arrivesInval {s : State} {pos k : Nat} {i : Inval} (hk : (s.l1 pos).invs[k]? = some i) (hnew : i.arrived = none) :
    ∃ t, exec (.invalidationArrival pos k) s = .next t ∧ L1At pos {
      invs := (s.l1 pos).invs.map fun x => if x = i then { x with arrived := some s.clock, applied := [.sc, .tso] } else x
      sectors := (s.l1 pos).sectors.filter fun x => !(x.1 == i.sector && decide (x.2.stamp < i.id)) } s t := by
  refine ⟨s.arriveAt pos (· == i), ?_, ?_⟩
  · show execInvalidationArrival pos k s = _
    unfold execInvalidationArrival
    rw [hk]
  · rw [← L1.arrive_one (List.mem_of_getElem? hk) hnew]
    exact State.modL1_l1At s pos fun c => c.arrive s.clock (· == i)

/-- A filter that waited 4,096 aclk applies an invalidation. -/
theorem State.expiresFilter {s : State} {pos k since : Nat} {d : Dom} {i : Inval} (hk : (s.l1 pos).invs[k]? = some i)
    (harr : i.arrived = some since) (hd : d ∉ i.applied) (hage : since + 4096 ≤ s.clock) :
    ∃ t, exec (.filterAgeExpiry pos k d) s = .next t ∧ L1At pos { s.l1 pos with
      invs := ((s.l1 pos).invs.map fun x => if x = i then { x with applied := d :: x.applied } else x).filter
        fun x => x.arrived.isNone || decide (x.applied.length < 5) } s t := by
  refine ⟨s.modL1 pos fun c => c.apply d (· == i), ?_, ?_⟩
  · show execFilterAgeExpiry pos k d s = _
    unfold execFilterAgeExpiry
    rw [hk]
    dsimp only
    rw [harr]
    dsimp only
    rw [if_pos hage]
  · have happly : (s.l1 pos).apply d (· == i) = { s.l1 pos with
        invs := ((s.l1 pos).invs.map fun x => if x = i then { x with applied := d :: x.applied } else x).filter
          fun x => x.arrived.isNone || decide (x.applied.length < 5) } := by
      unfold L1.apply
      dsimp only
      congr 2
      refine List.map_congr_left fun x _ => ?_
      by_cases hx : x = i
      · subst hx
        simp [harr, hd]
      · simp [hx]
    rw [← happly]
    exact State.modL1_l1At s pos fun c => c.apply d (· == i)

/-! ## Merges (R98, R494) -/

theorem listMod_eq_listSet {α : Type} (f : α → α) : ∀ {l : List α} {k : Nat} {x : α}, l[k]? = some x → listMod l k f = listSet l k (f x)
  | _ :: _, 0, x, h => by cases h; rfl
  | _ :: l, k + 1, x, h => by
    unfold listMod listSet
    rw [listMod_eq_listSet f (l := l) (by simpa using h)]

theorem length_listSet {α : Type} : ∀ (l : List α) (i : Nat) (x : α), (listSet l i x).length = l.length
  | [], i, _ => by cases i <;> rfl
  | _ :: _, 0, _ => rfl
  | _ :: l, i + 1, x => by simp [listSet, length_listSet l i x]

theorem length_listDrop_lt {α : Type} : ∀ {l : List α} {j : Nat}, j < l.length → (listDrop l j).length < l.length
  | _ :: _, 0, _ => by simp [listDrop]
  | _ :: l, j + 1, h => by simpa [listDrop] using length_listDrop_lt (l := l) (by simpa using h)

/-- Two contributions to a word merge in the place of the first, and the word's home agent counts the merge. -/
theorem State.mergesParts {s : State} {k i j : Nat} {w : CuWord} {x y : Dword} (hk : s.cu[k]? = some w) (hi : w.parts[i]? = some x)
    (hj : w.parts[j]? = some y) (hne : i ≠ j) :
    ∃ t, exec (.homeAgentWrite (.cuMerge k i j)) s = .next t ∧
      KMap.get 0 t.sys.counters (0x3C0000 + 0x100 * homeOf w.pa + 16) =
        KMap.get 0 s.sys.counters (0x3C0000 + 0x100 * homeOf w.pa + 16) + 1 ∧
      ({ t with
        sys := { t.sys with counters := s.sys.counters } } : State) = { s with
        cu := listSet s.cu k { w with parts := listDrop (listSet w.parts i (opApply w.op w.ty x y)) j } } := by
  have hmerge : w.mergeParts i j = { w with parts := listDrop (listSet w.parts i (opApply w.op w.ty x y)) j } := by
    unfold CuWord.mergeParts
    rw [hi, hj]
    exact if_neg hne
  have hshort : (w.mergeParts i j).parts.length < w.parts.length := by
    have hlt : j < w.parts.length := (List.getElem?_eq_some_iff.1 hj).1
    rw [hmerge]
    have := length_listDrop_lt (l := listSet w.parts i (opApply w.op w.ty x y)) (j := j) (by rwa [length_listSet])
    rwa [length_listSet] at this
  have hexec : exec (.homeAgentWrite (.cuMerge k i j)) s =
      .next ({ s with cu := listSet s.cu k { w with parts := listDrop (listSet w.parts i (opApply w.op w.ty x y)) j } }.bumpMerges w.pa 1) := by
    show Outcome.next (s.cuMerge k i j) = _
    unfold State.cuMerge
    rw [hk]
    dsimp only
    rw [if_pos hshort, listMod_eq_listSet _ hk, hmerge]
  refine ⟨_, hexec, ?_, rfl⟩
  show KMap.get 0 (KMap.put _ _ _) _ = _
  rw [KMap.get_put, if_pos rfl]
  rfl

/-- Settles O47, one lemma for each kind of step. -/
theorem coreSteps : Obligations.CoreSteps := by
  refine ⟨?writeBack, ?trap, ?grant, ?stuck, ?clock, ?drain, ?store, ?request, ?arrival, ?expiry, ?held, ?merge⟩
  case writeBack => exact fun _ _ _ _ _ _ _ hb hf hr => State.writesBack hb hf hr
  case trap => exact fun _ _ _ _ _ _ _ hw hlive hdue => State.deliversTrap hw hlive hdue
  case grant => exact fun _ _ _ _ _ _ _ hb hne hidx hpart hhere hwait hall hroom honly =>
    State.grantsGrow hb hne hpart hhere hwait hall hroom honly
  case stuck => exact fun _ _ _ _ _ _ hx hstuck hlast hig hw => State.stuckTraps hx hstuck hlast hig hw
  case clock => exact fun _ _ _ _ _ _ _ _ hw hwait htill hdrain => State.endsWaitClk hw hwait htill hdrain
  case drain => exact fun _ _ _ _ _ _ hf hcore h => State.drainsStore hf hcore h
  case store =>
    intro s core k slot off e bs b hf hcore hplace hwork hafter hone hco hleave hb hgen
    obtain ⟨t, ht, hp⟩ := State.completesStore hf hone ⟨hcore, hplace, hwork, hafter, hgen, hco⟩ hleave hb
    have hid : e.id = k := by simpa using List.find?_some hf
    exact ⟨t, ht, hp.rest, hp.blocks, hid ▸ hp.stores⟩
  case request =>
    intro s core k slot e b at_ bytes hf hloc hreq hb rs hall
    have hrs : s.request core e = rs := if_neg hreq
    obtain ⟨t, ht, hp⟩ := State.completesRequest (at_ := at_) (bytes := bytes) hf hloc hb
      (fun r hr => by
        obtain ⟨hcore, hplace, hwork, hafter, hgen, hco, -⟩ := hall r (hrs ▸ hr)
        exact ⟨hcore, hplace, hwork, hafter, hgen, hco⟩)
      (fun r hr x hx hlt hne => by
        obtain ⟨-, -, -, -, -, -, horder⟩ := hall r (hrs ▸ hr)
        exact horder x hx hlt (hrs ▸ hne))
    rw [hrs] at hp
    exact ⟨t, ht, hp.blocks, hp.stores⟩
  case arrival => exact fun _ _ _ _ hk hnew => State.arrivesInval hk hnew
  case expiry => exact fun _ _ _ _ _ _ hk harr hd hage => State.expiresFilter hk harr hd hage
  case held => exact fun _ _ _ _ _ hk h => State.drainsHeld hk h
  case merge => exact fun _ _ _ _ _ _ _ hk hi hj hne => State.mergesParts hk hi hj hne

end Sys2Proof.Machine
end

section
/-! # Records of the device (O51, O52, O54)

`OnlyRecords` says that memory, records for the host and books have changed at most: what every write and post of the device does. -/

namespace Sys2Proof.Machine
open Host (Outcome)

/-! ## What a write or a record of the device leaves alone -/

/-- A context without what posting a record changes. -/
def Ctx.sansRecords (x : Ctx) : Ctx := { x with evTail := 0, evDropped := 0, waiting := [] }

/-- The state without memory, L1s, undo logs, holds and books, without what is counted, kept for the host or sent, and without contexts. -/
def State.sansRecords (s : State) : State :=
  { s with
    sys := { s.sys with counters := [], ras := [], rasTail := 0, rasDropped := 0 }
    mem := [], hmem := [], mmioOut := [], cu := [], l1s := [], homeHeld := [], holds := [], logs := [], domains := [], out := []
    ctxs := [], nextId := 0, freeCtr := 0 }

/-- From s to t memory, records and books have changed at most. -/
structure OnlyRecords (s t : State) : Prop where
  machine : t.sansRecords = s.sansRecords
  ctx : ∀ c, (t.ctx c).sansRecords = (s.ctx c).sansRecords

namespace OnlyRecords
variable {s t u : State}

theorem refl (s : State) : OnlyRecords s s := ⟨rfl, fun _ => rfl⟩
theorem trans (h : OnlyRecords s t) (h' : OnlyRecords t u) : OnlyRecords s u :=
  ⟨h'.machine.trans h.machine, fun c => (h'.ctx c).trans (h.ctx c)⟩

/-- A change of what `State.sansRecords` forgets, contexts apart. -/
theorem of_ctxs (hm : t.sansRecords = s.sansRecords) (hc : t.ctxs = s.ctxs) : OnlyRecords s t :=
  ⟨hm, fun c => by unfold State.ctx; rw [hc]⟩

theorem foldl {α : Type} {f : State → α → State} (h : ∀ s x, OnlyRecords s (f s x)) : ∀ (l : List α) (s : State), OnlyRecords s (l.foldl f s)
  | [], s => refl s
  | x :: l, s => (h s x).trans (foldl h l (f s x))

theorem cores (h : OnlyRecords s t) : t.cores = s.cores := (congrArg State.cores h.machine :)
theorem itins (h : OnlyRecords s t) : t.itins = s.itins := (congrArg State.itins h.machine :)
theorem saved (h : OnlyRecords s t) : t.saved = s.saved := (congrArg State.saved h.machine :)
theorem halts (h : OnlyRecords s t) : t.halts = s.halts := (congrArg State.halts h.machine :)
theorem time (h : OnlyRecords s t) : t.time = s.time := (congrArg State.time h.machine :)
theorem clock (h : OnlyRecords s t) : t.clock = s.clock := (congrArg State.clock h.machine :)
theorem core (h : OnlyRecords s t) (c : Nat) : t.core c = s.core c := by unfold State.core; rw [h.cores]
theorem block (h : OnlyRecords s t) (c k : Nat) : t.block c k = s.block c k := by unfold State.block; rw [h.core]

theorem state (h : OnlyRecords s t) (c : Nat) : (t.ctx c).state = (s.ctx c).state := (congrArg Ctx.state (h.ctx c) :)
theorem cause (h : OnlyRecords s t) (c : Nat) : (t.ctx c).cause = (s.ctx c).cause := (congrArg Ctx.cause (h.ctx c) :)
theorem domain (h : OnlyRecords s t) (c : Nat) : (t.ctx c).domain = (s.ctx c).domain := (congrArg Ctx.domain (h.ctx c) :)

end OnlyRecords

section
variable (s : State)

theorem State.mergeWord_onlyRecords (w : CuWord) : OnlyRecords s (s.mergeWord w) := ⟨rfl, fun _ => rfl⟩

theorem State.mergeLine_onlyRecords (pa n : Nat) : OnlyRecords s (s.mergeLine pa n) := by
  unfold State.mergeLine
  exact (OnlyRecords.foldl State.mergeWord_onlyRecords _ s).trans ⟨rfl, fun _ => rfl⟩

theorem State.rawWrite_onlyRecords (t : Tgt) (bs : List (Byte × Byte)) : OnlyRecords s (s.rawWrite t bs) := by
  cases t with
  | dev pa => exact (s.mergeLine_onlyRecords pa bs.length).trans ⟨rfl, fun _ => rfl⟩
  | host a => exact ⟨rfl, fun _ => rfl⟩
  | mmio a => exact ⟨rfl, fun _ => rfl⟩

theorem State.dropKeys_onlyRecords (keys : List Nat) : OnlyRecords s (s.dropKeys keys) := ⟨rfl, fun _ => rfl⟩

theorem State.modDomain_onlyRecords (d : Nat) (f : Domain → Domain) : OnlyRecords s (s.modDomain d f) := ⟨rfl, fun _ => rfl⟩

theorem State.requestSeal_onlyRecords (d : Nat) : OnlyRecords s (s.requestSeal d) := by
  unfold State.requestSeal
  split
  · exact .refl s
  · split
    · exact .refl s
    · split <;> exact ⟨rfl, fun _ => rfl⟩

theorem State.abortDomain_onlyRecords (d : Nat) (o : Option Nat) (i : Bool) : OnlyRecords s (s.abortDomain d o i) := by
  unfold State.abortDomain
  split
  · exact .refl s
  · exact ⟨rfl, fun _ => rfl⟩

theorem State.postRas_onlyRecords (r : Ras) : OnlyRecords s (s.postRas r) := by
  unfold State.postRas
  dsimp only
  split
  · exact ⟨rfl, fun _ => rfl⟩
  · split <;> exact ⟨rfl, fun _ => rfl⟩

theorem State.modCtx_onlyRecords (c : Nat) {f : Ctx → Ctx} (h : (f (s.ctx c)).sansRecords = (s.ctx c).sansRecords) :
    OnlyRecords s (s.modCtx c f) := by
  refine ⟨rfl, fun d => ?_⟩
  rw [State.ctx_modCtx]
  split
  · subst_vars; exact h
  · rfl

theorem State.setCtx_onlyRecords (c : Nat) {x : Ctx} (h : x.sansRecords = (s.ctx c).sansRecords) : OnlyRecords s (s.setCtx c x) :=
  s.modCtx_onlyRecords c (f := fun _ => x) h

theorem State.vWrite_onlyRecords (c : Nat) : ∀ (bs : List Byte) (s : State) (va : Nat), OnlyRecords s (s.vWrite c va bs)
  | [], s, _ => .refl s
  | b :: bs, s, va => by
    unfold State.vWrite
    split
    · exact ((s.rawWrite_onlyRecords _ _).trans (State.dropKeys_onlyRecords _ _)).trans (vWrite_onlyRecords c bs _ _)
    · exact vWrite_onlyRecords c bs s _

theorem State.writeEvent_onlyRecords (c kind : Nat) (arg : Word) (addr clock : Dword) : OnlyRecords s (s.writeEvent c kind arg addr clock) := by
  unfold State.writeEvent
  dsimp only
  split
  · exact s.setCtx_onlyRecords c rfl
  · refine OnlyRecords.trans ?_ (State.vWrite_onlyRecords ..)
    exact s.setCtx_onlyRecords c rfl

theorem State.writeRec_onlyRecords (c : Nat) (leg : Word) (r : HostRec) : OnlyRecords s (s.writeRec c leg r) := by
  cases r with
  | completion => exact State.vWrite_onlyRecords ..
  | event => exact State.writeEvent_onlyRecords ..

theorem State.post_onlyRecords (c : Nat) (r : HostRec) : OnlyRecords s (s.post c r) := by
  unfold State.post
  split
  · exact s.writeRec_onlyRecords ..
  · dsimp only
    split
    · exact (s.modCtx_onlyRecords c rfl).trans (State.requestSeal_onlyRecords ..)
    · exact s.modCtx_onlyRecords c rfl

theorem State.postEvent_onlyRecords (c kind arg addr : Nat) : OnlyRecords s (s.postEvent c kind arg addr) := s.post_onlyRecords ..

theorem State.complete_onlyRecords (c crec addr node reason status : Nat) : OnlyRecords s (s.complete c crec addr node reason status) :=
  s.post_onlyRecords ..

@[simp] theorem State.rawWrite_ctxs (t : Tgt) (bs : List (Byte × Byte)) : (s.rawWrite t bs).ctxs = s.ctxs := by
  cases t with
  | dev pa => exact foldl_keeps (F := State.ctxs) (by intros; rfl) _ _
  | host a => rfl
  | mmio a => rfl

@[simp] theorem State.vWrite_ctxs (c : Nat) : ∀ (bs : List Byte) (s : State) (va : Nat), (s.vWrite c va bs).ctxs = s.ctxs
  | [], _, _ => rfl
  | b :: bs, s, va => by
    unfold State.vWrite
    split
    · rw [vWrite_ctxs]
      exact State.rawWrite_ctxs ..
    · exact vWrite_ctxs c bs s _

@[simp] theorem State.requestSeal_ctxs (d : Nat) : (s.requestSeal d).ctxs = s.ctxs := by
  unfold State.requestSeal
  split
  · rfl
  · split
    · rfl
    · split <;> rfl

/-- Of the contexts a post changes that of the record alone. -/
theorem State.post_ctx {c d : Nat} (r : HostRec) (h : d ≠ c) : (s.post c r).ctx d = s.ctx d := by
  have hvWrite : ∀ (u : State) (va : Nat) (bs : List Byte), (u.vWrite c va bs).ctx d = u.ctx d := fun u va bs => by
    unfold State.ctx
    rw [State.vWrite_ctxs]
  have hset : ∀ (u : State) (x : Ctx), (u.setCtx c x).ctx d = u.ctx d := fun u x => by rw [State.ctx_setCtx, if_neg h]
  have hseal : ∀ (u : State) (n : Nat), (u.requestSeal n).ctx d = u.ctx d := fun u n => by
    unfold State.ctx
    rw [State.requestSeal_ctxs]
  unfold State.post
  split
  · cases r with
    | completion => exact hvWrite ..
    | event =>
      show (s.writeEvent ..).ctx d = _
      unfold State.writeEvent
      dsimp only
      split
      · exact hset ..
      · rw [hvWrite, hset]
  · dsimp only
    split
    · rw [hseal]
      exact hset ..
    · exact hset ..

/-! ### Logged writes -/

theorem State.hold_onlyRecords (die d core : Nat) (leg : Word) (what : Store ⊕ Nat) (size : Nat) :
    OnlyRecords s (s.hold die d core leg what size).state := by
  unfold State.hold
  dsimp only
  split
  · split
    · rw [Logged.state_ok]
      refine OnlyRecords.trans ?_ (OnlyRecords.foldl State.requestSeal_onlyRecords _ _)
      exact ⟨rfl, fun _ => rfl⟩
    · exact ⟨rfl, fun _ => rfl⟩
  · split
    · exact .refl s
    · exact s.requestSeal_onlyRecords d

theorem State.logSector_onlyRecords (c : Nat) (leg : Word) (d : Domain) (a : Nat) : OnlyRecords s (s.logSector c leg d a).state := by
  unfold State.logSector
  dsimp only
  split
  · exact .refl s
  · split
    · split
      · rw [Logged.state_ok]
        refine OnlyRecords.trans ?_ (State.postRas_onlyRecords _ _)
        refine OnlyRecords.trans ?_ (State.requestSeal_onlyRecords _ _)
        split <;> exact ⟨rfl, fun _ => rfl⟩
      · split <;> exact ⟨rfl, fun _ => rfl⟩
    · split
      · exact .refl s
      · exact s.requestSeal_onlyRecords _

end

theorem Logged.onlyRecords {s t : State} {r : Logged} (h : OnlyRecords s r.state) (hr : r = .ok t ∨ r = .wait t ∨ r = .over t) :
    OnlyRecords s t := by
  rcases hr with rfl | rfl | rfl <;> exact h

theorem State.logSectors_onlyRecords (c : Nat) (leg : Word) (d : Nat) : ∀ (as : List Nat) (s : State),
    OnlyRecords s (s.logSectors c leg d as).state
  | [], s => .refl s
  | a :: as, s => by
    unfold State.logSectors
    split
    · exact .refl s
    · rename_i dm _
      have h := s.logSector_onlyRecords c leg dm a
      split
      · rename_i u hu
        exact (Logged.onlyRecords h (.inl hu)).trans (logSectors_onlyRecords c leg d as u)
      · exact h

section
variable (s : State)

theorem State.logFor_onlyRecords (m : Maker) (pa n : Nat) : OnlyRecords s (s.logFor m pa n).state := by
  unfold State.logFor
  split
  · exact .refl s
  · split
    · exact .refl s
    · exact State.logSectors_onlyRecords ..

theorem State.writeFor_onlyRecords (m : Maker) (t : Tgt) (bs : List (Byte × Byte)) : OnlyRecords s (s.writeFor m t bs).state := by
  unfold State.writeFor
  split
  · rename_i pa
    have h := s.logFor_onlyRecords m pa bs.length
    split
    · rename_i u hu
      rw [Logged.state_ok]
      exact (Logged.onlyRecords h (.inl hu)).trans (State.rawWrite_onlyRecords ..)
    · exact h
  · exact s.rawWrite_onlyRecords ..

theorem State.legOverflow_onlyRecords (c detail : Nat) : OnlyRecords s (s.legOverflow c detail) := by
  unfold State.legOverflow State.overflowFor
  split
  · exact .refl s
  · exact s.abortDomain_onlyRecords ..

theorem State.devicePut_onlyRecords (c : Nat) (x : Xlate) (t : Tgt) (bs : List (Byte × Byte)) : OnlyRecords s (s.devicePut c x t bs) := by
  have hfresh : OnlyRecords s s.fresh.2 := ⟨rfl, fun _ => rfl⟩
  refine hfresh.trans ?_
  have hwait : ∀ (u : State) (e : Store), OnlyRecords u (match (u.ctx c).domain with
      | some d => { u with homeHeld := u.homeHeld ++ [{ dom := d, store := e }] }
      | none => u) := by
    intro u e
    split
    · exact ⟨rfl, fun _ => rfl⟩
    · exact .refl u
  unfold State.devicePut
  dsimp only
  split
  · have h := s.fresh.2.hold_onlyRecords
    split
    · rename_i u hu
      exact (Logged.onlyRecords (h ..) (.inl hu)).trans (State.dropKeys_onlyRecords ..)
    · rename_i u hu
      exact (Logged.onlyRecords (h ..) (.inr (.inl hu))).trans (hwait ..)
    · rename_i u hu
      exact (Logged.onlyRecords (h ..) (.inr (.inr hu))).trans (State.legOverflow_onlyRecords ..)
  · have h := s.fresh.2.writeFor_onlyRecords
    split
    · rename_i u hu
      exact (Logged.onlyRecords (h ..) (.inl hu)).trans (State.dropKeys_onlyRecords ..)
    · rename_i u hu
      exact (Logged.onlyRecords (h ..) (.inr (.inl hu))).trans (hwait ..)
    · rename_i u hu
      exact (Logged.onlyRecords (h ..) (.inr (.inr hu))).trans (State.legOverflow_onlyRecords ..)

theorem State.vWriteLogged_onlyRecords (c va : Nat) (bs : List Byte) : OnlyRecords s (s.vWriteLogged c va bs) := by
  refine OnlyRecords.foldl (fun u y => ?_) _ s
  split
  · split
    · exact u.devicePut_onlyRecords ..
    · exact .refl u
  · exact .refl u

end

end Sys2Proof.Machine
end

section
/-! # Steps of the distributors (O51)

One lemma for each kind of step. -/

namespace Sys2Proof.Machine
open Host (Outcome)

/-! ## Admission (R436, R439, R442) -/

/-- Where a queue's entry is the next of its context's, admission takes it. -/
theorem execItineraryAdmit_next {s : State} {c q : Nat} (hc : c < 64) (hq : q < 16) (hfree : (s.ctx c).state ≠ .free)
    (hnext : s.nextQueue c q = true) : exec (.itineraryAdmit c q) s =
      match s.ringEntry c (KMap.get {} (s.ctx c).queues q) with
      | none => .next (s.stopQueue c q)
      | some addr =>
        let s1 := s.modQueue c q (fun y => { y with head := y.head + 1 })
        if (s.ctx c).state = .ending ∨ (s.ctx c).state = .ended then
          .next (match s1.crecOf c addr with
            | some r => s1.complete c r addr 0 (s.ctx c).cause.toNat 3
            | none => s1)
        else
          match s1.tryAdmit c q addr with
          | .ok t => .next { s1 with itins := s1.itins ++ [t], nextId := s1.nextId + 1 }
          | .error (node, reason) =>
            .next (match s1.crecOf c addr with
              | some r => s1.complete c r addr node reason 2
              | none => s1) := by
  show execItineraryAdmit c q s = _
  unfold execItineraryAdmit
  dsimp only
  rw [if_neg (by simp [hnext, hfree, Nat.not_le.2 hc, Nat.not_le.2 hq])] <;> rfl

theorem State.admits {s : State} {c q : Nat} (addr : Nat) (hc : c < 64) (hq : q < 16) (hfree : (s.ctx c).state ≠ .free)
    (hnext : s.nextQueue c q = true) :
    let y := KMap.get {} (s.ctx c).queues q
    let s1 := s.modCtx c fun x => { x with queues := KMap.put x.queues q { y with head := y.head + 1 } }
    (s.ringEntry c y = none → exec (.itineraryAdmit c q) s = .next (s.stopQueue c q)) ∧
    (s.ringEntry c y = some addr →
      (∀ t, (s.ctx c).state = .live ∨ (s.ctx c).state = .stopped → s1.tryAdmit c q addr = .ok t → exec (.itineraryAdmit c q) s = .next { s1 with
        itins := s.itins ++ [t], nextId := s.nextId + 1 }) ∧
      (∀ node reason r, (s.ctx c).state = .live ∨ (s.ctx c).state = .stopped → s1.tryAdmit c q addr = .error (node, reason) →
        s1.crecOf c addr = some r →
        exec (.itineraryAdmit c q) s = .next (s1.post c (.completion r addr (dw s.clock) node reason 2))) ∧
      (∀ r, (s.ctx c).state = .ending ∨ (s.ctx c).state = .ended → s1.crecOf c addr = some r →
        exec (.itineraryAdmit c q) s = .next (s1.post c (.completion r addr (dw s.clock) 0 (s.ctx c).cause.toNat 3)))) := by
  intro y s1
  have hs1 : s.modQueue c q (fun y => { y with head := y.head + 1 }) = s1 := rfl
  have hrun : (s.ctx c).state = .live ∨ (s.ctx c).state = .stopped → ¬ ((s.ctx c).state = .ending ∨ (s.ctx c).state = .ended) := by
    rintro (h | h) <;> simp [h]
  rw [execItineraryAdmit_next hc hq hfree hnext, hs1]
  refine ⟨fun hr => by rw [hr], fun hr => ⟨fun t hl ht => ?_, fun node reason r hl ht hrec => ?_, fun r hl hrec => ?_⟩⟩ <;> rw [hr] <;>
    dsimp only
  · rw [if_neg (hrun hl), ht]
    rfl
  · rw [if_neg (hrun hl), ht]
    dsimp only
    rw [hrec]
    rfl
  · rw [if_pos hl, hrec]
    rfl

/-! ## Stealing (R443) -/

theorem pairwise_insertionSort_lin (ks : List Task) :
    (ks.insertionSort fun a b => a.lin ≤ b.lin).Pairwise fun a b => a.lin ≤ b.lin := by
  have : Std.Total fun a b : Task => a.lin ≤ b.lin := ⟨fun a b => Nat.le_total a.lin b.lin⟩
  have : IsTrans Task fun a b => a.lin ≤ b.lin := ⟨fun _ _ _ => Nat.le_trans⟩
  exact List.pairwise_insertionSort _ ks

/-- The upper half of a range by linear index, one block-task at least. -/
def upperHalf (ks : List Task) : List Task := (ks.insertionSort fun a b => a.lin ≤ b.lin).drop (ks.length - max 1 (ks.length / 2))

theorem length_upperHalf {ks : List Task} (h : ks ≠ []) : (upperHalf ks).length = max 1 (ks.length / 2) := by
  have hpos : 0 < ks.length := List.length_pos_iff.2 h
  unfold upperHalf
  rw [List.length_drop, List.length_insertionSort]
  omega

theorem mem_of_mem_upperHalf {ks : List Task} {k : Task} (h : k ∈ upperHalf ks) : k ∈ ks :=
  (List.mem_insertionSort _).1 (List.mem_of_mem_drop h)

theorem le_of_mem_upperHalf {ks : List Task} {k j : Task} (hk : k ∈ upperHalf ks) (hj : j ∈ ks) (hout : j ∉ upperHalf ks) :
    j.lin ≤ k.lin := by
  have hsorted := pairwise_insertionSort_lin ks
  have hj' : j ∈ ks.insertionSort fun a b => a.lin ≤ b.lin := (List.mem_insertionSort _).2 hj
  unfold upperHalf at hk hout
  generalize ks.length - max 1 (ks.length / 2) = n at *
  rw [← List.take_append_drop n (ks.insertionSort fun a b => a.lin ≤ b.lin), List.pairwise_append] at hsorted
  rw [← List.take_append_drop n (ks.insertionSort fun a b => a.lin ≤ b.lin), List.mem_append] at hj'
  obtain ⟨-, -, hacross⟩ := hsorted
  exact hacross j (hj'.resolve_right hout) k hk

theorem State.steals {s : State} {thief victim : Nat} {t : Itin} {ks : List Task} (hne : thief ≠ victim) (hlt : thief < 32)
    (hpool : s.pool thief = []) (hsaved : s.savedPool thief = [])
    (hmost : ∀ d, d < 32 → d ≠ thief → s.rangeLen thief d ≤ s.rangeLen thief victim) (hl : s.largest thief victim = some (t, ks)) :
    exec (.stealRequest thief victim) s = .next ((s.modItin t.id fun y => { y with
      stolen := (upperHalf ks).map (fun k => (k, thief)) ++ y.stolen.filter fun x => !(upperHalf ks).contains x.1 }).bump
        (0x300000 + 0x1000 * thief + 64) 1) := by
  show execStealRequest thief victim s = _
  unfold execStealRequest
  have hall : (List.range 32).all (fun d => d == thief || decide (s.rangeLen thief d ≤ s.rangeLen thief victim)) = true := by
    rw [List.all_eq_true]
    intro d hd
    by_cases h : d = thief
    · simp [h]
    · simpa [h] using hmost d (List.mem_range.1 hd) h
  rw [if_neg (by simp [hne, hpool, hsaved, hall, Nat.not_le.2 hlt]), hl]
  rfl

/-! ## Places given back (R22, R36, R240) -/

/-- Where nobody of a core waits at GROW, SHRINK or WAYMARK, no partition of it is stuck. -/
theorem State.growStuck_of_noneGather {s : State} {core : Nat} (h : s.noneGather core) (part : Nat) : s.growStuck core part = s := by
  have hnone : ∀ x ∈ s.partGroups core part, x.2.growHeld = none := by
    intro x hx
    obtain ⟨y, hy, hx⟩ := List.mem_flatMap.1 hx
    obtain ⟨g, hg, rfl⟩ := List.mem_map.1 hx
    have hasks : g.growAsks = none := by
      rw [Group.growAsks_eq, List.findSome?_eq_none_iff]
      intro ig hig
      have := h y hy g (List.mem_filter.1 hg).1 ig hig
      unfold Wait.growAsks
      cases hw : ig.wait <;> simp_all [Wait.gathers]
    have heq : g.growHeld = match g.growAsks with
      | some n => if g.allAt (· == .grow true n) then some (g.igs.foldl (fun m ig => max m ig.since) 0) else none
      | none => none := rfl
    rw [heq, hasks]
  have hheld : s.heldGrows core part = [] := by
    rw [List.eq_nil_iff_forall_not_mem]
    intro z hz
    obtain ⟨hz, ht⟩ := State.mem_heldGrows.1 hz
    rw [hnone _ hz] at ht
    cases ht
  unfold State.heldGrows at hheld
  unfold State.growStuck
  dsimp only
  rw [hheld]
  cases hgs : s.partGroups core part with
  | nil => rfl
  | cons x xs => rfl

theorem State.allStuck_of_noneGather {s : State} {core : Nat} (h : s.noneGather core) : s.allStuck core = s := by
  simp only [State.allStuck, List.foldl_cons, List.foldl_nil, State.growStuck_of_noneGather h]

/-- No halt waits for its members to leave. -/
theorem State.tellHalted_of_none {s : State} (h : ∀ x ∈ s.halts, x.saving = false) : s.tellHalted = s := by
  have hgone : ∀ x ∈ s.halts, ∀ p : Bool, (x.saving && p) = false := fun x hx p => by rw [h x hx]; rfl
  have hmap : s.halts.map (fun x => if (x.saving && !s.cores.any fun k => k.2.slots.any fun y => s.memberOf x k.1 y.1 y.2) = true
      then { x with saving := false } else x) = s.halts := by
    conv_rhs => rw [← List.map_id s.halts]
    refine List.map_congr_left fun x hx => ?_
    rw [hgone x hx]
    rfl
  have hfilter : s.halts.filter (fun x => x.saving && !s.cores.any fun k => k.2.slots.any fun y => s.memberOf x k.1 y.1 y.2) = [] := by
    rw [List.filter_eq_nil_iff]
    intro x hx
    rw [hgone x hx]
    simp
  unfold State.tellHalted
  dsimp only
  rw [hfilter, hmap]
  rfl

theorem KMap.mem_put {α : Type} {k : Nat} {v : α} : ∀ {m : KMap α} {x : Nat × α}, x ∈ KMap.put m k v → x = (k, v) ∨ x ∈ m
  | [], x, h => .inl (List.mem_singleton.1 h)
  | (j, u) :: m, x, h => by
    unfold KMap.put at h
    split at h
    · exact (List.mem_cons.1 h).imp_right (List.mem_cons_of_mem _)
    · split at h
      · exact List.mem_cons.1 h
      · rcases List.mem_cons.1 h with rfl | h
        · exact .inr List.mem_cons_self
        · exact (KMap.mem_put h).imp_right (List.mem_cons_of_mem _)

/-- A change of one group that leaves its issue groups alone leaves nobody gathering. -/
theorem State.noneGather_setBlock {s : State} {core slot : Nat} {b : Block} (h : s.noneGather core)
    (hb : ∀ g ∈ b.groups, ∀ ig ∈ g.igs, ig.wait.gathers = false) : (s.setBlock core slot b).noneGather core := by
  intro x hx
  unfold State.setBlock at hx
  rw [State.core_modCore, if_pos rfl] at hx
  rcases KMap.mem_put hx with rfl | hx
  · exact hb
  · exact h x hx

theorem mem_listMod {α : Type} {f : α → α} {y : α} : ∀ {l : List α} {i : Nat}, y ∈ listMod l i f → y ∈ l ∨ ∃ x ∈ l, y = f x
  | _ :: _, 0, h => by
    rcases List.mem_cons.1 h with rfl | h
    · exact .inr ⟨_, List.mem_cons_self, rfl⟩
    · exact .inl (List.mem_cons_of_mem _ h)
  | x :: l, i + 1, h => by
    rcases List.mem_cons.1 h with rfl | h
    · exact .inl List.mem_cons_self
    · rcases mem_listMod h with h | ⟨z, hz, rfl⟩
      · exact .inl (List.mem_cons_of_mem _ h)
      · exact .inr ⟨z, List.mem_cons_of_mem _ hz, rfl⟩

theorem State.releasesGroup {s : State} {core slot grp : Nat} {b : Block} (hb : s.block core slot = some b)
    (hlive : (b.group grp).liveMask = 0) (hres : (b.group grp).results = []) (hplace : (b.group grp).place = .resident)
    (hnone : s.noneGather core) :
    ∃ t, exec (.groupRelease core slot grp) s = .next t ∧
      BlockAt core slot (b.modGroup grp fun g => { g with place := .released }) s t := by
  have hover : (b.group grp).over = true := by
    unfold Group.over Group.here
    rw [hlive, hres, hplace]
    rfl
  have hmod : s.modGroup core slot grp (fun g => if g.over then { g with place := .released } else g) =
      s.setBlock core slot (b.modGroup grp fun g => { g with place := .released }) := by
    rw [State.modGroup_of_block hb]
    congr 1
    exact Block.modGroup_congr (if_pos hover)
  refine ⟨_, ?_, State.setBlock_blockAt s core slot _⟩
  show Outcome.next ((s.modGroup _ _ _ _).allStuck core) = _
  rw [hmod, State.allStuck_of_noneGather]
  refine State.noneGather_setBlock hnone fun g hg ig hig => ?_
  have hmem : (slot, b) ∈ (s.core core).slots := KMap.mem_of_find hb
  rcases mem_listMod hg with hg | ⟨x, hx, rfl⟩
  · exact hnone _ hmem g hg ig hig
  · exact hnone _ hmem x hx ig hig

/-! ## Retirement (R22, R140, R449) -/

theorem KMap.find_drop {α : Type} (m : KMap α) (k j : Nat) : KMap.find (KMap.drop m k) j = if j = k then none else KMap.find m j := by
  unfold KMap.drop
  induction m with
  | nil => simp [KMap.find]
  | cons x m ih =>
    obtain ⟨i, v⟩ := x
    by_cases hi : i = k
    · subst hi
      rw [List.filter_cons_of_neg (by simp), ih, KMap.find]
      split <;> rfl
    · rw [List.filter_cons_of_pos (by simpa using hi), KMap.find, KMap.find, ih]
      by_cases hj : j = i
      · subst hj
        simp [hi]
      · simp [hj]

theorem State.core_freeBlock (s : State) (core slot : Nat) (b : Block) (c : Nat) : (s.freeBlock core slot b).core c =
    if c = core then { s.core core with
      slots := KMap.drop (s.core core).slots slot
      absent := (s.core core).absent.filter fun a => !(a.state == .moved slot && a.ctx == b.ctx)
      parts := (s.core core).parts.map fun p => p.letOut slot none }
    else s.core c := State.core_modCore ..

theorem State.freeBlock_emptied (s : State) (core slot : Nat) (b : Block) : Emptied core slot s (s.freeBlock core slot b) := by
  intro c k
  unfold State.block
  rw [State.core_freeBlock]
  by_cases hc : c = core
  · subst hc
    rw [if_pos rfl, KMap.find_drop]
    simp only [true_and]
  · rw [if_neg hc, if_neg (fun h => hc h.1)]

theorem State.freeBlock_noneGather {s : State} {core : Nat} (h : s.noneGather core) (slot : Nat) (b : Block) :
    (s.freeBlock core slot b).noneGather core := by
  intro x hx
  rw [State.core_freeBlock, if_pos rfl] at hx
  exact h x (List.mem_filter.1 hx).1

/-- The end of a retirement, where nothing of the core is held and no halt waits. -/
theorem State.quiet_after {s t : State} {core : Nat} (hc : t.cores = s.cores) (hh : t.halts = s.halts) (hn : s.noneGather core)
    (hs : ∀ x ∈ s.halts, x.saving = false) : (t.allStuck core).tellHalted = t := by
  have hn' : t.noneGather core := by
    intro x hx
    unfold State.core at hx
    rw [hc] at hx
    exact hn x hx
  rw [State.allStuck_of_noneGather hn', State.tellHalted_of_none (hh ▸ hs)]

theorem find?_map_of_id {f : Itin → Itin} (hf : ∀ x, (f x).id = x.id) {l : List Itin} {id : Nat} {t : Itin}
    (h : l.find? (fun x => x.id == id) = some t) : (l.map f).find? (fun x => x.id == id) = some (f t) := by
  rw [List.find?_map]
  have : (fun x : Itin => x.id == id) ∘ f = fun x => x.id == id := by
    funext x
    simp [hf]
  rw [this, h]
  rfl

/-- What a retirement notes in its itinerary. -/
def Itin.note (t : Itin) (k : Task) (now : Nat) : Itin :=
  { t with
    retired := t.retired ++ [(k, now)]
    placed := t.placed.filter fun x => x != k
    stolen := t.stolen.filter fun x => x.1 != k }

section
variable {s : State} {b : Block} {it : Itin} (hit : s.itins.find? (fun x => x.id == b.itin) = some it)
include hit

theorem State.find_noted : (s.modItin b.itin fun t => t.note b.task s.time).itins.find? (fun x => x.id == b.itin) =
    some (it.note b.task s.time) := by
  have hid : it.id = b.itin := by simpa using List.find?_some hit
  have h := find?_map_of_id (f := fun t => if t.id = b.itin then t.note b.task s.time else t) (by intro x; split <;> rfl) hit
  rw [if_pos hid] at h
  exact h

/-- A retirement that is not the itinerary's last is noted and no more. -/
theorem State.noteRetired_of_unfinished (hf : (it.note b.task s.time).finished = false) :
    s.noteRetired b = s.modItin b.itin fun t => t.note b.task s.time := by
  have h := State.find_noted hit
  unfold Itin.note at h hf
  unfold State.noteRetired
  dsimp only
  rw [h]
  dsimp only
  rw [hf]
  rfl

/-- The last retirement of an itinerary outside every domain completes it and forgets it. -/
theorem State.noteRetired_of_finished (hf : (it.note b.task s.time).finished = true) (hdom : (s.ctx it.ctx).domain = none) :
    ∃ u, OnlyRecords (s.modItin b.itin fun t => t.note b.task s.time) u ∧
      s.noteRetired b = { u with itins := u.itins.filter fun x => x.id != b.itin } := by
  have h := State.find_noted hit
  have hid : (it.note b.task s.time).id = b.itin := by simpa using List.find?_some h
  have hrec : ∀ u, u = (s.modItin b.itin fun t => t.note b.task s.time) ∨
      u = (s.modItin b.itin fun t => t.note b.task s.time).complete it.ctx it.crec it.addr 0 0 1 →
      OnlyRecords (s.modItin b.itin fun t => t.note b.task s.time) u ∧ (u.ctx it.ctx).domain = none := by
    rintro u (rfl | rfl)
    · exact ⟨.refl _, hdom⟩
    · have := State.complete_onlyRecords (s.modItin b.itin fun t => t.note b.task s.time) it.ctx it.crec it.addr 0 0 1
      exact ⟨this, (this.domain _).trans hdom⟩
  unfold Itin.note at h hf hid hrec ⊢
  unfold State.noteRetired
  dsimp only
  rw [h]
  dsimp only
  rw [hf, if_pos rfl]
  cases hl : it.launched with
  | true =>
    obtain ⟨hu, hd⟩ := hrec _ (.inl rfl)
    refine ⟨_, hu, ?_⟩
    rw [if_pos rfl, hd]
    dsimp only at hid ⊢
    rw [hid]
  | false =>
    obtain ⟨hu, hd⟩ := hrec _ (.inr rfl)
    refine ⟨_, hu, ?_⟩
    rw [if_neg (by simp), hd]
    dsimp only at hid ⊢
    rw [hid]

end

/-- A retirement leaves the cores and the halts as they are. -/
theorem State.noteRetired_places (s : State) (b : Block) : (s.noteRetired b).cores = s.cores ∧ (s.noteRetired b).halts = s.halts := by
  unfold State.noteRetired
  dsimp only
  generalize hm : s.modItin b.itin _ = m
  have hplaces : ∀ u, OnlyRecords m u → u.cores = s.cores ∧ u.halts = s.halts := by
    intro u h
    rw [h.cores, h.halts, ← hm]
    exact ⟨rfl, rfl⟩
  split
  · exact hplaces m (.refl m)
  · rename_i t _
    split
    · have hu : OnlyRecords m (if t.launched then m else m.complete t.ctx t.crec t.addr 0 0 1) := by
        split
        · exact .refl m
        · exact m.complete_onlyRecords ..
      generalize (if t.launched then m else m.complete t.ctx t.crec t.addr 0 0 1) = u at hu
      split
      · exact hplaces _ (hu.trans (State.requestSeal_onlyRecords ..))
      · exact hplaces u hu
    · exact hplaces m (.refl m)

/-- A change of itineraries, books and records leaves the slots as they are. -/
theorem Emptied.of_cores {core slot : Nat} {s t u : State} (h : Emptied core slot s t) (hc : u.cores = t.cores) : Emptied core slot s u := by
  intro c k
  rw [← h c k]
  unfold State.block State.core
  rw [hc]

section
variable {s : State} {core slot : Nat} {b : Block} (hb : s.block core slot = some b) (hnone : s.noneGather core)
  (hhalts : ∀ h ∈ s.halts, h.saving = false)
include hb

/-- What a retirement settles before the block leaves. -/
def State.settled (s : State) (core slot : Nat) (b : Block) : State :=
  (s.settle b.known).arriveAll (fun i => i.src.core == core && i.src.slot == slot && i.src.gen == b.gen && i.src.ctx == b.ctx)

theorem execBlockTaskRetire_done (hrun : (s.ctx b.ctx).state = .live ∨ (s.ctx b.ctx).state = .stopped)
    (hdone : s.blockDone core slot b = true) :
    exec (.blockTaskRetire core slot) s = .next (((s.retireBlock core slot b).allStuck core).tellHalted) := by
  show execBlockTaskRetire core slot s = _
  unfold execBlockTaskRetire
  rw [hb]
  dsimp only
  rcases hrun with h | h <;> rw [h, hdone] <;> rfl

include hnone hhalts

/-- A block whose work is done leaves its slot, and its itinerary notes it (R22, R449). -/
theorem State.retires (hrun : (s.ctx b.ctx).state = .live ∨ (s.ctx b.ctx).state = .stopped) (hdone : s.blockDone core slot b = true)
    (hlate : b.lateFault = none) {it : Itin} (hit : s.itins.find? (fun x => x.id == b.itin) = some it) :
    ∃ t, exec (.blockTaskRetire core slot) s = .next t ∧ Emptied core slot s t ∧
      ((it.note b.task s.time).finished = false → t.itins.find? (fun x => x.id == b.itin) = some (it.note b.task s.time)) ∧
      ((it.note b.task s.time).finished = true → (s.ctx it.ctx).domain = none → ∀ x ∈ t.itins, x.id ≠ b.itin) := by
  have hretire : s.retireBlock core slot b = ((s.settled core slot b).freeBlock core slot b).noteRetired b := by
    unfold State.retireBlock State.settled
    dsimp only
    rw [hlate]
  obtain ⟨hcores, hh⟩ := State.noteRetired_places ((s.settled core slot b).freeBlock core slot b) b
  have hquiet := State.quiet_after (s := (s.settled core slot b).freeBlock core slot b) (core := core) hcores hh
    (State.freeBlock_noneGather hnone slot b) hhalts
  refine ⟨_, execBlockTaskRetire_done hb hrun hdone, ?_⟩
  rw [hretire, hquiet]
  refine ⟨(State.freeBlock_emptied (s.settled core slot b) core slot b).of_cores hcores, ?_, ?_⟩
  · intro hf
    rw [State.noteRetired_of_unfinished (s := (s.settled core slot b).freeBlock core slot b) hit hf]
    exact State.find_noted hit
  · intro hf hdom x hx
    obtain ⟨u, -, hu⟩ := State.noteRetired_of_finished (s := (s.settled core slot b).freeBlock core slot b) hit hf hdom
    rw [hu] at hx
    simpa using (List.mem_filter.1 hx).2

/-- A tag's fault that no wait has delivered ends the context as the block leaves (R140). -/
theorem State.retires_late (hrun : (s.ctx b.ctx).state = .live ∨ (s.ctx b.ctx).state = .stopped) (hdone : s.blockDone core slot b = true)
    {r : TrapRec} (hlate : b.lateFault = some r) :
    ∃ t, exec (.blockTaskRetire core slot) s = .next t ∧ Emptied core slot s t ∧
      (t.ctx b.ctx).state = .ending ∧ (t.ctx b.ctx).fault = r ∧ r.iret = true := by
  have hretire : s.retireBlock core slot b =
      ((s.settled core slot b).freeBlock core slot b).endCtx b.ctx r.cause.toNat (some r) := by
    unfold State.retireBlock State.settled
    dsimp only
    rw [hlate]
  obtain ⟨y, hy⟩ := ((s.settled core slot b).freeBlock core slot b).endCtx_eq b.ctx r.cause.toNat (some r)
  have hquiet := State.quiet_after (s := (s.settled core slot b).freeBlock core slot b)
    (t := ((s.settled core slot b).freeBlock core slot b).endCtx b.ctx r.cause.toNat (some r)) (core := core)
    (State.endCtx_cores ..) (by rw [hy]) (State.freeBlock_noneGather hnone slot b) hhalts
  have hctx := State.ctx_endCtx ((s.settled core slot b).freeBlock core slot b) b.ctx r.cause.toNat (some r) b.ctx
  rw [if_pos ⟨rfl, hrun⟩] at hctx
  refine ⟨_, execBlockTaskRetire_done hb hrun hdone, ?_⟩
  rw [hretire, hquiet]
  refine ⟨(State.freeBlock_emptied (s.settled core slot b) core slot b).of_cores (State.endCtx_cores ..), ?_, ?_, ?_⟩
  · rw [hctx]
  · rw [hctx]
    rfl
  · obtain ⟨x, -, rfl⟩ := Option.map_eq_some_iff.1 hlate
    rfl

/-- A block of an ending context leaves its slot, and that is all. -/
theorem State.retires_ending (hend : (s.ctx b.ctx).state = .ending) (hidle : s.blockIdle core slot b = true) :
    ∃ t, exec (.blockTaskRetire core slot) s = .next t ∧ Emptied core slot s t ∧
      ({ t with
        cores := s.cores, marks := s.marks } : State) = s := by
  have hquiet := State.quiet_after (s := s.freeBlock core slot b) (t := s.freeBlock core slot b) (core := core) rfl rfl
    (State.freeBlock_noneGather hnone slot b) hhalts
  refine ⟨s.freeBlock core slot b, ?_, State.freeBlock_emptied s core slot b, rfl⟩
  show execBlockTaskRetire core slot s = _
  unfold execBlockTaskRetire
  rw [hb]
  dsimp only
  rw [hend]
  dsimp only
  rw [if_pos hidle, hquiet]

end

/-! ## The watchdog (R470) -/

section
variable {s : State} {core slot : Nat} {b : Block} (hb : s.block core slot = some b) (hms : (s.ctx b.ctx).wdog.toNat ≠ 0)
  (hrun : (s.ctx b.ctx).state = .live ∨ (s.ctx b.ctx).state = .stopped)
  (hlate : b.since + usec (1000 * (s.ctx b.ctx).wdog.toNat) < s.time)
include hb hms hrun hlate

theorem execWatchdogExpiry_due : exec (.watchdogExpiry core slot) s =
    match b.firstRunning with
    | some (g, ig) =>
      match s.whoOf core slot g.idx ig.id with
      | some w => .next (s.takeTrap w (s.record w w.live { cause := 15, lane := lowest w.live }) 0)
      | none => .next s
    | none => .next (s.endCtx b.ctx 15 (some
        { cause := 15, block := wd b.task.lin, node := wd b.task.node, leg := s.legOf b.ctx, iret := true, clock := s.coreClock core })) := by
  have hwatched : (s.ctx b.ctx).watched = true := by
    unfold Ctx.watched
    rcases hrun with h | h <;> rw [h] <;> rfl
  show execWatchdogExpiry core slot s = _
  unfold execWatchdogExpiry
  rw [hb]
  dsimp only
  rw [if_neg (by simp [hms, hwatched, Nat.not_le.2 hlate])] <;> rfl

theorem State.watchdogTraps {g : Group} {ig : IGroup} {w : Who} (hfirst : b.firstRunning = some (g, ig))
    (hw : s.whoOf core slot g.idx ig.id = some w) :
    ∃ r t, exec (.watchdogExpiry core slot) s = .next t ∧ RecordAt w s w.live 15 (lowest w.live) r ∧ Traps w r 0 s t ∧
      (t.ctx b.ctx).state = .ending ∧ (t.ctx b.ctx).cause = 15 := by
  obtain ⟨hi, hcore, hslot, -⟩ := State.whoOf_spec hw
  have hwb : w.b = b := by
    have := hi.block
    rw [hcore, hslot, hb] at this
    exact (Option.some.inj this).symm
  let r := s.record w w.live { cause := 15, lane := lowest w.live }
  have hcause : r.cause = 15 := rfl
  have htraps := hi.stands.traps r 0 (by rw [hcause]; decide)
  have hexec := execWatchdogExpiry_due hb hms hrun hlate
  rw [hfirst] at hexec
  dsimp only at hexec
  rw [hw] at hexec
  refine ⟨r, _, hexec, State.record_recordAt s w w.live { cause := 15, lane := lowest w.live }, htraps, ?_⟩
  have hentry : s.handlerEntry w r.cause.toNat = none := by
    rw [hcause]
    simp [State.handlerEntry, driverCause]
  unfold Traps at htraps
  rw [hentry] at htraps
  dsimp only at htraps
  rw [if_neg (by rw [hcause]; simp), hcause, hwb] at htraps
  have hown := htraps.1.own
  rw [if_pos hrun] at hown
  rw [hown]
  exact ⟨rfl, rfl⟩

theorem State.watchdogEnds (hfirst : b.firstRunning = none) :
    ∃ r t, exec (.watchdogExpiry core slot) s = .next t ∧ EndsCtx b.ctx 15 r s t ∧ r.cause = 15 ∧
      r.iret = true ∧ r.clock = s.coreClock core ∧ r.block = wd b.task.lin ∧ r.node = wd b.task.node := by
  have hexec := execWatchdogExpiry_due hb hms hrun hlate
  rw [hfirst] at hexec
  exact ⟨_, _, hexec, State.endCtx_endsCtx s s.cores b.ctx 15 _, rfl, rfl, rfl, rfl, rfl⟩

end

/-! ## The end of a context (R454) -/

/-- The itineraries of a context complete: records of that context alone. -/
theorem State.completeAll_onlyRecords (c : Nat) : ∀ (ts : List Itin) (s : State),
    let u := ts.foldl (fun s t => if t.launched || t.finished then s else s.complete c t.crec t.addr 0 (s.ctx c).cause.toNat 3) s
    OnlyRecords s u ∧ ∀ d, d ≠ c → u.ctx d = s.ctx d
  | [], s => ⟨.refl s, fun _ _ => rfl⟩
  | t :: ts, s => by
    have hone : OnlyRecords s (if t.launched || t.finished then s else s.complete c t.crec t.addr 0 (s.ctx c).cause.toNat 3) ∧
        ∀ d, d ≠ c → (if t.launched || t.finished then s else s.complete c t.crec t.addr 0 (s.ctx c).cause.toNat 3).ctx d = s.ctx d := by
      split
      · exact ⟨.refl s, fun _ _ => rfl⟩
      · exact ⟨s.complete_onlyRecords .., fun d hd => s.post_ctx _ hd⟩
    obtain ⟨h, hc⟩ := completeAll_onlyRecords c ts _
    exact ⟨hone.1.trans h, fun d hd => (hc d hd).trans (hone.2 d hd)⟩

theorem State.endsContext {s : State} {c : Nat} (hend : (s.ctx c).state = .ending) (hidle : s.ctxIdle c = true) :
    ∃ t, exec (.contextEnded c) s = .next t ∧ (t.ctx c).state = .ended ∧ (t.ctx c).cause = (s.ctx c).cause ∧
      (∀ d, d ≠ c → t.ctx d = s.ctx d) ∧ (∀ x ∈ t.itins, x.ctx ≠ c) ∧ (∀ x ∈ t.saved, x.ctx ≠ c) ∧ (∀ h ∈ t.halts, h.ctx ≠ c) := by
  let u := s.endItins c
  let v : State := ({ u with
    saved := u.saved.filter (fun x => x.ctx != c)
    halts := u.halts.filter (fun h => h.ctx != c)
    cores := u.cores.map (fun (k : Nat × Core) => (k.1, { k.2 with absent := k.2.absent.filter (fun a => a.ctx != c) })) } : State).modCtx c
      fun x => { x with state := .ended }
  obtain ⟨hu, huc⟩ := State.completeAll_onlyRecords c (s.itins.filter fun t => t.ctx == c) s
  have hexec : exec (.contextEnded c) s = .next (v.postEvent c 4 (u.ctx c).cause.toNat 0) := by
    show execContextEnded c s = _
    unfold execContextEnded
    rw [if_neg (by simp [hend, hidle])]
    rfl
  have hpost := v.postEvent_onlyRecords c 4 (u.ctx c).cause.toNat 0
  have hvown : v.ctx c = { u.ctx c with state := .ended } := by
    show (State.modCtx _ c _).ctx c = _
    rw [State.ctx_modCtx, if_pos rfl]
    rfl
  refine ⟨_, hexec, ?_, ?_, ?_, ?_, ?_, ?_⟩
  · rw [hpost.state, hvown]
  · rw [hpost.cause, hvown]
    exact hu.cause c
  · intro d hd
    show (v.post c _).ctx d = _
    rw [State.post_ctx v _ hd]
    show (State.modCtx _ c _).ctx d = _
    rw [State.ctx_modCtx, if_neg hd]
    exact huc d hd
  · intro x hx
    rw [hpost.itins] at hx
    simpa using (List.mem_filter.1 hx).2
  · intro x hx
    rw [hpost.saved] at hx
    simpa using (List.mem_filter.1 hx).2
  · intro x hx
    rw [hpost.halts] at hx
    simpa using (List.mem_filter.1 hx).2

/-! ## RELEASE (R440) -/

theorem KMap.find_map {α β : Type} (f : α → β) (m : KMap α) (k : Nat) :
    KMap.find (m.map fun x => (x.1, f x.2)) k = (KMap.find m k).map f := by
  induction m with
  | nil => rfl
  | cons x m ih =>
    rw [List.map_cons, KMap.find, KMap.find, ih]
    split <;> rfl

theorem KMap.get_map {α β : Type} (f : α → β) (d : α) (m : KMap α) (k : Nat) :
    KMap.get (f d) (m.map fun x => (x.1, f x.2)) k = f (KMap.get d m k) := by
  induction m with
  | nil => rfl
  | cons x m ih =>
    rw [List.map_cons, KMap.get, KMap.get, ih]
    split <;> rfl

/-- A core with the blocks of a context changed. -/
def Core.modCtxBlocks (k : Core) (c : Nat) (f : Block → Block) : Core :=
  { k with slots := k.slots.map fun (x : Nat × Block) => (x.1, if x.2.ctx = c then f x.2 else x.2) }

/-- A change of every block of a context, read in one slot. -/
theorem State.block_modCtxBlocks (s : State) (c : Nat) (f : Block → Block) (core k : Nat) :
    (s.modCtxBlocks c f).block core k = (s.block core k).map fun b => if b.ctx = c then f b else b := by
  have hcore : (s.modCtxBlocks c f).core core = (s.core core).modCtxBlocks c f :=
    KMap.get_map (fun x : Core => x.modCtxBlocks c f) {} s.cores core
  unfold State.block
  rw [hcore]
  exact KMap.find_map (fun b : Block => if b.ctx = c then f b else b) _ k

/-- What a command of the mailbox does while it runs. -/
theorem State.command_of_running {s : State} {code : Nat} (h : s.running code = true) (f : State → State) : s.command code f = .next (f s) := by
  unfold State.command
  rw [if_pos h]

theorem State.releases {s : State} (hrun : s.running 9 = true) (it : Itin) :
    (s.itins.find? (fun t => t.addr == s.arg 0 && t.ctx == s.arg 1 && t.hold && !t.released && !t.launched) = none →
      exec .release s = .next (s.done 2)) ∧
    (s.itins.find? (fun t => t.addr == s.arg 0 && t.ctx == s.arg 1 && t.hold && !t.released && !t.launched) = some it →
      (it.allHeld = false → exec .release s = .next (s.done 2)) ∧
      (it.allHeld = true → ∃ t, exec .release s = .next t ∧ t.sys.busy = false ∧ t.sys.result = 0 ∧
        (t.itins = s.itins.map fun y => if y.id = it.id then { y with released := true } else y) ∧
        ∀ c k, t.block c k = (s.block c k).map fun b => if b.ctx = it.ctx ∧ b.itin = it.id then { b with held := false } else b)) := by
  have hexec : exec .release s = execRelease s := rfl
  rw [hexec]
  unfold execRelease
  rw [State.command_of_running hrun]
  refine ⟨fun h => by rw [h], fun h => ⟨fun hn => ?_, fun hall => ?_⟩⟩ <;> rw [h] <;> dsimp only
  · rw [hn]
    rfl
  · rw [hall]
    refine ⟨_, rfl, rfl, rfl, rfl, fun c k => ?_⟩
    refine (State.block_modCtxBlocks (s.modItin it.id fun t => { t with released := true }) it.ctx
      (fun b => if b.itin = it.id then { b with held := false } else b) c k).trans ?_
    show (s.block c k).map _ = _
    congr 1
    funext b
    by_cases hc : b.ctx = it.ctx <;> by_cases hi : b.itin = it.id <;> simp [hc, hi]

/-! ## What a fetch reads

Cores, L1s and numbers may change: a fetch of the same core reads the same, where that core's translations stand. -/

/-- A state with other cores, L1s and next number. -/
def State.withPlaces (s : State) (x : KMap Core) (y : KMap L1) (n : Nat) : State := { s with cores := x, l1s := y, nextId := n }

section
variable (s : State) (x : KMap Core) (y : KMap L1) (n : Nat)

theorem State.foldl_mergeWord_withPlaces (ws : List CuWord) :
    ws.foldl State.mergeWord (s.withPlaces x y n) = (ws.foldl State.mergeWord s).withPlaces x y n := by
  induction ws generalizing s with
  | nil => rfl
  | cons w ws ih => exact ih (s.mergeWord w)

theorem State.mergeLine_withPlaces (pa k : Nat) : (s.withPlaces x y n).mergeLine pa k = (s.mergeLine pa k).withPlaces x y n := by
  unfold State.mergeLine
  dsimp only
  rw [show (s.withPlaces x y n).cu = s.cu from rfl, State.foldl_mergeWord_withPlaces]
  rfl

theorem State.pteAt_withPlaces (a : Nat) : (s.withPlaces x y n).pteAt a = s.pteAt a := by
  unfold State.pteAt State.firmRead
  rw [State.mergeLine_withPlaces]
  rfl

theorem State.walkFrom_withPlaces (c va : Nat) : ∀ lvl table, (s.withPlaces x y n).walkFrom c va lvl table = s.walkFrom c va lvl table
  | 0, table => by
    unfold State.walkFrom
    rw [State.pteAt_withPlaces]
    rfl
  | lvl + 1, table => by
    have hnext : ∀ e, (s.withPlaces x y n).pteNext lvl e = s.pteNext lvl e := fun _ => rfl
    unfold State.walkFrom
    dsimp only
    rw [State.pteAt_withPlaces, hnext]
    simp only [walkFrom_withPlaces c va lvl]
    rfl

theorem State.walkCached_withPlaces (c va : Nat) : (s.withPlaces x y n).walkCached c va = s.walkCached c va := by
  unfold State.walkCached State.walk
  simp only [State.walkFrom_withPlaces]
  rfl

theorem State.vTargetOf_withPlaces (c va : Nat) (ok : Xlate → Bool) : (s.withPlaces x y n).vTargetOf c va ok = s.vTargetOf c va ok := by
  unfold State.vTargetOf State.vPage
  rw [State.walkCached_withPlaces]
  rfl

theorem State.homeRead_withPlaces (c : Nat) (t : Tgt) (k : Nat) : ((s.withPlaces x y n).homeRead c t k).1 = (s.homeRead c t k).1 := by
  cases t with
  | dev pa =>
    unfold State.homeRead State.readFor
    dsimp only
    rw [State.mergeLine_withPlaces]
    rfl
  | host a => rfl
  | mmio a => rfl

theorem State.vRead_withPlaces (c : Nat) : ∀ (k va : Nat), (s.withPlaces x y n).vRead c va k = s.vRead c va k
  | 0, _ => rfl
  | k + 1, va => by
    unfold State.vRead
    rw [State.vTargetOf_withPlaces]
    simp only [vRead_withPlaces c k, State.homeRead_withPlaces]

theorem State.codeBytes_withPlaces (c : Nat) (ps : List Piece) : (s.withPlaces x y n).codeBytes c ps = s.codeBytes c ps := by
  unfold State.codeBytes
  simp only [State.homeRead_withPlaces]
  rfl

section
variable {core : Nat} (htlb : ((s.withPlaces x y n).core core).tlb = (s.core core).tlb)
include htlb

theorem State.lookup_withPlaces (c va : Nat) : (s.withPlaces x y n).lookup core c va = s.lookup core c va := by
  unfold State.lookup
  rw [htlb, State.walkCached_withPlaces]
  rfl

theorem State.piecesF_withPlaces (c : Nat) (need : Need) : ∀ (fuel va k : Nat),
    (s.withPlaces x y n).piecesF none core c need fuel va k = s.piecesF none core c need fuel va k
  | 0, _, _ => rfl
  | fuel + 1, va, k => by
    unfold State.piecesF State.lookupLast
    simp only [State.lookup_withPlaces s x y n htlb, piecesF_withPlaces c need fuel]

theorem State.segEntry_withPlaces (c : Nat) (k : Kernel) (j : Nat) : (s.withPlaces x y n).segEntry core c k j = s.segEntry core c k j := by
  unfold State.segEntry State.fetchBundle State.pieces
  simp only [State.vRead_withPlaces, State.codeBytes_withPlaces, State.piecesF_withPlaces s x y n htlb]

end

end

/-! ## Placing a block (R21, R365, R467) -/

/-- Cores of t differ from those of s in the mode of the L1 at most. -/
def FusedOnly (s t : State) : Prop := ∀ k, { t.core k with fused := (s.core k).fused } = s.core k

/-- Changing a cluster's L1 mode leaves the rest of its cores alone (R56). -/
theorem State.setFused_places (s : State) (core : Nat) (fused : Bool) :
    ∃ x y, s.setFused core fused = s.withPlaces x y s.nextId ∧ FusedOnly s (s.setFused core fused) := by
  have hcores : ∀ (ks : List Nat) (s : State), ∃ x,
      ks.foldl (fun s k => s.modCore k (fun c => { c with fused := fused })) s = s.withPlaces x s.l1s s.nextId ∧
      FusedOnly s (ks.foldl (fun s k => s.modCore k (fun c => { c with fused := fused })) s) := by
    intro ks
    induction ks with
    | nil => exact fun s => ⟨s.cores, rfl, fun _ => rfl⟩
    | cons k ks ih =>
      intro s
      obtain ⟨x, hx, hf⟩ := ih (s.modCore k fun c => { c with fused := fused })
      refine ⟨x, hx, fun j => ?_⟩
      have h1 := hf j
      have h2 : { (s.modCore k fun c => { c with fused := fused }).core j with fused := (s.core j).fused } = s.core j := by
        rw [State.core_modCore]
        split
        · subst_vars; rfl
        · rfl
      rw [← h2, ← h1]
      rfl
  have hl1s : ∀ (is : List Nat) (p : Nat) (s : State), ∃ y,
      is.foldl (fun s i => s.modL1 (p + i) (fun k => { k with sectors := [] })) s = s.withPlaces s.cores y s.nextId := by
    intro is p
    induction is with
    | nil => exact fun s => ⟨s.l1s, rfl⟩
    | cons i is ih =>
      intro s
      obtain ⟨y, hy⟩ := ih (s.modL1 (p + i) fun k => { k with sectors := [] })
      exact ⟨y, hy⟩
  unfold State.setFused
  dsimp only
  split
  · exact ⟨s.cores, s.l1s, rfl, fun _ => rfl⟩
  · obtain ⟨x, hx, hf⟩ := hcores (s.clusterCores core) s
    rw [hx] at hf ⊢
    obtain ⟨y, hy⟩ := hl1s (List.range 4) (s.sys.physCore core / 4 * 4) (s.withPlaces x s.l1s s.nextId)
    rw [hy]
    exact ⟨x, y, rfl, hf⟩

theorem FusedOnly.tlb {s t : State} (h : FusedOnly s t) (k : Nat) : (t.core k).tlb = (s.core k).tlb := (congrArg Core.tlb (h k) :)
theorem FusedOnly.gens {s t : State} (h : FusedOnly s t) (k : Nat) : (t.core k).gens = (s.core k).gens := (congrArg Core.gens (h k) :)
theorem FusedOnly.block {s t : State} (h : FusedOnly s t) (c k : Nat) : t.block c k = s.block c k := by
  unfold State.block
  rw [show (t.core c).slots = (s.core c).slots from (congrArg Core.slots (h c) :)]

theorem State.core_bindSlot (s : State) (core slot c : Nat) : (s.bindSlot core slot).core c =
    if c = core then { s.core core with gens := KMap.put (s.core core).gens slot (s.slotGen core slot + 1) } else s.core c :=
  State.core_modCore ..

/-- The state in which a block is bound to its slot: the cluster has the kernel's L1 mode, the generation has advanced, numbers are taken. -/
def State.bound (s : State) (core slot : Nat) (fused : Bool) (groups : Nat) : State :=
  let u := (s.setFused core fused).bindSlot core slot
  { u with nextId := u.nextId + 1 + groups }

theorem State.bound_withPlaces (s : State) (core slot : Nat) (fused : Bool) (groups : Nat) :
    ∃ x y n, s.bound core slot fused groups = s.withPlaces x y n ∧
      ((s.withPlaces x y n).core core).tlb = (s.core core).tlb ∧ (s.withPlaces x y n).slotGen core slot = s.slotGen core slot + 1 ∧
      ∀ c k, (s.withPlaces x y n).block c k = s.block c k := by
  obtain ⟨x, y, hu, hf⟩ := s.setFused_places core fused
  have hcore : ∀ c, (s.bound core slot fused groups).core c = if c = core
      then { (s.setFused core fused).core core with
        gens := KMap.put ((s.setFused core fused).core core).gens slot ((s.setFused core fused).slotGen core slot + 1) }
      else (s.setFused core fused).core c := fun c => State.core_bindSlot (s.setFused core fused) core slot c
  have hgen : (s.setFused core fused).slotGen core slot = s.slotGen core slot := by
    unfold State.slotGen
    rw [hf.gens, hu]
    rfl
  have heq : s.bound core slot fused groups = s.withPlaces (s.bound core slot fused groups).cores y (s.nextId + 1 + groups) := by
    unfold State.bound
    rw [hu]
    rfl
  refine ⟨_, _, _, heq, ?_, ?_, ?_⟩
  · rw [← heq, hcore, if_pos rfl]
    exact hf.tlb core
  · rw [← heq]
    unfold State.slotGen
    rw [hcore, if_pos rfl, KMap.get_put, if_pos rfl, hgen]
    rfl
  · intro c k
    rw [← heq, ← hf.block]
    unfold State.block
    rw [hcore]
    split
    · subst_vars; rfl
    · rfl

theorem State.place_free {s : State} {t : Itin} {k : Task} {n : Node} (hn : (t.nodes[k.node]?).map (s.nodeNow t.ctx) = some n)
    (hh : t.holds k = false) (core slot : Nat) (parts : List Nat) :
    ∃ v born leg, v = s.bound core slot n.kern.fused parts.length ∧ s.place t k core slot parts =
      (v.setBlock core slot (startBlock t k n (v.slotGen core slot) false born v.time parts leg (v.segEntry core t.ctx n.kern 0))).modItin t.id
        (fun t => { t with placed := t.placed ++ [k] }) := by
  refine ⟨_, ((s.setFused core n.kern.fused).bindSlot core slot).nextId, (s.bound core slot n.kern.fused parts.length).legOf t.ctx, rfl, ?_⟩
  unfold State.place
  rw [hn]
  dsimp only
  rw [hh]
  rfl

theorem Block.startSerai_eq (b : Block) : ∃ m, b.startSerai = { b with mem := m } ∧ (b.nodeRec.kern.serai = none → m = b.mem) := by
  unfold Block.startSerai Block.serai
  cases h : b.nodeRec.kern.serai with
  | none => exact ⟨b.mem, rfl, fun _ => rfl⟩
  | some x => exact ⟨_, rfl, fun h => by cases h⟩

theorem listGet_of_getElem? {α : Type} (d : α) {x : α} : ∀ {l : List α} {i : Nat}, l[i]? = some x → listGet d l i = x
  | _ :: _, 0, h => by cases h; rfl
  | _ :: l, i + 1, h => listGet_of_getElem? d (l := l) (i := i) (by simpa using h)

theorem startGroup_started {b : Block} {n : Node} (hn : b.nodeRec = n) (g part since : Nat) (leg : Word) (a : Dword) :
    Started n g part a (startGroup b g part since leg (some a)) := by
  have hmask : ∀ l, l < 32 → (presentMask n.threads g).getLsbD l = decide (32 * g + l < n.threads) := by
    intro l hl
    unfold presentMask
    rw [getLsbD_maskOf]
    simp [hl]
  subst hn
  constructor
  case place => exact ⟨rfl, rfl, rfl, rfl⟩
  case regs => exact ⟨rfl, rfl, rfl, rfl⟩
  case pc => rfl
  case threads =>
    intro l hl
    have : (startGroup b g part since leg (some a)).thread l = { present := (presentMask b.nodeRec.threads g).getLsbD l } :=
      listGet_of_getElem? _ (by simp [startGroup, lanes, hl])
    rw [this]
    exact ⟨hmask l hl, rfl, rfl, rfl⟩
  case mask =>
    intro i hi l hl
    cases List.mem_singleton.1 hi
    exact hmask l hl
  case idle => exact ⟨rfl, rfl⟩

/-- A block at its start without its groups. -/
def bareBlock (t : Itin) (k : Task) (n : Node) (gen : Word) (born now : Nat) : Block :=
  { ctx := t.ctx, itin := t.id, task := k, nodeRec := n, bx := (n.coord k.lin).1, by_ := (n.coord k.lin).2.1, bz := (n.coord k.lin).2.2
    prio := t.prio, submitPrio := t.prio, gen := gen, held := false, born := born, since := now, groups := [] }

/-- The block that a placement starts (R21). -/
theorem startBlock_spec (t : Itin) (k : Task) (n : Node) (gen : Word) (born now : Nat) (parts : List Nat) (leg : Word) (a : Dword) :
    let b := startBlock t k n gen false born now parts leg (some a)
    b.ctx = t.ctx ∧ b.task = k ∧ b.gen = gen ∧ b.held = false ∧
      (b.bx, b.by_, b.bz) = (k.lin % n.gx, k.lin / n.gx % n.gy, k.lin / (n.gx * n.gy)) ∧
      b.acc = [] ∧ b.tiles = [] ∧ b.tags = [] ∧ (n.kern.serai = none → b.mem = []) ∧
      b.groups.length = parts.length ∧ ∀ g p, parts[g]? = some p → Started n g p a (b.group g) := by
  intro b
  obtain ⟨m, hb, hm⟩ := Block.startSerai_eq { bareBlock t k n gen born now with
    groups := parts.mapIdx fun g p => startGroup (bareBlock t k n gen born now) g p born leg (some a) }
  have hb' : b = _ := hb
  rw [hb']
  refine ⟨rfl, rfl, rfl, rfl, rfl, rfl, rfl, rfl, hm, List.length_mapIdx, fun g p hp => ?_⟩
  have hgroup : listGet Group.empty (parts.mapIdx fun g p => startGroup (bareBlock t k n gen born now) g p born leg (some a)) g =
      startGroup (bareBlock t k n gen born now) g p born leg (some a) :=
    listGet_of_getElem? _ (by rw [List.getElem?_mapIdx, hp]; rfl)
  show Started n g p a (listGet Group.empty _ g)
  rw [hgroup]
  exact startGroup_started (b := bareBlock t k n gen born now) rfl g p born leg a

theorem execBlockPlace_first {s : State} {die core slot : Nat} {x : Cand} {n : Node} {parts : List Nat}
    (hfirst : firstBy Cand.rank (s.pool die) = some x) (hsaved : ∀ y ∈ s.savedPool die, y.rank.before x.rank = false)
    (hn : (x.t.nodes[x.k.node]?).map (s.nodeNow x.t.ctx) = some n)
    (hcore : s.bestCore die x.t.cores n.kern n.allots = some (core, parts)) (hslot : s.freeSlot core = some slot) :
    exec (.blockPlace die) s = .next (s.place x.t x.k core slot parts) := by
  have hno : (s.savedPool die).any (fun y => y.rank.before x.rank) = false := by
    rw [List.any_eq_false]
    intro y hy
    rw [hsaved y hy]
    simp
  show execBlockPlace die s = _
  unfold execBlockPlace
  rw [hfirst]
  dsimp only
  rw [hno, if_neg (by simp), hn]
  dsimp only
  rw [hcore]
  dsimp only
  rw [hslot]

theorem State.placesBlock {s : State} {die core slot : Nat} {x : Cand} {n : Node} {parts : List Nat} {a : Dword}
    (hfirst : firstBy Cand.rank (s.pool die) = some x) (hsaved : ∀ y ∈ s.savedPool die, y.rank.before x.rank = false)
    (hn : (x.t.nodes[x.k.node]?).map (s.nodeNow x.t.ctx) = some n)
    (hcore : s.bestCore die x.t.cores n.kern n.allots = some (core, parts)) (hslot : s.freeSlot core = some slot)
    (hhold : x.t.hold = false) (hentry : s.segEntry core x.t.ctx n.kern 0 = some a) :
    ∃ t b, exec (.blockPlace die) s = .next t ∧ Taken core slot b s t ∧
      b.ctx = x.t.ctx ∧ b.task = x.k ∧ b.gen = s.slotGen core slot + 1 ∧ b.held = false ∧
      (b.bx, b.by_, b.bz) = (x.k.lin % n.gx, x.k.lin / n.gx % n.gy, x.k.lin / (n.gx * n.gy)) ∧
      b.acc = [] ∧ b.tiles = [] ∧ b.tags = [] ∧ (n.kern.serai = none → b.mem = []) ∧
      b.groups.length = parts.length ∧ (∀ g p, parts[g]? = some p → Started n g p a (b.group g)) ∧
      t.itins = s.itins.map fun y => if y.id = x.t.id then { y with placed := y.placed ++ [x.k] } else y := by
  have hh : x.t.holds x.k = false := by unfold Itin.holds; rw [hhold]; rfl
  obtain ⟨v, born, leg, hv, hplace⟩ := State.place_free hn hh core slot parts
  obtain ⟨c, l, i, hplaces, htlb, hgen, hblock⟩ := s.bound_withPlaces core slot n.kern.fused parts.length
  rw [hplaces] at hv
  subst hv
  rw [State.segEntry_withPlaces s c l i htlb, hentry, hgen] at hplace
  obtain ⟨h1, h2, h3, h4, h5, h6, h7, h8, h9, h10, h11⟩ :=
    startBlock_spec x.t x.k n (s.slotGen core slot + 1) born (s.withPlaces c l i).time parts leg a
  refine ⟨_, _, execBlockPlace_first hfirst hsaved hn hcore hslot, ?_, h1, h2, h3, h4, h5, h6, h7, h8, h9, h10, h11, ?_⟩
  · rw [hplace]
    intro d k
    show (State.setBlock _ core slot _).block d k = _
    rw [State.block_setBlock, hblock]
  · rw [hplace]
    rfl

/-- Settles O51, one lemma for each kind of step. -/
theorem distributorSteps : Obligations.DistributorSteps := by
  refine ⟨?itinerary, ?place, ?steal, ?release, ?retire, ?watchdog, ?ended, ?held⟩
  case itinerary =>
    intro s c q addr hc hq y s1 hfree hnext
    exact State.admits addr hc hq hfree hnext
  case place => exact fun _ _ _ _ _ _ _ _ hfirst hsaved hn hcore hslot hhold hentry =>
    State.placesBlock hfirst hsaved hn hcore hslot hhold hentry
  case steal =>
    intro s thief victim t ks hne hlt hpool hsaved hmost hl hks
    exact ⟨upperHalf ks, length_upperHalf hks, fun k hk => ⟨mem_of_mem_upperHalf hk, fun j hj hout => le_of_mem_upperHalf hk hj hout⟩, _,
      State.steals hne hlt hpool hsaved hmost hl, rfl, rfl⟩
  case release => exact fun _ _ _ _ _ hb hlive hres hplace hnone => State.releasesGroup hb hlive hres hplace hnone
  case retire =>
    intro s core slot b hb hnone hhalts
    refine ⟨fun hrun hdone => ⟨fun hlate it hit => ?_, fun r hlate => ?_⟩, fun hend hidle => ?_⟩
    · exact State.retires hb hnone hhalts hrun hdone hlate hit
    · exact State.retires_late hb hnone hhalts hrun hdone hlate
    · exact State.retires_ending hb hnone hhalts hend hidle
  case watchdog =>
    intro s core slot b hb ms hms hrun hlate
    exact ⟨fun g ig w hfirst hw => State.watchdogTraps hb hms hrun hlate hfirst hw, State.watchdogEnds hb hms hrun hlate⟩
  case ended => exact fun _ _ hend hidle => State.endsContext hend hidle
  case held => exact fun _ it hrun => State.releases hrun it

end Sys2Proof.Machine
end

section
/-! # Errors, rollback and injection (O54)

One lemma for each kind of step; `Posts`, `Reports`, `TrapsOnly` and `Faulted` say what the parts that steps share leave alone. -/

namespace Sys2Proof.Machine
open Host (Outcome)

/-! ## Domains -/

theorem State.domain?_num {s : State} {n : Nat} {d : Domain} (h : s.domain? n = some d) : d.num = n := by simpa using List.find?_some h

/-- A change of a domain that keeps its number, read at any number. -/
theorem State.domain?_modDomain (s : State) (n e : Nat) {f : Domain → Domain} (hf : ∀ d, d.num = n → (f d).num = n) :
    (s.modDomain n f).domain? e = (s.domain? e).map fun d => if d.num = n then f d else d := by
  unfold State.modDomain State.domain?
  rw [List.find?_map]
  have : ((fun x : Domain => x.num == e) ∘ fun x => if (x.num == n) = true then f x else x) = fun x => x.num == e := by
    funext x
    by_cases h : x.num = n
    · simp [h, hf x h]
    · simp [h]
  rw [this]
  congr 1
  funext x
  simp

theorem State.domain?_modDomain_own {s : State} {n : Nat} {d : Domain} (h : s.domain? n = some d) {f : Domain → Domain}
    (hf : ∀ d, d.num = n → (f d).num = n) : (s.modDomain n f).domain? n = some (f d) := by
  rw [State.domain?_modDomain s n n hf, h]
  exact congrArg some (if_pos (State.domain?_num h))

theorem State.domain?_modDomain_other {s : State} {n e : Nat} (he : e ≠ n) {f : Domain → Domain}
    (hf : ∀ d, d.num = n → (f d).num = n) : (s.modDomain n f).domain? e = s.domain? e := by
  rw [State.domain?_modDomain s n e hf]
  cases h : s.domain? e with
  | none => rfl
  | some d => exact congrArg some (if_neg (by rw [State.domain?_num h]; exact he))

/-- A domain's books change and messages go out. -/
theorem State.modDomain_step {s : State} {n : Nat} {d : Domain} (h : s.domain? n = some d) {f : Domain → Domain}
    (hf : ∀ d, d.num = n → (f d).num = n) (l : List FabMsg) :
    DomainStep (f d) l s { s.modDomain n f with out := s.out ++ l } := by
  have hnum : (f d).num = n := hf d (State.domain?_num h)
  refine ⟨rfl, ?_, ?_, rfl⟩
  · rw [hnum]
    exact State.domain?_modDomain_own h hf
  · intro e he
    rw [hnum] at he
    exact State.domain?_modDomain_other he hf

/-- What the abort of a domain does (R191, R486). -/
theorem State.abortDomain_step {s : State} {n : Nat} {d : Domain} (h : s.domain? n = some d) (o : Option Nat) (i : Bool) :
    DomainStep (d.aborted o i) [.abort n (if d.overflow.isSome then d.overflow else o) (i && (!d.stopped || d.injected))] s
      (s.abortDomain n o i) := by
  have hnum := State.domain?_num h
  have heq : s.abortDomain n o i = { s.modDomain n (fun _ => d.aborted o i) with
      out := s.out ++ [.abort n (if d.overflow.isSome then d.overflow else o) (i && (!d.stopped || d.injected))] } := by
    unfold State.abortDomain Domain.aborted
    rw [h]
    dsimp only
    cases d.overflow <;> rfl
  rw [heq]
  exact State.modDomain_step h (f := fun _ => d.aborted o i) (fun _ _ => hnum) _

@[simp] theorem State.postRas_domains (s : State) (r : Ras) : (s.postRas r).domains = s.domains := by
  unfold State.postRas
  dsimp only
  split
  · rfl
  · split <;> rfl

@[simp] theorem State.postRas_ctxs (s : State) (r : Ras) : (s.postRas r).ctxs = s.ctxs := by
  unfold State.postRas
  dsimp only
  split
  · rfl
  · split <;> rfl

@[simp] theorem State.postRas_mem (s : State) (r : Ras) : (s.postRas r).mem = s.mem := by
  unfold State.postRas
  dsimp only
  split
  · rfl
  · split <;> rfl

@[simp] theorem State.postRas_ctx (s : State) (r : Ras) (c : Nat) : (s.postRas r).ctx c = s.ctx c := by
  unfold State.ctx
  rw [State.postRas_ctxs]

@[simp] theorem State.postRas_domain? (s : State) (r : Ras) (n : Nat) : (s.postRas r).domain? n = s.domain? n := by
  unfold State.domain?
  rw [State.postRas_domains]

/-! ## Errors (R177, R191, R487) -/

theorem execCorrectedError_of_place {site : ErrSite} (h : ∀ n pa, site ≠ .undoLog n pa) (s : State) :
    exec (.correctedError site) s = .next (s.postRas { siteRas site 1 with sev := 0 }) := by
  cases site with
  | undoLog n pa => exact absurd rfl (h n pa)
  | hbm => rfl
  | llc => rfl
  | localMem => rfl
  | regFile => rfl
  | tile => rfl
  | accum => rfl

theorem execCorrectedError_of_log (s : State) (n pa : Nat) :
    (∀ d, s.domain? n = some d → exec (.correctedError (.undoLog n pa)) s =
      .next (s.postRas { siteRas (.undoLog n pa) 1 with sev := 0, dom := some n, leg := d.leg })) ∧
    (s.domain? n = none → exec (.correctedError (.undoLog n pa)) s = .next s) := by
  have hexec : exec (.correctedError (.undoLog n pa)) s = execCorrectedError (.undoLog n pa) s := rfl
  rw [hexec]
  unfold execCorrectedError
  dsimp only
  refine ⟨fun d h => ?_, fun h => ?_⟩ <;> rw [h]
  rfl

/-- An error in the state of one domain's context rolls the domain back. -/
theorem State.strike_domain {s : State} {c n : Nat} {d : Domain} (hc : (s.ctx c).domain = some n) (hd : s.domain? n = some d) (r : Ras)
    (o : Nat → Option Nat) (i : Bool) : s.strike [c] r o i =
      (s.postRas { r with sev := if (o n).isSome then 2 else 1, dom := some n, leg := d.leg }).abortDomain n (o n) i := by
  have hds : s.domainsOf [c] = [n] := by
    unfold State.domainsOf
    simp [hc]
  have hlone : [c].filter (fun c => (s.ctx c).domain.isNone && (s.ctx c).state != .free) = [] := by simp [hc]
  unfold State.strike
  dsimp only
  rw [hds, hlone]
  simp only [List.foldl_cons, List.foldl_nil, hd]
  rfl

/-- What the end of a context by an error does to the contexts. -/
theorem State.ctx_errorEnds (s : State) (c e : Nat) : (s.errorEnds c).ctx e =
    if e = c ∧ ((s.ctx c).state = .live ∨ (s.ctx c).state = .stopped) then { s.ctx c with
      state := .ending
      cause := BitVec.ofNat 8 ((Config.freeWord s.freeCtr).toNat % 64)
      fault := { cause := BitVec.ofNat 6 ((Config.freeWord s.freeCtr).toNat % 64), leg := s.legOf c, clock := dw s.clock } }
    else s.ctx e := State.ctx_endCtx ..

theorem State.errorEnds_onlyCtxs (s : State) (c : Nat) : { s.errorEnds c with ctxs := s.ctxs, freeCtr := s.freeCtr } = s := by
  obtain ⟨x, hx⟩ := State.endCtx_eq { s with freeCtr := s.freeCtr + 1 } c ((Config.freeWord s.freeCtr).toNat % 64)
    (some { cause := BitVec.ofNat 6 ((Config.freeWord s.freeCtr).toNat % 64), leg := s.legOf c, clock := dw s.clock })
  have hx' : s.errorEnds c = { s with freeCtr := s.freeCtr + 1, ctxs := x } := hx
  rw [hx']

/-- An error in the state of a context outside every domain ends it. -/
theorem State.strike_lone {s : State} {c : Nat} (hc : (s.ctx c).domain = none) (hl : (s.ctx c).state = .live) (r : Ras)
    (o : Nat → Option Nat) (i : Bool) :
    ((s.strike [c] r o i).ctx c).state = .ending ∧ (∀ e, e ≠ c → (s.strike [c] r o i).ctx e = s.ctx e) ∧
      (s.strike [c] r o i).domains = s.domains := by
  have hds : s.domainsOf [c] = [] := by
    unfold State.domainsOf
    simp [hc]
  have hlone : [c].filter (fun c => (s.ctx c).domain.isNone && (s.ctx c).state != .free) = [c] := by simp [hc, hl]
  have hstrike : s.strike [c] r o i = (s.postRas { r with sev := 2, ctx := some c }).errorEnds c := by
    unfold State.strike
    dsimp only
    rw [hds, hlone]
    rfl
  rw [hstrike]
  generalize { r with sev := 2, ctx := some c } = r'
  refine ⟨?_, fun e he => ?_, ?_⟩
  · rw [State.ctx_errorEnds, if_pos ⟨rfl, .inl (by rw [State.postRas_ctx]; exact hl)⟩]
  · rw [State.ctx_errorEnds, if_neg (fun h => he h.1), State.postRas_ctx]
  · exact (congrArg State.domains ((s.postRas r').errorEnds_onlyCtxs c) :).trans (State.postRas_domains ..)

/-- The record of an error in the state of a block, and what the error does. -/
theorem execUncorrectableError_of_block {s : State} {core slot : Nat} {b : Block} {site : ErrSite} (hb : s.block core slot = some b)
    (hsite : site = .localMem core slot ∨ site = .regFile core slot ∨ site = .tile core slot ∨ site = .accum core slot) :
    exec (.uncorrectableError site) s = .next (s.strike [b.ctx] (siteRas site 2) (fun _ => none) false) := by
  have hcore : ∀ r, s.coreError core slot r = s.strike [b.ctx] r (fun _ => none) false := fun r => by
    unfold State.coreError
    rw [hb]
  rcases hsite with rfl | rfl | rfl | rfl <;> rw [← hcore] <;> rfl

/-- An error in a block's own state (R177, R191). -/
theorem State.errorInBlock {s : State} {core slot : Nat} {b : Block} {site : ErrSite} (hb : s.block core slot = some b)
    (hsite : site = .localMem core slot ∨ site = .regFile core slot ∨ site = .tile core slot ∨ site = .accum core slot) :
    (∀ n d, (s.ctx b.ctx).domain = some n → s.domain? n = some d → ∃ t, exec (.uncorrectableError site) s = .next t ∧
      DomainStep (d.aborted none false) [.abort n d.overflow false] (s.postRas { siteRas site 2 with sev := 1, dom := some n, leg := d.leg }) t) ∧
    ((s.ctx b.ctx).domain = none → (s.ctx b.ctx).state = .live → ∃ t, exec (.uncorrectableError site) s = .next t ∧
      (t.ctx b.ctx).state = .ending ∧ (∀ c, c ≠ b.ctx → t.ctx c = s.ctx c) ∧ t.domains = s.domains) := by
  refine ⟨fun n d hc hd => ⟨_, execUncorrectableError_of_block hb hsite, ?_⟩, fun hc hl => ⟨_, execUncorrectableError_of_block hb hsite, ?_⟩⟩
  · rw [State.strike_domain hc hd]
    have h := State.abortDomain_step (s := s.postRas { siteRas site 2 with sev := 1, dom := some n, leg := d.leg })
      ((State.postRas_domain? ..).trans hd) none false
    have hov : (if d.overflow.isSome then d.overflow else none) = d.overflow := by cases d.overflow <;> rfl
    rw [hov] at h
    exact h
  · exact State.strike_lone hc hl _ _ _

theorem State.poisonAt_eq {s : State} {l : List Nat} (h : s.poison = l) (pa : Nat) :
    s.poisonAt pa = { s with poison := if (pa / 64 * 64) ∈ l then l else (pa / 64 * 64) :: l } := by
  subst h
  unfold State.poisonAt
  simp only [List.contains_iff_mem]

/-- An error in a sector of one domain's context (R487). -/
theorem State.errorInSector {s : State} {pa n c : Nat} {d : Domain} (hin : s.sys.installed pa = true) (hcs : s.granuleCtxs pa = [c])
    (hc : (s.ctx c).domain = some n) (hd : s.domain? n = some d) :
    (s.logged d pa = true → ∃ t, exec (.uncorrectableError (.hbm pa)) s = .next t ∧
      DomainStep { d.aborted none false with struck := d.struck ++ [pa / 64 * 64] } [.abort n d.overflow false]
        (s.postRas { siteRas (.hbm pa) 2 with sev := 1, dom := some n, leg := d.leg }) t) ∧
    (s.logged d pa = false → ∃ u,
      DomainStep (d.aborted (some 2) false) [.abort n (if d.overflow.isSome then d.overflow else some 2) false]
        (s.postRas { siteRas (.hbm pa) 2 with sev := 2, dom := some n, leg := d.leg }) u ∧
      exec (.uncorrectableError (.hbm pa)) s = .next (({ u with
        poison := if (pa / 64 * 64) ∈ s.poison then s.poison else (pa / 64 * 64) :: s.poison } : State).postRas
          { siteRas (.hbm pa) 2 with kind := 7, sev := 2, detail := 0 })) := by
  have hds : s.domainsOf (s.granuleCtxs pa) = [n] := by
    unfold State.domainsOf
    rw [hcs]
    simp [hc]
  have hexec : exec (.uncorrectableError (.hbm pa)) s = .next (s.memoryError pa (siteRas (.hbm pa) 2)) := by
    show Outcome.next (if s.sys.installed pa then _ else _) = _
    rw [if_pos hin]
  have hnum := State.domain?_num hd
  refine ⟨fun hlog => ?_, fun hlog => ?_⟩
  · let u := s.postRas { siteRas (.hbm pa) 2 with sev := 1, dom := some n, leg := d.leg }
    have hu : u.domain? n = some d := (State.postRas_domain? ..).trans hd
    have hmem : s.memoryError pa (siteRas (.hbm pa) 2) = (u.abortDomain n none false).modDomain n fun x => { x with
        struck := x.struck ++ [pa / 64 * 64] } := by
      unfold State.memoryError
      dsimp only
      rw [hds, hcs]
      simp only [List.filter_cons, List.filter_nil, hd, hlog, Bool.not_true, Bool.false_eq_true, if_false, List.contains_nil, Bool.not_false,
        if_true, List.foldl_cons, List.foldl_nil, List.isEmpty_nil, State.strike_domain hc hd]
      rfl
    have hov : (if d.overflow.isSome then d.overflow else none) = d.overflow := by cases d.overflow <;> rfl
    have h := State.abortDomain_step hu none false
    rw [hov] at h
    refine ⟨_, hexec, ?_⟩
    rw [hmem]
    have hkeep : ∀ x : Domain, x.num = n → ({ x with struck := x.struck ++ [pa / 64 * 64] } : Domain).num = n := fun _ hx => hx
    refine ⟨h.rest, ?_, ?_, h.out⟩
    · have hown : (u.abortDomain n none false).domain? n = some (d.aborted none false) := hnum ▸ h.own
      show State.domain? _ d.num = _
      rw [hnum]
      exact State.domain?_modDomain_own hown hkeep
    · intro e he
      replace he : e ≠ n := hnum ▸ he
      rw [State.domain?_modDomain_other he hkeep]
      exact h.others e (show e ≠ d.num by rw [hnum]; exact he)
  · let u := s.postRas { siteRas (.hbm pa) 2 with sev := 2, dom := some n, leg := d.leg }
    have hu : u.domain? n = some d := (State.postRas_domain? ..).trans hd
    have h := State.abortDomain_step hu (some 2) false
    refine ⟨_, h, ?_⟩
    have hpoison : (u.abortDomain n (some 2) false).poison = s.poison := by
      have h1 := (congrArg State.poison h.rest :)
      exact h1.trans (congrArg State.poison (s.postRas_onlyRecords _).machine :)
    rw [hexec]
    congr 1
    unfold State.memoryError
    dsimp only
    rw [hds, hcs]
    simp only [List.filter_cons, List.filter_nil, hd, hlog, Bool.not_false, if_true, List.contains_cons, beq_self_eq_true, Bool.true_or,
      Bool.not_true, Bool.false_eq_true, if_false, List.foldl_nil, List.isEmpty_cons, State.strike_domain hc hd]
    show ((u.abortDomain n (some 2) false).poisonAt pa).postRas _ = _
    rw [State.poisonAt_eq hpoison]

theorem State.errorInLog {s : State} {n : Nat} {d : Domain} (hd : s.domain? n = some d) (pa : Nat) :
    ∃ t, exec (.uncorrectableError (.undoLog n pa)) s = .next t ∧
    DomainStep (d.aborted (some 2) false) [.abort n (if d.overflow.isSome then d.overflow else some 2) false]
      (s.postRas { siteRas (.undoLog n pa) 2 with sev := 2, leg := d.leg }) t := by
  refine ⟨_, ?_, State.abortDomain_step ((State.postRas_domain? ..).trans hd) (some 2) false⟩
  show execUncorrectableError (.undoLog n pa) s = _
  unfold execUncorrectableError
  dsimp only
  rw [hd]

/-! ## Die faults (R191, R491) -/

/-- What the ends and aborts of a fault leave: cores and memory stand, contexts outside it stand or are ending, domains stand or have stopped. -/
structure Faulted (s t : State) : Prop where
  cores : t.cores = s.cores
  mem : t.mem = s.mem
  sys : t.sys = s.sys
  domain : ∀ c, (t.ctx c).domain = (s.ctx c).domain
  ctx : ∀ c, (t.ctx c).state = (s.ctx c).state ∨ (t.ctx c).state = .ending
  stopped : ∀ n d, s.domain? n = some d → ∃ d', t.domain? n = some d' ∧ (d.stopped = true → d'.stopped = true)

namespace Faulted
variable {s t u : State}

theorem refl (s : State) : Faulted s s := ⟨rfl, rfl, rfl, fun _ => rfl, fun _ => .inl rfl, fun _ d h => ⟨d, h, id⟩⟩

theorem trans (h : Faulted s t) (h' : Faulted t u) : Faulted s u := by
  refine ⟨h'.cores.trans h.cores, h'.mem.trans h.mem, h'.sys.trans h.sys, fun c => (h'.domain c).trans (h.domain c), fun c => ?_, fun n d hd => ?_⟩
  · rcases h'.ctx c with e | e
    · rw [e]; exact h.ctx c
    · exact .inr e
  · obtain ⟨d', hd', hs⟩ := h.stopped n d hd
    obtain ⟨d'', hd'', hs'⟩ := h'.stopped n d' hd'
    exact ⟨d'', hd'', fun x => hs' (hs x)⟩

theorem foldl {α : Type} {f : State → α → State} (h : ∀ s x, Faulted s (f s x)) : ∀ (l : List α) (s : State), Faulted s (l.foldl f s)
  | [], s => refl s
  | x :: l, s => (h s x).trans (foldl h l (f s x))

end Faulted

theorem State.errorEnds_faulted (s : State) (c : Nat) : Faulted s (s.errorEnds c) := by
  have hrest := s.errorEnds_onlyCtxs c
  have hdomains : (s.errorEnds c).domains = s.domains := (congrArg State.domains hrest :)
  refine ⟨(congrArg State.cores hrest :), (congrArg State.mem hrest :), (congrArg State.sys hrest :), fun e => ?_, fun e => ?_, fun n d hd => ?_⟩
  · rw [State.ctx_errorEnds]
    split
    · rename_i h; rw [h.1]
    · rfl
  · rw [State.ctx_errorEnds]
    split
    · exact .inr rfl
    · exact .inl rfl
  · refine ⟨d, ?_, id⟩
    unfold State.domain? at hd ⊢
    rw [hdomains, hd]

theorem State.abortDomain_faulted (s : State) (n : Nat) (o : Option Nat) (i : Bool) : Faulted s (s.abortDomain n o i) := by
  cases h : s.domain? n with
  | none =>
    have : s.abortDomain n o i = s := by unfold State.abortDomain; rw [h]
    rw [this]
    exact .refl s
  | some d =>
    have hstep := State.abortDomain_step h o i
    have hctxs : (s.abortDomain n o i).ctxs = s.ctxs := (congrArg State.ctxs hstep.rest :)
    have hctx : ∀ c, (s.abortDomain n o i).ctx c = s.ctx c := fun c => by unfold State.ctx; rw [hctxs]
    refine ⟨(congrArg State.cores hstep.rest :), (congrArg State.mem hstep.rest :), (congrArg State.sys hstep.rest :),
      fun c => by rw [hctx], fun c => .inl (by rw [hctx]), fun m d' hd' => ?_⟩
    by_cases hm : m = n
    · subst hm
      have hnum := State.domain?_num h
      have hown := hstep.own
      rw [show (d.aborted o i).num = m from hnum] at hown
      exact ⟨_, hown, fun _ => rfl⟩
    · have hnum : (d.aborted o i).num = n := State.domain?_num (d := d) h
      exact ⟨d', (hstep.others m (by rw [hnum]; exact hm)).trans hd', id⟩

/-- Of a list of contexts every live one ends. -/
theorem State.errorEnds_all {c : Nat} {cs : List Nat} {s : State} (hc : c ∈ cs) (hl : (s.ctx c).state = .live) :
    ((cs.foldl State.errorEnds s).ctx c).state = .ending := by
  induction cs generalizing s with
  | nil => cases hc
  | cons e cs ih =>
    rw [List.foldl_cons]
    by_cases he : c = e
    · subst he
      have hend : ((s.errorEnds c).ctx c).state = .ending := by rw [State.ctx_errorEnds, if_pos ⟨rfl, .inl hl⟩]
      exact ((Faulted.foldl State.errorEnds_faulted cs (s.errorEnds c)).ctx c).elim (fun h => h.trans hend) id
    · refine ih ((List.mem_cons.1 hc).resolve_left he) ?_
      rw [State.ctx_errorEnds, if_neg (fun h => he h.1)]
      exact hl

/-- Of a list of domains every one stops. -/
theorem State.abortDomain_all {n : Nat} {ns : List Nat} {s : State} {d : Domain} (hn : n ∈ ns) (hd : s.domain? n = some d) :
    ∃ d', (ns.foldl (fun s d => s.abortDomain d none false) s).domain? n = some d' ∧ d'.stopped = true := by
  induction ns generalizing s d with
  | nil => cases hn
  | cons e ns ih =>
    rw [List.foldl_cons]
    by_cases he : n = e
    · subst he
      have hown := (State.abortDomain_step hd none false).own
      rw [show (d.aborted none false).num = n from State.domain?_num (d := d) hd] at hown
      obtain ⟨d', hd', hs⟩ := (Faulted.foldl (fun s d => s.abortDomain_faulted d none false) ns _).stopped n _ hown
      exact ⟨d', hd', hs rfl⟩
    · obtain ⟨d', hd', -⟩ := (s.abortDomain_faulted e none false).stopped n d hd
      exact ih ((List.mem_cons.1 hn).resolve_left he) hd'

/-- Cores that are turned off. -/
def State.turnOff (s : State) (cs : List Nat) : State := cs.foldl (fun s c => s.modCore c (fun k => { k with off := true })) s

theorem State.core_turnOff (s : State) (cs : List Nat) (c : Nat) :
    (s.turnOff cs).core c = if c ∈ cs then { s.core c with off := true } else s.core c := by
  unfold State.turnOff
  induction cs generalizing s with
  | nil => simp
  | cons e cs ih =>
    rw [List.foldl_cons, ih, State.core_modCore]
    by_cases he : c = e
    · subst he
      by_cases hc : c ∈ cs <;> simp [hc]
    · simp [he]

theorem State.turnOff_onlyCores (s : State) (cs : List Nat) : { s.turnOff cs with cores := s.cores } = s := by
  unfold State.turnOff
  induction cs generalizing s with
  | nil => rfl
  | cons c cs ih =>
    have h := ih (s.modCore c fun k => { k with off := true })
    exact (congrArg (fun t : State => { t with cores := s.cores }) h :)

/-- A core's die is told by the cores that are fused off alone. -/
theorem Sys.dieOfCore_congr {y z : Sys} (h : y.fusedOff = z.fusedOff) (c : Nat) : y.dieOfCore c = z.dieOfCore c := by
  have hfrom : ∀ fuel p, y.physFrom c fuel p = z.physFrom c fuel p := by
    intro fuel
    induction fuel with
    | zero => exact fun _ => rfl
    | succ fuel ih => intro p; unfold Sys.physFrom; simp only [ih, h]
  unfold Sys.dieOfCore Sys.physCore
  rw [hfrom, h]

theorem State.postRas_fusedOff (s : State) (r : Ras) : (s.postRas r).sys.fusedOff = s.sys.fusedOff :=
  (congrArg Fuses.fusedOff (s.postRas_fuses r) :)

/-- A die whose record is posted and whose cores are off. -/
def State.darkened (s : State) (die detail : Nat) : State :=
  let s := s.postRas { kind := 3, sev := 2, detail := detail, ukind := 2, unit := die }
  s.turnOff ((List.range s.sys.liveCount).filter fun c => s.sys.dieOfCore c == die)

section
variable (s : State) (die detail : Nat)

theorem State.darkened_rest : { s.darkened die detail with cores := s.cores } =
    s.postRas { kind := 3, sev := 2, detail := detail, ukind := 2, unit := die } := by
  have h := (s.postRas { kind := 3, sev := 2, detail := detail, ukind := 2, unit := die }).turnOff_onlyCores
    ((List.range (s.postRas { kind := 3, sev := 2, detail := detail, ukind := 2, unit := die }).sys.liveCount).filter fun c =>
      (s.postRas { kind := 3, sev := 2, detail := detail, ukind := 2, unit := die }).sys.dieOfCore c == die)
  rw [(s.postRas_onlyRecords { kind := 3, sev := 2, detail := detail, ukind := 2, unit := die }).cores] at h
  exact h

theorem State.darkened_fusedOff : (s.darkened die detail).sys.fusedOff = s.sys.fusedOff :=
  ((congrArg (fun t : State => t.sys.fusedOff) (s.darkened_rest die detail) :)).trans (s.postRas_fusedOff _)

/-- The cores of a die that faults run no longer (R191). -/
theorem State.darkened_off {c : Nat} (hc : c < s.sys.liveCount) :
    ((s.darkened die detail).core c).off = ((s.core c).off || s.sys.dieOfCore c == die) := by
  unfold State.darkened
  dsimp only
  have hcore := (s.postRas_onlyRecords { kind := 3, sev := 2, detail := detail, ukind := 2, unit := die }).core c
  have hf := s.postRas_fusedOff { kind := 3, sev := 2, detail := detail, ukind := 2, unit := die }
  generalize s.postRas { kind := 3, sev := 2, detail := detail, ukind := 2, unit := die } = u at hcore hf ⊢
  have hlive : c < u.sys.liveCount := by
    unfold Sys.liveCount at hc ⊢
    rw [hf]
    exact hc
  have hdie : u.sys.dieOfCore c = s.sys.dieOfCore c := Sys.dieOfCore_congr hf c
  rw [State.core_turnOff, hcore]
  by_cases h : s.sys.dieOfCore c = die
  · rw [if_pos (List.mem_filter.2 ⟨List.mem_range.2 hlive, by simp [hdie, h]⟩)]
    simp [h]
  · rw [if_neg (fun hm => h (by simpa [hdie] using (List.mem_filter.1 hm).2))]
    simp [h]

theorem State.darkened_ctx (c : Nat) : (s.darkened die detail).ctx c = s.ctx c :=
  ((congrArg (fun t : State => t.ctx c) (s.darkened_rest die detail) :)).trans (s.postRas_ctx _ c)

theorem State.darkened_domain? (n : Nat) : (s.darkened die detail).domain? n = s.domain? n :=
  ((congrArg (fun t : State => t.domain? n) (s.darkened_rest die detail) :)).trans (s.postRas_domain? _ n)

theorem State.darkened_mem : (s.darkened die detail).mem = s.mem :=
  ((congrArg State.mem (s.darkened_rest die detail) :)).trans (s.postRas_mem _)

/-- The contexts outside every domain that a die fault ends. -/
def State.dieLone : List Nat := (s.dieCtxs die).filter fun c => ((s.darkened die detail).ctx c).domain.isNone

/-- The state after them. -/
def State.dieEnds : State := (s.dieLone die detail).foldl State.errorEnds (s.darkened die detail)

theorem State.dieFault_eq : s.dieFault die detail =
    ((s.dieEnds die detail).domainsOf (s.dieCtxs die)).foldl (fun s d => s.abortDomain d none false) (s.dieEnds die detail) := rfl

theorem State.dieEnds_faulted : Faulted (s.darkened die detail) (s.dieEnds die detail) := Faulted.foldl State.errorEnds_faulted _ _

theorem State.dieFault_faulted_ends : Faulted (s.dieEnds die detail) (s.dieFault die detail) := by
  rw [State.dieFault_eq]
  exact Faulted.foldl (fun s d => s.abortDomain_faulted d none false) _ _

theorem State.dieFault_faulted : Faulted (s.darkened die detail) (s.dieFault die detail) :=
  (s.dieEnds_faulted die detail).trans (s.dieFault_faulted_ends die detail)

theorem State.dieFault_off {c : Nat} (hc : c < s.sys.liveCount) :
    ((s.dieFault die detail).core c).off = ((s.core c).off || s.sys.dieOfCore c == die) := by
  rw [← s.darkened_off die detail hc]
  unfold State.core
  rw [(s.dieFault_faulted die detail).cores]

theorem State.dieFault_fusedOff : (s.dieFault die detail).sys.fusedOff = s.sys.fusedOff := by
  rw [(s.dieFault_faulted die detail).sys, s.darkened_fusedOff]

variable {s die} {c : Nat} (hc : c ∈ s.dieCtxs die)
include hc

/-- A context outside every domain with a block on the die ends (R177). -/
theorem State.dieFault_ends (hdom : (s.ctx c).domain = none) (hlive : (s.ctx c).state = .live) :
    ((s.dieFault die detail).ctx c).state = .ending := by
  have hmem : c ∈ s.dieLone die detail := List.mem_filter.2 ⟨hc, by rw [State.darkened_ctx, hdom]; rfl⟩
  have hend : ((s.dieEnds die detail).ctx c).state = .ending :=
    State.errorEnds_all hmem (by rw [State.darkened_ctx]; exact hlive)
  exact ((s.dieFault_faulted_ends die detail).ctx c).elim (fun h => h.trans hend) id

/-- The domain of one with a block on the die stops. -/
theorem State.dieFault_stops {n : Nat} {d : Domain} (hdom : (s.ctx c).domain = some n) (hd : s.domain? n = some d) :
    ∃ d', (s.dieFault die detail).domain? n = some d' ∧ d'.stopped = true := by
  have hf := s.dieEnds_faulted die detail
  obtain ⟨d', hd', -⟩ := hf.stopped n d ((s.darkened_domain? die detail n).trans hd)
  have hdom' : ((s.dieEnds die detail).ctx c).domain = some n := by rw [hf.domain, State.darkened_ctx, hdom]
  rw [State.dieFault_eq]
  refine State.abortDomain_all ?_ hd'
  unfold State.domainsOf
  exact List.mem_dedup.2 (List.mem_filterMap.2 ⟨c, hc, hdom'⟩)

end

/-- A rail's four dies fault (R491). -/
theorem State.railFault_off (base : Nat) {c : Nat} : ∀ (is : List Nat) (s : State), c < s.sys.liveCount →
    ((is.foldl (fun s i => s.dieFault (4 * base + i) 1) s).core c).off =
      ((s.core c).off || is.any fun i => s.sys.dieOfCore c == 4 * base + i) := by
  intro is
  induction is with
  | nil => simp
  | cons i is ih =>
    intro s hc
    have hf := s.dieFault_fusedOff (4 * base + i) 1
    have hlive : c < (s.dieFault (4 * base + i) 1).sys.liveCount := by
      unfold Sys.liveCount at hc ⊢
      rw [hf]
      exact hc
    rw [List.foldl_cons, ih _ hlive, s.dieFault_off _ _ hc, Sys.dieOfCore_congr hf, List.any_cons, Bool.or_assoc]

theorem any_range_four_eq (base x : Nat) : ((List.range 4).any fun i => x == 4 * base + i) = (x / 4 == base) := by
  rw [Bool.eq_iff_iff, List.any_eq_true, beq_iff_eq]
  constructor
  · rintro ⟨i, hi, h⟩
    have := List.mem_range.1 hi
    have := beq_iff_eq.1 h
    omega
  · intro h
    exact ⟨x % 4, List.mem_range.2 (Nat.mod_lt _ (by decide)), beq_iff_eq.2 (by omega)⟩

theorem State.diesFault {s : State} {die : Nat} (hdie : die < 32) :
    (∃ t, exec (.dieFault die) s = .next t ∧ t.mem = s.mem ∧
      (∀ c, c < s.sys.liveCount → (t.core c).off = ((s.core c).off || s.sys.dieOfCore c == die)) ∧
      (∀ c ∈ s.dieCtxs die, (s.ctx c).domain = none → (s.ctx c).state = .live → (t.ctx c).state = .ending) ∧
      ∀ c ∈ s.dieCtxs die, ∀ n d, (s.ctx c).domain = some n → s.domain? n = some d → ∃ d', t.domain? n = some d' ∧ d'.stopped = true) ∧
    (die < 8 → ∃ t, exec (.railUndervolt die) s = .next t ∧
      ∀ c, c < s.sys.liveCount → (t.core c).off = ((s.core c).off || s.sys.dieOfCore c / 4 == die)) := by
  refine ⟨⟨s.dieFault die 0, ?_, ?_, fun c hc => s.dieFault_off die 0 hc, fun c hc hdom hl => State.dieFault_ends 0 hc hdom hl,
    fun c hc n d hdom hd => State.dieFault_stops 0 hc hdom hd⟩, fun hbase =>
    ⟨(List.range 4).foldl (fun s i => s.dieFault (4 * die + i) 1) s, ?_, fun c hc => ?_⟩⟩
  · show Outcome.next (if die < 32 then _ else _) = _
    rw [if_pos hdie]
  · rw [(s.dieFault_faulted die 0).mem, s.darkened_mem]
  · show Outcome.next (if die < 8 then _ else _) = _
    rw [if_pos hbase]
  · rw [State.railFault_off die _ s hc, any_range_four_eq]

/-! ## ABORT and DONE (R486) -/

theorem Domain.overflows_eq (d : Domain) (o : Option Nat) : d.overflows o = if d.overflow.isSome then d.overflow else o := by
  unfold Domain.overflows
  cases d.overflow <;> rfl

theorem Domain.doomed_eq (d : Domain) : d.doomed = if d.phase = .committed then nextLeg d.leg else d.leg := by
  unfold Domain.doomed
  simp only [beq_iff_eq]

section
variable {s : State} {dom : Nat} {d : Domain} (hd : s.domain? dom = some d)
include hd

/-- The coordinator stops the domain and sends STOP. -/
theorem State.coordinatorStops (hco : d.coordinates s.sys.pkg = true) (o : Option Nat) (i : Bool) :
    ∃ t, exec (.rollbackAbort ⟨dom, o, i⟩) s = .next t ∧ DomainStep { d with
        stopped := true, wanted := false, rolling := 0, doneBy := []
        overflow := if d.overflow.isSome then d.overflow else o
        injected := i && (!d.stopped || d.injected) }
      [.stop dom (if d.stopped = true ∧ d.rolling ≠ 0 then d.rolling else if d.phase = .committed then nextLeg d.leg else d.leg)
        (if d.overflow.isSome then d.overflow else o) (i && (!d.stopped || d.injected))] s t := by
  refine ⟨_, ?_, State.modDomain_step hd (f := fun x => { x with
    stopped := true, wanted := false, rolling := 0, doneBy := []
    overflow := if d.overflow.isSome then d.overflow else o
    injected := i && (!d.stopped || d.injected) }) (fun _ hx => hx) _⟩
  show execRollbackAbort _ _ = _
  unfold execRollbackAbort
  dsimp only
  rw [hd]
  dsimp only
  rw [hco, Domain.overflows_eq, Domain.doomed_eq]
  simp only [Bool.not_true, Bool.false_eq_true, if_false, Bool.and_eq_true, bne_iff_ne]

/-- DONE of a member: the last one sends RESUME. -/
theorem State.memberDone {m : BitVec 12} (hstop : d.stopped = true) (hco : d.coordinates s.sys.pkg = true) (hroll : d.rolling ≠ 0)
    (hm : m ∈ d.alive) (hnew : m ∉ d.doneBy) :
    ((∃ k ∈ d.alive, k ∉ d.doneBy ++ [m]) → ∃ t, exec (.rollbackDone dom m) s = .next t ∧ DomainStep { d with
      doneBy := d.doneBy ++ [m] } [] s t) ∧
    ((∀ k ∈ d.alive, k ∈ d.doneBy ++ [m]) → ∃ t, exec (.rollbackDone dom m) s = .next t ∧ DomainStep { d with
      doneBy := d.doneBy ++ [m] } [.resume dom (nextLeg d.rolling)] s t) := by
  let f : Domain → Domain := fun x => { x with doneBy := d.doneBy ++ [m] }
  have hexec : exec (.rollbackDone dom m) s = .next (if d.allIn (d.doneBy ++ [m]) then
      { s.modDomain dom f with out := s.out ++ [FabMsg.resume dom (nextLeg d.rolling)] } else s.modDomain dom f) := by
    show execRollbackDone _ _ _ = _
    unfold execRollbackDone
    rw [hd]
    dsimp only
    rw [if_neg (by simpa [hstop, hco, hm, hnew] using hroll)]
    rfl
  have hall : d.allIn (d.doneBy ++ [m]) = true ↔ ∀ k ∈ d.alive, k ∈ d.doneBy ++ [m] := by
    unfold Domain.allIn
    simp only [List.all_eq_true, List.contains_iff_mem]
  refine ⟨fun ⟨k, hk, hout⟩ => ⟨s.modDomain dom f, ?_, ?_⟩, fun h => ⟨_, ?_, State.modDomain_step hd (f := f) (fun _ hx => hx) _⟩⟩
  · rw [hexec, if_neg (fun h => hout (hall.1 h k hk))]
  · have h := State.modDomain_step hd (f := f) (fun _ hx => hx) []
    rwa [List.append_nil] at h
  · rw [hexec, if_pos (hall.2 h)]

end

/-! ## Write-back of the undo log (R191, R192) -/

theorem Memory.read_writeN : ∀ (bs : List Byte) (m : Memory) (a x : Nat), m.wf = true →
    (Memory.writeN m a bs).read x = if a ≤ x ∧ x < a + bs.length then listGet 0 bs (x - a) else m.read x := by
  intro bs
  induction bs with
  | nil =>
    intro m a x _
    rw [if_neg (by simp only [List.length_nil]; omega)]
    rfl
  | cons b bs ih =>
    intro m a x h
    show (Memory.writeN (m.write a b) (a + 1) bs).read x = _
    rw [ih _ _ _ (Memory.wf_write m a b h), Memory.read_write m a x b h, List.length_cons]
    by_cases hx : x = a
    · subst hx
      rw [if_neg (by omega), if_pos rfl, if_pos (by omega), Nat.sub_self]
      rfl
    · rw [if_neg hx]
      by_cases hin : a + 1 ≤ x ∧ x < a + 1 + bs.length
      · rw [if_pos hin, if_pos (by omega), show x - a = x - (a + 1) + 1 by omega]
        rfl
      · rw [if_neg hin, if_neg (by omega)]

theorem Memory.readN_congr {m m' : Memory} : ∀ (n a : Nat), (∀ x, a ≤ x → x < a + n → m.read x = m'.read x) →
    Memory.readN m a n = Memory.readN m' a n
  | 0, _, _ => rfl
  | n + 1, a, h => by
    unfold Memory.readN
    rw [h a (Nat.le_refl a) (by omega), Memory.readN_congr n (a + 1) fun x hx hlt => h x (by omega) (by omega)]

theorem Memory.readN_of_read {m : Memory} : ∀ {bs : List Byte} {a : Nat}, (∀ i, i < bs.length → m.read (a + i) = listGet 0 bs i) →
    Memory.readN m a bs.length = bs := by
  intro bs
  induction bs with
  | nil => intro a _; rfl
  | cons b bs ih =>
    intro a h
    rw [List.length_cons]
    unfold Memory.readN
    rw [show m.read a = b from h 0 (by simp), ih fun i hi => ?_]
    rw [show a + 1 + i = a + (i + 1) by omega]
    exact h (i + 1) (by simpa using hi)

theorem Memory.readN_writeN (m : Memory) (a : Nat) (bs : List Byte) (h : m.wf = true) :
    Memory.readN (Memory.writeN m a bs) a bs.length = bs := by
  refine Memory.readN_of_read fun i hi => ?_
  rw [Memory.read_writeN _ _ _ _ h, if_pos (by omega), Nat.add_sub_cancel_left]

/-- Memory with the entries of a log written back, the first of them last. -/
def Memory.undone (m : Memory) (es : List LogEnt) : Memory := es.foldr (fun e m => Memory.writeN m e.pa e.old) m

theorem Memory.undone_wf {m : Memory} (h : m.wf = true) : ∀ es, (m.undone es).wf = true
  | [] => h
  | _ :: es => Memory.wf_writeN _ _ _ (Memory.undone_wf h es)

/-- Bytes outside every entry stand. -/
theorem Memory.read_undone_outside {m : Memory} {a : Nat} (h : m.wf = true) : ∀ {es : List LogEnt},
    (∀ e ∈ es, e.old.length = 64) → (∀ e ∈ es, a < e.pa ∨ e.pa + 64 ≤ a) → (m.undone es).read a = m.read a := by
  intro es
  induction es with
  | nil => exact fun _ _ => rfl
  | cons e es ih =>
    intro hlen hout
    have hl := hlen e List.mem_cons_self
    have ho := hout e List.mem_cons_self
    show (Memory.writeN (m.undone es) e.pa e.old).read a = _
    rw [Memory.read_writeN _ _ _ _ (Memory.undone_wf h es), if_neg (by omega)]
    exact ih (fun x hx => hlen x (List.mem_cons_of_mem _ hx)) (fun x hx => hout x (List.mem_cons_of_mem _ hx))

/-- A sector reads as its earliest entry has it. -/
theorem Memory.readN_undone {m : Memory} {e : LogEnt} (h : m.wf = true) : ∀ {es : List LogEnt},
    (∀ x ∈ es, x.pa % 64 = 0 ∧ x.old.length = 64) → es.find? (fun x => x.pa == e.pa) = some e →
    Memory.readN (m.undone es) e.pa 64 = e.old := by
  intro es
  induction es with
  | nil => intro _ hf; cases hf
  | cons y es ih =>
    intro hal hf
    have hy := hal y List.mem_cons_self
    have hes := fun x hx => hal x (List.mem_cons_of_mem y hx)
    show Memory.readN (Memory.writeN (m.undone es) y.pa y.old) e.pa 64 = _
    rw [List.find?_cons] at hf
    by_cases hp : y.pa = e.pa
    · simp only [hp, beq_self_eq_true, Option.some.injEq] at hf
      subst hf
      have := Memory.readN_writeN (m.undone es) y.pa y.old (Memory.undone_wf h es)
      rwa [hy.2] at this
    · have hne : (y.pa == e.pa) = false := by simpa using hp
      simp only [hne] at hf
      have he := (hes e (List.mem_of_find?_eq_some hf)).1
      have hya := hy.1
      rw [← ih hes hf]
      refine Memory.readN_congr 64 e.pa fun x hx hlt => ?_
      rw [Memory.read_writeN _ _ _ _ (Memory.undone_wf h es), if_neg (by omega)]

theorem State.foldl_undo (s : State) (es : List LogEnt) : es.foldl State.undo s =
    { s with mem := es.foldl (fun m e => Memory.writeN m e.pa e.old) s.mem } := by
  induction es generalizing s with
  | nil => rfl
  | cons e es ih => exact ih (s.undo e)

theorem State.undoLeg_mem (s : State) (d : Domain) (leg : Word) :
    (s.undoLeg d leg).mem = s.mem.undone (s.logs.filter fun e => e.dom == d.num) := by
  have h : (s.undoLeg d leg).mem = ((s.logs.filter fun e => e.dom == d.num).reverse.foldl State.undo s).mem := rfl
  rw [h, State.foldl_undo, List.foldl_reverse]
  rfl

/-! ## What STOP leaves of a domain -/

/-- No block of the domain stays in a slot. -/
theorem State.undoLeg_block {s : State} {d : Domain} {leg : Word} {c k : Nat} {b : Block} (h : (s.undoLeg d leg).block c k = some b) :
    s.inDomain d.num b.ctx = false := by
  have hcore : ∃ x : Core, (s.undoLeg d leg).core c = s.clearCore d.num x ∨ (s.undoLeg d leg).core c = {} := by
    have hcores : (s.undoLeg d leg).cores = s.cores.map fun x => (x.1, s.clearCore d.num x.2) := rfl
    have hget : (s.undoLeg d leg).core c = KMap.get {} (s.cores.map fun x => (x.1, s.clearCore d.num x.2)) c := by
      unfold State.core
      rw [hcores]
    rw [hget]
    generalize s.cores = m
    induction m with
    | nil => exact ⟨{}, .inr rfl⟩
    | cons p m ih =>
      show ∃ x, (if c = p.1 then s.clearCore d.num p.2 else _) = _ ∨ (if c = p.1 then s.clearCore d.num p.2 else _) = _
      by_cases hc : c = p.1
      · exact ⟨p.2, .inl (if_pos hc)⟩
      · rw [if_neg hc]
        exact ih
  unfold State.block at h
  obtain ⟨x, hx | hx⟩ := hcore
  · rw [hx] at h
    have hmem := KMap.mem_of_find h
    unfold State.clearCore at hmem
    obtain ⟨hslot, hmine⟩ := List.mem_filter.1 hmem
    by_contra hin
    rw [Bool.not_eq_false] at hin
    simp only [Bool.not_eq_true', List.contains_eq_mem, decide_eq_false_iff_not] at hmine
    exact hmine (List.mem_map.2 ⟨(k, b), List.mem_filter.2 ⟨hslot, hin⟩, rfl⟩)
  · rw [hx] at h
    cases h

/-- From s to t groups have taken traps at most: places of blocks and their contexts' numbers stand. -/
structure TrapsOnly (s t : State) : Prop where
  rest : { t with cores := s.cores, ctxs := s.ctxs, nextId := s.nextId } = s
  block : ∀ c k b, t.block c k = some b → ∃ b', s.block c k = some b' ∧ b.ctx = b'.ctx

namespace TrapsOnly
variable {s t u : State}

theorem refl (s : State) : TrapsOnly s s := ⟨rfl, fun _ _ b h => ⟨b, h, rfl⟩⟩

theorem trans (h : TrapsOnly s t) (h' : TrapsOnly t u) : TrapsOnly s u := by
  refine ⟨?_, fun c k b hb => ?_⟩
  · have := congrArg (fun v : State => { v with cores := s.cores, ctxs := s.ctxs, nextId := s.nextId }) h'.rest
    exact this.trans h.rest
  · obtain ⟨b', hb', e⟩ := h'.block c k b hb
    obtain ⟨b'', hb'', e'⟩ := h.block c k b' hb'
    exact ⟨b'', hb'', e.trans e'⟩

theorem foldl {α : Type} {f : State → α → State} (h : ∀ s x, TrapsOnly s (f s x)) (l : List α) (s : State) : TrapsOnly s (l.foldl f s) := by
  induction l generalizing s with
  | nil => exact refl s
  | cons x l ih => exact (h s x).trans (ih (f s x))

end TrapsOnly

/-- A group that takes the watchdog trap ends its context. -/
theorem State.takeTrap_watchdog (s : State) {w : Who} {core slot grp id : Nat} (hw : s.whoOf core slot grp id = some w) {r : TrapRec}
    (hr : r.cause = 15) (floor : Word) : TrapsOnly s (s.takeTrap w r floor) := by
  obtain ⟨hi, -⟩ := State.whoOf_spec hw
  have hend : ∃ r', s.takeTrap w r floor = ((s.modGroup w.core w.slot w.grp Group.settle).clearCur w).endCtx w.ctx 15 (some r') := by
    have hc : r.cause.toNat = 15 := by rw [hr]; rfl
    unfold State.takeTrap
    dsimp only
    rw [hc]
    by_cases hh : w.ig.handler = true
    · exact ⟨_, if_pos hh⟩
    · rw [if_neg hh]
      exact ⟨r, rfl⟩
  obtain ⟨r', hend⟩ := hend
  obtain ⟨x, hx⟩ := State.endCtx_eq ((s.modGroup w.core w.slot w.grp Group.settle).clearCur w) w.ctx 15 (some r')
  rw [hend]
  refine ⟨?_, fun c k b hb => ?_⟩
  · rw [hx]
    obtain ⟨y, hy⟩ := State.clearCur_eq (s.modGroup w.core w.slot w.grp Group.settle) w
    obtain ⟨z, hz⟩ := State.modGroup_eq s w.core w.slot w.grp Group.settle
    rw [hy, hz]
  · have hb' : (s.modGroup w.core w.slot w.grp Group.settle).block c k = some b := by
      rw [← State.block_modPart _ w.core w.part (fun p => p.letGo w.slot w.grp w.ig.id) c k]
      unfold State.block State.core at hb ⊢
      rw [State.endCtx_cores] at hb
      exact hb
    rw [State.modGroup_of_block hi.block, State.block_setBlock] at hb'
    split at hb'
    · rename_i h
      cases hb'
      exact ⟨w.b, by rw [h.1, h.2]; exact hi.block, rfl⟩
    · exact ⟨b, hb', rfl⟩

theorem State.growStuck_trapsOnly (s : State) (core part : Nat) : TrapsOnly s (s.growStuck core part) := by
  unfold State.growStuck
  dsimp only
  split
  · exact .refl s
  · split
    · exact .refl s
    · split
      · exact .refl s
      · split
        · exact .refl s
        · rename_i hw
          exact State.takeTrap_watchdog s hw rfl 0

theorem State.allStuck_trapsOnly (s : State) (core : Nat) : TrapsOnly s (s.allStuck core) :=
  TrapsOnly.foldl (α := Nat) (f := fun s p => s.growStuck core p) (fun s p => State.growStuck_trapsOnly s core p) [0, 1, 2, 3] s

theorem State.everyStuck_trapsOnly (s : State) : TrapsOnly s s.everyStuck :=
  TrapsOnly.foldl (α := Nat × Core) (f := fun s k => s.allStuck k.1) (fun s k => State.allStuck_trapsOnly s k.1) s.cores s

/-! ## Lost sectors (R487) -/

/-- From s to t sectors are poisoned, records and messages go out and books of domains change at most. -/
def Reports (s t : State) : Prop :=
  { t with sys := s.sys, hmem := s.hmem, poison := s.poison, domains := s.domains, out := s.out } = s

theorem Reports.trans {s t u : State} (h : Reports s t) (h' : Reports t u) : Reports s u := by
  have := congrArg (fun v : State => { v with sys := s.sys, hmem := s.hmem, poison := s.poison, domains := s.domains, out := s.out }) h'
  exact this.trans h

theorem State.postRas_sends (s : State) (r : Ras) : { s.postRas r with sys := s.sys, hmem := s.hmem } = s := by
  unfold State.postRas
  dsimp only
  split
  · rfl
  · split <;> rfl

theorem State.abortDomain_reports (s : State) (n : Nat) (o : Option Nat) (i : Bool) : Reports s (s.abortDomain n o i) := by
  unfold State.abortDomain
  split <;> rfl

/-- A sector that is lost: poisoned, with a record. -/
def State.loseSector (d : Domain) (s : State) (pa : Nat) : State :=
  (s.poisonAt pa).postRas { siteRas (.hbm pa) 7 with sev := 2, dom := some d.num, leg := d.leg }

section
variable (d : Domain) (s : State)

theorem State.loseSector_rest (pa : Nat) : { s.loseSector d pa with sys := s.sys, hmem := s.hmem, poison := s.poison } = s :=
  congrArg (fun v : State => { v with poison := s.poison })
    ((s.poisonAt pa).postRas_sends { siteRas (.hbm pa) 7 with sev := 2, dom := some d.num, leg := d.leg })

theorem State.loseSector_poison (pa x : Nat) : x ∈ (s.loseSector d pa).poison ↔ x = pa / 64 * 64 ∨ x ∈ s.poison := by
  have h : (s.loseSector d pa).poison = (s.poisonAt pa).poison := (congrArg State.poison
    ((s.poisonAt pa).postRas_sends { siteRas (.hbm pa) 7 with sev := 2, dom := some d.num, leg := d.leg }) :)
  rw [h, State.poisonAt_eq rfl]
  dsimp only
  split
  · rename_i hin
    exact ⟨.inr, fun hx => hx.elim (fun e => e ▸ hin) id⟩
  · exact List.mem_cons

theorem State.foldl_loseSector_rest (pas : List Nat) :
    { pas.foldl (State.loseSector d) s with sys := s.sys, hmem := s.hmem, poison := s.poison } = s := by
  induction pas generalizing s with
  | nil => rfl
  | cons pa pas ih =>
    have h := congrArg (fun v : State => { v with sys := s.sys, hmem := s.hmem, poison := s.poison }) (ih (s.loseSector d pa))
    exact h.trans (s.loseSector_rest d pa)

theorem State.mem_foldl_loseSector {x : Nat} (pas : List Nat) :
    x ∈ (pas.foldl (State.loseSector d) s).poison ↔ (∃ pa ∈ pas, x = pa / 64 * 64) ∨ x ∈ s.poison := by
  induction pas generalizing s with
  | nil => simp
  | cons pa pas ih =>
    rw [List.foldl_cons, ih, State.loseSector_poison]
    simp only [List.mem_cons, exists_eq_or_imp]
    rw [or_left_comm, or_assoc]

theorem State.loseSectors_eq (pas : List Nat) : s.loseSectors d pas =
    (pas.foldl (State.loseSector d) s).modDomain d.num fun x => { x with struck := [] } := rfl

theorem State.loseSectors_reports (pas : List Nat) : Reports s (s.loseSectors d pas) :=
  (congrArg (fun v : State => { v with domains := s.domains, out := s.out }) (s.foldl_loseSector_rest d pas) :)

theorem State.loseSectors_out (pas : List Nat) : (s.loseSectors d pas).out = s.out :=
  (congrArg State.out (s.foldl_loseSector_rest d pas) :)

theorem State.loseSectors_domain? {d' : Domain} {pas : List Nat} (h : s.domain? d.num = some d') :
    (s.loseSectors d pas).domain? d.num = some { d' with struck := [] } := by
  have hdom : (pas.foldl (State.loseSector d) s).domain? d.num = some d' :=
    ((congrArg (fun v : State => v.domain? d.num) (s.foldl_loseSector_rest d pas) :)).trans h
  exact State.domain?_modDomain_own hdom (fun _ hx => hx)

theorem State.loseSectors_poison {pa : Nat} {pas : List Nat} (h : pa ∈ pas) : pa / 64 * 64 ∈ (s.loseSectors d pas).poison :=
  (s.mem_foldl_loseSector d pas).2 (.inl ⟨pa, h, rfl⟩)

end

/-! ## STOP (R486) -/

/-- A domain as STOP leaves it, its leg undone. -/
def Domain.rolledBack (d : Domain) (o : Option Nat) (i : Bool) (leg : Word) : Domain :=
  { d with
    stopped := true, rolling := leg, phase := .idle, wanted := false, told := false, applying := false, acked := []
    overflow := if d.overflow.isSome then d.overflow else o
    injected := i && (!d.stopped || d.injected) }

/-- A member that has undone the leg of a domain, before it answers. -/
def State.legUndone (s : State) (d : Domain) (o : Option Nat) (i : Bool) : State :=
  ((s.modDomain d.num fun x => x.rolledBack o i d.leg).undoLeg d d.leg).everyStuck

section
variable (s : State) (d : Domain) (o : Option Nat) (i : Bool)

theorem State.legUndone_rest : { s.legUndone d o i with
    cores := ((s.modDomain d.num fun x => x.rolledBack o i d.leg).undoLeg d d.leg).cores
    ctxs := ((s.modDomain d.num fun x => x.rolledBack o i d.leg).undoLeg d d.leg).ctxs
    nextId := ((s.modDomain d.num fun x => x.rolledBack o i d.leg).undoLeg d d.leg).nextId } =
    (s.modDomain d.num fun x => x.rolledBack o i d.leg).undoLeg d d.leg := (State.everyStuck_trapsOnly _).rest

/-- Books of domains, log and messages stand while a leg is undone. -/
theorem State.undoLeg_stands (s : State) (leg : Word) : (s.undoLeg d leg).out = s.out ∧ (s.undoLeg d leg).logs = s.logs ∧
    (s.undoLeg d leg).domains = s.domains := by
  unfold State.undoLeg
  dsimp only
  rw [State.foldl_undo]
  exact ⟨rfl, rfl, rfl⟩

theorem State.legUndone_out : (s.legUndone d o i).out = s.out :=
  ((congrArg State.out (s.legUndone_rest d o i) :)).trans (State.undoLeg_stands d _ d.leg).1

theorem State.legUndone_domain? (hd : s.domain? d.num = some d) : (s.legUndone d o i).domain? d.num = some (d.rolledBack o i d.leg) := by
  have hdomains : (s.legUndone d o i).domains = (s.modDomain d.num fun x => x.rolledBack o i d.leg).domains :=
    ((congrArg State.domains (s.legUndone_rest d o i) :)).trans (State.undoLeg_stands d _ d.leg).2.2
  have h := State.domain?_modDomain_own hd (f := fun x => x.rolledBack o i d.leg) (fun _ hx => hx)
  unfold State.domain? at h ⊢
  rw [hdomains, h]

/-- What is gone and what stands after a leg has been undone. -/
structure LegGone (s : State) (d : Domain) (t : State) : Prop where
  earliest : ∀ e, (s.logs.find? fun x => x.dom == d.num && x.pa == e.pa) = some e → Memory.readN t.mem e.pa 64 = e.old
  outside : ∀ a, (∀ e ∈ s.logs, e.dom = d.num → a < e.pa ∨ e.pa + 64 ≤ a) → t.mem.read a = s.mem.read a
  logs : t.logs = s.logs
  windows : ∀ w ∈ t.windows, w.dom = some d.num → w ∈ d.cutWindows
  holds : ∀ h ∈ t.holds, h.dom ≠ d.num
  saved : ∀ x ∈ t.saved, s.inDomain d.num x.ctx = false
  blocks : ∀ c k b, t.block c k = some b → s.inDomain d.num b.ctx = false
  flights : ∀ f ∈ t.flights, f.p.rdom = some d.num → f.p.leg ≠ d.leg

variable {s d o i}

/-- Every sector with an entry has its earliest value again, and the leg's blocks, stores, windows and packets are gone (R191, R192). -/
theorem State.legUndone_gone (hwf : s.mem.wf = true) (hal : ∀ e ∈ s.logs, e.dom = d.num → e.pa % 64 = 0 ∧ e.old.length = 64) :
    LegGone s d (s.legUndone d o i) := by
  have hrest := s.legUndone_rest d o i
  have hmem : (s.legUndone d o i).mem = s.mem.undone (s.logs.filter fun e => e.dom == d.num) :=
    ((congrArg State.mem hrest :)).trans (State.undoLeg_mem _ d d.leg)
  have hents : ∀ e ∈ s.logs.filter (fun e => e.dom == d.num), e ∈ s.logs ∧ e.dom = d.num := fun e he => by
    obtain ⟨h1, h2⟩ := List.mem_filter.1 he
    exact ⟨h1, by simpa using h2⟩
  refine ⟨fun e he => ?_, fun a ha => ?_,
    ((congrArg State.logs hrest :)).trans (State.undoLeg_stands d _ d.leg).2.1, fun w hw hdom => ?_, fun h hh => ?_, fun x hx => ?_,
    fun c k b hb => ?_, fun f hf hdom => ?_⟩
  · rw [hmem]
    refine Memory.readN_undone hwf (fun x hx => hal x (hents x hx).1 (hents x hx).2) ?_
    rw [List.find?_filter]
    simpa only [Bool.decide_and, Bool.decide_eq_true] using he
  · rw [hmem]
    exact Memory.read_undone_outside hwf (fun e he => (hal e (hents e he).1 (hents e he).2).2)
      (fun e he => ha e (hents e he).1 (hents e he).2)
  · have hwin : (s.legUndone d o i).windows = s.windows.filter (fun w => w.dom != some d.num) ++ d.cutWindows :=
      (congrArg State.windows hrest :)
    rw [hwin] at hw
    exact (List.mem_append.1 hw).resolve_left fun h => by simp [hdom] at h
  · have hholds : (s.legUndone d o i).holds = s.holds.filter fun h => h.dom != d.num := (congrArg State.holds hrest :)
    rw [hholds] at hh
    simpa using (List.mem_filter.1 hh).2
  · have hsaved : (s.legUndone d o i).saved = s.saved.filter fun x => !s.inDomain d.num x.ctx := (congrArg State.saved hrest :)
    rw [hsaved] at hx
    simpa using (List.mem_filter.1 hx).2
  · obtain ⟨b', hb', e⟩ := (State.everyStuck_trapsOnly _).block c k b hb
    rw [e]
    exact State.undoLeg_block (leg := d.leg) hb'
  · have hfl : (s.legUndone d o i).flights = s.flights.filter fun f => !f.undone d.num d.leg := (congrArg State.flights hrest :)
    rw [hfl] at hf
    have := (List.mem_filter.1 hf).2
    unfold Flight.undone at this
    simpa [hdom] using this

/-- Answers and records leave that as it is. -/
theorem LegGone.reports {t u : State} (h : LegGone s d t) (hr : Reports t u) : LegGone s d u := by
  have hmem : u.mem = t.mem := (congrArg State.mem hr :)
  have hblock : ∀ c k, u.block c k = t.block c k := fun c k => (congrArg (fun v : State => v.block c k) hr :)
  refine ⟨fun e he => hmem ▸ h.earliest e he, fun a ha => hmem ▸ h.outside a ha, ((congrArg State.logs hr :)).trans h.logs,
    fun w hw => h.windows w ((congrArg State.windows hr :) ▸ hw), fun x hx => h.holds x ((congrArg State.holds hr :) ▸ hx),
    fun x hx => h.saved x ((congrArg State.saved hr :) ▸ hx), fun c k b hb => h.blocks c k b (hblock c k ▸ hb),
    fun f hf => h.flights f ((congrArg State.flights hr :) ▸ hf)⟩

/-- What STOP for the current leg does. -/
theorem execRollbackStop_own (hd : s.domain? d.num = some d) : exec (.rollbackStop ⟨d.num, o, i⟩ d.leg) s = .next (
    if (s.lostSectors d d.leg).isEmpty then { s.legUndone d o i with out := s.out ++ [FabMsg.done d.num] }
    else if (if d.overflow.isSome then d.overflow else o).isSome then
      { (s.legUndone d o i).loseSectors d (s.lostSectors d d.leg) with out := s.out ++ [FabMsg.done d.num] }
    else ((s.legUndone d o i).loseSectors d (s.lostSectors d d.leg)).abortDomain d.num (some 2) false) := by
  have hbooks : (s.modDomain d.num fun x => { x with
      stopped := true, rolling := d.leg, phase := .idle, wanted := false, told := false, applying := false, acked := []
      overflow := x.overflows o, injected := i && (!x.stopped || x.injected) }) = s.modDomain d.num fun x => x.rolledBack o i d.leg := by
    unfold Domain.rolledBack
    simp only [Domain.overflows_eq]
  have hu : ((s.modDomain d.num fun x => x.rolledBack o i d.leg).undoLeg d d.leg).everyStuck = s.legUndone d o i := rfl
  have hlost : (s.modDomain d.num fun x => x.rolledBack o i d.leg).lostSectors d d.leg = s.lostSectors d d.leg := rfl
  show execRollbackStop _ _ _ = _
  unfold execRollbackStop
  dsimp only
  rw [hd]
  dsimp only
  rw [if_neg (by simp), if_pos rfl, hd]
  dsimp only
  rw [hbooks, hu, hlost, Domain.overflows_eq, State.legUndone_out]

end

/-- A member undoes the leg of a domain and answers DONE; where a sector's value is lost it is poisoned, and the coordinator hears of an
overflow that nobody knew of (R191, R192, R486, R487). -/
theorem State.undoesLeg {s : State} {dom : Nat} {d : Domain} (hd : s.domain? dom = some d) (o : Option Nat) (i : Bool)
    (hwf : s.mem.wf = true) (hal : ∀ e ∈ s.logs, e.dom = dom → e.pa % 64 = 0 ∧ e.old.length = 64) :
    let lost := s.lostSectors d d.leg
    let ovf := if d.overflow.isSome then d.overflow else o
    ∃ t d', exec (.rollbackStop ⟨dom, o, i⟩ d.leg) s = .next t ∧ t.domain? dom = some d' ∧ d'.stopped = true ∧ d'.phase = .idle ∧
      d'.leg = d.leg ∧
      (lost = [] → t.out = s.out ++ [.done dom] ∧ d' = d.rolledBack o i d.leg) ∧
      (lost ≠ [] → ovf.isSome = true → t.out = s.out ++ [.done dom] ∧ d'.rolling = d.leg ∧ d'.overflow = ovf ∧ d'.struck = []) ∧
      (lost ≠ [] → ovf = none → t.out = s.out ++ [.abort dom (some 2) false] ∧ d'.rolling = 0 ∧ d'.overflow = some 2 ∧ d'.struck = []) ∧
      (∀ pa ∈ lost, pa / 64 * 64 ∈ t.poison) ∧ LegGone s d t := by
  obtain rfl := State.domain?_num hd
  intro lost ovf
  have hgone : LegGone s d (s.legUndone d o i) := State.legUndone_gone hwf hal
  have hdom := s.legUndone_domain? d o i hd
  rw [execRollbackStop_own hd]
  by_cases hl : lost = []
  · refine ⟨_, _, congrArg Outcome.next (if_pos (by rw [show s.lostSectors d d.leg = [] from hl]; rfl)), hdom, rfl, rfl, rfl,
      fun _ => ⟨rfl, rfl⟩, fun h => absurd hl h, fun h => absurd hl h, ?_, hgone.reports rfl⟩
    rw [hl]
    exact fun _ hpa => absurd hpa List.not_mem_nil
  · rw [if_neg (by simpa using hl)]
    have hlose := hgone.reports (State.loseSectors_reports d _ lost)
    have hldom := State.loseSectors_domain? d (s.legUndone d o i) (pas := lost) hdom
    have hpoison := fun pa (h : pa ∈ lost) => State.loseSectors_poison d (s.legUndone d o i) h
    by_cases hov : ovf.isSome = true
    · refine ⟨_, _, congrArg Outcome.next (if_pos hov), hldom, rfl, rfl, rfl,
        fun h => absurd h hl, fun _ _ => ⟨rfl, rfl, rfl, rfl⟩, fun _ h => absurd h (Option.isSome_iff_ne_none.1 hov), hpoison, hlose.reports rfl⟩
    · have hnone : ovf = none := by simpa using hov
      have hstep := State.abortDomain_step hldom (some 2) false
      have hsend := State.abortDomain_reports ((s.legUndone d o i).loseSectors d lost) d.num (some 2) false
      have hovf : (d.rolledBack o i d.leg).overflow = none := hnone
      have hout := hstep.out
      have hown := hstep.own
      refine ⟨_, _, congrArg Outcome.next (if_neg hov), hown, rfl, rfl, rfl, fun h => absurd h hl,
        fun _ h => absurd h hov, fun _ _ => ⟨?_, rfl, ?_, rfl⟩, fun pa hpa => ?_, hlose.reports hsend⟩
      · rw [hout, State.loseSectors_out, State.legUndone_out]
        dsimp only
        rw [hovf]
        rfl
      · unfold Domain.aborted
        dsimp only
        rw [hovf]
        rfl
      · have : ({ ((s.legUndone d o i).loseSectors d lost).abortDomain d.num (some 2) false with
            domains := ((s.legUndone d o i).loseSectors d lost).domains
            out := ((s.legUndone d o i).loseSectors d lost).out } : State).poison = ((s.legUndone d o i).loseSectors d lost).poison :=
          (congrArg State.poison hstep.rest :)
        exact this.symm ▸ hpoison pa hpa

/-! ## RESUME after an overflow (R197) -/

theorem State.mem_domCtxs {s : State} {dom c : Nat} (h : s.inDomain dom c = true) : c ∈ s.domCtxs dom := by
  have hdom : (s.ctx c).domain = some dom := by simpa [State.inDomain] using h
  unfold State.ctx at hdom
  unfold State.domCtxs
  generalize s.ctxs = m at hdom ⊢
  induction m with
  | nil => cases hdom
  | cons p m ih =>
    have hget : KMap.get ({} : Ctx) (p :: m) c = if c = p.1 then p.2 else KMap.get {} m c := rfl
    rw [hget] at hdom
    by_cases hc : c = p.1
    · rw [if_pos hc] at hdom
      exact List.mem_map.2 ⟨p, List.mem_filter.2 ⟨List.mem_cons_self, by simpa using hdom⟩, hc.symm⟩
    · rw [if_neg hc] at hdom
      obtain ⟨q, hq, e⟩ := List.mem_map.1 (ih hdom)
      obtain ⟨hq, hp⟩ := List.mem_filter.1 hq
      exact List.mem_map.2 ⟨q, List.mem_filter.2 ⟨List.mem_cons_of_mem p hq, hp⟩, e⟩

theorem State.endBare_onlyCtxs (s : State) (cause c : Nat) : { s.endBare cause c with ctxs := s.ctxs } = s := by
  obtain ⟨x, hx⟩ := State.endCtx_eq s c cause (some { cause := BitVec.ofNat 6 cause, leg := s.legOf c, clock := dw s.clock })
  have hx' : s.endBare cause c = { s with ctxs := x } := hx
  rw [hx']

theorem State.foldl_endBare_onlyCtxs (cause : Nat) (cs : List Nat) (s : State) :
    { cs.foldl (State.endBare · cause ·) s with ctxs := s.ctxs } = s := by
  induction cs generalizing s with
  | nil => rfl
  | cons c cs ih =>
    have h := congrArg (fun t : State => { t with ctxs := s.ctxs }) (ih (s.endBare cause c))
    exact h.trans (s.endBare_onlyCtxs cause c)

/-- A context that has been ended with a cause. -/
def Ctx.endedBy (x : Ctx) (cause : Nat) : Prop :=
  x.state = .ending ∧ x.cause = BitVec.ofNat 8 cause ∧ x.fault.cause = BitVec.ofNat 6 cause

theorem State.endBare_ended {s : State} {cause c : Nat} (h : (s.ctx c).endedBy cause) (e : Nat) :
    ((s.endBare cause e).ctx c).endedBy cause := by
  have hctx : (s.endBare cause e).ctx c = s.ctx c := by
    unfold State.endBare
    rw [State.ctx_endCtx, if_neg]
    rintro ⟨rfl, hl | hl⟩ <;> rw [h.1] at hl <;> cases hl
  rw [hctx]
  exact h

theorem State.foldl_endBare_ended {cause c : Nat} (cs : List Nat) {s : State} (h : (s.ctx c).endedBy cause) :
    ((cs.foldl (State.endBare · cause ·) s).ctx c).endedBy cause := by
  induction cs generalizing s with
  | nil => exact h
  | cons e cs ih => exact ih (State.endBare_ended h e)

/-- Of a list of contexts every live one ends. -/
theorem State.foldl_endBare_ends {cause c : Nat} {cs : List Nat} {s : State} (hc : c ∈ cs) (hl : (s.ctx c).state = .live) :
    ((cs.foldl (State.endBare · cause ·) s).ctx c).endedBy cause := by
  induction cs generalizing s with
  | nil => cases hc
  | cons e cs ih =>
    rw [List.foldl_cons]
    by_cases he : c = e
    · subst he
      refine State.foldl_endBare_ended cs ?_
      unfold State.endBare
      rw [State.ctx_endCtx, if_pos ⟨rfl, .inl hl⟩]
      exact ⟨rfl, rfl, rfl⟩
    · refine ih ((List.mem_cons.1 hc).resolve_left he) ?_
      unfold State.endBare
      rw [State.ctx_endCtx, if_neg (fun h => he h.1)]
      exact hl

/-- The state of a member at RESUME, its leg advanced and its log empty. -/
def State.advanced (s : State) (dom : Nat) (d : Domain) : State :=
  { s.modDomain dom (fun x => x.resumeAs (nextLeg d.rolling) s.time) with logs := s.logs.filter fun e => e.dom != dom }

section
variable {s : State} {dom : Nat} {d : Domain} (hd : s.domain? dom = some d)
include hd

theorem State.advanced_domain? : (s.advanced dom d).domain? dom = some (d.resumeAs (nextLeg d.rolling) s.time) :=
  State.domain?_modDomain_own hd (f := fun x => x.resumeAs (nextLeg d.rolling) s.time) (fun _ hx => hx)

variable (hstop : d.stopped = true) (hroll : d.rolling ≠ 0)
include hstop hroll

/-- What RESUME does, the reason told. -/
theorem execRollbackResume_of_stopped (moved : List MovedBlock) :
    (∀ k, d.overflow = some k → exec (.rollbackResume ⟨dom, moved⟩) s =
      .next (((s.advanced dom d).postRas { kind := 5, sev := 2, detail := k, dom := some dom, leg := nextLeg d.rolling }).endDomain dom 16)) ∧
    (d.overflow = none → d.cut = [] → exec (.rollbackResume ⟨dom, moved⟩) s =
      .next ((({ s.advanced dom d with itins := (s.advanced dom d).resumeItins d }.followMoved dom moved).tellRollback d (nextLeg d.rolling)))) := by
  have hgo : ¬ (!d.stopped || d.rolling == 0) = true := by simpa [hstop] using hroll
  have hexec : exec (.rollbackResume ⟨dom, moved⟩) s = execRollbackResume ⟨dom, moved⟩ s := rfl
  rw [hexec]
  unfold execRollbackResume
  dsimp only
  rw [hd]
  dsimp only
  rw [if_neg hgo]
  refine ⟨fun k hk => ?_, fun hk hcut => ?_⟩
  · rw [hk]
    rfl
  · rw [hk, hcut]
    rfl

/-- After an overflow the contexts of the domain end with cause 16. -/
theorem State.resumesEnding {k : Nat} (hk : d.overflow = some k) (moved : List MovedBlock) :
    ∃ t, exec (.rollbackResume ⟨dom, moved⟩) s = .next t ∧ t.itins = s.itins ∧
      t.logs = (s.logs.filter fun e => e.dom != dom) ∧
      (∃ d', t.domain? dom = some d' ∧ d'.leg = nextLeg d.rolling ∧ d'.stopped = false) ∧
      ∀ c, s.inDomain dom c = true → (s.ctx c).state = .live → (t.ctx c).state = .ending ∧ (t.ctx c).cause = 16 ∧
        (t.ctx c).fault.cause = 16 := by
  refine ⟨_, (execRollbackResume_of_stopped hd hstop hroll moved).1 k hk, ?_⟩
  have hrest := (s.advanced dom d).postRas_sends { kind := 5, sev := 2, detail := k, dom := some dom, leg := nextLeg d.rolling }
  have hctx := (s.advanced dom d).postRas_ctx { kind := 5, sev := 2, detail := k, dom := some dom, leg := nextLeg d.rolling }
  have hdom := (s.advanced dom d).postRas_domain? { kind := 5, sev := 2, detail := k, dom := some dom, leg := nextLeg d.rolling } dom
  generalize (s.advanced dom d).postRas { kind := 5, sev := 2, detail := k, dom := some dom, leg := nextLeg d.rolling } = u at hrest hctx hdom
  have hend := State.foldl_endBare_onlyCtxs 16 (u.domCtxs dom) u
  refine ⟨?_, ?_, ⟨d.resumeAs (nextLeg d.rolling) s.time, ?_, rfl, rfl⟩, fun c hin hl => ?_⟩
  · exact ((congrArg State.itins hend :)).trans (congrArg State.itins hrest :)
  · exact ((congrArg State.logs hend :)).trans (congrArg State.logs hrest :)
  · exact ((congrArg (fun t : State => t.domain? dom) hend :)).trans (hdom.trans (State.advanced_domain? hd))
  · have hlive : (u.ctx c).state = .live := (congrArg Ctx.state (hctx c)).trans hl
    have hmem : c ∈ u.domCtxs dom := State.mem_domCtxs (by unfold State.inDomain at hin ⊢; rw [hctx c]; exact hin)
    exact State.foldl_endBare_ends hmem hlive

end

/-! ## RESUME with nothing to resume (R193, R486) -/

/-- From s to t records have been posted: logs stand, domains stand but for a seal's request, and what waits for a cut still waits. -/
structure Posts (s t : State) : Prop where
  records : OnlyRecords s t
  logs : t.logs = s.logs
  domain : ∀ n d, s.domain? n = some d → ∃ d', t.domain? n = some d' ∧ { d' with wanted := d.wanted, reqAt := d.reqAt, num := d.num } = d
  waiting : ∀ c r, r ∈ (s.ctx c).waiting → r ∈ (t.ctx c).waiting

namespace Posts
variable {s t u : State}

theorem of_domains (hr : OnlyRecords s t) (hl : t.logs = s.logs) (hd : t.domains = s.domains)
    (hw : ∀ c, (t.ctx c).waiting = (s.ctx c).waiting) : Posts s t :=
  ⟨hr, hl, fun n d h => ⟨d, by unfold State.domain? at h ⊢; rw [hd, h], rfl⟩, fun c r h => by rw [hw]; exact h⟩

theorem refl (s : State) : Posts s s := .of_domains (.refl s) rfl rfl fun _ => rfl

theorem trans (h : Posts s t) (h' : Posts t u) : Posts s u := by
  refine ⟨h.records.trans h'.records, h'.logs.trans h.logs, fun n d hd => ?_, fun c r hr => h'.waiting c r (h.waiting c r hr)⟩
  obtain ⟨d', hd', e⟩ := h.domain n d hd
  obtain ⟨d'', hd'', e'⟩ := h'.domain n d' hd'
  have := congrArg (fun x : Domain => { x with wanted := d.wanted, reqAt := d.reqAt, num := d.num }) e'
  exact ⟨d'', hd'', this.trans e⟩

theorem foldl {α : Type} {f : State → α → State} (h : ∀ s x, Posts s (f s x)) (l : List α) (s : State) : Posts s (l.foldl f s) := by
  induction l generalizing s with
  | nil => exact refl s
  | cons x l ih => exact (h s x).trans (ih (f s x))

end Posts

theorem State.rawWrite_books (s : State) (t : Tgt) (bs : List (Byte × Byte)) :
    (s.rawWrite t bs).logs = s.logs ∧ (s.rawWrite t bs).domains = s.domains := by
  cases t with
  | dev pa => exact ⟨foldl_keeps (F := State.logs) (by intros; rfl) _ _, foldl_keeps (F := State.domains) (by intros; rfl) _ _⟩
  | host a => exact ⟨rfl, rfl⟩
  | mmio a => exact ⟨rfl, rfl⟩

theorem State.vWrite_books (c : Nat) (bs : List Byte) (s : State) (va : Nat) :
    (s.vWrite c va bs).logs = s.logs ∧ (s.vWrite c va bs).domains = s.domains := by
  induction bs generalizing s va with
  | nil => exact ⟨rfl, rfl⟩
  | cons b bs ih =>
    unfold State.vWrite
    split
    · rename_i t _
      have h := ih ((s.rawWrite t [(b, 0xFF)]).dropKeys (sectorKeys t 1)) (va + 1)
      have hw := s.rawWrite_books t [(b, 0xFF)]
      exact ⟨h.1.trans hw.1, h.2.trans hw.2⟩
    · exact ih s (va + 1)

theorem State.writeEvent_posts (s : State) (c kind : Nat) (arg : Word) (addr clock : Dword) : Posts s (s.writeEvent c kind arg addr clock) := by
  have hset : ∀ x : Ctx, x.waiting = (s.ctx c).waiting → ∀ e, ((s.setCtx c x).ctx e).waiting = (s.ctx e).waiting := fun x hx e => by
    rw [State.ctx_setCtx]
    split
    · rename_i h; rw [h]; exact hx
    · rfl
  refine .of_domains (s.writeEvent_onlyRecords c kind arg addr clock) ?_ ?_ fun e => ?_ <;> unfold State.writeEvent <;> dsimp only <;> split
  · rfl
  · exact (State.vWrite_books ..).1
  · rfl
  · exact (State.vWrite_books ..).2
  · exact hset { s.ctx c with evDropped := satInc (s.ctx c).evDropped } rfl e
  · rw [← hset { s.ctx c with evTail := (s.ctx c).evTail + 1 } rfl e]
    unfold State.ctx
    rw [State.vWrite_ctxs]

theorem State.requestSeal_posts (s : State) (n : Nat) : Posts s (s.requestSeal n) := by
  have hctx : ∀ c, (s.requestSeal n).ctx c = s.ctx c := fun c => by unfold State.ctx; rw [State.requestSeal_ctxs]
  refine ⟨s.requestSeal_onlyRecords n, ?_, fun m d hm => ?_, fun c r hr => by rw [hctx]; exact hr⟩ <;> unfold State.requestSeal <;> split
  · rfl
  · split
    · rfl
    · split <;> rfl
  · exact ⟨d, hm, rfl⟩
  · split
    · exact ⟨d, hm, rfl⟩
    · split
      · exact ⟨d, hm, rfl⟩
      · refine ⟨_, (State.domain?_modDomain s n m (f := fun x => { x with wanted := true, reqAt := s.time }) (fun _ hx => hx)).trans
          (congrArg (Option.map _) hm), ?_⟩
        dsimp only
        split <;> rfl

theorem State.modCtx_waits (s : State) (c : Nat) (r : HostRec) :
    Posts s (s.modCtx c fun x => { x with waiting := x.waiting ++ [r] }) := by
  refine ⟨s.modCtx_onlyRecords c rfl, rfl, fun n d h => ⟨d, h, rfl⟩, fun e x hx => ?_⟩
  rw [State.ctx_modCtx]
  split
  · rename_i h
    rw [h] at hx
    exact List.mem_append_left _ hx
  · exact hx

theorem State.post_event_eq (s : State) (c kind : Nat) (arg : Word) (addr clock : Dword) :
    ((s.ctx c).domain = none → s.post c (.event kind arg addr clock) = s.writeEvent c kind arg addr clock) ∧
    ∀ n, (s.ctx c).domain = some n → s.post c (.event kind arg addr clock) =
      (s.modCtx c fun x => { x with waiting := x.waiting ++ [.event kind arg addr clock] }).requestSeal n := by
  unfold State.post
  refine ⟨fun h => ?_, fun n h => ?_⟩ <;> rw [h]
  rfl

theorem State.postEvent_posts (s : State) (c kind arg addr : Nat) : Posts s (s.postEvent c kind arg addr) := by
  unfold State.postEvent
  have h := s.post_event_eq c kind (wd arg) (dw addr) (dw s.clock)
  cases hdom : (s.ctx c).domain with
  | none =>
    rw [h.1 hdom]
    exact s.writeEvent_posts ..
  | some n =>
    rw [h.2 n hdom]
    exact (s.modCtx_waits c _).trans (State.requestSeal_posts _ n)

/-- An event of a context of a domain waits for the cut. -/
theorem State.postEvent_waits {s : State} {c n : Nat} (hdom : (s.ctx c).domain = some n) (kind arg addr : Nat) :
    HostRec.event kind (wd arg) (dw addr) (dw s.clock) ∈ ((s.postEvent c kind arg addr).ctx c).waiting := by
  unfold State.postEvent
  rw [(s.post_event_eq c kind (wd arg) (dw addr) (dw s.clock)).2 n hdom]
  refine (State.requestSeal_posts _ n).waiting c _ ?_
  rw [State.ctx_modCtx, if_pos rfl]
  exact List.mem_append_right _ (List.mem_singleton_self _)

theorem State.foldl_postEvent_waits {c n kind arg addr : Nat} {cs : List Nat} {s : State} (hc : c ∈ cs) (hdom : (s.ctx c).domain = some n) :
    HostRec.event kind (wd arg) (dw addr) (dw s.clock) ∈ ((cs.foldl (fun s c => s.postEvent c kind arg addr) s).ctx c).waiting := by
  induction cs generalizing s with
  | nil => cases hc
  | cons e cs ih =>
    rw [List.foldl_cons]
    have hp := s.postEvent_posts e kind arg addr
    by_cases he : c = e
    · subst he
      exact (Posts.foldl (fun s c => s.postEvent_posts c kind arg addr) cs _).waiting c _ (State.postEvent_waits hdom kind arg addr)
    · have h := ih (s := s.postEvent e kind arg addr) ((List.mem_cons.1 hc).resolve_left he) ((hp.records.domain c).trans hdom)
      rw [hp.records.clock] at h
      exact h

theorem State.postRas_posts (s : State) (r : Ras) : Posts s (s.postRas r) :=
  .of_domains (s.postRas_onlyRecords r) (congrArg State.logs (s.postRas_sends r) :) (s.postRas_domains r) fun c => by rw [State.postRas_ctx]

theorem State.tellRollback_posts (s : State) (d : Domain) (leg : Word) : Posts s (s.tellRollback d leg) := by
  unfold State.tellRollback
  exact (Posts.foldl (f := fun s c => s.postEvent c 7 leg.toNat 0) (fun s c => s.postEvent_posts c 7 leg.toNat 0) _ s).trans
    (State.postRas_posts _ _)

/-- Every context of the domain is told of the rollback. -/
theorem State.tellRollback_waits {s : State} {d : Domain} {c : Nat} (h : s.inDomain d.num c = true) (leg : Word) :
    HostRec.event 7 leg 0 (dw s.clock) ∈ ((s.tellRollback d leg).ctx c).waiting := by
  have hdom : (s.ctx c).domain = some d.num := by simpa [State.inDomain] using h
  unfold State.tellRollback
  dsimp only
  rw [State.postRas_ctx]
  have := State.foldl_postEvent_waits (kind := 7) (arg := leg.toNat) (addr := 0) (State.mem_domCtxs h) hdom
  rwa [show wd leg.toNat = leg by simp [wd]] at this

/-- From s to t manifests have changed at most. -/
structure OnlyManifests (s t : State) : Prop where
  rest : { t with ctxs := s.ctxs } = s
  ctx : ∀ c, ({ t.ctx c with manifest := (s.ctx c).manifest } : Ctx) = s.ctx c

namespace OnlyManifests
variable {s t u : State}

theorem refl (s : State) : OnlyManifests s s := ⟨rfl, fun _ => rfl⟩

theorem trans (h : OnlyManifests s t) (h' : OnlyManifests t u) : OnlyManifests s u := by
  refine ⟨?_, fun c => ?_⟩
  · have := congrArg (fun v : State => { v with ctxs := s.ctxs }) h'.rest
    exact this.trans h.rest
  · have := congrArg (fun x : Ctx => { x with manifest := (s.ctx c).manifest }) (h'.ctx c)
    exact this.trans (h.ctx c)

theorem foldl {α : Type} {f : State → α → State} (h : ∀ s x, OnlyManifests s (f s x)) (l : List α) (s : State) :
    OnlyManifests s (l.foldl f s) := by
  induction l generalizing s with
  | nil => exact refl s
  | cons x l ih => exact (h s x).trans (ih (f s x))

end OnlyManifests

theorem State.modCtx_onlyManifests (s : State) (c : Nat) (m : Ctx → KMap Entry) :
    OnlyManifests s (s.modCtx c fun x => { x with manifest := m x }) := by
  refine ⟨rfl, fun e => ?_⟩
  rw [State.ctx_modCtx]
  split
  · rename_i h
    rw [h]
  · rfl

theorem State.followMoved_onlyManifests (s : State) (dom : Nat) (xs : List MovedBlock) : OnlyManifests s (s.followMoved dom xs) := by
  unfold State.followMoved
  refine OnlyManifests.foldl (fun s x => ?_) _ s
  refine OnlyManifests.foldl (fun s c => ?_) _ s
  exact s.modCtx_onlyManifests c _

/-- Without a cut's blocks nothing is placed, and what the cut does not hold starts anew. -/
theorem State.mem_resumeItins {s : State} {d : Domain} (hcut : d.cut = []) {x : Itin} (hx : x ∈ s.resumeItins d)
    (hin : s.inDomain d.num x.ctx = true) : x.placed = [] ∧ (x.retired = [] ∨ ∃ y ∈ d.cutItins, y.id = x.id) := by
  unfold State.resumeItins at hx
  obtain ⟨t, -, ht⟩ := List.mem_filterMap.1 hx
  by_cases hdom : s.inDomain d.num t.ctx = true
  · rw [if_neg (by simpa using hdom)] at ht
    cases hf : d.cutItins.find? (fun y => y.id == t.id) with
    | some y =>
      rw [hf] at ht
      cases ht
      refine ⟨?_, .inr ⟨y, List.mem_of_find?_eq_some hf, rfl⟩⟩
      unfold Domain.placedAt
      rw [hcut]
      rfl
    | none =>
      rw [hf] at ht
      dsimp only at ht
      split at ht
      · cases ht
      · cases ht
        exact ⟨rfl, .inl rfl⟩
  · rw [if_pos (by simpa using hdom)] at ht
    cases ht
    exact absurd hin hdom

/-- Without an overflow the domain goes on in the next leg, and its contexts are told. -/
theorem State.resumesAnew {s : State} {dom : Nat} {d : Domain} (hd : s.domain? dom = some d) (hstop : d.stopped = true)
    (hroll : d.rolling ≠ 0) (hov : d.overflow = none) (hcut : d.cut = []) (moved : List MovedBlock) :
    ∃ t d', exec (.rollbackResume ⟨dom, moved⟩) s = .next t ∧ t.domain? dom = some d' ∧
      d'.leg = nextLeg d.rolling ∧ d'.stopped = false ∧ d'.rolling = 0 ∧ d'.since = s.time ∧
      (∀ c k, t.block c k = s.block c k) ∧ t.logs = (s.logs.filter fun e => e.dom != dom) ∧
      (∀ x ∈ t.itins, s.inDomain dom x.ctx = true → x.placed = [] ∧ (x.retired = [] ∨ ∃ y ∈ d.cutItins, y.id = x.id)) ∧
      ∀ c, s.inDomain dom c = true → ∃ r ∈ (t.ctx c).waiting, r = .event 7 (nextLeg d.rolling) 0 (dw s.clock) := by
  have hexec := (execRollbackResume_of_stopped hd hstop hroll moved).2 hov hcut
  have hfollow := State.followMoved_onlyManifests { s.advanced dom d with itins := (s.advanced dom d).resumeItins d } dom moved
  generalize ({ s.advanced dom d with itins := (s.advanced dom d).resumeItins d } : State).followMoved dom moved = u at hexec hfollow
  have hpost := u.tellRollback_posts d (nextLeg d.rolling)
  have hnum := State.domain?_num hd
  have hudom : u.domain? dom = some (d.resumeAs (nextLeg d.rolling) s.time) :=
    ((congrArg (fun v : State => v.domain? dom) hfollow.rest :)).trans (State.advanced_domain? hd)
  obtain ⟨d', hd', e⟩ := hpost.domain dom _ hudom
  refine ⟨_, d', hexec, hd', (congrArg Domain.leg e :), (congrArg Domain.stopped e :), (congrArg Domain.rolling e :),
    (congrArg Domain.since e :), fun c k => ?_, ?_, fun x hx hin => ?_, fun c hin => ⟨_, ?_, rfl⟩⟩
  · exact (hpost.records.block c k).trans (congrArg (fun v : State => v.block c k) hfollow.rest :)
  · exact hpost.logs.trans (congrArg State.logs hfollow.rest :)
  · have hitins : (u.tellRollback d (nextLeg d.rolling)).itins = (s.advanced dom d).resumeItins d :=
      hpost.records.itins.trans (congrArg State.itins hfollow.rest :)
    rw [hitins] at hx
    exact State.mem_resumeItins hcut hx (by rw [hnum]; exact hin)
  · have hdom : (u.ctx c).domain = (s.ctx c).domain := (congrArg Ctx.domain (hfollow.ctx c) :)
    have hclock : u.clock = s.clock := (congrArg State.clock hfollow.rest :)
    rw [← hclock]
    refine State.tellRollback_waits ?_ _
    unfold State.inDomain at hin ⊢
    rw [hdom, hnum]
    exact hin

/-! ## Injection (R488) -/

/-- From s to t a port stands, and the injections do. -/
def PortStands (p : Nat) (s t : State) : Prop := t.port p = s.port p ∧ t.injects = s.injects

theorem PortStands.trans {p : Nat} {s t u : State} (h : PortStands p s t) (h' : PortStands p t u) : PortStands p s u :=
  ⟨h'.1.trans h.1, h'.2.trans h.2⟩

theorem State.port_setPort (s : State) (p q : Nat) (y : Port) : (s.setPort p y).port q = if q = p then y else s.port q := KMap.get_put ..

theorem State.postRas_portStands (s : State) (r : Ras) (p : Nat) : PortStands p s (s.postRas r) :=
  ⟨(congrArg (fun t : State => t.port p) (s.postRas_sends r) :), (congrArg State.injects (s.postRas_sends r) :)⟩

section
variable {p q : Nat} (hne : p ≠ q)
include hne

theorem State.setPort_portStands (s : State) (y : Port) : PortStands p s (s.setPort q y) :=
  ⟨by rw [State.port_setPort, if_neg hne], rfl⟩

theorem State.exhaust_portStands (s : State) (dir : Nat) : PortStands p s (s.exhaust q dir) := by
  unfold State.exhaust
  exact (State.setPort_portStands hne s _).trans (State.postRas_portStands _ _ p)

theorem State.count_portStands (s : State) (dir n : Nat) : PortStands p s (s.count q dir n) := by
  unfold State.count
  split
  · exact ⟨rfl, rfl⟩
  · dsimp only
    split
    · exact (State.setPort_portStands hne s _).trans (State.postRas_portStands _ _ p)
    · exact State.setPort_portStands hne s _

/-- What another port sends leaves a port alone. -/
theorem State.flitsOut_portStands (s : State) (n : Nat) (msg : FabMsg) : PortStands p s (s.flitsOut q n msg) := by
  unfold State.flitsOut
  dsimp only
  generalize s.flitRoom q n = fits
  have hsent : PortStands p s (if fits = true then { s with out := s.out ++ [msg] } else s) := by split <;> exact ⟨rfl, rfl⟩
  generalize (if fits = true then { s with out := s.out ++ [msg] } else s) = u at hsent ⊢
  generalize (if fits = true then n else s.ctrRoom q) = m
  have hcount : PortStands p s ((u.count q 0 m).bump (0x380000 + 0x100 * q) m) :=
    hsent.trans ((State.count_portStands hne u 0 m).trans ⟨rfl, rfl⟩)
  generalize (u.count q 0 m).bump (0x380000 + 0x100 * q) m = v at hcount ⊢
  split
  · exact hcount
  · exact hcount.trans (State.exhaust_portStands hne v 0)

end

/-- A packet of a port that fails goes over another port, or is lost. -/
theorem State.reroute_portStands (s : State) (f : Flight) (p : Nat) : PortStands p s (s.reroute f p) := by
  unfold State.reroute
  split
  · rename_i r hr
    have hne : routePort r.2 ≠ p := by simpa using List.find?_some hr
    unfold State.sendOn
    exact (State.flitsOut_portStands hne.symm s _ _).trans ⟨rfl, rfl⟩
  · unfold State.lose
    dsimp only
    split <;> exact ⟨rfl, rfl⟩

theorem State.cleanPort_portStands (s : State) (p : Nat) : PortStands p s (s.cleanPort p) := by
  unfold State.cleanPort
  generalize s.flights.filter (fun f => f.at_ == .link (p / 2) p) = fs
  induction fs generalizing s with
  | nil => exact ⟨rfl, rfl⟩
  | cons f fs ih => exact (s.reroute_portStands f p).trans (ih (s.reroute f p))

/-- A port that is retired keeps all but its state and the cause (R480). -/
theorem State.retirePort_port {s : State} {p : Nat} (hp : p < 16) (hup : (s.port p).state ≠ .retired) (cause : BitVec 3) :
    (s.retirePort p cause).port p = { s.port p with state := .retired, rcause := cause } ∧ (s.retirePort p cause).injects = s.injects := by
  have heq : s.retirePort p cause = ((s.setPort p { s.port p with state := .retired, rcause := cause }).cleanPort p).postRas
      (linkRas 8 1 p cause.toNat) := if_neg (by simp [hp, hup])
  have hset := State.port_setPort s p p { s.port p with state := .retired, rcause := cause }
  rw [if_pos rfl] at hset
  have hclean := (s.setPort p { s.port p with state := .retired, rcause := cause }).cleanPort_portStands p
  have hras := ((s.setPort p { s.port p with state := .retired, rcause := cause }).cleanPort p).postRas_sends (linkRas 8 1 p cause.toNat)
  rw [heq]
  exact ⟨((congrArg (fun t : State => t.port p) hras :)).trans (hclean.1.trans hset), ((congrArg State.injects hras :)).trans hclean.2⟩

/-- An injection that is due fires (R488). -/
theorem State.injectionFires {s : State} {k : Nat} {x : Inject} (hx : s.injects[k]? = some x) (hdue : x.fireAt ≤ s.time) :
    (∀ d, x.kind = 3 → s.domain? x.dom = some d → ∃ t, exec (.injectFire k) s = .next t ∧
      DomainStep (d.aborted none true) [.abort x.dom d.overflow (!d.stopped || d.injected)] { s with injects := listDrop s.injects k } t) ∧
    (x.kind = 4 → x.target < 16 → (s.port x.target).state ≠ .retired → ∃ t, exec (.injectFire k) s = .next t ∧
      t.injects = listDrop s.injects k ∧ t.port x.target = { s.port x.target with
        state := .retired, rcause := 3 }) := by
  have hexec : exec (.injectFire k) s = .next (({ s with injects := listDrop s.injects k } : State).fire x) := by
    show execInjectFire k s = _
    unfold execInjectFire
    rw [hx]
    exact congrArg Outcome.next (if_pos hdue)
  rw [hexec]
  refine ⟨fun d hk hd => ⟨_, rfl, ?_⟩, fun hk htgt hup => ⟨_, rfl, ?_⟩⟩
  · have hfire : ({ s with injects := listDrop s.injects k } : State).fire x =
        ({ s with injects := listDrop s.injects k } : State).abortDomain x.dom none true := by
      unfold State.fire
      rw [hk]
      show State.injectRollback _ _ none = _
      unfold State.injectRollback
      rw [show ({ s with injects := listDrop s.injects k } : State).domain? x.dom = some d from hd]
    have h := State.abortDomain_step (s := { s with injects := listDrop s.injects k }) hd none true
    have hov : (if d.overflow.isSome then d.overflow else none) = d.overflow := by cases d.overflow <;> rfl
    rw [hov] at h
    rw [hfire]
    exact h
  · have hfire : ({ s with injects := listDrop s.injects k } : State).fire x =
        ({ s with injects := listDrop s.injects k } : State).retirePort x.target 3 := by
      unfold State.fire
      rw [hk]
      rfl
    rw [hfire]
    have h := State.retirePort_port (s := { s with injects := listDrop s.injects k }) htgt hup 3
    exact ⟨h.2, h.1⟩

/-! ### INJECT -/

/-- INJECT as it arms, and as it refuses. -/
theorem State.arm_of_running {s : State} (hrun : s.running 22 = true) {kind : Nat} (hk : s.arg 0 = kind) (ok : Bool) :
    (ok = true → s.arm kind ok = .next (({ s with injects := s.injects ++
      [{ kind := s.arg 0, dom := s.arg 1, target := s.arg 2, fireAt := s.time + usec (s.arg 3) }] } : State).done 0)) ∧
    (ok = false → s.arm kind ok = .next (s.done 2)) := by
  subst hk
  unfold State.arm
  rw [State.command_of_running hrun]
  simp only [bne_self_eq_false, Bool.false_eq_true, if_false]
  exact ⟨fun h => by rw [h]; rfl, fun h => by rw [h]; rfl⟩

/-- INJECT, a clause for each kind. -/
theorem State.armsInjections {s : State} (hrun : s.running 22 = true) :
    let x : Inject := { kind := s.arg 0, dom := s.arg 1, target := s.arg 2, fireAt := s.time + usec (s.arg 3) }
    let armed := ({ s with injects := s.injects ++ [x] } : State).done 0
    (s.arg 0 = 0 ∨ 5 < s.arg 0 → exec .injectUe s = .next (s.done 2)) ∧
    (s.arg 0 = 1 → s.peopled (s.arg 1) = true → s.domGranule (s.arg 1) (s.arg 2) = true → exec .injectUe s = .next armed) ∧
    (s.arg 0 = 2 → s.peopled (s.arg 1) = true → s.arg 2 < 32 → exec .injectDieFault s = .next armed) ∧
    (s.arg 0 = 3 → (s.peopled (s.arg 1) = true → exec .injectRollback s = .next armed) ∧
      (s.peopled (s.arg 1) = false → exec .injectRollback s = .next (s.done 2))) ∧
    (s.arg 0 = 4 → s.arg 2 < 16 → exec .injectPortRetire s = .next armed) ∧
    (s.arg 0 = 5 → s.arg 2 < 16 → (s.sys.debug = true → exec .injectKeyStarve s = .next armed) ∧
      (s.sys.debug = false → exec .injectKeyStarve s = .next (s.done 2))) := by
  have hue : exec .injectUe s = if s.arg 0 = 0 || 5 < s.arg 0 then s.command 22 (fun s => s.done 2)
      else s.arm 1 (s.peopled (s.arg 1) && s.domGranule (s.arg 1) (s.arg 2)) := rfl
  refine ⟨fun h => ?_, fun h hp hg => ?_, fun h hp ht => ?_, fun h => ⟨fun hp => ?_, fun hp => ?_⟩, fun h ht => ?_,
    fun h ht => ⟨fun hdbg => ?_, fun hdbg => ?_⟩⟩
  · rw [hue, if_pos (by simpa using h), State.command_of_running hrun]
  · rw [hue, if_neg (by simp [h])]
    exact (State.arm_of_running hrun h _).1 (by rw [hp, hg]; rfl)
  · exact (State.arm_of_running hrun h _).1 (by rw [hp, decide_eq_true ht]; rfl)
  · exact (State.arm_of_running hrun h _).1 hp
  · exact (State.arm_of_running hrun h _).2 hp
  · exact (State.arm_of_running hrun h _).1 (decide_eq_true ht)
  · exact (State.arm_of_running hrun h _).1 (by rw [hdbg, decide_eq_true ht]; rfl)
  · exact (State.arm_of_running hrun h _).2 (by rw [hdbg]; rfl)

/-- Settles O54, one lemma for each kind of step. -/
theorem errorsAndRollback : Obligations.ErrorsAndRollback := by
  refine ⟨fun s site h => execCorrectedError_of_place h s, execCorrectedError_of_log, fun s core slot b site hb hsite => State.errorInBlock hb hsite,
    fun s pa n c d hin hcs hc hd => State.errorInSector hin hcs hc hd, fun s n pa d hd => State.errorInLog hd pa,
    fun s die hdie => State.diesFault hdie, ?domain, ?inject, fun s k x hx hdue => State.injectionFires hx hdue⟩
  case domain =>
    refine fun s dom d hd => ⟨fun o i hco => State.coordinatorStops hd hco o i, fun o i hwf hal => ?stop,
      fun m hstop hco hroll hm hnew => State.memberDone hd hstop hco hroll hm hnew,
      fun moved hstop hroll => ⟨fun k hk => State.resumesEnding hd hstop hroll hk moved,
        fun hov hcut => State.resumesAnew hd hstop hroll hov hcut moved⟩⟩
    case stop =>
      obtain rfl := State.domain?_num hd
      obtain ⟨t, d', hexec, hdom, hstop, hphase, hleg, hnone, hover, hnew, hpoison, hgone⟩ := State.undoesLeg hd o i hwf hal
      exact ⟨t, d', hexec, hdom, hstop, hphase, hleg, hnone, hover, hnew, hpoison, hgone.earliest, hgone.outside, hgone.logs,
        hgone.windows, hgone.holds, hgone.saved, hgone.blocks, hgone.flights⟩
  case inject =>
    rintro s _ hrun rfl
    exact State.armsInjections hrun

end Sys2Proof.Machine
end

section
/-! # Eviction, restore and caravan halts (O52)

One lemma for each kind of step. -/

namespace Sys2Proof.Machine
open Host (Outcome)

/-! ## The plan of an eviction (R444, R445) -/

/-- A search that ends with a plan ends with the least one for the contexts told, whose victims can all be saved. -/
theorem State.bestPlan_spec {s : State} {w : Want} {x : Nat × Plan} {full : List Nat} : ∀ {fuel : Nat} {told : List Nat},
    s.bestPlan w fuel told = (full, some x) → s.leastPlan full w = some x ∧ s.unsaved x.2 = [] := by
  intro fuel
  induction fuel with
  | zero => intro told h; cases h
  | succ fuel ih =>
    intro told h
    unfold State.bestPlan at h
    split at h
    · cases h
    · rename_i y hy
      split at h
      · rename_i hsave
        cases h
        exact ⟨hy, hsave⟩
      · exact ih h

/-- The cheaper of two plans, the first among equals. -/
def Plan.cheaper (a : Option (Nat × Plan)) (x : Nat × Plan) : Option (Nat × Plan) :=
  match a with
  | none => some x
  | some y => if x.2.cost < y.2.cost then some x else some y

theorem Plan.foldl_cheaper {y : Nat × Plan} {l : List (Nat × Plan)} : ∀ {a : Option (Nat × Plan)}, l.foldl Plan.cheaper a = some y →
    (a = some y ∨ y ∈ l) ∧ (∀ z, a = some z → y.2.cost ≤ z.2.cost) ∧ ∀ z ∈ l, y.2.cost ≤ z.2.cost := by
  induction l with
  | nil =>
    intro a h
    refine ⟨.inl h, fun z hz => ?_, fun z hz => absurd hz List.not_mem_nil⟩
    obtain rfl : z = y := Option.some.inj (hz.symm.trans h)
    exact Nat.le_refl _
  | cons x l ih =>
    intro a h
    rw [List.foldl_cons] at h
    obtain ⟨hin, hacc, hall⟩ := ih h
    cases a with
    | none =>
      refine ⟨.inr ?_, fun z hz => (by cases hz), fun z hz => ?_⟩
      · rcases hin with e | e
        · cases e; exact List.mem_cons_self
        · exact List.mem_cons_of_mem x e
      · rcases List.mem_cons.1 hz with rfl | hz
        · exact hacc z rfl
        · exact hall z hz
    | some w =>
      have hstep : Plan.cheaper (some w) x = if x.2.cost < w.2.cost then some x else some w := rfl
      rw [hstep] at hin hacc
      by_cases hc : x.2.cost < w.2.cost
      · rw [if_pos hc] at hin hacc
        have hx := hacc x rfl
        refine ⟨.inr ?_, fun z hz => ?_, fun z hz => ?_⟩
        · rcases hin with e | e
          · cases e; exact List.mem_cons_self
          · exact List.mem_cons_of_mem x e
        · cases hz; omega
        · rcases List.mem_cons.1 hz with rfl | hz
          · exact hx
          · exact hall z hz
      · rw [if_neg hc] at hin hacc
        have hw := hacc w rfl
        refine ⟨?_, fun z hz => ?_, fun z hz => ?_⟩
        · rcases hin with e | e
          · exact .inl e
          · exact .inr (List.mem_cons_of_mem x e)
        · cases hz; exact hw
        · rcases List.mem_cons.1 hz with rfl | hz
          · omega
          · exact hall z hz

/-- The least plan is one of a core that is asked, and no core has a cheaper one. -/
theorem State.leastPlan_spec {s : State} {full : List Nat} {w : Want} {core : Nat} {p : Plan} (h : s.leastPlan full w = some (core, p)) :
    s.plan full core w = some p ∧ ∀ c ∈ w.cores, ∀ q, s.plan full c w = some q → p.cost ≤ q.cost := by
  have heq : s.leastPlan full w = (w.cores.filterMap fun c => (s.plan full c w).map fun p => (c, p)).foldl Plan.cheaper none := rfl
  rw [heq] at h
  obtain ⟨hin, -, hall⟩ := Plan.foldl_cheaper h
  refine ⟨?_, fun c hc q hq => hall (c, q) (List.mem_filterMap.2 ⟨c, hc, by rw [hq]; rfl⟩)⟩
  obtain ⟨c, -, hp⟩ := List.mem_filterMap.1 (hin.resolve_left (fun e => by cases e))
  obtain ⟨q, hq, e⟩ := Option.map_eq_some_iff.1 hp
  cases e
  exact hq

theorem State.mem_victims {s : State} {full : List Nat} {core eff : Nat} {v : EvictGroup} (h : v ∈ s.victims full core eff) :
    v.b.prio < eff ∧ v.b.ctx ∉ full := by
  unfold State.victims at h
  obtain ⟨x, hx, hv⟩ := List.mem_flatMap.1 ((List.mem_insertionSort _).1 h)
  obtain ⟨g, -, rfl⟩ := List.mem_map.1 hv
  obtain ⟨hbelow, hfull⟩ := List.mem_filter.1 hx
  unfold State.below at hbelow
  have := (List.mem_filter.1 hbelow).2
  simp only [Bool.and_eq_true, decide_eq_true_eq] at this
  exact ⟨this.1.1.1, by simpa using hfull⟩

theorem firstVictims_mem {vs l : List EvictGroup} {es : List Nat} (h : firstVictims vs es = some l) : ∀ v ∈ l, v ∈ vs := by
  unfold firstVictims at h
  dsimp only at h
  split at h
  · cases h
    intro v hv
    obtain ⟨x, hx, hv⟩ := List.mem_flatMap.1 hv
    obtain ⟨y, -, rfl⟩ := List.mem_map.1 hx
    exact (List.mem_filter.1 (List.mem_of_mem_take hv)).1
  · cases h

theorem State.groupPlan_mem {s : State} {full : List Nat} {core : Nat} {w : Want} {l : List EvictGroup}
    (h : s.groupPlan full core w = some l) : ∀ v ∈ l, v ∈ s.victims full core w.eff := by
  unfold State.groupPlan at h
  obtain ⟨es, -, hes⟩ := List.exists_of_findSome?_eq_some (Option.ite_none_left_eq_some.1 h).2
  split at hes
  · rename_i l' hl
    split at hes
    · cases hes
      exact firstVictims_mem hl
    · cases hes
  · cases hes

theorem State.mem_wholeVictims {s : State} {full : List Nat} {core eff : Nat} {v : Nat × Block} (h : v ∈ s.wholeVictims full core eff) :
    v ∈ (s.core core).slots ∧ v.2.prio < eff ∧ v.2.ctx ∉ full := by
  unfold State.wholeVictims at h
  obtain ⟨y, hy, rfl⟩ := List.mem_map.1 h
  obtain ⟨x, hx, hv⟩ := List.mem_filterMap.1 ((List.mem_insertionSort _).1 (List.mem_of_mem_take hy))
  unfold State.below at hx
  obtain ⟨hslot, hx⟩ := List.mem_filter.1 hx
  simp only [Bool.and_eq_true, decide_eq_true_eq] at hx
  split at hv
  · split at hv
    · cases hv
    · rename_i hfull
      cases hv
      exact ⟨hslot, hx.1.1.1, by simpa using hfull⟩
  · cases hv

theorem State.wholePlan_mem {s : State} {full : List Nat} {core : Nat} {w : Want} {l : List (Nat × Block)}
    (h : s.wholePlan full core w = some l) : ∀ v ∈ l, v ∈ s.wholeVictims full core w.eff := by
  unfold State.wholePlan at h
  split at h
  · cases h
  · obtain ⟨n, -, rfl⟩ := List.mem_map.1 (List.mem_of_find?_eq_some h)
    exact fun v hv => List.mem_of_mem_take hv

/-- A plan for a core evicts groups, or blocks where groups make no room. -/
theorem State.plan_spec {s : State} {full : List Nat} {core : Nat} {w : Want} {p : Plan} (h : s.plan full core w = some p) :
    (∀ l, p = .groups l → s.groupPlan full core w = some l) ∧
    ∀ l, p = .blocks l → s.groupPlan full core w = none ∧ s.wholePlan full core w = some l := by
  unfold State.plan at h
  cases hg : s.groupPlan full core w with
  | some l =>
    rw [hg] at h
    cases h
    exact ⟨fun l' e => (by cases e; rfl), fun l' e => (by cases e)⟩
  | none =>
    rw [hg] at h
    obtain ⟨l, hl, rfl⟩ := Option.map_eq_some_iff.1 h
    exact ⟨fun l' e => (by cases e), fun l' e => (by cases e; exact ⟨rfl, hl⟩)⟩

theorem State.unsaved_groups {s : State} {l : List EvictGroup} (h : s.unsaved (.groups l) = []) :
    ∀ v ∈ l, s.canSave v.b false [v.g.idx] = true := by
  intro v hv
  by_contra hn
  have hmem : v.b.ctx ∈ s.unsaved (.groups l) :=
    List.mem_dedup.2 (List.mem_map.2 ⟨v, List.mem_filter.2 ⟨hv, by simpa using hn⟩, rfl⟩)
  rw [h] at hmem
  exact List.not_mem_nil hmem

theorem State.unsaved_blocks {s : State} {l : List (Nat × Block)} (h : s.unsaved (.blocks l) = []) :
    ∀ v ∈ l, s.canSave v.2 true (v.2.groups.map fun g => g.idx) = true := by
  intro v hv
  by_contra hn
  have hmem : v.2.ctx ∈ s.unsaved (.blocks l) :=
    List.mem_dedup.2 (List.mem_map.2 ⟨v, List.mem_filter.2 ⟨hv, by simpa using hn⟩, rfl⟩)
  rw [h] at hmem
  exact List.not_mem_nil hmem

/-! ## What is asked to stop (R444) -/

/-- A group that is asked to stop. -/
def Group.asked (g : Group) (now : Nat) : Group := if g.place == .resident then { g with place := .stopping now } else g

theorem Group.asked_asked (g : Group) (now : Nat) : (g.asked now).asked now = g.asked now := by
  unfold Group.asked
  by_cases h : g.place = .resident <;> simp [h]

/-- A block that is asked to leave. -/
def Block.asked (b : Block) (now : Nat) : Block :=
  { b with
    leaving := true
    groups := b.groups.map fun g => if g.place == .resident && g.liveMask != 0 then { g with place := .stopping now } else g }

theorem Block.asked_asked (b : Block) (now : Nat) : (b.asked now).asked now = b.asked now := by
  unfold Block.asked
  simp only [List.map_map]
  congr 2
  funext g
  rw [Function.comp_apply]
  by_cases h : (g.place == .resident && g.liveMask != 0) = true
  · rw [if_pos h, if_neg (by simp)]
  · rw [if_neg h, if_neg h]

theorem State.modBlock_rest (s : State) (core slot : Nat) (f : Block → Block) : { s.modBlock core slot f with cores := s.cores } = s := by
  unfold State.modBlock
  split <;> rfl

theorem State.block_modBlock (s : State) (core slot : Nat) (f : Block → Block) (c k : Nat) :
    (s.modBlock core slot f).block c k = if c = core ∧ k = slot then (s.block core slot).map f else s.block c k := by
  unfold State.modBlock
  cases h : s.block core slot with
  | some b => exact State.block_setBlock ..
  | none =>
    dsimp only
    split
    · rename_i e
      rw [e.1, e.2, h]
      rfl
    · rfl

/-- Groups of a core's blocks that are asked in turn. -/
theorem State.foldl_askGroup (core : Nat) (l : List EvictGroup) : ∀ s : State,
    let t := l.foldl (fun (s : State) (v : EvictGroup) => s.askGroup core v.slot v.g.idx) s
    ({ t with cores := s.cores } : State) = s ∧
    ∀ c k b, s.block c k = some b → ∃ b', t.block c k = some b' ∧ { b' with groups := b.groups } = b ∧
      b'.groups.length = b.groups.length ∧ ∀ g, g < b.groups.length → b'.group g =
        if c = core ∧ ∃ v ∈ l, v.slot = k ∧ v.g.idx = g then (b.group g).asked s.time else b.group g := by
  induction l with
  | nil => exact fun s => ⟨rfl, fun c k b hb => ⟨b, hb, rfl, rfl, fun g _ => by simp⟩⟩
  | cons v l ih =>
    intro s
    have hrest : { s.askGroup core v.slot v.g.idx with cores := s.cores } = s := State.modBlock_rest ..
    have htime : (s.askGroup core v.slot v.g.idx).time = s.time := (congrArg State.time hrest :)
    obtain ⟨hrest', hblock⟩ := ih (s.askGroup core v.slot v.g.idx)
    have hblock1 : ∀ c k, (s.askGroup core v.slot v.g.idx).block c k = if c = core ∧ k = v.slot then
        (s.block core v.slot).map (fun b => b.modGroup v.g.idx fun g => g.asked s.time) else s.block c k := State.block_modBlock _ _ _ _
    refine ⟨?_, fun c k b hb => ?_⟩
    · have := congrArg (fun u : State => { u with cores := s.cores }) hrest'
      exact this.trans hrest
    · by_cases hk : c = core ∧ k = v.slot
      · obtain ⟨rfl, rfl⟩ := hk
        obtain ⟨b', hb', hstands, hlen, hgroup⟩ := hblock c v.slot (b.modGroup v.g.idx fun g => g.asked s.time)
          (by rw [hblock1, if_pos ⟨rfl, rfl⟩, hb]; rfl)
        have hlen1 : (b.modGroup v.g.idx fun g => g.asked s.time).groups.length = b.groups.length := listMod_length ..
        refine ⟨b', hb', ?_, hlen.trans hlen1, fun g hg => ?_⟩
        · have := congrArg (fun x : Block => { x with groups := b.groups }) hstands
          exact this
        · have hown := Block.group_modGroup b v.g.idx (fun g => g.asked s.time) g
          rw [hgroup g (hlen1 ▸ hg), htime, hown]
          by_cases hi : g = v.g.idx
          · subst hi
            rw [if_pos (show v.g.idx = v.g.idx ∧ _ from ⟨rfl, hg⟩),
              if_pos (show c = c ∧ ∃ u ∈ v :: l, u.slot = v.slot ∧ u.g.idx = v.g.idx from ⟨rfl, v, List.mem_cons_self, rfl, rfl⟩)]
            split
            · exact Group.asked_asked ..
            · rfl
          · rw [if_neg (show ¬ (g = v.g.idx ∧ _) from fun e => hi e.1)]
            have : (∃ u ∈ v :: l, u.slot = v.slot ∧ u.g.idx = g) ↔ ∃ u ∈ l, u.slot = v.slot ∧ u.g.idx = g := by
              simp only [List.mem_cons, exists_eq_or_imp]
              exact or_iff_right fun e => hi e.2.symm
            simp only [this]
      · obtain ⟨b', hb', hstands, hlen, hgroup⟩ := hblock c k b (by rw [hblock1, if_neg hk]; exact hb)
        refine ⟨b', hb', hstands, hlen, fun g hg => ?_⟩
        rw [hgroup g hg, htime]
        have : (c = core ∧ ∃ u ∈ v :: l, u.slot = k ∧ u.g.idx = g) ↔ c = core ∧ ∃ u ∈ l, u.slot = k ∧ u.g.idx = g := by
          simp only [List.mem_cons, exists_eq_or_imp]
          exact and_congr_right fun hc => or_iff_right fun e => hk ⟨hc, e.1.symm⟩
        simp only [this]

/-- Blocks that are asked in turn. -/
theorem State.foldl_askBlock (l : List (Nat × Nat)) : ∀ s : State,
    let t := l.foldl (fun (s : State) x => s.askBlock x.1 x.2) s
    ({ t with cores := s.cores } : State) = s ∧
    ∀ c k, t.block c k = if (c, k) ∈ l then (s.block c k).map fun b => b.asked s.time else s.block c k := by
  induction l with
  | nil => exact fun s => ⟨rfl, fun c k => by simp⟩
  | cons x l ih =>
    intro s
    have hrest : { s.askBlock x.1 x.2 with cores := s.cores } = s := State.modBlock_rest ..
    have htime : (s.askBlock x.1 x.2).time = s.time := (congrArg State.time hrest :)
    obtain ⟨hrest', hblock⟩ := ih (s.askBlock x.1 x.2)
    have hblock1 : ∀ c k, (s.askBlock x.1 x.2).block c k = if c = x.1 ∧ k = x.2 then
        (s.block x.1 x.2).map (fun b => b.asked s.time) else s.block c k := State.block_modBlock _ _ _ _
    refine ⟨?_, fun c k => ?_⟩
    · have := congrArg (fun u : State => { u with cores := s.cores }) hrest'
      exact this.trans hrest
    · refine (hblock c k).trans ?_
      rw [htime]
      by_cases hx : (c, k) = x
      · have hown : (s.askBlock x.1 x.2).block c k = (s.block c k).map fun b => b.asked s.time := by
          rw [hblock1, if_pos (by rw [← hx]; exact ⟨rfl, rfl⟩), ← hx]
        rw [hown, if_pos (show (c, k) ∈ x :: l from hx ▸ List.mem_cons_self), Option.map_map]
        split
        · congr 1
          funext b
          exact Block.asked_asked ..
        · rfl
      · have hother : (s.askBlock x.1 x.2).block c k = s.block c k := by
          rw [hblock1, if_neg (fun e => hx (Prod.ext e.1 e.2))]
        rw [hother]
        simp only [List.mem_cons, hx, false_or]

/-- What EVICTION_DECISION comes to. -/
theorem execEvictionDecision_eq {s : State} {die : Nat} {x : Want} (hw : s.want die = some x) :
    (∀ full, s.bestPlan x 64 [] = (full, none) →
      exec (.evictionDecision die) s = .next (full.foldl (fun s c => s.postEvent c 8 0 0) s)) ∧
    (∀ full core l, s.bestPlan x 64 [] = (full, some (core, .groups l)) → exec (.evictionDecision die) s = .next
      (l.foldl (fun (s : State) (v : EvictGroup) => s.askGroup core v.slot v.g.idx) (full.foldl (fun s c => s.postEvent c 8 0 0) s))) ∧
    ∀ full core l, s.bestPlan x 64 [] = (full, some (core, .blocks l)) → exec (.evictionDecision die) s = .next
      (l.foldl (fun (s : State) (v : Nat × Block) => s.askBlock core v.1) (full.foldl (fun s c => s.postEvent c 8 0 0) s)) := by
  have hexec : exec (.evictionDecision die) s = execEvictionDecision die s := rfl
  rw [hexec]
  unfold execEvictionDecision
  rw [hw]
  dsimp only
  refine ⟨fun full h => ?_, fun full core l h => ?_, fun full core l h => ?_⟩ <;> rw [h]

/-- The decision of an eviction: the cheapest plan, its victims asked to stop. -/
theorem State.decidesEviction {s : State} {die core : Nat} {x : Want} {full : List Nat} {p : Plan} (hw : s.want die = some x)
    (hbest : s.bestPlan x 64 [] = (full, some (core, p))) :
    let s' := full.foldl (fun s c => s.postEvent c 8 0 0) s
    (∀ c ∈ x.cores, ∀ q, s.plan full c x = some q → p.cost ≤ q.cost) ∧
    ∃ t, exec (.evictionDecision die) s = .next t ∧ ({ t with cores := s'.cores } : State) = s' ∧
      (∀ l, p = .groups l →
        (∀ v ∈ l, v.b.prio < x.eff ∧ v.b.ctx ∉ full ∧ s.canSave v.b false [v.g.idx] = true) ∧
        ∀ c k b, s'.block c k = some b → ∃ b', t.block c k = some b' ∧ { b' with groups := b.groups } = b ∧
          b'.groups.length = b.groups.length ∧ ∀ g, g < b.groups.length →
            let taken := c = core ∧ (∃ v ∈ l, v.slot = k ∧ v.g.idx = g) ∧ (b.group g).place = .resident
            (taken → b'.group g = { b.group g with place := .stopping s'.time }) ∧ (¬ taken → b'.group g = b.group g)) ∧
      (∀ l, p = .blocks l → s.groupPlan full core x = none ∧
        (∀ v ∈ l, v ∈ (s.core core).slots ∧ v.2.prio < x.eff ∧ v.2.ctx ∉ full ∧
          s.canSave v.2 true (v.2.groups.map fun g => g.idx) = true) ∧
        ∀ c k b, s'.block c k = some b →
          let taken := c = core ∧ ∃ v ∈ l, v.1 = k
          (taken → t.block c k = some { b with
            leaving := true
            groups := b.groups.map fun g => if g.place = .resident ∧ g.liveMask ≠ 0 then { g with place := .stopping s'.time } else g }) ∧
          (¬ taken → t.block c k = some b)) := by
  intro s'
  obtain ⟨hleast, hsave⟩ := State.bestPlan_spec hbest
  obtain ⟨hplan, hcheap⟩ := State.leastPlan_spec hleast
  obtain ⟨hgroups, hblocks⟩ := State.plan_spec hplan
  refine ⟨hcheap, ?_⟩
  cases p with
  | groups l =>
    obtain ⟨hrest, hblock⟩ := State.foldl_askGroup core l s'
    refine ⟨_, (execEvictionDecision_eq hw).2.1 full core l hbest, hrest, fun l' e => ?_, fun l' e => (by cases e)⟩
    cases e
    refine ⟨fun v hv => ?_, fun c k b hb => ?_⟩
    · have hv' := State.mem_victims (State.groupPlan_mem (hgroups l rfl) v hv)
      exact ⟨hv'.1, hv'.2, State.unsaved_groups hsave v hv⟩
    · obtain ⟨b', hb', hstands, hlen, hgroup⟩ := hblock c k b hb
      refine ⟨b', hb', hstands, hlen, fun g hg => ⟨fun h => ?_, fun h => ?_⟩⟩ <;> rw [hgroup g hg]
      · rw [if_pos ⟨h.1, h.2.1⟩]
        unfold Group.asked
        rw [h.2.2]
        rfl
      · split
        · rename_i hin
          unfold Group.asked
          rw [if_neg (fun e => h ⟨hin.1, hin.2, by simpa using e⟩)]
        · rfl
  | blocks l =>
    obtain ⟨hnone, hwhole⟩ := hblocks l rfl
    obtain ⟨hrest, hblock⟩ := State.foldl_askBlock (l.map fun v => (core, v.1)) s'
    rw [List.foldl_map] at hrest hblock
    refine ⟨_, (execEvictionDecision_eq hw).2.2 full core l hbest, hrest, fun l' e => (by cases e), fun l' e => ?_⟩
    cases e
    have hmem : ∀ c k, (c, k) ∈ (l.map fun v => (core, v.1)) ↔ c = core ∧ ∃ v ∈ l, v.1 = k := fun c k => by
      simp only [List.mem_map, Prod.mk.injEq]
      exact ⟨fun ⟨v, hv, e, e'⟩ => ⟨e.symm, v, hv, e'⟩, fun ⟨e, v, hv, e'⟩ => ⟨v, hv, e.symm, e'⟩⟩
    refine ⟨hnone, fun v hv => ?_, fun c k b hb => ⟨fun h => ?_, fun h => ?_⟩⟩
    · obtain ⟨hslot, hprio, hfull⟩ := State.mem_wholeVictims (State.wholePlan_mem hwhole v hv)
      exact ⟨hslot, hprio, hfull, State.unsaved_blocks hsave v hv⟩
    · rw [hblock, if_pos ((hmem c k).2 h), hb]
      unfold Block.asked
      simp only [Option.map_some, Bool.and_eq_true, beq_iff_eq, bne_iff_ne]
    · rw [hblock, if_neg (fun e => h ((hmem c k).1 e)), hb]

/-! ## Region restart (R43, R314, R444) -/

/-- An issue group of a list has a lane at its region entry, and waits for nothing. -/
def AtRegion (g : Group) (gs : List IGroup) (l : Nat) : Prop :=
  ∃ x ∈ gs, x.mask.getLsbD l = true ∧ x.pc = (g.thread l).region + 8 ∧ x.wait = .none

theorem AtRegion.append {g : Group} {gs : List IGroup} {l : Nat} (h : AtRegion g gs l) (hs : List IGroup) : AtRegion g (gs ++ hs) l := by
  obtain ⟨x, hx, h⟩ := h
  exact ⟨x, List.mem_append_left _ hx, h⟩

theorem AtRegion.widen {g : Group} {gs : List IGroup} {l : Nat} (h : AtRegion g gs l) (pc : Dword) (bit : LaneMask) :
    AtRegion g (gs.map fun x => if x.pc == pc then { x with mask := x.mask ||| bit } else x) l := by
  obtain ⟨x, hx, hmask, hpc, hwait⟩ := h
  refine ⟨_, List.mem_map.2 ⟨x, hx, rfl⟩, ?_, ?_, ?_⟩ <;> split
  · simp [hmask]
  · exact hmask
  · exact hpc
  · exact hpc
  · exact hwait
  · exact hwait

theorem getLsbD_one_shiftLeft {l : Nat} (h : l < 32) : ((1 : LaneMask) <<< l).getLsbD l = true := by
  rw [BitVec.getLsbD_shiftLeft]
  simp [h]

/-- Of the lanes that restart each stands at its region entry. -/
theorem regionGroups_atRegion (g : Group) (id since : Nat) (ls : List Nat) : ∀ gs : List IGroup, (∀ x ∈ gs, x.wait = .none) →
    (∀ l ∈ ls, l < 32) → ∀ l, AtRegion g gs l ∨ l ∈ ls → AtRegion g (regionGroups g id since ls gs) l := by
  induction ls with
  | nil => exact fun gs _ _ l h => h.resolve_right List.not_mem_nil
  | cons j ls ih =>
    intro gs hwait hlt l hl
    have hj := hlt j List.mem_cons_self
    have htl := fun i hi => hlt i (List.mem_cons_of_mem j hi)
    unfold regionGroups
    dsimp only
    split
    · rename_i hany
      refine ih _ ?_ htl l ?_
      · intro x hx
        obtain ⟨y, hy, rfl⟩ := List.mem_map.1 hx
        split
        · exact hwait y hy
        · exact hwait y hy
      · rcases hl with h | h
        · exact .inl (h.widen _ _)
        · rcases List.mem_cons.1 h with rfl | h
          · obtain ⟨x, hx, hpc⟩ := List.any_eq_true.1 hany
            refine .inl ⟨_, List.mem_map.2 ⟨x, hx, rfl⟩, ?_, ?_, ?_⟩ <;> rw [if_pos hpc]
            · rw [BitVec.getLsbD_or, getLsbD_one_shiftLeft hj, Bool.or_true]
            · exact beq_iff_eq.1 hpc
            · exact hwait x hx
          · exact .inr h
    · refine ih _ ?_ htl l ?_
      · intro x hx
        rcases List.mem_append.1 hx with hx | hx
        · exact hwait x hx
        · rw [List.mem_singleton.1 hx]
      · rcases hl with h | h
        · exact .inl (h.append _)
        · rcases List.mem_cons.1 h with rfl | h
          · exact .inl ⟨_, List.mem_append_right _ (List.mem_singleton_self _), getLsbD_one_shiftLeft hj, rfl, rfl⟩
          · exact .inr h

section
variable (g : Group) (n : Nat)

theorem Group.restart_eq : ∃ igs, g.restart n = { g.settle with igs := igs } := ⟨_, rfl⟩

/-- A group that restarts keeps its registers and loses its results. -/
theorem Group.restart_keeps : (g.restart n).v = g.v ∧ (g.restart n).s = g.s ∧ (g.restart n).mode = g.mode ∧
    (g.restart n).place = g.place ∧ (g.restart n).results = [] := by
  obtain ⟨igs, h⟩ := g.restart_eq n
  rw [h]
  simp only [Group.settle_v, Group.settle_s, Group.settle_mode, Group.settle_place, Group.settle_results, and_self]

theorem Group.settle_liveMask : g.settle.liveMask = g.liveMask := by
  refine BitVec.eq_of_getLsbD_eq fun l _ => ?_
  rw [Group.liveMask_getLsbD, Group.liveMask_getLsbD, Group.thread_settle]
  split <;> rfl

/-- Where none of its threads stands at a place to be saved at, each goes back to its region entry. -/
theorem Group.restart_atRegion {g : Group} (n : Nat) (hs : ∀ x ∈ g.igs, x.stands = false) {l : Nat} (hl : g.liveMask.getLsbD l = true) :
    AtRegion g (g.restart n).igs l := by
  have hstay : g.settle.igs.filter IGroup.stands = [] := by
    rw [Group.settle_igs]
    exact List.filter_eq_nil_iff.2 fun x hx => by simp [hs x hx]
  have higs : (g.restart n).igs = regionGroups g.settle n n (lanesOf (g.settle.liveMask &&& ~~~(0 : LaneMask))) [] := by
    unfold Group.restart
    dsimp only
    rw [hstay]
    rfl
  have hregion : (g.settle.thread l).region = (g.thread l).region := by
    rw [Group.thread_settle]
    split <;> rfl
  rw [higs]
  have h := regionGroups_atRegion g.settle n n (lanesOf (g.settle.liveMask &&& ~~~(0 : LaneMask))) []
    (fun x hx => absurd hx List.not_mem_nil) (fun j hj => lt_of_mem_lanesOf hj) l (.inr ((mem_lanesOf _ l).2 ?_))
  · obtain ⟨x, hx, hmask, hpc, hwait⟩ := h
    exact ⟨x, hx, hmask, hpc.trans (by rw [hregion]), hwait⟩
  · rw [Group.settle_liveMask]
    simpa using ⟨hl, allLanes_getLsbD (BitVec.lt_of_getLsbD hl)⟩

end

theorem State.block_modCore_parts (s : State) (core : Nat) (f : List Part → List Part) (c k : Nat) :
    (s.modCore core fun x => { x with parts := f x.parts }).block c k = s.block c k := by
  unfold State.block
  rw [State.core_modCore]
  split
  · rename_i h
    rw [h]
  · rfl

/-- A group that reaches no segment end in time stops by region restart. -/
theorem State.stopsByRestart {s : State} {core slot grp since : Nat} {b : Block} (hb : s.block core slot = some b)
    (hplace : (b.group grp).place = .stopping since) (htime : since + usec 2 ≤ s.time) (htrap : (b.group grp).trap = none)
    (hcust : ∀ o ∈ (b.group grp).ops, o.custody = false) (hs : ∀ x ∈ (b.group grp).igs, x.stands = false) :
    ∃ t b', exec (.evictionStopTimeout core slot grp) s = .next t ∧ Taken core slot b' s t ∧
      { b' with groups := b.groups, barrier := b.barrier } = b ∧
      b'.barrier = (b.barrier.filter fun a => a.thread / 32 != grp) ∧ (∀ h, h ≠ grp → b'.group h = b.group h) ∧
      (b'.group grp).v = (b.group grp).v ∧ (b'.group grp).s = (b.group grp).s ∧ (b'.group grp).mode = (b.group grp).mode ∧
      (b'.group grp).place = (b.group grp).place ∧ (b'.group grp).results = [] ∧
      ∀ l, (b.group grp).liveMask.getLsbD l = true → ∃ x ∈ (b'.group grp).igs, x.mask.getLsbD l = true ∧
        x.pc = ((b.group grp).thread l).region + 8 ∧ x.wait = .none := by
  have hin : grp < b.groups.length := by
    by_contra h
    have : b.group grp = Group.empty := listGet_default _ _ _ (Nat.not_lt.1 h)
    rw [this] at hplace
    cases hplace
  have hexec : exec (.evictionStopTimeout core slot grp) s = .next (s.restartGroup core slot grp) := by
    show execEvictionStopTimeout core slot grp s = _
    unfold execEvictionStopTimeout
    rw [hb]
    dsimp only
    rw [hplace]
    have hgo : (decide (since + usec 2 ≤ s.time) && (b.group grp).trap.isNone && !(b.group grp).ops.any (·.custody)) = true := by
      rw [htrap, decide_eq_true htime, List.any_eq_false.2 fun o ho => by simp [hcust o ho]]
      rfl
    exact congrArg Outcome.next (if_pos hgo)
  have hgroup : ((b.withdraw grp).modGroup grp fun g => g.restart s.nextId).group grp = (b.group grp).restart s.nextId :=
    (Block.group_modGroup (b.withdraw grp) grp (fun g => g.restart s.nextId) grp).trans (if_pos ⟨rfl, hin⟩)
  obtain ⟨hv, hsr, hmode, hpl, hres⟩ := (b.group grp).restart_keeps s.nextId
  refine ⟨_, (b.withdraw grp).modGroup grp fun g => g.restart s.nextId, hexec, fun c k => ?_, rfl, rfl, fun h hne => ?_, ?_, ?_, ?_, ?_, ?_,
    fun l hl => ?_⟩
  · unfold State.restartGroup
    dsimp only
    rw [State.block_modCore_parts (f := fun l => l.map fun p => p.letOut slot (some grp)), State.block_modBlock]
    have hb' : ({ s with nextId := s.nextId + 33 } : State).block core slot = some b := hb
    rw [hb']
    rfl
  · exact (Block.group_modGroup (b.withdraw grp) grp (fun g => g.restart s.nextId) h).trans (if_neg fun e => hne e.1)
  · rw [hgroup, hv]
  · rw [hgroup, hsr]
  · rw [hgroup, hmode]
  · rw [hgroup, hpl]
  · rw [hgroup, hres]
  · rw [hgroup]
    exact Group.restart_atRegion s.nextId hs hl

/-! ## Images (R446) -/

section
variable (g : Group) (m : LaneMask)

theorem Group.loseLatches_keeps : (g.loseLatches m).idx = g.idx ∧ (g.loseLatches m).igs = g.igs ∧ (g.loseLatches m).allot = g.allot ∧
    (g.loseLatches m).v = g.v ∧ (g.loseLatches m).s = g.s ∧ (g.loseLatches m).mode = g.mode ∧ (g.loseLatches m).trap = g.trap := by
  obtain ⟨th, ops, h, -⟩ := loseLatches_rest g m
  rw [h]
  exact ⟨rfl, rfl, rfl, rfl, rfl, rfl, rfl⟩

/-- A thread that loses its latches keeps what its image holds. -/
theorem Group.loseLatches_thread (l : Nat) : ((g.loseLatches m).thread l).preds = (g.thread l).preds ∧
    ((g.loseLatches m).thread l).live = (g.thread l).live ∧ ((g.loseLatches m).thread l).stack = (g.thread l).stack := by
  rw [Group.thread_loseLatches]
  split <;> exact ⟨rfl, rfl, rfl⟩

/-- The record of a group holds no latches. -/
theorem Group.imageBytes_loseLatches : (g.loseLatches m).imageBytes = g.imageBytes := by
  obtain ⟨hidx, higs, hallot, hv, hs, hmode, htrap⟩ := g.loseLatches_keeps m
  have hlive : (g.loseLatches m).liveMask = g.liveMask := by
    unfold Group.liveMask
    simp only [Group.loseLatches_thread]
  have hhead : (g.loseLatches m).imageHead = g.imageHead := by
    unfold Group.imageHead
    simp only [Group.loseLatches_thread, hlive, hidx, hallot, hmode, htrap]
  have hpc : ∀ l, (g.loseLatches m).resumePc l = g.resumePc l := fun l => by
    unfold Group.resumePc
    simp only [higs, Group.loseLatches_thread]
  have hstack : ∀ l, ((g.loseLatches m).thread l).stackWord = (g.thread l).stackWord := fun l => by
    unfold Thread.stackWord
    simp only [Group.loseLatches_thread]
  unfold Group.imageBytes Group.readS Group.readV
  simp only [hhead, htrap, hpc, hstack, hs, hv, hallot]

end

/-- The image of a block is that of its groups' records. -/
theorem Block.image_map_groups (b : Block) {f : Group → Group} (hidx : ∀ g, (f g).idx = g.idx)
    (hbytes : ∀ g, (f g).imageBytes = g.imageBytes) (core slot : Nat) (gs : List Nat) :
    ({ b with groups := b.groups.map f } : Block).image core slot true gs = b.image core slot true gs := by
  have hrecs : ((b.groups.map f).filter fun g => gs.contains g.idx).flatMap Group.imageBytes =
      (b.groups.filter fun g => gs.contains g.idx).flatMap Group.imageBytes := by
    have hp : ((fun g : Group => gs.contains g.idx) ∘ f) = fun g => gs.contains g.idx := by
      funext g
      rw [Function.comp_apply, hidx]
    rw [List.filter_map, hp, List.flatMap_map]
    simp only [hbytes]
  unfold Block.image
  dsimp only
  rw [hrecs]
  have hhead : imageHeader ({ b with groups := b.groups.map f } : Block) core slot true gs = imageHeader b core slot true gs := by
    unfold imageHeader
    simp only [List.length_map]
  rw [hhead]
  rfl

/-! ## BLOCK_SAVE (R445, R447) -/

/-- A group that is saved alone. -/
def Group.saved (g : Group) (a : Nat) : Group := { (g.loseLatches 0xFFFFFFFF) with place := .evicted a }

theorem Group.saved_keeps (g : Group) (a : Nat) : (g.saved a).place = .evicted a ∧ (g.saved a).v = g.v ∧ (g.saved a).s = g.s ∧
    (g.saved a).igs = g.igs := by
  obtain ⟨th, ops, h, -⟩ := loseLatches_rest g 0xFFFFFFFF
  have hsaved : g.saved a = { g with threads := th, ops := ops, place := .evicted a } := by
    unfold Group.saved
    rw [h]
  rw [hsaved]
  exact ⟨rfl, rfl, rfl, rfl⟩

/-- The saved work of a group that has left alone. -/
def Block.savedAlone (b : Block) (core slot grp a now : Nat) : Saved :=
  { core := core, slot := slot, gen := b.gen, ctx := b.ctx, image := a, whole := false, groups := [grp], blk := b, at_ := now }

section
variable {s : State} {core slot : Nat} {b : Block} (hb : s.block core slot = some b) (hn : s.noneGather core)
include hb hn

theorem State.noneGather_block : ∀ g ∈ b.groups, ∀ ig ∈ g.igs, ig.wait.gathers = false :=
  fun g hg ig hig => hn (slot, b) (KMap.mem_of_find hb) g hg ig hig

/-- A stopped group leaves alone with its image. -/
theorem State.savesGroup {grp a : Nat} (hstop : (b.group grp).stopped = true) (hleave : b.leaving = false)
    (ha : s.imageAt b.ctx (b.imageSize false [grp]) = some a) :
    ∃ t b' x, exec (.blockSave ⟨core, slot, some grp⟩) s = .next t ∧ Taken core slot b' s t ∧
      (b'.group grp).place = .evicted a ∧ (b'.group grp).v = (b.group grp).v ∧ (b'.group grp).s = (b.group grp).s ∧
      t.mem = (s.vWriteLogged b.ctx a (b.image core slot false [grp])).mem ∧
      t.saved = s.saved ++ [x] ∧ x.core = core ∧ x.slot = slot ∧ x.gen = b.gen ∧ x.ctx = b.ctx ∧ x.image = a ∧
      x.whole = false ∧ x.groups = [grp] := by
  have hin : grp < b.groups.length := by
    by_contra h
    have : b.group grp = Group.empty := listGet_default _ _ _ (Nat.not_lt.1 h)
    rw [this] at hstop
    cases hstop
  have hrec := s.vWriteLogged_onlyRecords b.ctx a (b.image core slot false [grp])
  have hsave : s.saveGroup core slot grp b =
      ({ (s.vWriteLogged b.ctx a (b.image core slot false [grp])).modGroup core slot grp (fun g => g.saved a) with
        saved := ((s.vWriteLogged b.ctx a (b.image core slot false [grp])).modGroup core slot grp fun g => g.saved a).saved ++
          [b.savedAlone core slot grp a (s.vWriteLogged b.ctx a (b.image core slot false [grp])).time] } : State).countEvicts core 1 := by
    unfold State.saveGroup
    rw [ha]
    obtain ⟨y, hy⟩ := State.modGroup_eq (s.vWriteLogged b.ctx a (b.image core slot false [grp])) core slot grp (fun g => g.saved a)
    have htime : ((s.vWriteLogged b.ctx a (b.image core slot false [grp])).modGroup core slot grp (fun g => g.saved a)).time =
        (s.vWriteLogged b.ctx a (b.image core slot false [grp])).time := by rw [hy]
    rw [← htime]
    rfl
  generalize s.vWriteLogged b.ctx a (b.image core slot false [grp]) = u at hrec hsave
  have hub : u.block core slot = some b := (hrec.block core slot).trans hb
  have hun : u.noneGather core := fun x hx => hn x (by rw [← hrec.core]; exact hx)
  rw [State.modGroup_of_block hub] at hsave
  have hgroup : (b.modGroup grp fun g => g.saved a).group grp = (b.group grp).saved a :=
    (Block.group_modGroup ..).trans (if_pos ⟨rfl, hin⟩)
  obtain ⟨hplace, hv, hsr, -⟩ := (b.group grp).saved_keeps a
  have hnext : (u.setBlock core slot (b.modGroup grp fun g => g.saved a)).noneGather core :=
    State.noneGather_setBlock hun fun g hg ig hig => by
      rcases mem_listMod hg with hg | ⟨y, hy, rfl⟩
      · exact State.noneGather_block hb hn g hg ig hig
      · rw [(y.saved_keeps a).2.2.2] at hig
        exact State.noneGather_block hb hn y hy ig hig
  have hexec : exec (.blockSave ⟨core, slot, some grp⟩) s = .next ((s.saveGroup core slot grp b).allStuck core) := by
    show execBlockSave _ s = _
    unfold execBlockSave
    dsimp only
    rw [hb]
    exact congrArg Outcome.next (if_pos (by rw [hstop, hleave]; rfl))
  have hstill : (s.saveGroup core slot grp b).allStuck core = s.saveGroup core slot grp b :=
    State.allStuck_of_noneGather (by rw [hsave]; exact hnext)
  rw [hexec, hstill, hsave]
  refine ⟨_, b.modGroup grp fun g => g.saved a, b.savedAlone core slot grp a u.time, rfl, fun c k => ?_, ?_, ?_, ?_, rfl, ?_, rfl, rfl, rfl, rfl, rfl, rfl, rfl⟩
  · exact (State.block_setBlock u core slot c k _).trans (by rw [hrec.block])
  · rw [hgroup, hplace]
  · rw [hgroup, hv]
  · rw [hgroup, hsr]
  · exact congrArg (· ++ _) hrec.saved

/-- A block that leaves whole, its image written. -/
theorem State.savesBlock {a : Nat} (hleave : b.leaving = true) (hquiet : b.quiet = true) (hcmds : b.cmdsStopped = true)
    (hstores : s.pendingStores core = []) (hs : ∀ h ∈ s.halts, h.saving = false)
    (ha : s.imageAt b.ctx (b.imageSize true (b.groups.map fun g => g.idx)) = some a) (hroom : (s.core core).absent.length < 64) :
    ∃ t, exec (.blockSave ⟨core, slot, none⟩) s = .next t ∧ Emptied core slot s t ∧
      t.mem = ((s.settleLoc core slot).vWriteLogged b.ctx a (b.image core slot true (b.groups.map fun g => g.idx))).mem ∧
      (∃ e ∈ (t.core core).absent, e = { slot := slot, gen := b.gen, ctx := b.ctx, image := a, state := .absent }) ∧
      ∃ x ∈ t.saved, x.core = core ∧ x.slot = slot ∧ x.gen = b.gen ∧ x.ctx = b.ctx ∧ x.image = a ∧ x.whole = true := by
  have hexec : exec (.blockSave ⟨core, slot, none⟩) s = .next (((s.saveBlock core slot b).allStuck core).tellHalted) := by
    have hdrain : ∀ need, s.drainFor core need = (true, s) := fun need => by
      unfold State.drainFor
      rw [hstores]
      rfl
    show execBlockSave _ s = _
    unfold execBlockSave
    dsimp only
    rw [hb]
    dsimp only
    rw [if_neg (by rw [hleave, hquiet, hcmds]; decide), hdrain]
    dsimp only
    rw [hb]
  let lost : Block := { b with groups := b.groups.map fun g => g.loseLatches 0xFFFFFFFF }
  have hidx : lost.groups.map (fun g => g.idx) = b.groups.map fun g => g.idx := by
    show (b.groups.map fun g => g.loseLatches 0xFFFFFFFF).map (fun g => g.idx) = _
    rw [List.map_map]
    exact List.map_congr_left fun g _ => (g.loseLatches_keeps 0xFFFFFFFF).1
  have himage : lost.image core slot true (lost.groups.map fun g => g.idx) = b.image core slot true (b.groups.map fun g => g.idx) := by
    rw [hidx]
    exact b.image_map_groups (fun g => (g.loseLatches_keeps 0xFFFFFFFF).1) (fun g => g.imageBytes_loseLatches 0xFFFFFFFF) core slot _
  have hsave : s.saveBlock core slot b = (((s.settleLoc core slot).vWriteLogged b.ctx a
      (b.image core slot true (b.groups.map fun g => g.idx))).makeAbsent core slot lost a).countEvicts core lost.leavers := by
    rw [← himage]
    unfold State.saveBlock
    rw [ha]
    dsimp only
    rw [if_neg (Nat.not_le.2 hroom)]
  have hsettle : OnlyRecords s (s.settleLoc core slot) := ⟨rfl, fun _ => rfl⟩
  have hrec := hsettle.trans ((s.settleLoc core slot).vWriteLogged_onlyRecords b.ctx a
    (b.image core slot true (b.groups.map fun g => g.idx)))
  generalize (s.settleLoc core slot).vWriteLogged b.ctx a (b.image core slot true (b.groups.map fun g => g.idx)) = u at hsave hrec
  let new : Absent := { slot := slot, gen := b.gen, ctx := b.ctx, image := a, state := .absent }
  let follow := fun (e : Absent) => if e.state == .moved slot && e.ctx == lost.ctx then { e with state := .absent, image := a } else e
  let v := u.modCore core fun k => { k with absent := k.absent.map follow ++ [new] }
  have hvcore : ∀ c, v.core c = if c = core then { u.core core with absent := (u.core core).absent.map follow ++ [new] } else u.core c :=
    fun c => State.core_modCore u core c _
  have hvblock : ∀ c k, v.block c k = s.block c k := fun c k => by
    rw [← hrec.block]
    unfold State.block
    rw [hvcore]
    split
    · rename_i h; rw [h]
    · rfl
  have hvn : v.noneGather core := fun x hx => hn x (by
    rw [hvcore, if_pos rfl] at hx
    rw [← hrec.core]
    exact hx)
  have hcores : (s.saveBlock core slot b).cores = (v.freeBlock core slot lost).cores := by rw [hsave]; rfl
  have hhalts : (s.saveBlock core slot b).halts = (v.freeBlock core slot lost).halts := by rw [hsave]; rfl
  have hstill := State.quiet_after hcores hhalts (State.freeBlock_noneGather hvn slot lost)
    (fun h hh => hs h (by rw [← hrec.halts]; exact hh))
  refine ⟨_, hexec, ?_, ?_, ⟨new, ?_, rfl⟩, ?_⟩
  · rw [hstill]
    refine Emptied.of_cores (t := v.freeBlock core slot lost) (fun c k => ?_) hcores
    rw [State.freeBlock_emptied v core slot lost c k, hvblock]
  · rw [hstill, hsave]
    rfl
  · rw [hstill]
    unfold State.core
    rw [hcores]
    show new ∈ ((v.freeBlock core slot lost).core core).absent
    rw [State.core_freeBlock, if_pos rfl, hvcore, if_pos rfl]
    exact List.mem_filter.2 ⟨List.mem_append_right _ (List.mem_singleton_self _), rfl⟩
  · rw [hstill, hsave]
    exact ⟨_, List.mem_append_right _ (List.mem_singleton_self _), rfl, rfl, rfl, rfl, rfl, rfl⟩

end

/-! ## BLOCK_RESTORE (R445, R447, R193) -/

/-- A group that returns keeps its registers. -/
theorem Group.restore_keeps (g : Group) (part since : Nat) :
    (g.restore part since).v = g.v ∧ (g.restore part since).s = g.s ∧ (g.restore part since).mode = g.mode := by
  obtain ⟨th, ops, h, -⟩ := loseLatches_rest g 0xFFFFFFFF
  unfold Group.restore
  rw [h]
  exact ⟨rfl, rfl, rfl⟩

theorem returnGroups_keeps (since : Nat) (gs : List Group) : ∀ (ps : List Nat) (g : Nat),
    (listGet Group.empty (returnGroups since gs ps) g).v = (listGet Group.empty gs g).v ∧
    (listGet Group.empty (returnGroups since gs ps) g).s = (listGet Group.empty gs g).s ∧
    (listGet Group.empty (returnGroups since gs ps) g).mode = (listGet Group.empty gs g).mode := by
  induction gs with
  | nil => exact fun _ _ => ⟨rfl, rfl, rfl⟩
  | cons y gs ih =>
    intro ps g
    unfold returnGroups
    split
    · cases g with
      | zero => exact ⟨rfl, rfl, rfl⟩
      | succ g => exact ih ps g
    · cases g with
      | zero => exact y.restore_keeps ..
      | succ g => exact ih (ps.drop 1) g

theorem State.absent_bound (s : State) (core slot : Nat) (fused : Bool) (groups c : Nat) :
    ((s.bound core slot fused groups).core c).absent = (s.core c).absent := by
  obtain ⟨x, y, -, hf⟩ := s.setFused_places core fused
  have hcore : (s.bound core slot fused groups).core c = ((s.setFused core fused).bindSlot core slot).core c := rfl
  have habsent : ((s.setFused core fused).core c).absent = (s.core c).absent := (congrArg Core.absent (hf c) :)
  rw [hcore, State.core_bindSlot, ← habsent]
  split
  · rename_i h; rw [h]
  · rfl

/-- The absent-block table of a core that a block returns to: its entries become aliases. -/
def Saved.aliased (x : Saved) (slot : Nat) (l : List Absent) : List Absent :=
  l.map fun e => if e.ctx == x.ctx && e.image == x.image && e.state == .absent then { e with state := .moved slot } else e

/-- A block that returns to its core, in a slot that is bound anew. -/
def State.returned (s : State) (x : Saved) (parts : List Nat) (gen : Word) (n : Nat) : Block :=
  { s.imageBlock x with
    gen := gen, names := (s.imageBlock x).allNames x.core x.slot, leaving := false, sealed := 0
    since := (s.imageBlock x).since + (s.time - x.at_), groups := returnGroups n (s.imageBlock x).groups parts }

/-- A block that returns to its own slot. -/
def State.returnedOwn (s : State) (x : Saved) (parts : List Nat) (n : Nat) : Block :=
  { s.imageBlock x with
    since := (s.imageBlock x).since + (s.time - x.at_), groups := returnGroups n (s.imageBlock x).groups parts }

section
variable {s : State} {x : Saved}

theorem State.putBlock_own (slot : Nat) (parts : List Nat) : ∃ v n, v = s.bound x.core slot (s.imageBlock x).nodeRec.kern.fused 0 ∧
    s.putBlock x x.core slot parts =
      ({ v.setBlock x.core slot { s.returned x parts (v.slotGen x.core slot) n with
          since := (s.imageBlock x).since + (v.time - x.at_) } with
        saved := v.saved.filter (· != x) } : State).modCore x.core fun k => { k with absent := x.aliased slot k.absent } := by
  refine ⟨_, ((s.setFused x.core (s.imageBlock x).nodeRec.kern.fused).bindSlot x.core slot).nextId, rfl, ?_⟩
  unfold State.putBlock
  dsimp only
  rw [if_pos rfl, if_pos rfl]
  rfl

/-- What a change of the absent-block table leaves: every block. -/
theorem State.block_modAbsent (u : State) (core : Nat) (f : List Absent → List Absent) (c k : Nat) :
    (u.modCore core fun y => { y with absent := f y.absent }).block c k = u.block c k := by
  unfold State.block
  rw [State.core_modCore]
  split
  · rename_i h; rw [h]
  · rfl

theorem State.not_mem_filter_ne (l : List Saved) : x ∉ l.filter (· != x) := fun h => by simpa using (List.mem_filter.1 h).2

/-- A whole block returns to a free slot of its core under a new generation. -/
theorem State.putBlock_spec (slot : Nat) (parts : List Nat) : ∃ b, Taken x.core slot b s (s.putBlock x x.core slot parts) ∧
    x ∉ (s.putBlock x x.core slot parts).saved ∧
    (∃ n, b = s.returned x parts (s.slotGen x.core slot + 1) n) ∧
    ∀ e ∈ (s.core x.core).absent, e.ctx = x.ctx → e.image = x.image → e.state = .absent →
      { e with state := .moved slot } ∈ ((s.putBlock x x.core slot parts).core x.core).absent := by
  obtain ⟨v, n, hv, hput⟩ := State.putBlock_own (s := s) (x := x) slot parts
  have habsent : (v.core x.core).absent = (s.core x.core).absent := by rw [hv]; exact s.absent_bound ..
  obtain ⟨c, l, i, hplaces, -, hgen, hblock⟩ := s.bound_withPlaces x.core slot (s.imageBlock x).nodeRec.kern.fused 0
  rw [hplaces] at hv
  subst hv
  rw [hgen] at hput
  refine ⟨s.returned x parts (s.slotGen x.core slot + 1) n, fun d k => ?_, ?_, ⟨n, rfl⟩, fun e he hctx himage hstate => ?_⟩ <;> rw [hput]
  · rw [State.block_modAbsent (f := x.aliased slot)]
    exact (State.block_setBlock (s.withPlaces c l i) x.core slot d k _).trans (by rw [hblock]; rfl)
  · exact State.not_mem_filter_ne _
  · rw [State.core_modCore, if_pos rfl]
    refine List.mem_map.2 ⟨e, ?_, by rw [hctx, himage, hstate]; simp⟩
    show e ∈ ((State.setBlock _ x.core slot _).core x.core).absent
    unfold State.setBlock
    rw [State.core_modCore, if_pos rfl]
    show e ∈ ((s.withPlaces c l i).core x.core).absent
    rw [habsent]
    exact he

/-- The absent-block table of a core that a block returns to, in its own slot. -/
def Saved.ownAliased (x : Saved) (b : Block) (l : List Absent) : List Absent :=
  l.filter (fun e => !(e.ctx == x.ctx && e.image == x.image)) ++ b.aliases x.core x.image (.moved x.slot)

theorem State.putBack_own (parts : List Nat) : ∃ v n b, v = (s.setFused x.core (s.imageBlock x).nodeRec.kern.fused).fresh.2 ∧
    s.putBack x parts =
      ({ v.setBlock x.core x.slot { s.returnedOwn x parts n with since := (s.imageBlock x).since + (v.time - x.at_) } with
        saved := v.saved.filter (· != x) } : State).modCore x.core fun k => { k with absent := x.ownAliased b k.absent } :=
  ⟨_, (s.setFused x.core (s.imageBlock x).nodeRec.kern.fused).nextId, _, rfl, rfl⟩

/-- After a rollback a whole block returns to its own slot with its own generation. -/
theorem State.putBack_spec (parts : List Nat) : ∃ b, Taken x.core x.slot b s (s.putBack x parts) ∧ x ∉ (s.putBack x parts).saved ∧
    ∃ n, b = s.returnedOwn x parts n := by
  obtain ⟨v, n, b, hv, hput⟩ := State.putBack_own (s := s) (x := x) parts
  obtain ⟨c, l, hplaces, hfused⟩ := s.setFused_places x.core (s.imageBlock x).nodeRec.kern.fused
  have hblock : ∀ d k, v.block d k = s.block d k := fun d k => by rw [hv]; exact hfused.block d k
  have htime : v.time = s.time := by rw [hv, hplaces]; rfl
  rw [htime] at hput
  refine ⟨s.returnedOwn x parts n, fun d k => ?_, ?_, n, rfl⟩ <;> rw [hput]
  · rw [State.block_modAbsent (f := x.ownAliased b)]
    exact (State.block_setBlock v x.core x.slot d k _).trans (by rw [hblock]; rfl)
  · exact State.not_mem_filter_ne _

/-- What a whole block's restore to its core comes to. -/
theorem execBlockRestore_own {k slot : Nat} {parts : List Nat} (hx : s.saved[k]? = some x) (hwhole : x.whole = true)
    (hwait : s.deviceWaits x.ctx = false) (hin : x ∈ s.savedPool (s.sys.dieOfCore x.core))
    (hsaved : ∀ y ∈ s.savedPool (s.sys.dieOfCore x.core), y.rank.before x.rank = false)
    (hpool : ∀ y ∈ s.pool (s.sys.dieOfCore x.core), y.rank.before x.rank = false)
    (hacc : s.accept x.core x.blk.nodeRec.kern x.allots = some parts) :
    (x.fixed = true → s.block x.core x.slot = none → exec (.blockRestore k x.core) s = .next (s.putBack x parts)) ∧
    (x.fixed = false → s.freeSlot x.core = some slot → exec (.blockRestore k x.core) s = .next (s.putBlock x x.core slot parts)) := by
  have hlive : s.coreLive x.core = true := by
    unfold State.accept at hacc
    split at hacc
    · rename_i h
      simp only [Bool.and_eq_true] at h
      exact h.1.1
    · cases hacc
  have hcores : (s.returnCores x).contains x.core = true := by
    unfold State.returnCores
    rw [hlive, Bool.or_true, if_pos rfl]
    simp
  have hexec : exec (.blockRestore k x.core) s = .next (s.restoreBlock x x.core) := by
    have h1 : (s.savedPool (s.sys.dieOfCore x.core)).any (fun y => y.rank.before x.rank) = false :=
      List.any_eq_false.2 fun y hy => by simp [hsaved y hy]
    have h2 : (s.pool (s.sys.dieOfCore x.core)).any (fun y => y.rank.before x.rank) = false :=
      List.any_eq_false.2 fun y hy => by simp [hpool y hy]
    have h3 : (s.savedPool (s.sys.dieOfCore x.core)).contains x = true := List.contains_iff_mem.2 hin
    show execBlockRestore k x.core s = _
    unfold execBlockRestore
    rw [hx]
    dsimp only
    rw [hwait, h1, h2, h3, if_neg (by decide), if_pos hwhole]
  rw [hexec]
  unfold State.restoreBlock
  rw [hcores]
  refine ⟨fun hf hb => ?_, fun hf hb => ?_⟩ <;> rw [hf, hacc, hb]
  · simp
  · simp

/-- A whole block returns to its core. -/
theorem State.restoresBlock {k slot : Nat} {parts : List Nat} (hx : s.saved[k]? = some x) (hwhole : x.whole = true)
    (hwait : s.deviceWaits x.ctx = false) (hin : x ∈ s.savedPool (s.sys.dieOfCore x.core))
    (hsaved : ∀ y ∈ s.savedPool (s.sys.dieOfCore x.core), y.rank.before x.rank = false)
    (hpool : ∀ y ∈ s.pool (s.sys.dieOfCore x.core), y.rank.before x.rank = false)
    (hacc : s.accept x.core x.blk.nodeRec.kern x.allots = some parts)
    (hslot : if x.fixed then slot = x.slot ∧ s.block x.core slot = none else s.freeSlot x.core = some slot) :
    ∃ t b, exec (.blockRestore k x.core) s = .next t ∧ Taken x.core slot b s t ∧ x ∉ t.saved ∧
      b.gen = (if x.fixed then x.blk.gen else s.slotGen x.core slot + 1) ∧ (x.fixed = false → b.leaving = false) ∧ b.task = x.blk.task ∧
      b.acc = x.blk.acc ∧ b.tiles = x.blk.tiles ∧
      b.mem = (s.imageBlock x).mem ∧ b.since = x.blk.since + (s.time - x.at_) ∧
      (∀ g, (b.group g).v = (x.blk.group g).v ∧ (b.group g).s = (x.blk.group g).s ∧ (b.group g).mode = (x.blk.group g).mode) ∧
      (x.fixed = false → ∀ e ∈ (s.core x.core).absent, e.ctx = x.ctx → e.image = x.image → e.state = .absent →
        { e with state := .moved slot } ∈ (t.core x.core).absent) := by
  obtain ⟨hback, hput⟩ := execBlockRestore_own (slot := slot) hx hwhole hwait hin hsaved hpool hacc
  cases hf : x.fixed with
  | true =>
    rw [hf, if_pos rfl] at hslot
    obtain ⟨rfl, hfree⟩ := hslot
    obtain ⟨b, htaken, hgone, n, rfl⟩ := State.putBack_spec (s := s) (x := x) parts
    exact ⟨_, _, hback hf hfree, htaken, hgone, rfl, fun h => (by cases h), rfl, rfl, rfl, rfl, rfl, fun g => returnGroups_keeps n x.blk.groups parts g,
      fun h => (by cases h)⟩
  | false =>
    rw [hf, if_neg Bool.false_ne_true] at hslot
    obtain ⟨b, htaken, hgone, ⟨n, rfl⟩, halias⟩ := State.putBlock_spec (s := s) (x := x) slot parts
    exact ⟨_, _, hput hf hslot, htaken, hgone, rfl, fun _ => rfl, rfl, rfl, rfl, rfl, rfl, fun g => returnGroups_keeps n x.blk.groups parts g,
      fun _ => halias⟩

end

/-! ## Members of a caravan halt (R176, R448) -/

theorem KMap.find_mapKey {α β : Type} (f : Nat → α → β) (m : KMap α) (k : Nat) :
    KMap.find (m.map fun x => (x.1, f x.1 x.2)) k = (KMap.find m k).map (f k) := by
  induction m with
  | nil => rfl
  | cons p m ih =>
    show (if k = p.1 then some (f p.1 p.2) else _) = Option.map (f k) (if k = p.1 then some p.2 else _)
    by_cases h : k = p.1
    · rw [if_pos h, if_pos h, h]
      rfl
    · rw [if_neg h, if_neg h]
      exact ih

theorem KMap.get_mapKey {α β : Type} (f : Nat → α → β) (d : α) (m : KMap α) (k : Nat) :
    KMap.get (f k d) (m.map fun x => (x.1, f x.1 x.2)) k = f k (KMap.get d m k) := by
  induction m with
  | nil => rfl
  | cons p m ih =>
    show (if k = p.1 then f p.1 p.2 else _) = f k (if k = p.1 then p.2 else _)
    by_cases h : k = p.1
    · rw [if_pos h, if_pos h, h]
    · rw [if_neg h, if_neg h]
      exact ih

/-- A member of a list changes, another block does not. -/
def State.memberMap (s : State) (c : Nat) (ms : List Dword) (f : Nat → Nat → Block → Block) (core slot : Nat) (b : Block) : Block :=
  if b.ctx = c ∧ s.onList ms core slot b = true then f core slot b else b

/-- A core with its blocks changed. -/
def Core.mapSlots (k : Core) (f : Nat → Block → Block) : Core := { k with slots := k.slots.map fun (y : Nat × Block) => (y.1, f y.1 y.2) }

/-- Saved work with a whole block changed. -/
def Saved.mapWhole (x : Saved) (f : Nat → Nat → Block → Block) : Saved := if x.whole then { x with blk := f x.core x.slot x.blk } else x

section
variable (s : State) (c : Nat) (ms : List Dword) (f : Nat → Nat → Block → Block)

theorem State.modMembers_eq : s.modMembers c ms f = { s with
    cores := s.cores.map fun (x : Nat × Core) => (x.1, x.2.mapSlots (s.memberMap c ms f x.1))
    saved := s.saved.map fun x => x.mapWhole (s.memberMap c ms f) } := by
  have hmap : ∀ core slot b, (if b.ctx == c && s.onList ms core slot b then f core slot b else b) = s.memberMap c ms f core slot b :=
    fun core slot b => by
      unfold State.memberMap
      simp only [Bool.and_eq_true, beq_iff_eq]
  unfold State.modMembers
  simp only [hmap]
  rfl

theorem State.modMembers_rest : { s.modMembers c ms f with cores := s.cores, saved := s.saved } = s := by
  rw [State.modMembers_eq]

theorem State.modMembers_block (k j : Nat) : (s.modMembers c ms f).block k j = (s.block k j).map (s.memberMap c ms f k j) := by
  have hcore : (s.modMembers c ms f).core k = (s.core k).mapSlots (s.memberMap c ms f k) := by
    rw [State.modMembers_eq]
    exact KMap.get_mapKey (fun n (x : Core) => x.mapSlots (s.memberMap c ms f n)) {} s.cores k
  unfold State.block
  rw [hcore]
  exact KMap.find_mapKey (s.memberMap c ms f k) (s.core k).slots j

theorem State.modMembers_saved : (s.modMembers c ms f).saved = s.saved.map fun x => x.mapWhole (s.memberMap c ms f) := by
  rw [State.modMembers_eq]

theorem State.modMembers_congr {g : Nat → Nat → Block → Block}
    (h : ∀ core slot b, b.ctx = c → s.onList ms core slot b = true → f core slot b = g core slot b) :
    s.modMembers c ms f = s.modMembers c ms g := by
  have hmap : s.memberMap c ms f = s.memberMap c ms g := by
    funext core slot b
    unfold State.memberMap
    split
    · rename_i hb
      exact h core slot b hb.1 hb.2
    · rfl
  rw [State.modMembers_eq, State.modMembers_eq, hmap]

/-- The members of a list are held at a chunk, or at none. -/
def State.holdMembers (s : State) (c : Nat) (ms : List Dword) (x : Option Word) : State :=
  s.modMembers c ms fun _ _ b => { b with halt := x }

theorem State.memberMap_twice (x y : Option Word) (core slot : Nat) (b : Block) :
    s.memberMap c ms (fun _ _ b => { b with halt := y }) core slot (s.memberMap c ms (fun _ _ b => { b with halt := x }) core slot b) =
      s.memberMap c ms (fun _ _ b => { b with halt := y }) core slot b := by
  unfold State.memberMap
  by_cases h : b.ctx = c ∧ s.onList ms core slot b = true
  · rw [if_pos h, if_pos h, if_pos (show ({ b with halt := x } : Block).ctx = c ∧ s.onList ms core slot { b with halt := x } = true from h)]
  · rw [if_neg h]

/-- Lists name the blocks of a package alone. -/
theorem State.memberMap_congr {u : State} (hu : u.sys.pkg = s.sys.pkg) : u.memberMap c ms f = s.memberMap c ms f := by
  funext core slot b
  have hlist : u.onList ms core slot b = s.onList ms core slot b := by
    unfold State.onList State.memberWord
    rw [hu]
  unfold State.memberMap
  rw [hlist]

/-- What members are held at last counts. -/
theorem State.holdMembers_twice (x y : Option Word) (l : List Halt) :
    ({ s.holdMembers c ms x with halts := l } : State).holdMembers c ms y = ({ s with halts := l } : State).holdMembers c ms y := by
  let fx := s.memberMap c ms fun _ _ b => { b with halt := x }
  let fy := s.memberMap c ms fun _ _ b => { b with halt := y }
  have htwice : ∀ core slot b, fy core slot (fx core slot b) = fy core slot b := s.memberMap_twice c ms x y
  have h0 : s.holdMembers c ms x = { s with
      cores := s.cores.map fun (z : Nat × Core) => (z.1, z.2.mapSlots (fx z.1)), saved := s.saved.map fun z => z.mapWhole fx } :=
    State.modMembers_eq ..
  have hy : ∀ u : State, u.sys.pkg = s.sys.pkg → u.holdMembers c ms y = { u with
      cores := u.cores.map fun (z : Nat × Core) => (z.1, z.2.mapSlots (fy z.1)), saved := u.saved.map fun z => z.mapWhole fy } := fun u hu => by
    unfold State.holdMembers
    rw [State.modMembers_eq, State.memberMap_congr s c ms _ hu]
  have hcores : (s.cores.map fun (z : Nat × Core) => (z.1, z.2.mapSlots (fx z.1))).map (fun (z : Nat × Core) => (z.1, z.2.mapSlots (fy z.1))) =
      s.cores.map fun (z : Nat × Core) => (z.1, z.2.mapSlots (fy z.1)) := by
    rw [List.map_map]
    refine List.map_congr_left fun z _ => congrArg (Prod.mk z.1) ?_
    have hslots : (z.2.slots.map fun (w : Nat × Block) => (w.1, fx z.1 w.1 w.2)).map (fun (w : Nat × Block) => (w.1, fy z.1 w.1 w.2)) =
        z.2.slots.map fun (w : Nat × Block) => (w.1, fy z.1 w.1 w.2) := by
      rw [List.map_map]
      exact List.map_congr_left fun w _ => congrArg (Prod.mk w.1) (htwice z.1 w.1 w.2)
    exact congrArg (fun l => { z.2 with slots := l }) hslots
  have hsaved : (s.saved.map fun z => z.mapWhole fx).map (fun z => z.mapWhole fy) = s.saved.map fun z => z.mapWhole fy := by
    rw [List.map_map]
    refine List.map_congr_left fun z _ => ?_
    rw [Function.comp_apply]
    unfold Saved.mapWhole
    by_cases hw : z.whole = true
    · rw [if_pos hw, if_pos hw, if_pos (show ({ z with blk := fx z.core z.slot z.blk } : Saved).whole = true from hw), htwice]
    · rw [if_neg hw, if_neg hw]
  rw [h0]
  refine (hy { s with
    cores := s.cores.map fun (z : Nat × Core) => (z.1, z.2.mapSlots (fx z.1)), saved := s.saved.map fun z => z.mapWhole fx
    halts := l } rfl).trans (Eq.trans ?_ (hy { s with halts := l } rfl).symm)
  dsimp only
  rw [hcores, hsaved]

end

/-! ## Declarations (R176) -/

/-- A halt that reports reach. -/
def Halt.hear (h : Halt) (rs : List (BitVec 12 × Word)) : Halt :=
  rs.foldl (fun (h : Halt) r =>
    if (packagesOf h.members).contains r.1 && !h.heard.any (fun x => x.1 == r.1) then { h with heard := h.heard ++ [r] } else h) h

/-- The same, with the halt chunk agreed where every package has reported. -/
def Halt.hears (h : Halt) (rs : List (BitVec 12 × Word)) : Halt :=
  if h.chunk.isNone then { h.hear rs with chunk := if (h.hear rs).waiting then none else (h.hear rs).agreed } else h

theorem Halt.hear_new (rs : List (BitVec 12 × Word)) : ∀ h : Halt, (∀ r ∈ rs, r.1 ∈ packagesOf h.members) →
    (∀ r ∈ rs, ∀ x ∈ h.heard, x.1 ≠ r.1) → (rs.map (·.1)).Nodup → h.hear rs = { h with heard := h.heard ++ rs } := by
  induction rs with
  | nil =>
    intro h _ _ _
    unfold Halt.hear
    rw [List.foldl_nil, List.append_nil]
  | cons r rs ih =>
    intro h hin hnew hdup
    rw [List.map_cons, List.nodup_cons] at hdup
    have hno : h.heard.any (fun x => x.1 == r.1) = false :=
      List.any_eq_false.2 fun x hx => by simpa using hnew r List.mem_cons_self x hx
    have hpk : (packagesOf h.members).contains r.1 = true := List.contains_iff_mem.2 (hin r List.mem_cons_self)
    have hstep : h.hear (r :: rs) = ({ h with heard := h.heard ++ [r] } : Halt).hear rs := by
      unfold Halt.hear
      rw [List.foldl_cons, hno, hpk]
      rfl
    rw [hstep]
    refine (ih { h with heard := h.heard ++ [r] } (fun x hx => hin x (List.mem_cons_of_mem r hx)) (fun x hx y hy => ?_) hdup.2).trans ?_
    · rcases List.mem_append.1 hy with hy | hy
      · exact hnew x (List.mem_cons_of_mem r hx) y hy
      · rw [List.mem_singleton.1 hy]
        exact fun e => hdup.1 (e ▸ List.mem_map_of_mem hx)
    · dsimp only
      rw [List.append_assoc]
      rfl

theorem State.is_of_ctx {h : Halt} {c : Nat} (hc : h.ctx ≠ c) (ms : List Dword) : h.is c ms = false := by
  unfold Halt.is
  rw [beq_eq_false_iff_ne.2 hc, Bool.false_and]

section
variable {u : State} {c : Nat} {ms : List Dword} {l : List Halt} {h : Halt} (hl : ∀ x ∈ l, x.ctx ≠ c) (hc : h.ctx = c)
  (hms : h.members = ms) (hw : h.waiting = false)
include hl hc hms hw

/-- A member of the one halt of its context is held at that halt's chunk. -/
theorem State.haltFor_one (hu : u.halts = l ++ [h]) {core slot : Nat} {b : Block} (hb : b.ctx = c) (hon : u.onList ms core slot b = true) :
    u.haltFor core slot b = h.chunk := by
  have hfilter : u.halts.filter (fun h => !h.waiting && u.memberOf h core slot b) = [h] := by
    have hothers : l.filter (fun h => !h.waiting && u.memberOf h core slot b) = [] := List.filter_eq_nil_iff.2 fun x hx => by
      unfold State.memberOf
      rw [hb, beq_eq_false_iff_ne.2 (hl x hx)]
      simp
    have hown : (!h.waiting && u.memberOf h core slot b) = true := by
      unfold State.memberOf
      rw [hw, hc, hb, hms, hon, beq_self_eq_true]
      rfl
    rw [hu, List.filter_append, hothers, List.nil_append]
    exact List.filter_cons_of_pos hown
  unfold State.haltFor
  rw [hfilter, List.filterMap_cons]
  cases h.chunk <;> rfl

theorem State.hearChunks_one (hu : u.halts = l ++ [h]) (rs : List (BitVec 12 × Word)) : u.hearChunks c ms rs =
    ({ u with halts := l ++ [h.hears rs] } : State).holdMembers c ms (h.hears rs).chunk := by
  have hhear : ∀ h : Halt, (h.hear rs).ctx = h.ctx ∧ (h.hear rs).members = h.members ∧ (h.hear rs).waiting = h.waiting := by
    unfold Halt.hear
    induction rs with
    | nil => exact fun _ => ⟨rfl, rfl, rfl⟩
    | cons r rs ih =>
      intro h
      rw [List.foldl_cons]
      have := ih (if (packagesOf h.members).contains r.1 && !h.heard.any (fun x => x.1 == r.1) then { h with heard := h.heard ++ [r] } else h)
      refine ⟨this.1.trans ?_, this.2.1.trans ?_, this.2.2.trans ?_⟩ <;> split <;> rfl
  have hhears : (h.hears rs).ctx = c ∧ (h.hears rs).members = ms ∧ (h.hears rs).waiting = false := by
    unfold Halt.hears
    split
    · exact ⟨(hhear h).1.trans hc, (hhear h).2.1.trans hms, (hhear h).2.2.trans hw⟩
    · exact ⟨hc, hms, hw⟩
  have hhalts : (u.halts.map fun h => if h.is c ms && h.chunk.isNone then
      { h.hear rs with chunk := if (h.hear rs).waiting then none else (h.hear rs).agreed } else h) = l ++ [h.hears rs] := by
    rw [hu, List.map_append]
    congr 1
    · conv_rhs => rw [← List.map_id l]
      refine List.map_congr_left fun x hx => ?_
      rw [State.is_of_ctx (hl x hx), Bool.false_and]
      rfl
    · have his : h.is c ms = true := by
        unfold Halt.is
        rw [hc, hms, beq_self_eq_true, beq_self_eq_true]
        rfl
      rw [List.map_singleton, his, Bool.true_and]
      rfl
  have heq : u.hearChunks c ms rs = ({ u with halts := u.halts.map fun h => if h.is c ms && h.chunk.isNone then
      { h.hear rs with chunk := if (h.hear rs).waiting then none else (h.hear rs).agreed } else h } : State).modMembers c ms
        fun core slot b => { b with halt := ({ u with halts := u.halts.map fun h => if h.is c ms && h.chunk.isNone then
          { h.hear rs with chunk := if (h.hear rs).waiting then none else (h.hear rs).agreed } else h } : State).haltFor core slot b } := rfl
  rw [heq, hhalts]
  refine State.modMembers_congr _ c ms _ fun core slot b hb hon => ?_
  rw [State.haltFor_one hl hhears.1 hhears.2.1 hhears.2.2 rfl hb hon]

end

/-! ## A halt begins (R176) -/

/-- A halt of this package's members begins, held at a chunk where it is agreed. -/
structure HaltStarts (s : State) (c : Nat) (ms : List Dword) (x : Option Word) (t : State) : Prop where
  blocks : ∀ k j, t.block k j = (s.block k j).map fun b => if b.ctx = c ∧ s.onList ms k j b = true then { b with halt := x } else b
  saved : t.saved = (s.saved.map fun y => if y.whole then { y with
    blk := if y.blk.ctx = c ∧ s.onList ms y.core y.slot y.blk = true then { y.blk with halt := x } else y.blk } else y)
  halt : ∃ h ∈ t.halts, h.ctx = c ∧ h.members = ms ∧ h.chunk = x ∧ h.waiting = false ∧ h.complete = false
  report : FabMsg.chunkReport c ((s.memberBlocks c ms).map fun y => y.2.2.chunk.getD 0) ∈ t.out

/-- What one more than the largest declaration is. -/
def State.haltChunk (s : State) (c : Nat) (ms : List Dword) (rs : List (BitVec 12 × Word)) : Word :=
  wd (((s.sys.pkg, wd (s.maxChunk c ms)) :: rs).foldl (fun m r => max m r.2.toNat) 0 + 1)

/-- A halt as it has heard its own package and others. -/
def State.haltHeard (s : State) (c : Nat) (ms : List Dword) (rs : List (BitVec 12 × Word)) (x : Option Word) : Halt :=
  { ctx := c, members := ms, chunk := x, waiting := false, complete := false, heard := (s.sys.pkg, wd (s.maxChunk c ms)) :: rs }

/-- A halt of a context that begins, with what has been sent. -/
def State.haltBegun (s : State) (c : Nat) (ms : List Dword) (h : Halt) (out : List FabMsg) : State :=
  ({ s with halts := s.halts ++ [h], out := out } : State).holdMembers c ms h.chunk

section
variable {s : State} {c : Nat} {ms : List Dword}

theorem State.haltBegun_starts {rs : List (BitVec 12 × Word)} {x : Option Word} {out : List FabMsg}
    (hout : FabMsg.chunkReport c ((s.memberBlocks c ms).map fun y => y.2.2.chunk.getD 0) ∈ out) :
    HaltStarts s c ms x (s.haltBegun c ms (s.haltHeard c ms rs x) out) := by
  have hrest := State.modMembers_rest ({ s with halts := s.halts ++ [s.haltHeard c ms rs x], out := out }) c ms fun _ _ b => { b with halt := x }
  refine ⟨fun k j => State.modMembers_block .., State.modMembers_saved .., ⟨s.haltHeard c ms rs x, ?_, rfl, rfl, rfl, rfl, rfl⟩, ?_⟩
  · have : (s.haltBegun c ms (s.haltHeard c ms rs x) out).halts = s.halts ++ [s.haltHeard c ms rs x] := (congrArg State.halts hrest :)
    rw [this]
    exact List.mem_append_right _ (List.mem_singleton_self _)
  · have : (s.haltBegun c ms (s.haltHeard c ms rs x) out).out = out := (congrArg State.out hrest :)
    rw [this]
    exact hout

/-- The chunk is agreed once every other package has reported. -/
theorem State.haltHeard_agreed (rs : List (BitVec 12 × Word)) (x : Option Word) :
    ((∀ p ∈ s.otherPackages ms, p ∈ rs.map (·.1)) → (s.haltHeard c ms rs x).agreed = some (s.haltChunk c ms rs)) ∧
    ((∃ p ∈ s.otherPackages ms, p ∉ rs.map (·.1)) → (s.haltHeard c ms rs x).agreed = none) := by
  have hiff : (packagesOf ms).all (fun p => ((s.sys.pkg, wd (s.maxChunk c ms)) :: rs).any fun x => x.1 == p) = true ↔
      ∀ p ∈ s.otherPackages ms, p ∈ rs.map (·.1) := by
    unfold State.otherPackages
    simp only [List.all_eq_true, List.any_cons, Bool.or_eq_true, beq_iff_eq, List.any_eq_true, List.mem_filter, bne_iff_ne, List.mem_map]
    exact ⟨fun h p hp => (h p hp.1).resolve_left fun e => hp.2 e.symm, fun h p hp => or_iff_not_imp_left.2 fun e => h p ⟨hp, fun e' => e e'.symm⟩⟩
  have heq : (s.haltHeard c ms rs x).agreed =
      if (packagesOf ms).all (fun p => ((s.sys.pkg, wd (s.maxChunk c ms)) :: rs).any fun x => x.1 == p) then some (s.haltChunk c ms rs)
      else none := rfl
  rw [heq]
  exact ⟨fun h => if_pos (hiff.2 h), fun ⟨p, hp, hn⟩ => if_neg fun h => hn (hiff.1 h p hp)⟩

variable (hno : ∀ h ∈ s.halts, h.ctx ≠ c) (hpkg : s.sys.pkg ∈ packagesOf ms)
include hno hpkg

/-- The chunk with this package's report alone. -/
def State.ownChunk (s : State) (c : Nat) (ms : List Dword) : Option Word := (s.haltHeard c ms [] none).agreed

theorem State.startHalt_eq : s.startHalt c ms = s.haltBegun c ms (s.haltHeard c ms [] (s.ownChunk c ms))
    (s.out ++ [FabMsg.chunkReport c ((s.memberBlocks c ms).map fun y => y.2.2.chunk.getD 0)]) := by
  have hfind : s.halts.find? (fun h => h.is c ms) = none :=
    List.find?_eq_none.2 fun x hx => by rw [State.is_of_ctx (hno x hx)]; exact Bool.false_ne_true
  have hfilter : s.halts.filter (fun x => !x.is c ms) = s.halts :=
    List.filter_eq_self.2 fun x hx => by rw [State.is_of_ctx (hno x hx)]; rfl
  let h0 : Halt := { ctx := c, members := ms, chunk := none, waiting := false, complete := false, heard := [] }
  have hhear : h0.hear [(s.sys.pkg, wd (s.maxChunk c ms))] = s.haltHeard c ms [] none := by
    have h := Halt.hear_new [(s.sys.pkg, wd (s.maxChunk c ms))] h0 (fun r hr => by rw [List.mem_singleton.1 hr]; exact hpkg)
      (fun _ _ x hx => absurd hx List.not_mem_nil) (List.nodup_singleton _)
    exact h
  have hhears : h0.hears [(s.sys.pkg, wd (s.maxChunk c ms))] = s.haltHeard c ms [] (s.ownChunk c ms) := by
    unfold Halt.hears
    rw [hhear]
    rfl
  unfold State.startHalt
  dsimp only
  rw [hfind, hfilter, List.contains_iff_mem.2 hpkg, if_pos rfl]
  have h := State.hearChunks_one (u := { s with
      halts := s.halts ++ [h0]
      out := s.out ++ [FabMsg.chunkReport c ((s.memberBlocks c ms).map fun y => y.2.2.chunk.getD 0)] }) (h := h0) hno rfl rfl rfl rfl
    [(s.sys.pkg, wd (s.maxChunk c ms))]
  rw [hhears] at h
  exact h

/-- With other packages' reports. -/
theorem State.startHalt_hears {rs : List (BitVec 12 × Word)} (hdup : (rs.map (·.1)).Nodup) (hrs : ∀ r ∈ rs, r.1 ∈ s.otherPackages ms) :
    ∃ x, (s.startHalt c ms).hearChunks c ms rs = s.haltBegun c ms (s.haltHeard c ms rs x)
      (s.out ++ [FabMsg.chunkReport c ((s.memberBlocks c ms).map fun y => y.2.2.chunk.getD 0)]) ∧
      ((∀ p ∈ s.otherPackages ms, p ∈ rs.map (·.1)) → x = some (s.haltChunk c ms rs)) ∧
      ((∃ p ∈ s.otherPackages ms, p ∉ rs.map (·.1)) → x = none) := by
  have hnew : ∀ r ∈ rs, ∀ y ∈ (s.haltHeard c ms [] (s.ownChunk c ms)).heard, y.1 ≠ r.1 := fun r hr y hy => by
    rw [List.mem_singleton.1 hy]
    have := hrs r hr
    unfold State.otherPackages at this
    simpa using (fun e : s.sys.pkg = r.1 => by simp [← e] at this)
  have hin : ∀ r ∈ rs, r.1 ∈ packagesOf (s.haltHeard c ms [] (s.ownChunk c ms)).members := fun r hr => (List.mem_filter.1 (hrs r hr)).1
  have hhear := Halt.hear_new rs (s.haltHeard c ms [] (s.ownChunk c ms)) hin hnew hdup
  have hheard : ∃ x, (s.haltHeard c ms [] (s.ownChunk c ms)).hears rs = s.haltHeard c ms rs x ∧
      ((∀ p ∈ s.otherPackages ms, p ∈ rs.map (·.1)) → x = some (s.haltChunk c ms rs)) ∧
      ((∃ p ∈ s.otherPackages ms, p ∉ rs.map (·.1)) → x = none) := by
    by_cases hown : ∃ p ∈ s.otherPackages ms, p ∉ ([] : List (BitVec 12 × Word)).map (·.1)
    · have hnone : s.ownChunk c ms = none := (State.haltHeard_agreed [] none).2 hown
      refine ⟨(s.haltHeard c ms rs none).agreed, ?_, (State.haltHeard_agreed rs none).1, (State.haltHeard_agreed rs none).2⟩
      unfold Halt.hears
      rw [hhear, hnone]
      rfl
    · have hall : ∀ p ∈ s.otherPackages ms, p ∈ ([] : List (BitVec 12 × Word)).map (·.1) := fun p hp => by
        by_contra h
        exact hown ⟨p, hp, h⟩
      have hsome : s.ownChunk c ms = some (s.haltChunk c ms []) := (State.haltHeard_agreed [] none).1 hall
      have hempty : rs = [] := List.eq_nil_iff_forall_not_mem.2 fun r hr => List.not_mem_nil (hall r.1 (hrs r hr))
      subst hempty
      refine ⟨s.ownChunk c ms, ?_, fun _ => hsome, fun h => absurd h hown⟩
      unfold Halt.hears
      rw [show (s.haltHeard c ms [] (s.ownChunk c ms)).chunk = some (s.haltChunk c ms []) from hsome]
      rfl
  obtain ⟨x, hx, hsome, hnone⟩ := hheard
  refine ⟨x, ?_, hsome, hnone⟩
  have hhalts : (s.startHalt c ms).halts = s.halts ++ [s.haltHeard c ms [] (s.ownChunk c ms)] := by
    rw [State.startHalt_eq hno hpkg]
    unfold State.haltBegun State.holdMembers
    rw [State.modMembers_eq]
  rw [State.hearChunks_one (ms := ms) hno rfl rfl rfl hhalts, hx, State.startHalt_eq hno hpkg]
  exact State.holdMembers_twice _ c ms _ _ _

end

/-- A halt of a context that no halt holds yet begins at once, where no seal is pending (R187). -/
theorem State.haltCtx_starts {s : State} {c : Nat} {ms : List Dword} (hseal : s.sealPending c = false) (hno : ∀ h ∈ s.halts, h.ctx ≠ c) :
    s.haltCtx c ms = s.startHalt c ms := by
  have hany : s.halts.any (fun h => h.is c ms) = false :=
    List.any_eq_false.2 fun x hx => by rw [State.is_of_ctx (hno x hx)]; exact Bool.false_ne_true
  unfold State.haltCtx
  rw [hany, hseal]
  rfl

/-- Another package's HALT arrives. -/
theorem State.pausesMembers {s : State} {c : Nat} {ms : List Dword} (hfree : (s.ctx c).state ≠ .free) (hseal : s.sealPending c = false)
    (hno : ∀ h ∈ s.halts, h.ctx ≠ c) (hpkg : s.sys.pkg ∈ packagesOf ms) {rs : List (BitVec 12 × Word)} (hdup : (rs.map (·.1)).Nodup)
    (hrs : ∀ r ∈ rs, r.1 ∈ s.otherPackages ms) :
    ((∀ p ∈ s.otherPackages ms, p ∈ rs.map (·.1)) →
      ∃ t, exec (.caravanHaltPause c ⟨ms, rs, false⟩) s = .next t ∧ HaltStarts s c ms (some (s.haltChunk c ms rs)) t) ∧
    ((∃ p ∈ s.otherPackages ms, p ∉ rs.map (·.1)) →
      ∃ t, exec (.caravanHaltPause c ⟨ms, rs, false⟩) s = .next t ∧ HaltStarts s c ms none t) := by
  have hothers : rs.filter (fun r => r.1 != s.sys.pkg) = rs :=
    List.filter_eq_self.2 fun r hr => (List.mem_filter.1 (hrs r hr)).2
  have hexec : exec (.caravanHaltPause c ⟨ms, rs, false⟩) s = .next ((s.startHalt c ms).hearChunks c ms rs) := by
    show Outcome.next (if !(packagesOf ms).contains s.sys.pkg then s else if false = true then _ else if (s.ctx c).state != .free then
      (s.haltCtx c ms).hearChunks c ms (rs.filter fun r => r.1 != s.sys.pkg) else s) = _
    rw [List.contains_iff_mem.2 hpkg, hothers, State.haltCtx_starts hseal hno, if_neg (by decide), if_neg (by decide), if_pos (by simpa using hfree)]
  obtain ⟨x, heq, hsome, hnone⟩ := State.startHalt_hears hno hpkg hdup hrs
  have hstarts := State.haltBegun_starts (s := s) (c := c) (ms := ms) (rs := rs) (x := x) (List.mem_append_right s.out (List.mem_singleton_self _))
  refine ⟨fun h => ⟨_, hexec, ?_⟩, fun h => ⟨_, hexec, ?_⟩⟩ <;> rw [heq]
  · exact hsome h ▸ hstarts
  · exact hnone h ▸ hstarts

/-- A command's end leaves the machine beside the registers of the mailbox alone. -/
theorem HaltStarts.done {s t : State} {c : Nat} {ms : List Dword} {x : Option Word} (h : HaltStarts s c ms x t) (r : Nat) :
    HaltStarts s c ms x (t.done r) := ⟨h.blocks, h.saved, h.halt, h.report⟩

/-- HALT of the host: the members begin to be held, and the other packages are told. -/
theorem State.haltsMembers {s : State} {c : Nat} {ms : List Dword} (hrun : s.running 5 = true) (hc : c = s.arg 0) (hlt : c < 64)
    (hlo : 1 ≤ s.arg 2) (hhi : s.arg 2 ≤ 64) (hms : ms = s.memberList (s.arg 1) (s.arg 2)) (hfree : (s.ctx c).state ≠ .free)
    (hseal : s.sealPending c = false) (hno : ∀ h ∈ s.halts, h.ctx ≠ c) (hpkg : s.sys.pkg ∈ packagesOf ms) :
    ∃ t, exec .halt s = .next t ∧ t.sys.busy = false ∧ t.sys.result = 0 ∧
      HaltStarts s c ms (if s.otherPackages ms = [] then some (s.haltChunk c ms []) else none) t ∧
      ∀ p ∈ s.otherPackages ms, FabMsg.pause c p ms ∈ t.out := by
  let u : State := { s with out := s.out ++ (s.otherPackages ms).map fun p => FabMsg.pause c p ms }
  have hexec : exec .halt s = .next ((u.startHalt c ms).done 0) := by
    have hstart : u.haltCtx c ms = u.startHalt c ms := State.haltCtx_starts (s := u) hseal hno
    rw [← hstart]
    show execHalt s = _
    unfold execHalt
    rw [State.command_of_running hrun]
    subst hc hms
    rw [if_neg (by simp [Nat.not_le.2 hlt, Nat.not_lt.2 hhi, hfree]; omega)]
  have heq := State.startHalt_eq (s := u) (c := c) (ms := ms) hno hpkg
  have hstarts := State.haltBegun_starts (s := u) (c := c) (ms := ms) (rs := []) (x := u.ownChunk c ms)
    (List.mem_append_right u.out (List.mem_singleton_self _))
  rw [← heq] at hstarts
  have hchunk : u.ownChunk c ms = if s.otherPackages ms = [] then some (s.haltChunk c ms []) else none := by
    split
    · rename_i h
      exact (State.haltHeard_agreed (s := u) [] none).1 fun p hp => by
        have : p ∈ s.otherPackages ms := hp
        rw [h] at this
        exact absurd this List.not_mem_nil
    · rename_i h
      obtain ⟨p, hp⟩ := List.exists_mem_of_ne_nil _ h
      exact (State.haltHeard_agreed (s := u) [] none).2 ⟨p, hp, List.not_mem_nil⟩
  rw [hchunk] at hstarts
  have hstarts' : HaltStarts s c ms (if s.otherPackages ms = [] then some (s.haltChunk c ms []) else none) (u.startHalt c ms) :=
    ⟨hstarts.blocks, hstarts.saved, hstarts.halt, hstarts.report⟩
  refine ⟨_, hexec, rfl, rfl, hstarts'.done 0, fun p hp => ?_⟩
  have hout : ((u.startHalt c ms).done 0).out = u.out ++ [FabMsg.chunkReport c ((u.memberBlocks c ms).map fun y => y.2.2.chunk.getD 0)] := by
    rw [heq]
    unfold State.haltBegun State.holdMembers
    rw [State.modMembers_eq]
    rfl
  rw [hout]
  exact List.mem_append_left _ (List.mem_append_right _ (List.mem_map_of_mem hp))

/-! ## A halt completes (R448) -/

theorem KMap.put_mem {α : Type} (m : KMap α) (k : Nat) (v : α) : (k, v) ∈ KMap.put m k v := by
  induction m with
  | nil => exact List.mem_singleton_self _
  | cons p m ih =>
    unfold KMap.put
    split
    · exact List.mem_cons_self
    · split
      · exact List.mem_cons_self
      · exact List.mem_cons_of_mem _ ih

/-- A put replaces at most the entry that is found. -/
theorem KMap.mem_put_or {α : Type} {m : KMap α} {k : Nat} (v : α) {x : Nat × α} (h : x ∈ m) :
    x ∈ KMap.put m k v ∨ (x.1 = k ∧ KMap.find m k = some x.2) := by
  induction m with
  | nil => cases h
  | cons p m ih =>
    have hfind : KMap.find (p :: m) k = if k = p.1 then some p.2 else KMap.find m k := rfl
    unfold KMap.put
    by_cases hk : k = p.1
    · rw [if_pos hk]
      rcases List.mem_cons.1 h with rfl | h
      · exact .inr ⟨hk.symm, by rw [hfind, if_pos hk]⟩
      · exact .inl (List.mem_cons_of_mem _ h)
    · rw [if_neg hk]
      split
      · exact .inl (List.mem_cons_of_mem _ h)
      · rcases List.mem_cons.1 h with rfl | h
        · exact .inl List.mem_cons_self
        · rcases ih h with h | h
          · exact .inl (List.mem_cons_of_mem _ h)
          · exact .inr ⟨h.1, by rw [hfind, if_neg hk]; exact h.2⟩

/-- A block that a list names is in some slot. -/
def State.hasMember (s : State) (c : Nat) (ms : List Dword) : Prop :=
  ∃ k ∈ s.cores, ∃ y ∈ k.2.slots, y.2.ctx = c ∧ s.onList ms k.1 y.1 y.2 = true

/-- Asking a block to leave leaves every member in its slot. -/
theorem State.askBlock_hasMember {s : State} {c : Nat} {ms : List Dword} (h : s.hasMember c ms) (core slot : Nat) :
    (s.askBlock core slot).hasMember c ms := by
  unfold State.askBlock State.modBlock
  split
  · rename_i b hb
    obtain ⟨k, hk, y, hy, hc, hon⟩ := h
    have hcores : (s.setBlock core slot (b.asked s.time)).cores =
        KMap.put s.cores core { s.core core with slots := KMap.put (s.core core).slots slot (b.asked s.time) } := rfl
    show (s.setBlock core slot (b.asked s.time)).hasMember c ms
    unfold State.hasMember
    rw [hcores]
    rcases KMap.mem_put_or { s.core core with slots := KMap.put (s.core core).slots slot (b.asked s.time) } hk with hk | ⟨hkey, hfind⟩
    · exact ⟨k, hk, y, hy, hc, hon⟩
    · subst hkey
      have hcore : s.core k.1 = k.2 := by
        unfold State.core
        rw [KMap.get_of_find, hfind]
        rfl
      refine ⟨_, KMap.put_mem .., ?_⟩
      dsimp only
      rw [hcore]
      rcases KMap.mem_put_or (b.asked s.time) hy with hy | ⟨hkey, hslot⟩
      · exact ⟨y, hy, hc, hon⟩
      · subst hkey
        have hby : b = y.2 := by
          unfold State.block at hb
          rw [hcore, hslot] at hb
          exact (Option.some.inj hb).symm
        subst hby
        exact ⟨_, KMap.put_mem .., hc, hon⟩
  · exact h

/-- Members of this package that are resident, with their places. -/
def State.residents (s : State) (c : Nat) (ms : List Dword) : List (Nat × Nat) :=
  s.cores.flatMap fun (k : Nat × Core) =>
    (k.2.slots.filter fun x => x.2.ctx == c && s.onList ms k.1 x.1 x.2).map fun x => (k.1, x.1)

theorem State.mem_residents {s : State} {c : Nat} {ms : List Dword} {k j : Nat} {b : Block} (hb : s.block k j = some b) (hc : b.ctx = c)
    (hon : s.onList ms k j b = true) : (k, j) ∈ s.residents c ms := by
  have hcore : (k, s.core k) ∈ s.cores := by
    have hget : s.core k = (KMap.find s.cores k).getD {} := KMap.get_of_find ..
    cases hf : KMap.find s.cores k with
    | some x =>
      rw [hget, hf]
      exact KMap.mem_of_find hf
    | none =>
      unfold State.block at hb
      rw [hget, hf] at hb
      cases hb
  refine List.mem_flatMap.2 ⟨_, hcore, List.mem_map.2 ⟨(j, b), List.mem_filter.2 ⟨KMap.mem_of_find hb, ?_⟩, rfl⟩⟩
  dsimp only
  rw [hc, hon, beq_self_eq_true]
  rfl

theorem State.residents_eq_nil {s : State} {c : Nat} {ms : List Dword} (h : ¬ s.hasMember c ms) : s.residents c ms = [] := by
  rw [List.eq_nil_iff_forall_not_mem]
  intro p hp
  obtain ⟨k, hk, hp⟩ := List.mem_flatMap.1 hp
  obtain ⟨y, hy, -⟩ := List.mem_map.1 hp
  obtain ⟨hy, hon⟩ := List.mem_filter.1 hy
  simp only [Bool.and_eq_true, beq_iff_eq] at hon
  exact h ⟨k, hk, y, hy, hon⟩

/-- A halt that has completed and waits for its members to leave. -/
def Halt.completed (x : Halt) (c : Nat) (ms : List Dword) : Halt := if x.is c ms then { x with complete := true, saving := true } else x

/-- A halt of which no member is resident. -/
def State.halted (s : State) (h : Halt) : Bool := h.saving && !s.cores.any fun k => k.2.slots.any fun x => s.memberOf h k.1 x.1 x.2

/-- A halt of which HALTED is posted. -/
def State.toldHalt (s : State) (h : Halt) : Halt := if s.halted h then { h with saving := false } else h

theorem State.tellHalted_eq (s : State) : s.tellHalted = (s.halts.filter s.halted).foldl (fun s h => s.postEvent h.ctx 2 0 0)
    { s with halts := s.halts.map s.toldHalt } := rfl

theorem State.tellHalted_places (s : State) : s.tellHalted.cores = s.cores ∧ s.tellHalted.halts = s.halts.map s.toldHalt := by
  have h : OnlyRecords { s with halts := s.halts.map s.toldHalt } s.tellHalted := by
    rw [State.tellHalted_eq]
    exact OnlyRecords.foldl (f := fun (s : State) (h : Halt) => s.postEvent h.ctx 2 0 0) (fun s h => s.postEvent_onlyRecords h.ctx 2 0 0) _ _
  exact ⟨h.cores, h.halts⟩

/-- The state of a halt whose members are held everywhere: they are asked to leave. -/
def State.haltAsked (s : State) (h : Halt) (c : Nat) (ms : List Dword) : State :=
  (s.residents c ms).foldl (fun (s : State) x => s.askBlock x.1 x.2)
    { s.tellHeld h with halts := (s.tellHeld h).halts.map fun x => x.completed c ms }

theorem State.tellHeld_eq (s : State) (h : Halt) : ∃ out, s.tellHeld h = { s with halts := (s.tellHeld h).halts, out := out } ∧
    ((s.tellHeld h).halts = s.halts ∨ (s.tellHeld h).halts = s.halts.map fun x => if x == h then { x with told := true } else x) := by
  unfold State.tellHeld
  split
  · exact ⟨s.out, rfl, .inl rfl⟩
  · exact ⟨_, rfl, .inr rfl⟩

section
variable {s : State} {c : Nat} {h : Halt} {ms : List Dword} {ps : List (BitVec 12)}

theorem execCaravanHaltComplete_held (hf : s.halts.find? (fun x => x.is c ms && x.chunk.isSome && (!x.complete || x.saving)) = some h)
    (hheld : ∀ x ∈ s.memberBlocks c ms, x.2.2.haltHeld = true) (hps : ∀ p ∈ s.otherPackages ms, p ∈ ps) :
    exec (.caravanHaltComplete ⟨c, ms, ps⟩) s = .next (s.haltAsked h c ms).tellHalted := by
  obtain ⟨out, htell, -⟩ := s.tellHeld_eq h
  have hothers : ((s.tellHeld h).otherPackages ms).all ps.contains = true := by
    have : (s.tellHeld h).otherPackages ms = s.otherPackages ms := by rw [htell]; rfl
    rw [this]
    exact List.all_eq_true.2 fun p hp => List.contains_iff_mem.2 (hps p hp)
  have hres : ∀ l, ({ s.tellHeld h with halts := l } : State).residents c ms = s.residents c ms := fun l => by rw [htell]; rfl
  have hall : (s.memberBlocks c ms).all (fun x => x.2.2.haltHeld) = true := List.all_eq_true.2 hheld
  show execCaravanHaltComplete _ s = _
  unfold execCaravanHaltComplete
  dsimp only
  rw [hf]
  dsimp only
  rw [hall, if_neg (by decide), hothers, if_neg (by decide)]
  unfold State.haltAsked
  rw [← hres]
  rfl

theorem State.haltAsked_places (h : Halt) : (s.haltAsked h c ms).halts = (s.tellHeld h).halts.map (fun x => x.completed c ms) ∧
    (∀ k j b, s.block k j = some b → b.ctx = c → s.onList ms k j b = true → ∃ b', (s.haltAsked h c ms).block k j = some b' ∧ b'.leaving = true) ∧
    (s.hasMember c ms → (s.haltAsked h c ms).hasMember c ms) := by
  obtain ⟨out, htell, -⟩ := s.tellHeld_eq h
  obtain ⟨hrest, hblock⟩ := State.foldl_askBlock (s.residents c ms)
    { s.tellHeld h with halts := (s.tellHeld h).halts.map fun x => x.completed c ms }
  refine ⟨(congrArg State.halts hrest :), fun k j b hb hc hon => ⟨b.asked (s.tellHeld h).time, ?_, rfl⟩, fun hres => ?_⟩
  · have hb' : ({ s.tellHeld h with halts := (s.tellHeld h).halts.map fun x => x.completed c ms } : State).block k j = some b := by
      rw [htell]
      exact hb
    refine (hblock k j).trans ?_
    rw [if_pos (State.mem_residents hb hc hon), hb']
    rfl
  · have hstart : ({ s.tellHeld h with halts := (s.tellHeld h).halts.map fun x => x.completed c ms } : State).hasMember c ms := by
      rw [htell]
      exact hres
    unfold State.haltAsked
    generalize ({ s.tellHeld h with halts := (s.tellHeld h).halts.map fun x => x.completed c ms } : State) = u at hstart
    induction s.residents c ms generalizing u with
    | nil => exact hstart
    | cons x l ih => exact ih (u.askBlock x.1 x.2) (State.askBlock_hasMember hstart x.1 x.2)

/-- A halt of whose members one is resident is not told yet. -/
theorem State.toldHalt_of_hasMember {u : State} (hres : u.hasMember c ms) {x : Halt} (hx : x.is c ms = true) : u.toldHalt x = x := by
  obtain ⟨k, hk, y, hy, hc, hon⟩ := hres
  unfold Halt.is at hx
  simp only [Bool.and_eq_true, beq_iff_eq] at hx
  have hmem : u.memberOf x k.1 y.1 y.2 = true := by
    unfold State.memberOf
    rw [hx.1, hc, hx.2, hon, beq_self_eq_true]
    rfl
  have hany : u.cores.any (fun k => k.2.slots.any fun y => u.memberOf x k.1 y.1 y.2) = true :=
    List.any_eq_true.2 ⟨k, hk, List.any_eq_true.2 ⟨y, hy, hmem⟩⟩
  unfold State.toldHalt State.halted
  rw [hany, Bool.not_true, Bool.and_false, if_neg Bool.false_ne_true]

/-- What of a halt neither a word to others nor HALTED changes, complete where it is the one that completes. -/
def Halt.outline (x : Halt) (c : Nat) (ms : List Dword) : Nat × List Dword × Option Word × Bool :=
  (x.ctx, x.members, x.chunk, x.complete || x.is c ms)

theorem State.toldHalt_keeps (u : State) (x : Halt) : ((u.toldHalt x).ctx, (u.toldHalt x).members, (u.toldHalt x).chunk, (u.toldHalt x).complete) =
    (x.ctx, x.members, x.chunk, x.complete) := by
  unfold State.toldHalt
  split <;> rfl

theorem Halt.completed_keeps (x : Halt) : ((x.completed c ms).ctx, (x.completed c ms).members, (x.completed c ms).chunk,
    (x.completed c ms).complete) = x.outline c ms := by
  unfold Halt.completed Halt.outline
  split
  · rename_i h
    rw [h, Bool.or_true]
  · rename_i h
    rw [Bool.not_eq_true] at h
    rw [h, Bool.or_false]

theorem State.tellHeld_keeps (h : Halt) : (s.tellHeld h).halts.map (fun x => x.outline c ms) = s.halts.map fun x => x.outline c ms := by
  obtain ⟨out, -, hh | hh⟩ := s.tellHeld_eq h <;> rw [hh]
  rw [List.map_map]
  refine List.map_congr_left fun x _ => ?_
  rw [Function.comp_apply]
  split <;> rfl

/-- The halt completes: its members are asked to leave, and HALTED waits for the last of them. -/
theorem State.completesHalt (hf : s.halts.find? (fun x => x.is c ms && x.chunk.isSome && (!x.complete || x.saving)) = some h)
    (hheld : ∀ x ∈ s.memberBlocks c ms, x.2.2.haltHeld = true) (hps : ∀ p ∈ s.otherPackages ms, p ∈ ps) :
    ∃ t, exec (.caravanHaltComplete ⟨c, ms, ps⟩) s = .next t ∧
      (t.halts.map fun x => (x.ctx, x.members, x.chunk, x.complete)) =
        (s.halts.map fun x => (x.ctx, x.members, x.chunk, x.complete || x.is c ms)) ∧
      (∀ k j b, s.block k j = some b → b.ctx = c → s.onList ms k j b = true → ∃ b', t.block k j = some b' ∧ b'.leaving = true) ∧
      (s.hasMember c ms → ∀ x ∈ t.halts, x.is c ms = true → x.saving = true) := by
  obtain ⟨hhalts, hleave, hres⟩ := State.haltAsked_places (s := s) (c := c) (ms := ms) h
  obtain ⟨hcores, hhalts'⟩ := (s.haltAsked h c ms).tellHalted_places
  refine ⟨_, execCaravanHaltComplete_held hf hheld hps, ?_, fun k j b hb hc hon => ?_, fun hr x hx his => ?_⟩
  · rw [hhalts', hhalts, List.map_map, List.map_map]
    refine Eq.trans (List.map_congr_left fun x _ => ?_) (State.tellHeld_keeps h)
    exact ((s.haltAsked h c ms).toldHalt_keeps (x.completed c ms)).trans x.completed_keeps
  · obtain ⟨b', hb', hl⟩ := hleave k j b hb hc hon
    refine ⟨b', ?_, hl⟩
    unfold State.block State.core at hb' ⊢
    rw [hcores]
    exact hb'
  · rw [hhalts', hhalts, List.map_map] at hx
    obtain ⟨y, -, rfl⟩ := List.mem_map.1 hx
    rw [Function.comp_apply] at his ⊢
    have hkeep := ((s.haltAsked h c ms).toldHalt_keeps (y.completed c ms)).trans y.completed_keeps
    have hy : y.is c ms = true := by
      have hctx : _ = y.ctx := congrArg Prod.fst hkeep
      have hmembers : _ = y.members := congrArg (fun p => p.2.1) hkeep
      unfold Halt.is at his ⊢
      rw [← hctx, ← hmembers]
      exact his
    have hdone : y.completed c ms = { y with complete := true, saving := true } := if_pos hy
    rw [State.toldHalt_of_hasMember (hres hr) (show (y.completed c ms).is c ms = true by rw [hdone]; exact hy), hdone]

/-- Where no member is resident HALTED is posted at once. -/
theorem State.completesHalt_gone (hf : s.halts.find? (fun x => x.is c ms && x.chunk.isSome && (!x.complete || x.saving)) = some h)
    (hheld : ∀ x ∈ s.memberBlocks c ms, x.2.2.haltHeld = true) (hps : ∀ p ∈ s.otherPackages ms, p ∈ ps)
    (hres : ¬ s.hasMember c ms) (hone : s.halts = [h]) (hothers : s.otherPackages ms = []) :
    exec (.caravanHaltComplete ⟨c, ms, ps⟩) s = .next (({ s with
      halts := [{ h with
        complete := true, saving := false }] } : State).postEvent c 2 0 0) := by
  have his : h.is c ms = true := by
    have := List.find?_some hf
    simp only [Bool.and_eq_true] at this
    exact this.1.1
  have hkey := his
  unfold Halt.is at hkey
  simp only [Bool.and_eq_true, beq_iff_eq] at hkey
  have htell : s.tellHeld h = s := by
    unfold State.tellHeld
    rw [hkey.2, hothers]
    exact if_pos (Bool.or_true _)
  have hask : s.haltAsked h c ms = { s with halts := [{ h with complete := true, saving := true }] } := by
    unfold State.haltAsked
    rw [State.residents_eq_nil hres, htell, hone]
    have : h.completed c ms = { h with complete := true, saving := true } := if_pos his
    rw [List.map_singleton, this]
    rfl
  have hhalted : ({ s with halts := [{ h with complete := true, saving := true }] } : State).halted { h with complete := true, saving := true } = true := by
    have hnone : s.cores.any (fun k => k.2.slots.any fun y => s.memberOf h k.1 y.1 y.2) = false := by
      rw [List.any_eq_false]
      intro k hk hany
      obtain ⟨y, hy, hmem⟩ := List.any_eq_true.1 hany
      unfold State.memberOf at hmem
      simp only [Bool.and_eq_true, beq_iff_eq] at hmem
      exact hres ⟨k, hk, y, hy, hmem.1.symm.trans hkey.1, by rw [← hkey.2]; exact hmem.2⟩
    unfold State.halted
    exact congrArg (fun x => true && !x) hnone
  rw [execCaravanHaltComplete_held hf hheld hps, hask, State.tellHalted_eq]
  dsimp only
  rw [List.filter_cons_of_pos hhalted, List.filter_nil, List.map_singleton]
  unfold State.toldHalt
  rw [hhalted, if_pos rfl, List.foldl_cons, List.foldl_nil]
  dsimp only
  rw [hkey.1]

end

/-! ## The end of a halt (R448) -/

theorem Block.unhalt_free (b : Block) (trap : Bool) : (b.unhalt trap).halt = none ∧ ∀ g ∈ (b.unhalt trap).groups, ∀ i ∈ g.igs, i.wait ≠ .chunk := by
  refine ⟨rfl, fun g hg i hi => ?_⟩
  obtain ⟨y, -, rfl⟩ := List.mem_map.1 hg
  obtain ⟨x, -, rfl⟩ := List.mem_map.1 hi
  have hwait : (if x.wait == .chunk then Wait.none else x.wait) ≠ .chunk := by
    split
    · exact fun e => by cases e
    · rename_i h
      simpa using h
  split
  · exact hwait
  · exact hwait

/-- The one halt of a context has ended: its saved members may be restored, and continue after their CHUNK. -/
structure HaltFreed (s : State) (c : Nat) (h : Halt) (t : State) : Prop where
  halts : t.halts = s.halts.filter fun x => x.ctx != c
  saved : ∀ x ∈ s.saved, x.whole = true → x.blk.ctx = c → s.onList h.members x.core x.slot x.blk = true →
    ∃ y ∈ t.saved, { y with blk := x.blk } = x ∧ y.blk.halt = none ∧ ∀ g ∈ y.blk.groups, ∀ i ∈ g.igs, i.wait ≠ .chunk

section
variable {s : State} {c : Nat} {ns : List Nat}

/-- A list that names no member of a complete halt of the context lifts nothing. -/
theorem State.lifts_none (h : ∀ h ∈ s.halts, h.ctx = c → h.complete = true → ∀ m ∈ h.members, m.toNat ∉ ns) :
    s.halts.any (fun h => h.lifts c ns) = false := by
  rw [List.any_eq_false]
  intro x hx hl
  unfold Halt.lifts at hl
  simp only [Bool.and_eq_true, beq_iff_eq, List.any_eq_true, List.contains_iff_mem] at hl
  obtain ⟨m, hm, hin⟩ := hl.2
  exact h x hx hl.1.1 hl.1.2 m hm hin

variable {h : Halt} (hone : (s.halts.filter fun x => x.ctx == c) = [h]) (hdone : h.complete = true) (hne : h.members ≠ [])
  (hns : ∀ m ∈ h.members, m.toNat ∈ ns)
include hone hdone hne hns

theorem State.lifts_iff {x : Halt} (hx : x ∈ s.halts) : x.lifts c ns = true ↔ x = h := by
  have hmem : ∀ y, (y ∈ s.halts ∧ y.ctx = c) ↔ y = h := fun y => by
    rw [← List.mem_singleton (a := y) (b := h), ← hone, List.mem_filter, beq_iff_eq]
  unfold Halt.lifts
  simp only [Bool.and_eq_true, beq_iff_eq, List.any_eq_true, List.contains_iff_mem]
  refine ⟨fun hl => (hmem x).1 ⟨hx, hl.1.1⟩, fun e => ?_⟩
  subst e
  obtain ⟨m, hm⟩ := List.exists_mem_of_ne_nil _ hne
  exact ⟨⟨((hmem x).2 rfl).2, hdone⟩, m, hm, hns m hm⟩

theorem State.lifted_one : s.lifted c ns = h.members := by
  have hfilter : s.halts.filter (fun x => x.lifts c ns) = [h] := by
    rw [← hone]
    refine List.filter_congr fun x hx => ?_
    rw [Bool.eq_iff_iff, State.lifts_iff hone hdone hne hns hx, ← List.mem_singleton, ← hone, List.mem_filter]
    exact and_iff_right hx
  unfold State.lifted
  rw [hfilter, List.flatMap_cons, List.flatMap_nil, List.append_nil]
  exact List.filter_eq_self.2 fun m hm => List.contains_iff_mem.2 (hns m hm)

theorem State.lifts_any : s.halts.any (fun h => h.lifts c ns) = true := by
  have hh : h ∈ s.halts := (List.mem_filter.1 (show h ∈ s.halts.filter fun x => x.ctx == c from hone ▸ List.mem_singleton_self _)).1
  exact List.any_eq_true.2 ⟨h, hh, (State.lifts_iff hone hdone hne hns hh).2 rfl⟩

/-- The halts that stay are those of the other contexts. -/
theorem State.liftHalts_halts : (s.halts.filterMap fun x => if x.lifts c ns then x.without ns else some x) = s.halts.filter fun x => x.ctx != c := by
  have hkey : ∀ x ∈ s.halts, (if x.lifts c ns then x.without ns else some x) = if x.ctx != c then some x else none := fun x hx => by
    by_cases hl : x.lifts c ns = true
    · obtain rfl := (State.lifts_iff hone hdone hne hns hx).1 hl
      have hctx : x.ctx = c := by
        have : x ∈ s.halts.filter fun x => x.ctx == c := hone ▸ List.mem_singleton_self _
        simpa using (List.mem_filter.1 this).2
      have hrest : x.members.filter (fun m => !ns.contains m.toNat) = [] :=
        List.filter_eq_nil_iff.2 fun m hm => by simp [hns m hm]
      rw [if_pos hl, hctx, if_neg (by simp)]
      unfold Halt.without
      dsimp only
      rw [hrest]
      rfl
    · have hctx : x.ctx ≠ c := fun e => hl ((State.lifts_iff hone hdone hne hns hx).2 (by
        have : x ∈ s.halts.filter fun x => x.ctx == c := List.mem_filter.2 ⟨hx, by simpa using e⟩
        rw [hone] at this
        exact List.mem_singleton.1 this))
      rw [if_neg hl, if_pos (by simpa using hctx)]
  rw [List.filterMap_congr hkey, ← List.filterMap_eq_filter]
  rfl

/-- UNHALT of every member of the one halt of a context. -/
theorem State.liftHalts_freed : HaltFreed s c h (s.liftHalts c ns) := by
  have hgo := State.lifted_one hone hdone hne hns
  have hhalts := State.liftHalts_halts hone hdone hne hns
  let u : State := { s with halts := s.halts.filter fun x => x.ctx != c }
  have hfor : ∀ core slot (b : Block), b.ctx = c → u.haltFor core slot b = none := fun core slot b hb => by
    have hnone : u.halts.filter (fun h => !h.waiting && u.memberOf h core slot b) = [] := List.filter_eq_nil_iff.2 fun x hx => by
      have hx' : x.ctx ≠ c := by simpa using (List.mem_filter.1 hx).2
      unfold State.memberOf
      rw [hb, beq_eq_false_iff_ne.2 hx']
      simp
    unfold State.haltFor
    rw [hnone]
    rfl
  have hlift : s.liftHalts c ns = u.modMembers c h.members fun _ _ b => b.unhalt (s.ctx c).halttrap := by
    unfold State.liftHalts
    dsimp only
    rw [hgo, hhalts]
    refine State.modMembers_congr u c h.members _ fun core slot b hb _ => ?_
    rw [hfor core slot b hb]
  refine ⟨?_, fun x hx hw hc hon => ?_⟩
  · rw [hlift]
    exact (congrArg State.halts (State.modMembers_rest u c h.members fun _ _ b => b.unhalt (s.ctx c).halttrap) :)
  · rw [hlift, State.modMembers_saved]
    refine ⟨_, List.mem_map_of_mem hx, ?_⟩
    have hmap : u.memberMap c h.members (fun _ _ b => b.unhalt (s.ctx c).halttrap) x.core x.slot x.blk = x.blk.unhalt (s.ctx c).halttrap :=
      if_pos ⟨hc, hon⟩
    have hx' : x.mapWhole (u.memberMap c h.members fun _ _ b => b.unhalt (s.ctx c).halttrap) =
        { x with blk := x.blk.unhalt (s.ctx c).halttrap } := by
      unfold Saved.mapWhole
      rw [if_pos hw, hmap]
    rw [hx']
    exact ⟨rfl, x.blk.unhalt_free _⟩

end

section
variable {s : State} {c : Nat} {ms : List Dword} (hc : c = s.arg 0) (hms : ms = s.memberList (s.arg 1) (s.arg 2)) (hrun : s.running 6 = true)
include hc hms hrun

/-- UNHALT with a bad argument. -/
theorem State.unhalts_bad (hbad : 64 ≤ c ∨ s.arg 2 = 0 ∨ 64 < s.arg 2 ∨
      (∀ h ∈ s.halts, h.ctx = c → h.complete = true → ∀ m ∈ h.members, m.toNat ∉ s.namesOf c ms)) :
    exec .unhalt s = .next (s.done 2) := by
  show execUnhalt s = _
  unfold execUnhalt
  rw [State.command_of_running hrun]
  dsimp only
  rw [← hc, ← hms, if_pos]
  simp only [Bool.or_eq_true, decide_eq_true_eq, Bool.not_eq_true']
  rcases hbad with h | h | h | h
  · exact .inl (.inl (.inl h))
  · exact .inl (.inl (.inr h))
  · exact .inl (.inr h)
  · exact .inr (State.lifts_none h)

/-- UNHALT of the members of the one halt of a context. -/
theorem State.unhalts {h : Halt} (hone : (s.halts.filter fun x => x.ctx == c) = [h]) (hdone : h.complete = true) (hne : h.members ≠ [])
    (hns : ∀ m ∈ h.members, m.toNat ∈ s.namesOf c ms) (hlt : c < 64) (hlo : 0 < s.arg 2) (hhi : s.arg 2 ≤ 64) :
    ∃ t, exec .unhalt s = .next t ∧ t.sys.busy = false ∧ t.sys.result = 0 ∧ HaltFreed s c h t ∧
      ∀ p ∈ s.otherPackages h.members, FabMsg.unpause c p h.members ∈ t.out := by
  let u : State := { s with out := s.out ++ (s.otherPackages h.members).map fun p => FabMsg.unpause c p h.members }
  have hexec : exec .unhalt s = .next ((u.liftHalts c (s.namesOf c ms)).done 0) := by
    show execUnhalt s = _
    unfold execUnhalt
    rw [State.command_of_running hrun]
    dsimp only
    rw [← hc, ← hms, State.lifts_any hone hdone hne hns, State.lifted_one hone hdone hne hns, if_neg]
    simp only [Bool.not_true, Bool.or_false, Bool.or_eq_true, decide_eq_true_eq]
    omega
  have hfreed : HaltFreed u c h (u.liftHalts c (s.namesOf c ms)) := State.liftHalts_freed (s := u) hone hdone hne hns
  refine ⟨_, hexec, rfl, rfl, ⟨hfreed.halts, hfreed.saved⟩, fun p hp => ?_⟩
  have hout : ((u.liftHalts c (s.namesOf c ms)).done 0).out = u.out := rfl
  rw [hout]
  exact List.mem_append_right _ (List.mem_map_of_mem hp)

end

/-- Another package's UNHALT arrives. -/
theorem State.unpauses {s : State} {c : Nat} {ms : List Dword} {h : Halt} (hone : (s.halts.filter fun x => x.ctx == c) = [h])
    (hdone : h.complete = true) (hne : h.members ≠ []) (hns : ∀ m ∈ h.members, m.toNat ∈ s.namesOf c ms) (hpkg : s.sys.pkg ∈ packagesOf ms)
    (rs : List (BitVec 12 × Word)) : ∃ t, exec (.caravanHaltPause c ⟨ms, rs, true⟩) s = .next t ∧ HaltFreed s c h t := by
  refine ⟨s.liftHalts c (s.namesOf c ms), ?_, State.liftHalts_freed hone hdone hne hns⟩
  show Outcome.next (if !(packagesOf ms).contains s.sys.pkg then s else if true = true then _ else _) = _
  rw [List.contains_iff_mem.2 hpkg, if_neg (by decide), if_pos rfl]

/-- Settles O52, one lemma for each kind of step. -/
theorem evictionSteps : Obligations.EvictionSteps := by
  refine ⟨fun s die x full hw hbest => (execEvictionDecision_eq hw).1 full hbest, fun s die core x full p hw hbest => State.decidesEviction hw hbest,
    ?timeout, ?save, ?restore, ?begins, ?completes, ?ends⟩
  case timeout => exact fun s core slot grp since b hb hplace htime htrap hcust hs => State.stopsByRestart hb hplace htime htrap hcust hs
  case save => exact fun s core slot b hb => ⟨fun grp a hstop hleave hn ha => State.savesGroup hb hn hstop hleave ha,
    fun a hleave hquiet hcmds hstores hn hs ha hroom => State.savesBlock hb hn hleave hquiet hcmds hstores hs ha hroom⟩
  case restore => exact fun s k slot x parts hx hwhole hwait hin hsaved hpool hacc hslot =>
    State.restoresBlock hx hwhole hwait hin hsaved hpool hacc hslot
  case begins =>
    intro s c ms hfree hseal hno hpkg own highest starts
    have hstarts : ∀ {x t}, HaltStarts s c ms x t → starts x t := fun h => ⟨h.blocks, h.saved, h.halt, h.report⟩
    refine ⟨fun rs hdup hrs => ?_, fun hrun hc hlt hlo hhi hms => ?_⟩
    · obtain ⟨hall, hsome⟩ := State.pausesMembers hfree hseal hno hpkg hdup hrs
      refine ⟨fun h => ?_, fun h => ?_⟩
      · obtain ⟨t, hexec, ht⟩ := hall h
        exact ⟨t, hexec, hstarts ht⟩
      · obtain ⟨t, hexec, ht⟩ := hsome h
        exact ⟨t, hexec, hstarts ht⟩
    · obtain ⟨t, hexec, hbusy, hresult, ht, htold⟩ := State.haltsMembers hrun hc hlt hlo hhi hms hfree hseal hno hpkg
      exact ⟨t, hexec, hbusy, hresult, hstarts ht, htold⟩
  case completes => exact fun s c h ms ps hf hheld hps => ⟨State.completesHalt hf hheld hps,
    fun hres hone hothers => State.completesHalt_gone hf hheld hps hres hone hothers⟩
  case ends =>
    intro s c ms h ns freed
    have hfreed : ∀ {t}, HaltFreed s c h t → freed t := fun h => ⟨h.halts, h.saved⟩
    refine ⟨fun hrun hc hms hbad => State.unhalts_bad hc hms hrun hbad,
      fun hone hdone hne hns => ⟨fun hrun hc hms hlt hlo hhi => ?_, fun hpkg rs => ?_⟩⟩
    · obtain ⟨t, hexec, hbusy, hresult, ht, htold⟩ := State.unhalts hc hms hrun hone hdone hne hns hlt hlo hhi
      exact ⟨t, hexec, hbusy, hresult, hfreed ht, htold⟩
    · obtain ⟨t, hexec, ht⟩ := State.unpauses hone hdone hne hns hpkg rs
      exact ⟨t, hexec, hfreed ht⟩

end Sys2Proof.Machine
end

section

/-! # Memory in canonical form

A function that writes neither memory has an equation (`…_ram`); one that may write a memory keeps the form (`…_canon`). -/

namespace Sys2Proof.Machine
open Host (Outcome)
/-- Device memory and host memory. -/
structure Ram where
  mem : Memory
  hmem : Memory

def State.ram (s : State) : Ram := ⟨s.mem, s.hmem⟩

/-- Both memories stand in canonical form. -/
def Ram.Canon (r : Ram) : Prop := r.mem.wf = true ∧ r.hmem.wf = true

/-- A next state, if this is one, has its memories in canonical form. -/
def NextCanon (o : Outcome State Fault Refusal) : Prop := ∀ t, o = .next t → t.ram.Canon

@[simp] theorem nextCanon_next {t : State} : NextCanon (.next t) ↔ t.ram.Canon := by simp [NextCanon]
@[simp] theorem nextCanon_fault (r : Fault) : NextCanon (.fault r) := by simp [NextCanon]
@[simp] theorem nextCanon_refused (r : Refusal) : NextCanon (.refused r) := by simp [NextCanon]
@[simp] theorem nextCanon_ite {c : Prop} [Decidable c] {a b : Outcome State Fault Refusal} :
    NextCanon (if c then a else b) ↔ (c → NextCanon a) ∧ (¬c → NextCanon b) := by
  split <;> simp [*]
@[simp] theorem canon_ite {c : Prop} [Decidable c] {a b : State} :
    (if c then a else b).ram.Canon ↔ (c → a.ram.Canon) ∧ (¬c → b.ram.Canon) := by
  split <;> simp [*]
@[simp] theorem ram_ite {r : Ram} {c : Prop} [Decidable c] {a b : State} :
    (if c then a else b).ram = r ↔ (c → a.ram = r) ∧ (¬c → b.ram = r) := by
  split <;> simp [*]

/-- A state written out: an update that names neither memory leaves both. -/
@[simp] theorem State.ram_mk {sys clock time mem hmem mmioOut granules poison cu homeHeld windows ordered ctxs itins cores l1s dieTlb upper marks
    saved halts domains domPending logs holds injects ports routes flights accepted delivered seqs out agenda focus switch pick joint freeCtr
    nextId} :
    State.ram ⟨sys, clock, time, mem, hmem, mmioOut, granules, poison, cu, homeHeld, windows, ordered, ctxs, itins, cores, l1s, dieTlb, upper,
      marks, saved, halts, domains, domPending, logs, holds, injects, ports, routes, flights, accepted, delivered, seqs, out, agenda, focus, switch, pick,
      joint, freeCtr, nextId⟩ = ⟨mem, hmem⟩ := rfl
@[simp] theorem State.ram_eta (s : State) : (⟨s.mem, s.hmem⟩ : Ram) = s.ram := rfl

/-! ### Folds -/

theorem foldl_canon_of {α β : Type} {p : β → Prop} {f : β → α → β} (hf : ∀ b x, p b → p (f b x)) (l : List α) {b : β} (hb : p b) :
    p (l.foldl f b) :=
  List.foldlRecOn l f hb fun c hc x _ => hf c x hc
@[simp] theorem foldl_canon {α : Type} {f : State → α → State} (hf : ∀ s x, s.ram.Canon → (f s x).ram.Canon) (l : List α)
    {s : State} (hs : s.ram.Canon) : (l.foldl f s).ram.Canon :=
  foldl_canon_of hf l hs
theorem foldl_snd_canon {α β : Type} {f : β × State → α → β × State} (hf : ∀ p x, p.2.ram.Canon → (f p x).2.ram.Canon)
    (l : List α) {p : β × State} (hp : p.2.ram.Canon) : (l.foldl f p).2.ram.Canon :=
  foldl_canon_of (p := fun p : β × State => p.2.ram.Canon) hf l hp
@[simp] theorem foldl_ram {α : Type} {f : State → α → State} (hf : ∀ s x, (f s x).ram = s.ram) (l : List α)
    (s : State) : (l.foldl f s).ram = s.ram :=
  List.foldlRecOn l f (motive := fun t => t.ram = s.ram) rfl fun t ht x _ => (hf t x).trans ht
theorem foldl_snd_ram {α β : Type} {f : β × State → α → β × State} (hf : ∀ p x, (f p x).2.ram = p.2.ram)
    (l : List α) (p : β × State) : (l.foldl f p).2.ram = p.2.ram :=
  List.foldlRecOn l f (motive := fun q => q.2.ram = p.2.ram) rfl fun q hq x _ => (hf q x).trans hq

section
variable {t : State}
@[simp] theorem Logged.canon_ite {c : Prop} [Decidable c] {a b : Logged} :
    (if c then a else b).state.ram.Canon ↔ (c → a.state.ram.Canon) ∧ (¬c → b.state.ram.Canon) := by
  split <;> simp [*]
theorem Logged.canon_ok {r : Logged} (h : r = .ok t) (hr : r.state.ram.Canon) : t.ram.Canon := by rwa [h] at hr
theorem Logged.canon_wait {r : Logged} (h : r = .wait t) (hr : r.state.ram.Canon) : t.ram.Canon := by rwa [h] at hr
theorem Logged.canon_over {r : Logged} (h : r = .over t) (hr : r.state.ram.Canon) : t.ram.Canon := by rwa [h] at hr
theorem Did.canon_done {r : Did} (h : r = .done t) (hr : r.state.ram.Canon) : t.ram.Canon := by rwa [h] at hr
theorem canon_snd {β : Type} {p : β × State} {b : β} (h : p = (b, t)) (hp : p.2.ram.Canon) : t.ram.Canon := by
  rwa [h] at hp
theorem canon_row_ok {α : Type} {r : Except (Flt × State) (α × State)} {a : α} (h : r = .ok (a, t))
    (hr : (rowState r).ram.Canon) : t.ram.Canon := by
  rwa [h] at hr
theorem canon_row_error {α : Type} {r : Except (Flt × State) (α × State)} {a : Flt} (h : r = .error (a, t))
    (hr : (rowState r).ram.Canon) : t.ram.Canon := by
  rwa [h] at hr
end

theorem foldE_canon {α β : Type} {f : β × State → α → Except (Flt × State) (β × State)}
    (hf : ∀ p x, p.2.ram.Canon → (rowState (f p x)).ram.Canon) (l : List α) {p : β × State} (hp : p.2.ram.Canon) :
    (rowState (foldE f l p)).ram.Canon := by
  induction l generalizing p with
  | nil => exact hp
  | cons x l ih =>
    unfold foldE
    split
    · next heq => exact canon_row_error heq (hf p x hp)
    · next heq => exact ih (canon_row_ok heq (hf p x hp))

section
variable (s : State)

/-! ### The parts of the state -/

@[simp] theorem State.setCtx_ram (c x) : (s.setCtx c x).ram = s.ram := rfl
@[simp] theorem State.setCore_ram (c x) : (s.setCore c x).ram = s.ram := rfl
@[simp] theorem State.modCtx_ram (c f) : (s.modCtx c f).ram = s.ram := rfl
@[simp] theorem State.modCore_ram (c f) : (s.modCore c f).ram = s.ram := rfl
@[simp] theorem State.setBlock_ram (c k b) : (s.setBlock c k b).ram = s.ram := rfl
@[simp] theorem State.modBlock_ram (c k f) : (s.modBlock c k f).ram = s.ram := by
  unfold State.modBlock
  split <;> rfl
@[simp] theorem State.modGroup_ram (c k g f) : (s.modGroup c k g f).ram = s.ram := State.modBlock_ram ..
@[simp] theorem State.modL1_ram (p f) : (s.modL1 p f).ram = s.ram := rfl
@[simp] theorem State.modDomain_ram (d f) : (s.modDomain d f).ram = s.ram := rfl
@[simp] theorem State.fresh_ram : s.fresh.2.ram = s.ram := rfl

/-! ### Counters and translation -/

@[simp] theorem State.bump_ram (off n) : (s.bump off n).ram = s.ram := rfl
@[simp] theorem State.bumpMerges_ram (pa n) : (s.bumpMerges pa n).ram = s.ram := by simp [State.bumpMerges]
@[simp] theorem State.mergeWord_canon {s : State} (hs : s.ram.Canon) (w) : (s.mergeWord w).ram.Canon := by
  unfold State.mergeWord
  rw [State.bumpMerges_ram]
  exact ⟨Memory.wf_writeN _ _ _ hs.1, hs.2⟩
@[simp] theorem State.mergeLine_canon {s : State} (hs : s.ram.Canon) (pa n) : (s.mergeLine pa n).ram.Canon :=
  foldl_canon (fun _ w hs => State.mergeWord_canon hs w) _ hs
@[simp] theorem State.countWalk_ram (core) : (s.countWalk core).ram = s.ram := by simp [State.countWalk]
@[simp] theorem State.fill_ram (core x) : (s.fill core x).ram = s.ram := by simp [State.fill]
@[simp] theorem State.touchCore_ram (core c va) : (s.touchCore core c va).ram = s.ram := by
  unfold State.touchCore
  (repeat' split) <;> simp
@[simp] theorem State.setLast_ram (core part lane x) : (s.setLast core part lane x).ram = s.ram := by simp [State.setLast]
@[simp] theorem State.bumpTx_ram (core cls n) : (s.bumpTx core cls n).ram = s.ram := by simp [State.bumpTx]
@[simp] theorem State.bumpRx_ram (src die n) : (s.bumpRx src die n).ram = s.ram := by simp [State.bumpRx]
@[simp] theorem State.txTo_ram (core t n) : (s.txTo core t n).ram = s.ram := by simp [State.txTo]
@[simp] theorem State.rxHome_ram (core t n) : (s.rxHome core t n).ram = s.ram := by
  unfold State.rxHome
  split <;> simp
@[simp] theorem State.rxCore_ram (core t n) : (s.rxCore core t n).ram = s.ram := by simp [State.rxCore]
@[simp] theorem State.fillAll_ram (core ps) : (s.fillAll core ps).ram = s.ram := by simp [State.fillAll]
@[simp] theorem State.touchAt.go_ram (core part lane c va) : (State.touchAt.go s core part lane c va).ram = s.ram := by
  unfold State.touchAt.go
  (repeat' split) <;> simp
@[simp] theorem State.touchAt_ram (core part lane c va) : (s.touchAt core part lane c va).ram = s.ram := by
  unfold State.touchAt
  split <;> simp
@[simp] theorem State.touchEng_ram (core c va n) : (s.touchEng core c va n).ram = s.ram := by
  unfold State.touchEng
  (repeat' split) <;> simp
@[simp] theorem State.touch_ram (core part lane c va n) : (s.touch core part lane c va n).ram = s.ram := by simp [State.touch]

/-! ### The home agents: memory, undo log, barrier words -/

@[simp] theorem State.postRas_canon {s : State} (hs : s.ram.Canon) (r) : (s.postRas r).ram.Canon := by
  obtain ⟨hm, hh⟩ := hs
  unfold State.postRas
  dsimp only
  split
  · exact ⟨hm, hh⟩
  · split
    · exact ⟨hm, hh⟩
    · rw [State.ram_mk]
      generalize hostRaw + _ = a
      generalize leBytes 32 _ = bs
      exact ⟨hm, Memory.wf_writeN _ _ _ hh⟩
@[simp] theorem State.requestSeal_ram (d) : (s.requestSeal d).ram = s.ram := by
  unfold State.requestSeal
  (repeat' split) <;> rfl
@[simp] theorem State.endCtx_ram (c cause r) : (s.endCtx c cause r).ram = s.ram := by simp [State.endCtx]
@[simp] theorem State.abortDomain_ram (d overflow injected) : (s.abortDomain d overflow injected).ram = s.ram := by
  unfold State.abortDomain
  split <;> simp
@[simp] theorem State.addRed_canon {s : State} (hs : s.ram.Canon) (pa op ty x) : (s.addRed pa op ty x).ram.Canon := by simp [State.addRed, hs]
@[simp] theorem State.addReds_canon {s : State} (hs : s.ram.Canon) (pa op ty xs) : (s.addReds pa op ty xs).ram.Canon :=
  foldl_canon (fun _ x hs => State.addRed_canon hs pa op ty x) _ hs
@[simp] theorem State.logSector_canon {s : State} (hs : s.ram.Canon) (c leg d sector) : (s.logSector c leg d sector).state.ram.Canon := by
  simp [State.logSector, hs]
@[simp] theorem State.logSectors_canon {s : State} (hs : s.ram.Canon) (c leg d xs) : (s.logSectors c leg d xs).state.ram.Canon := by
  induction xs generalizing s with
  | nil => exact hs
  | cons x xs ih =>
    unfold State.logSectors
    split
    · exact hs
    · rename_i dm _
      have h := State.logSector_canon hs c leg dm x
      split <;> simp_all
@[simp] theorem State.logFor_canon {s : State} (hs : s.ram.Canon) (m pa n) : (s.logFor m pa n).state.ram.Canon := by
  unfold State.logFor
  split <;> simp [hs]
@[simp] theorem State.logWrite_canon {s : State} (hs : s.ram.Canon) (c pa n) : (s.logWrite c pa n).state.ram.Canon := by simp [State.logWrite, hs]
@[simp] theorem State.overflowFor_ram (m detail) : (s.overflowFor m detail).ram = s.ram := by
  unfold State.overflowFor
  split <;> simp
@[simp] theorem State.legOverflow_ram (c detail) : (s.legOverflow c detail).ram = s.ram := by simp [State.legOverflow]
@[simp] theorem State.arriveAt_ram (pos p) : (s.arriveAt pos p).ram = s.ram := by simp [State.arriveAt]
@[simp] theorem State.arriveAll_ram (p) : (s.arriveAll p).ram = s.ram := by simp [State.arriveAll]
@[simp] theorem State.settle_ram (ids) : (s.settle ids).ram = s.ram := by simp [State.settle]
@[simp] theorem State.dropKeys_ram (keys) : (s.dropKeys keys).ram = s.ram := by simp [State.dropKeys]
@[simp] theorem State.rawWrite_canon {s : State} (hs : s.ram.Canon) (t bs) : (s.rawWrite t bs).ram.Canon := by
  unfold State.rawWrite
  split
  · next pa =>
    obtain ⟨hm, hh⟩ := State.mergeLine_canon hs pa bs.length
    exact ⟨Memory.wf_writeMasked _ _ _ hm, hh⟩
  · exact ⟨hs.1, Memory.wf_writeMasked _ _ _ hs.2⟩
  · exact hs
@[simp] theorem State.freeBytes_ram (n) : (s.freeBytes n).2.ram = s.ram := by simp [State.freeBytes]
@[simp] theorem State.readFor_canon {s : State} (hs : s.ram.Canon) (dom t n) : (s.readFor dom t n).2.ram.Canon := by
  unfold State.readFor
  split <;> simp [hs]
@[simp] theorem State.homeRead_canon {s : State} (hs : s.ram.Canon) (c t n) : (s.homeRead c t n).2.ram.Canon := by simp [State.homeRead, hs]
@[simp] theorem State.coreRead_canon {s : State} (hs : s.ram.Canon) (core c t n) : (s.coreRead core c t n).2.ram.Canon := by simp [State.coreRead, hs]
@[simp] theorem State.writeFor_canon {s : State} (hs : s.ram.Canon) (m t bs) : (s.writeFor m t bs).state.ram.Canon := by
  unfold State.writeFor
  split
  · rename_i pa
    have h := State.logFor_canon hs m pa bs.length
    split <;> simp_all
  · simp [hs]
@[simp] theorem State.homeWrite_canon {s : State} (hs : s.ram.Canon) (c t bs) : (s.homeWrite c t bs).state.ram.Canon := by simp [State.homeWrite, hs]
@[simp] theorem State.hold_ram (die d core leg what size) : (s.hold die d core leg what size).state.ram = s.ram := by
  unfold State.hold
  dsimp only
  (repeat' split) <;> simp
@[simp] theorem State.vWrite_canon {s : State} (hs : s.ram.Canon) (c va bs) : (s.vWrite c va bs).ram.Canon := by
  induction bs generalizing s va with
  | nil => exact hs
  | cons b bs ih =>
    unfold State.vWrite
    split <;> simp [ih, hs]
@[simp] theorem State.devicePut_canon {s : State} (hs : s.ram.Canon) (c x t bs) : (s.devicePut c x t bs).ram.Canon := by
  unfold State.devicePut
  dsimp only
  split
  · split
    · next heq => simpa using Logged.canon_ok heq (by simpa using hs)
    · next heq => split <;> simpa using Logged.canon_wait heq (by simpa using hs)
    · next heq => simpa using Logged.canon_over heq (by simpa using hs)
  · split
    · next heq => simpa using Logged.canon_ok heq (State.homeWrite_canon (by simpa using hs) ..)
    · next heq => split <;> simpa using Logged.canon_wait heq (State.homeWrite_canon (by simpa using hs) ..)
    · next heq => simpa using Logged.canon_over heq (State.homeWrite_canon (by simpa using hs) ..)
@[simp] theorem State.vWriteLogged_canon {s : State} (hs : s.ram.Canon) (c va bs) : (s.vWriteLogged c va bs).ram.Canon := by
  refine foldl_canon (fun s y hs => ?_) _ hs
  (repeat' split) <;> simp [hs]

/-! ### Shared parts of the instructions -/

@[simp] theorem State.writeEvent_canon {s : State} (hs : s.ram.Canon) (c kind arg addr clock) : (s.writeEvent c kind arg addr clock).ram.Canon := by
  unfold State.writeEvent
  dsimp only
  split
  · exact hs
  · exact State.vWrite_canon (by exact hs) ..
@[simp] theorem State.writeRec_canon {s : State} (hs : s.ram.Canon) (c leg r) : (s.writeRec c leg r).ram.Canon := by
  unfold State.writeRec
  split <;> simp [hs]
@[simp] theorem State.post_canon {s : State} (hs : s.ram.Canon) (c r) : (s.post c r).ram.Canon := by
  unfold State.post
  (repeat' split) <;> simp [hs]
@[simp] theorem State.postEvent_canon {s : State} (hs : s.ram.Canon) (c kind arg addr) : (s.postEvent c kind arg addr).ram.Canon := by
  simp [State.postEvent, hs]
@[simp] theorem State.withIssuer_canon {s : State} {f} (h : ∀ w, NextCanon (f w)) : NextCanon (s.withIssuer f) := by
  unfold State.withIssuer
  split <;> simp [h]
@[simp] theorem State.modPart_ram (core part f) : (s.modPart core part f).ram = s.ram := by simp [State.modPart]
@[simp] theorem State.clearCur_ram (w) : (s.clearCur w).ram = s.ram := by simp [State.clearCur]
@[simp] theorem State.schedule_ram (w) : (s.schedule w).ram = s.ram := by simp [State.schedule]
@[simp] theorem State.yieldNow_ram (w) : (s.yieldNow w).ram = s.ram := by simp [State.yieldNow]
@[simp] theorem State.finish_ram (w k f) : (s.finish w k f).ram = s.ram := by simp [State.finish]
@[simp] theorem State.skip_ram (w k) : (s.skip w k).ram = s.ram := by simp [State.skip]
@[simp] theorem State.finishRemote_ram (w k f) : (s.finishRemote w k f).ram = s.ram := by simp [State.finishRemote]
@[simp] theorem State.stopCtx_canon {s : State} (hs : s.ram.Canon) (c r) : (s.stopCtx c r).ram.Canon := by
  unfold State.stopCtx
  dsimp only
  split
  · exact State.postEvent_canon (by exact hs) ..
  · exact hs
@[simp] theorem State.takeTrap_canon {s : State} (hs : s.ram.Canon) (w r floor) : (s.takeTrap w r floor).ram.Canon := by
  unfold State.takeTrap
  dsimp only
  (repeat' split) <;> simp [hs]
@[simp] theorem State.raise_canon {s : State} (w lanes f) (hs : s.ram.Canon) : NextCanon (s.raise w lanes f) := by simp [State.raise, hs]
@[simp] theorem State.returnTrap_ram (w next) : (s.returnTrap w next).ram = s.ram := by
  unfold State.returnTrap
  split <;> simp
@[simp] theorem State.vector_canon {s : State} (h rs ds f) (hs : s.ram.Canon) : NextCanon (s.vector h rs ds f) := by
  refine State.withIssuer_canon fun w => ?_
  dsimp only
  (repeat' split) <;> simp [hs]
@[simp] theorem State.uniform_canon {s : State} (k f) (hs : s.ram.Canon) : NextCanon (s.uniform k f) := by simp [State.uniform, hs]
@[simp] theorem State.anyLane_canon {s : State} {h f} (hs : s.ram.Canon) (hf : ∀ w m, NextCanon (f w m)) : NextCanon (s.anyLane h f) := by
  simp [State.anyLane, hs, hf]

/-! ### Integer instructions -/

@[simp] theorem State.unary_canon {s : State} (o wd f) (hs : s.ram.Canon) : NextCanon (s.unary o wd f) := by simp [State.unary, hs]
@[simp] theorem State.binary_canon {s : State} (o f) (hs : s.ram.Canon) : NextCanon (s.binary o f) := by simp [State.binary, hs]
@[simp] theorem State.counted_canon {s : State} (o f) (hs : s.ram.Canon) : NextCanon (s.counted o f) := by simp [State.counted, hs]
@[simp] theorem State.ternary_canon {s : State} (o f) (hs : s.ram.Canon) : NextCanon (s.ternary o f) := by simp [State.ternary, hs]
@[simp] theorem State.ternaryCount_canon {s : State} (o f) (hs : s.ram.Canon) : NextCanon (s.ternaryCount o f) := by
  simp [State.ternaryCount, hs]
@[simp] theorem execPmov_canon (o) {s : State} (hs : s.ram.Canon) : NextCanon (execPmov o s) := by
  refine State.withIssuer_canon fun w => ?_
  dsimp only
  (repeat' split) <;> simp [hs]

/-! ### Floating point -/

@[simp] theorem State.funary_canon {s : State} (o f) (hs : s.ram.Canon) : NextCanon (s.funary o f) := by simp [State.funary, hs]
@[simp] theorem State.fbinary_canon {s : State} (o f) (hs : s.ram.Canon) : NextCanon (s.fbinary o f) := by simp [State.fbinary, hs]

/-! ### Conversions -/

@[simp] theorem State.advanceGen_ram (core part c) : (s.advanceGen core part c).2.ram = s.ram := by simp [State.advanceGen]
@[simp] theorem State.issueGen_ram (w) : (s.issueGen w).2.ram = s.ram := by
  unfold State.issueGen
  dsimp only
  (repeat' split) <;> simp
@[simp] theorem State.converted_canon {s : State} (o rm) (hs : s.ram.Canon) : NextCanon (s.converted o rm) := by
  refine State.withIssuer_canon fun w => ?_
  dsimp only
  (repeat' split) <;> simp [hs]
@[simp] theorem State.halves_canon {s : State} {o f} (hs : s.ram.Canon) (hf : ∀ w m, NextCanon (f w m)) : NextCanon (s.halves o f) := by
  unfold State.halves
  refine State.withIssuer_canon fun w => ?_
  dsimp only
  (repeat' split) <;> simp [hs, hf]
@[simp] theorem execQenc_canon (o) {s : State} (hs : s.ram.Canon) : NextCanon (execQenc o s) := by
  refine State.withIssuer_canon fun w => ?_
  dsimp only
  (repeat' split) <;> simp [hs]

/-! ### The memory order: sectors, queued stores, reads -/

@[simp] theorem State.dropSector_ram (core key) : (s.dropSector core key).ram = s.ram := by simp [State.dropSector]
@[simp] theorem State.invalidate_ram (own src store keys tctx) : (s.invalidate own src store keys tctx).ram = s.ram := by
  simp [State.invalidate]
@[simp] theorem State.putMark_ram (m atomic) : (s.putMark m atomic).2.ram = s.ram := by simp [State.putMark]
@[simp] theorem State.updateL1_ram (core t bs m) : (s.updateL1 core t bs m).ram = s.ram := by
  refine foldl_ram (fun s x => ?_) _ _
  simp
@[simp] theorem State.homeRefuses_ram (who eng pa pc node block leg) :
    (s.homeRefuses who eng pa pc node block leg).ram = s.ram := by
  simp [State.homeRefuses]
@[simp] theorem State.removeStore_ram (core id) : (s.removeStore core id).ram = s.ram := by simp [State.removeStore]
@[simp] theorem State.afterStore_ram (d id) : (s.afterStore d id).ram = s.ram := by simp [State.afterStore]
@[simp] theorem State.stored_ram (e t bs) : (s.stored e t bs).ram = s.ram := by simp [State.stored]
@[simp] theorem State.storedPast_ram (e t atomic) : (s.storedPast e t atomic).ram = s.ram := by simp [State.storedPast]
@[simp] theorem State.putHome_canon {s : State} (hs : s.ram.Canon) (m d e t bs atomic) : (s.putHome m d e t bs atomic).state.ram.Canon := by
  unfold State.putHome
  split
  · rename_i d
    have h := s.hold_ram (holdDie t) d e.who.core e.leg (.inl e) (holdSize t bs.length)
    split <;> simp_all
  · have h := State.writeFor_canon hs m t bs
    split <;> simp_all
@[simp] theorem State.perform_canon {s : State} (hs : s.ram.Canon) (e) : (s.perform e).state.ram.Canon := by
  unfold State.perform
  dsimp only
  split
  · (repeat' split) <;> simp [hs]
  · split
    · split
      · split
        · next heq => simp [Logged.canon_ok heq (by simpa using hs)]
        · simp [hs]
      · exact hs
    · split
      · simp [hs]
      · split
        · split
          · next heq => simp [Logged.canon_ok heq (State.homeWrite_canon hs ..)]
          · simp [hs]
        · split
          · next heq => simp [Logged.canon_ok heq (State.logWrite_canon hs ..)]
          · simp [hs]
        · simp [hs]
@[simp] theorem State.drainOne_canon {s : State} (hs : s.ram.Canon) (e) : (s.drainOne e).2.ram.Canon := by
  have h := State.perform_canon hs e
  unfold State.drainOne
  dsimp only
  (repeat' split) <;> simp_all
@[simp] theorem State.drainList_canon {s : State} (hs : s.ram.Canon) (es) : (s.drainList es).2.ram.Canon := by
  induction es generalizing s with
  | nil => exact hs
  | cons e es ih =>
    have h := State.drainOne_canon hs e
    unfold State.drainList
    split <;> simp_all
@[simp] theorem State.drainFor_canon {s : State} (hs : s.ram.Canon) (core need) : (s.drainFor core need).2.ram.Canon := State.drainList_canon hs ..
@[simp] theorem State.noteRead_ram (me d sc acq ms) : (s.noteRead me d sc acq ms).ram = s.ram := by simp [State.noteRead]
@[simp] theorem State.noteWrite_ram (me d sc id) : (s.noteWrite me d sc id).ram = s.ram := by simp [State.noteWrite]
@[simp] theorem State.filterApply_ram (core d p) : (s.filterApply core d p).ram = s.ram := by simp [State.filterApply]
@[simp] theorem State.acquire_ram (me d sc) : (s.acquire me d sc).ram = s.ram := by simp [State.acquire]
@[simp] theorem State.makeRoom_ram (pos key) : (s.makeRoom pos key).ram = s.ram := by simp [State.makeRoom]
@[simp] theorem State.snoopMiss_ram (core key) : (s.snoopMiss core key).ram = s.ram := by simp [State.snoopMiss]
@[simp] theorem State.readSector_canon {s : State} (hs : s.ram.Canon) (me cached key) : (s.readSector me cached key).2.2.ram.Canon := by
  unfold State.readSector
  dsimp only
  (repeat' split) <;> simp [hs]
@[simp] theorem State.mustArrive_ram (core must keys) : (s.mustArrive core must keys).ram = s.ram := by
  simp [State.mustArrive]
@[simp] theorem State.readShared_canon {s : State} (hs : s.ram.Canon) (me cached rd key) : (s.readShared me cached rd key).2.2.2.ram.Canon := by
  unfold State.readShared
  split <;> simp [hs]
@[simp] theorem State.readKeys_canon {s : State} (hs : s.ram.Canon) (me cached rd ks) : (s.readKeys me cached rd ks).2.2.2.ram.Canon := by
  induction ks generalizing s rd with
  | nil => exact hs
  | cons k ks ih => simp [State.readKeys, ih, hs]
@[simp] theorem State.readMmio_canon {s : State} (hs : s.ram.Canon) (me rd a n) : (s.readMmio me rd a n).2.2.ram.Canon := by
  induction n generalizing s rd a with
  | zero => exact hs
  | succ n ih =>
    unfold State.readMmio
    split <;> simp [ih, hs]
@[simp] theorem State.readPiece_canon {s : State} (hs : s.ram.Canon) (me d rd p pc node block) :
    (s.readPiece me d rd p pc node block).2.2.2.ram.Canon := by
  unfold State.readPiece
  dsimp only
  (repeat' split) <;> simp [hs]
@[simp] theorem State.readPieces_canon {s : State} (hs : s.ram.Canon) (me d rd pc node block ps) :
    (s.readPieces me d rd pc node block ps).2.2.2.ram.Canon := by
  induction ps generalizing s rd with
  | nil => exact hs
  | cons p ps ih => simp [State.readPieces, ih, hs]
@[simp] theorem State.noteFed_ram (me d places) : (s.noteFed me d places).ram = s.ram := by simp [State.noteFed]
@[simp] theorem State.placeTx_ram (core p n) : (s.placeTx core p n).ram = s.ram := by
  unfold State.placeTx
  split <;> simp
@[simp] theorem State.enqueue_ram (w batch ls a sc place work irrev req) :
    (s.enqueue w batch ls a sc place work irrev req).ram = s.ram := by
  simp [State.enqueue]
@[simp] theorem State.enqueuePieces_ram (w batch ls a ps bs) : (s.enqueuePieces w batch ls a ps bs).ram = s.ram := by
  induction ps generalizing s bs with
  | nil => rfl
  | cons p ps ih => simp [State.enqueuePieces, ih]
@[simp] theorem State.bridge1_ram (w x y sc lane) : (s.bridge1 w x y sc lane).ram = s.ram := by simp [State.bridge1]
@[simp] theorem State.applyAll_ram (core p) : (s.applyAll core p).ram = s.ram := by simp [State.applyAll]

/-! ### Load and store instructions -/

@[simp] theorem State.touchLanes_ram (w m f) : (s.touchLanes w m f).ram = s.ram := by simp [State.touchLanes]
@[simp] theorem State.accessAt_canon {α : Type} {s : State} {h : Hd} {rs : List VRead} {ds : List VName} {bad : Bool}
    {touch : Who → State → Nat → List (Nat × Nat)} {f : Who → Nat → Except Flt α}
    {go : State → Who → LaneMask → List (Nat × α) → Outcome State Fault Refusal} (hs : s.ram.Canon)
    (hg : ∀ t w m xs, t.ram.Canon → NextCanon (go t w m xs)) : NextCanon (s.accessAt h rs ds bad touch f go) := by
  unfold State.accessAt
  refine State.withIssuer_canon fun w => ?_
  dsimp only
  (repeat' split) <;> simp [hs, hg]
@[simp] theorem State.access_canon {α : Type} {s : State} {h : Hd} {rs : List VRead} {ds : List VName} {bad : Bool}
    {f : Who → Nat → Except Flt α} {go : Who → LaneMask → List (Nat × α) → Outcome State Fault Refusal} (hs : s.ram.Canon)
    (hg : ∀ w m xs, NextCanon (go w m xs)) : NextCanon (s.access h rs ds bad f go) :=
  State.accessAt_canon hs fun _ w m xs _ => hg w m xs
@[simp] theorem State.beforeLoads_canon {s : State} (hs : s.ram.Canon) (w a xs) : (s.beforeLoads w a xs).2.ram.Canon := by
  unfold State.beforeLoads
  dsimp only
  split
  · exact hs
  · split <;> next h => exact canon_snd h (State.drainFor_canon hs ..)
theorem State.beforeLoads_eq_of_some {s t u : State} {w a xs} (h : s.beforeLoads w a xs = (some t, u)) : t = u := by
  unfold State.beforeLoads at h
  dsimp only at h
  (repeat' split at h) <;> grind
theorem State.beforeLoads_canon_of_some {s t u : State} {w a xs} (hs : s.ram.Canon) (h : s.beforeLoads w a xs = (some t, u)) : t.ram.Canon :=
  State.beforeLoads_eq_of_some h ▸ canon_snd h (State.beforeLoads_canon hs ..)
@[simp] theorem State.afterRead_ram (w a l sc ms) : (s.afterRead w a l sc ms).ram = s.ram := by simp [State.afterRead]
@[simp] theorem State.seeAll_ram (w a xs) : (s.seeAll w a xs).ram = s.ram := by simp [State.seeAll]
@[simp] theorem State.readLanes_canon {s : State} (hs : s.ram.Canon) (w a xs rd) : (s.readLanes w a xs rd).2.ram.Canon := by
  induction xs generalizing s rd with
  | nil => exact hs
  | cons x xs ih => simp [State.readLanes, ih, hs]
@[simp] theorem State.loadGlobal_canon {s : State} {w h a xs wb d wd f} (hs : s.ram.Canon) :
    NextCanon (s.loadGlobal w h a xs wb d wd f) := by
  unfold State.loadGlobal
  split
  · next heq => simp [canon_snd heq (State.beforeLoads_canon hs ..)]
  · next heq => simp [State.beforeLoads_canon_of_some hs heq]
@[simp] theorem execLd_canon (o) {s : State} (hs : s.ram.Canon) : NextCanon (execLd o s) := by
  refine State.withIssuer_canon fun w => ?_
  dsimp only
  (repeat' split) <;> simp [hs]
@[simp] theorem State.bankDone_ram (w h new all f) : (s.bankDone w h new all f).ram = s.ram := by simp [State.bankDone]
@[simp] theorem State.readBanks_ram (w a n xs) : (s.readBanks w a n xs).2.ram = s.ram := by
  induction xs generalizing s with
  | nil => rfl
  | cons x xs ih => simp [State.readBanks, ih]
@[simp] theorem execLdl_canon (o) {s : State} (hs : s.ram.Canon) : NextCanon (execLdl o s) := by
  refine State.access_canon hs fun w m xs => ?_
  dsimp only
  split
  · next heq => simp [canon_snd heq (State.beforeLoads_canon hs ..)]
  · next heq => simp [State.beforeLoads_canon_of_some hs heq]
@[simp] theorem execStl_canon (o) {s : State} (hs : s.ram.Canon) : NextCanon (execStl o s) := by
  refine State.withIssuer_canon fun w => ?_
  dsimp only
  (repeat' split) <;> simp [hs]
@[simp] theorem execLdx_canon (o) {s : State} (hs : s.ram.Canon) : NextCanon (execLdx o s) := by
  refine State.withIssuer_canon fun w => ?_
  dsimp only
  (repeat' split) <;> simp [hs]
@[simp] theorem State.stxLane_ram (w batch o g l e) : (s.stxLane w batch o g l e).ram = s.ram := by simp [State.stxLane]
@[simp] theorem execStx_canon (o) {s : State} (hs : s.ram.Canon) : NextCanon (execStx o s) := by
  refine State.withIssuer_canon fun w => ?_
  dsimp only
  (repeat' split) <;> simp [hs]
@[simp] theorem State.prefetch_canon {s : State} (hs : s.ram.Canon) (w l a) : (s.prefetch w l a).ram.Canon := by
  unfold State.prefetch
  dsimp only
  split
  · simpa using hs
  · refine foldl_canon (fun s p hs => ?_) _ (by simpa using hs)
    split
    · refine canon_ite.2 ⟨fun _ => foldl_canon (fun s key hs => ?_) _ hs, fun _ => hs⟩
      split <;> simp [hs]
    · exact hs
@[simp] theorem execPref_canon (o) {s : State} (hs : s.ram.Canon) : NextCanon (execPref o s) := by
  refine State.withIssuer_canon fun w => ?_
  dsimp only
  (repeat' split)
  · simp [hs]
  · simp [hs]
  · simpa using foldl_canon (fun s l hs => State.prefetch_canon hs w l _) _ hs
@[simp] theorem execCctlIv_canon (h base imm) {s : State} (hs : s.ram.Canon) : NextCanon (execCctlIv h base imm s) := by
  refine State.withIssuer_canon fun w => ?_
  dsimp only
  split
  · simp [hs]
  · simp only [nextCanon_next, State.skip_ram]
    refine foldl_canon (fun s l hs => ?_) _ hs
    split
    · simpa using hs
    · refine foldl_canon (fun s p hs => ?_) _ (by simpa using hs)
      split <;> simp [hs]

/-! ### Atomics -/

@[simp] theorem State.readWords_canon {s : State} (hs : s.ram.Canon) (w n ps) : (s.readWords w n ps).2.ram.Canon := by
  induction ps generalizing s with
  | nil => exact hs
  | cons p ps ih =>
    unfold State.readWords
    dsimp only
    refine ih ?_
    (repeat' split) <;> simp [hs]
@[simp] theorem State.logWords_canon {s : State} (hs : s.ram.Canon) (w n xs) : (s.logWords w n xs).2.ram.Canon := by
  induction xs generalizing s with
  | nil => exact hs
  | cons x xs ih =>
    unfold State.logWords
    split
    · next pa _ _ =>
      have h := State.logWrite_canon hs w.ctx pa n
      (repeat' split) <;> simp_all
    · exact ih hs
theorem State.logWords_eq_of_some {s t u : State} {w n xs} (h : s.logWords w n xs = (some t, u)) : t = u := by
  induction xs generalizing s with
  | nil => grind [State.logWords]
  | cons x xs ih => grind [State.logWords]
theorem State.logWords_canon_of_some {s t u : State} {w n xs} (hs : s.ram.Canon) (h : s.logWords w n xs = (some t, u)) : t.ram.Canon :=
  State.logWords_eq_of_some h ▸ canon_snd h (State.logWords_canon hs ..)
@[simp] theorem State.atomEvents_ram (w a sc ms id wrote ls new) :
    (s.atomEvents w a sc ms id wrote ls new).2.ram = s.ram := by
  induction ls generalizing s new with
  | nil => rfl
  | cons l ls ih => simp only [State.atomEvents]; split <;> simp [ih]
@[simp] theorem State.writeWord_canon {s : State} (hs : s.ram.Canon) (w n id d ls rels x) : (s.writeWord w n id d ls rels x).ram.Canon := by
  unfold State.writeWord
  split <;> simp [hs]
@[simp] theorem State.writeWords_canon {s : State} (hs : s.ram.Canon) (w a n wrote xs ws) : (s.writeWords w a n wrote xs ws).ram.Canon := by
  refine foldl_canon (fun s x hs => ?_) _ hs
  dsimp only
  split
  · exact State.writeWord_canon (by simpa using hs) ..
  · simpa using hs
@[simp] theorem State.placeAtomic_ram (core p n) : (s.placeAtomic core p n).ram = s.ram := by
  unfold State.placeAtomic
  split <;> simp
@[simp] theorem State.atomic_canon {s : State} {w o all} (hs : s.ram.Canon) : NextCanon (s.atomic w o all) := by
  unfold State.atomic
  dsimp only
  split
  · simp [hs]
  · split
    · next heq => simp [canon_snd heq (State.drainFor_canon hs ..)]
    · next heq =>
      have hd := (canon_snd heq (State.drainFor_canon hs ..))
      split
      · simpa using hd
      · split
        · next heq => simpa using canon_snd heq (State.logWords_canon (State.readWords_canon hd ..) ..)
        · next heq =>
          have hl := State.logWords_canon_of_some (State.readWords_canon hd ..) heq
          simpa using State.writeWords_canon (by simpa using hl) ..
@[simp] theorem execAtom_canon (o) {s : State} (hs : s.ram.Canon) : NextCanon (execAtom o s) := by
  refine State.withIssuer_canon fun w => ?_
  dsimp only
  (repeat' split) <;> simp [hs]

/-! ### Barriers -/

@[simp] theorem State.arriveEvents_ram (w o xs) : (s.arriveEvents w o xs).ram = s.ram := by simp [State.arriveEvents]
@[simp] theorem execBararrive_canon (o) {s : State} (hs : s.ram.Canon) : NextCanon (execBararrive o s) := by
  refine State.access_canon hs fun w m xs => ?_
  dsimp only
  split
  · simp [hs]
  · split
    · next heq => simp [canon_snd heq (State.drainFor_canon hs ..)]
    · next heq => split <;> simp [canon_snd heq (State.drainFor_canon hs ..)]
@[simp] theorem State.observeFlip_ram (w) : (s.observeFlip w).ram = s.ram := by simp [State.observeFlip]
@[simp] theorem State.barEvents_ram (w o ls) : (s.barEvents w o ls).ram = s.ram := by simp [State.barEvents]
@[simp] theorem State.barPass_ram (w o ls) : (s.barPass w o ls).ram = s.ram := by simp [State.barPass]
@[simp] theorem State.waitOn_ram (w x) : (s.waitOn w x).ram = s.ram := by simp [State.waitOn]
@[simp] theorem execBarwait_canon (o) {s : State} (hs : s.ram.Canon) : NextCanon (execBarwait o s) := by
  refine State.access_canon hs fun w m xs => ?_
  split
  · next heq => simp [canon_snd heq (State.beforeLoads_canon hs ..)]
  · next heq => simp [State.beforeLoads_canon_of_some hs heq]
@[simp] theorem execBartest_canon (o) {s : State} (hs : s.ram.Canon) : NextCanon (execBartest o s) := by
  refine State.access_canon hs fun w m xs => ?_
  split
  · next heq => simp [canon_snd heq (State.beforeLoads_canon hs ..)]
  · next heq => simp [State.beforeLoads_canon_of_some hs heq]
@[simp] theorem State.syncRelease_ram (core slot b) : (s.syncRelease core slot b).ram = s.ram := by simp [State.syncRelease]
@[simp] theorem State.trySync_ram (core slot) : (s.trySync core slot).ram = s.ram := by
  unfold State.trySync
  split <;> simp
@[simp] theorem execBlksync_canon (o) {s : State} (hs : s.ram.Canon) : NextCanon (execBlksync o s) := by
  refine State.withIssuer_canon fun w => ?_
  dsimp only
  (repeat' split) <;> simp [hs]

/-! ### Allotments -/

@[simp] theorem State.tryResize_ram (core slot grp) : (s.tryResize core slot grp).ram = s.ram := by
  unfold State.tryResize
  dsimp only
  (repeat' split) <;> simp
@[simp] theorem State.growStuck_canon {s : State} (hs : s.ram.Canon) (core part) : (s.growStuck core part).ram.Canon := by
  unfold State.growStuck
  dsimp only
  (repeat' split) <;> simp [hs]
@[simp] theorem State.allStuck_canon {s : State} (hs : s.ram.Canon) (core) : (s.allStuck core).ram.Canon :=
  foldl_canon (fun _ p hs => State.growStuck_canon hs core p) _ hs
@[simp] theorem State.everyStuck_canon {s : State} (hs : s.ram.Canon) : s.everyStuck.ram.Canon := by
  unfold State.everyStuck
  refine foldl_canon (fun t k ht => ?_) _ hs
  exact State.allStuck_canon ht _
@[simp] theorem State.clash_canon {s : State} (hs : s.ram.Canon) (w) : (s.clash w).ram.Canon := by
  unfold State.clash
  dsimp only
  (repeat' split) <;> simp [hs]
@[simp] theorem State.gatherAt_canon {s : State} (hs : s.ram.Canon) {w x go} (hg : ∀ t, t.ram.Canon → (go t).ram.Canon) :
    (s.gatherAt w x go).ram.Canon := by
  simp [State.gatherAt, hg, hs]
@[simp] theorem State.holdPoint_ram (w k) : (s.holdPoint w k).ram = s.ram := by
  unfold State.holdPoint
  split <;> simp
@[simp] theorem State.resize_canon {s : State} (k up n) (hs : s.ram.Canon) : NextCanon (s.resize k up n) := by
  refine State.withIssuer_canon fun w => ?_
  split
  · simp [hs]
  · split
    · simp [hs]
    · split
      · simp [hs]
      · exact nextCanon_next.2 (State.gatherAt_canon hs fun t ht => State.growStuck_canon (by simpa using ht) ..)
@[simp] theorem execGrowGrant_canon (core part) {s : State} (hs : s.ram.Canon) : NextCanon (execGrowGrant core part s) := by
  unfold execGrowGrant
  dsimp only
  (repeat' split) <;> simp [hs]

/-! ### Control flow -/

@[simp] theorem State.terminate_canon {s : State} (go st) (hs : s.ram.Canon) : NextCanon (s.terminate go st) := by
  refine State.withIssuer_canon fun w => ?_
  dsimp only
  (repeat' split) <;> simp [hs]
@[simp] theorem State.takeNeg_canon {s : State} (hs : s.ram.Canon) (w n) : (s.takeNeg w n).ram.Canon := by
  unfold State.takeNeg
  dsimp only
  (repeat' split) <;> simp [hs]
@[simp] theorem execWaitTok_canon (h wm mask) {s : State} (hs : s.ram.Canon) : NextCanon (execWaitTok h wm mask s) := by
  refine State.withIssuer_canon fun w => ?_
  dsimp only
  (repeat' split) <;> simp [hs]
@[simp] theorem execWaitClkExpiry_canon (core slot grp ig) {s : State} (hs : s.ram.Canon) :
    NextCanon (execWaitClkExpiry core slot grp ig s) := by
  unfold execWaitClkExpiry
  (repeat' split) <;> simp [hs]
@[simp] theorem execAssert_canon (h n p) {s : State} (hs : s.ram.Canon) : NextCanon (execAssert h n p s) := by
  refine State.withIssuer_canon fun w => ?_
  dsimp only
  (repeat' split) <;> simp [hs]
@[simp] theorem State.encodingFault_canon {s : State} (c x cause) (hs : s.ram.Canon) : NextCanon (s.encodingFault c x cause) := by
  simp [State.encodingFault, hs]

/-! ### Packets -/

@[simp] theorem State.packetTx_ram (core man o) : (s.packetTx core man o).ram = s.ram := by simp [State.packetTx]
@[simp] theorem State.send_ram (x m man op d sc rel payload seat cmd rop) :
    (s.send x m man op d sc rel payload seat cmd rop).2.ram = s.ram := by
  simp [State.send]
@[simp] theorem State.nextItem_ram (core slot cv) : (s.nextItem core slot cv).2.ram = s.ram := by
  unfold State.nextItem
  split <;> simp

/-! ### Endpoints -/

@[simp] theorem State.putImage_canon {s : State} (hs : s.ram.Canon) (x old new) : (s.putImage x old new).ram.Canon :=
  foldl_canon (fun s i hs => by split <;> simp [hs]) _ hs
@[simp] theorem State.modEnd_canon {s : State} (hs : s.ram.Canon) (e f) : (s.modEnd e f).ram.Canon := by
  unfold State.modEnd
  split <;> simp [hs]

/-! ### Commands of the engines -/

@[simp] theorem State.settleLocal_canon {s : State} (hs : s.ram.Canon) (w m) : (s.settleLocal w m).2.ram.Canon := State.drainFor_canon hs ..
@[simp] theorem State.bumpCe_ram (core i n) : (s.bumpCe core i n).ram = s.ram := by simp [State.bumpCe]
@[simp] theorem State.issueCmd_canon {s : State} (w m k tag a op ep) (hs : s.ram.Canon) : NextCanon (s.issueCmd w m k tag a op ep) := by
  simp [State.issueCmd, hs]
@[simp] theorem State.modCmd_ram (x f) : (s.modCmd x f).ram = s.ram := by simp [State.modCmd]
@[simp] theorem State.faultFar_canon {s : State} (hs : s.ram.Canon) (c e) : (s.faultFar c e).ram.Canon := by
  unfold State.faultFar
  dsimp only
  (repeat' split) <;> simp [hs]
@[simp] theorem State.releaseCmd_ram (x) : (s.releaseCmd x).ram = s.ram := by simp [State.releaseCmd]
@[simp] theorem State.completeCmd_ram (x) : (s.completeCmd x).ram = s.ram := by simp [State.completeCmd]
@[simp] theorem State.failCmd_canon {s : State} (hs : s.ram.Canon) (x f) : (s.failCmd x f).ram.Canon := by
  unfold State.failCmd
  split
  · simpa using hs
  · exact foldl_canon (fun _ e hs => State.faultFar_canon hs x.c e) _ (by simpa using hs)
@[simp] theorem State.engRead_canon {s : State} (hs : s.ram.Canon) (x fresh ps) : (s.engRead x fresh ps).2.ram.Canon := by
  refine foldl_snd_canon (fun p y hs => ?_) _ hs
  dsimp only
  generalize (if fresh = true then y.n else 0) = n
  split
  · exact State.homeRead_canon (by simpa using hs) ..
  · simpa using hs
@[simp] theorem State.engPut_canon {s : State} (hs : s.ram.Canon) (x p bs) : (s.engPut x p bs).state.ram.Canon := by simp [State.engPut, hs]
@[simp] theorem State.engWrite_canon {s : State} (hs : s.ram.Canon) (x ps bs) : (s.engWrite x ps bs).state.ram.Canon := by
  induction ps generalizing s bs with
  | nil => exact hs
  | cons p ps ih =>
    have h := State.engPut_canon hs x p (bs.take p.n)
    unfold State.engWrite
    split <;> simp_all
@[simp] theorem State.sealFor_ram (c) : (s.sealFor c).ram = s.ram := by
  unfold State.sealFor
  split <;> simp
@[simp] theorem Logged.did_canon {r : Logged} {s : State} {c} (hr : r.state.ram.Canon) (hs : s.ram.Canon) :
    (r.did s c).state.ram.Canon := by
  cases r <;> simp_all [Logged.did]
@[simp] theorem State.runUnits_canon {s : State} (hs : s.ram.Canon) {x step is} (hstep : ∀ t i, t.ram.Canon → (step t i).state.ram.Canon) :
    (s.runUnits x step is).1.ram.Canon := by
  induction is generalizing s with
  | nil => exact hs
  | cons i is ih =>
    have h := hstep s i hs
    unfold State.runUnits
    split <;> simp_all
@[simp] theorem State.engDraw_ram (x) : (s.engDraw x).2.ram = s.ram := by
  unfold State.engDraw
  dsimp only
  (repeat' split) <;> simp
@[simp] theorem State.observeTags_ram (w p) : (s.observeTags w p).ram = s.ram := by simp [State.observeTags]
@[simp] theorem State.tagTrap_canon {s : State} (hs : s.ram.Canon) (w m k) : (s.tagTrap w m k).ram.Canon := by simp [State.tagTrap, hs]

/-! ### Tensor movement -/

@[simp] theorem State.tensorRead_canon {s : State} (hs : s.ram.Canon) (x h a n fresh) : (rowState (s.tensorRead x h a n fresh)).ram.Canon := by
  unfold State.tensorRead
  dsimp only
  (repeat' split) <;> simp [hs]
@[simp] theorem State.readRow_canon {s : State} (hs : s.ram.Canon) (x v r) : (rowState (s.readRow x v r)).ram.Canon := by
  refine foldE_canon (fun p o hs => ?_) _ hs
  dsimp only
  split
  · next heq => exact canon_row_error heq (State.tensorRead_canon hs ..)
  · next heq => exact canon_row_ok heq (State.tensorRead_canon hs ..)
@[simp] theorem State.engDraws_ram (x n) : (s.engDraws x n).2.ram = s.ram := by
  induction n generalizing s with
  | zero => rfl
  | succ n ih => simp [State.engDraws, ih]
@[simp] theorem State.encodeVals_ram (x df sf vs fill) : (s.encodeVals x df sf vs fill).2.ram = s.ram := by
  refine foldl_snd_ram (fun p v => ?_) _ _
  cases v <;> simp
@[simp] theorem State.encodeBlock_ram (x df vs) : (s.encodeBlock x df vs).2.ram = s.ram := by simp [State.encodeBlock]
@[simp] theorem State.denseRow_canon {s : State} (hs : s.ram.Canon) (x v r) : (rowState (s.denseRow x v r)).ram.Canon := by
  unfold State.denseRow
  dsimp only
  split
  · next heq => exact canon_row_error heq (State.readRow_canon hs ..)
  · next heq =>
    have h := canon_row_ok heq (State.readRow_canon hs ..)
    split
    · exact h
    · split
      · exact h
      · split
        · refine foldl_snd_canon (fun p b hs => ?_) _ h
          split <;> simp [hs]
        · simpa using h
@[simp] theorem State.putDense_ram (x v r bs) : (s.putDense x v r bs).ram = s.ram := by simp [State.putDense]
@[simp] theorem State.tensorOuts_ram (x v r) : (s.tensorOuts x v r).2.ram = s.ram := by
  unfold State.tensorOuts
  dsimp only
  split
  · rfl
  · split
    · split
      · rfl
      · refine foldl_snd_ram (fun p j => ?_) _ _
        split <;> simp
    · split
      · refine foldl_snd_ram (fun p j => ?_) _ _
        split <;> simp
      · refine foldl_snd_ram (fun p j => ?_) _ _
        (repeat' split) <;> simp
@[simp] theorem State.putTensor_canon {s0 s : State} {x h os} (hs0 : s0.ram.Canon) (hs : s.ram.Canon) :
    (State.putTensor s0 s x h os).state.ram.Canon := by
  induction os generalizing s with
  | nil => exact hs
  | cons o os ih =>
    unfold State.putTensor
    split
    · simp [ih, hs]
    · split
      · simp [hs]
      · dsimp only
        split
        · simp [hs]
        · split
          · simp [hs]
          · rename_i ps _ _
            have hw := Logged.did_canon (c := x.b.ctx)
              (State.engWrite_canon (s := s.touchEng x.core x.b.ctx o.2.1.toNat o.2.2.length) (by simpa using hs) x ps o.2.2) hs0
            split
            · next heq => exact ih (Did.canon_done heq hw)
            · exact hw
@[simp] theorem State.creditOwn_ram (x n) : (s.creditOwn x n).ram = s.ram := by
  unfold State.creditOwn
  split <;> simp
@[simp] theorem State.moveRow_canon {s : State} (hs : s.ram.Canon) (x v r) : (s.moveRow x v r).state.ram.Canon := by
  unfold State.moveRow
  dsimp only
  split
  · have h := State.putTensor_canon (s0 := s) (s := (s.tensorOuts x v r).2) (x := x) (h := v.h)
        (os := joinHalves (s.tensorOuts x v r).1) hs (by simpa using hs)
    split
    · next heq => simpa using Did.canon_done heq h
    · exact h
  · split
    · next heq => exact canon_row_error heq (State.denseRow_canon hs ..)
    · next heq => simpa using canon_row_ok heq (State.denseRow_canon hs ..)
@[simp] theorem State.remoteOuts_canon {s : State} (hs : s.ram.Canon) (x v r) : (rowState (s.remoteOuts x v r)).ram.Canon := by
  unfold State.remoteOuts
  dsimp only
  split
  · simp [hs]
  · split
    · next heq => exact canon_row_error heq (State.denseRow_canon hs ..)
    · next heq => exact canon_row_ok heq (State.denseRow_canon hs ..)
@[simp] theorem State.flushPackets_ram (x l ready total fuel) : (s.flushPackets x l ready total fuel).2.ram = s.ram := by
  induction fuel generalizing s with
  | zero => rfl
  | succ n ih =>
    unfold State.flushPackets
    dsimp only
    (repeat' split) <;> simp [ih]
@[simp] theorem State.remoteUnit_canon {s : State} (hs : s.ram.Canon) (x v coll bar i) : (s.remoteUnit x v coll bar i).state.ram.Canon := by
  unfold State.remoteUnit
  dsimp only
  split
  · next t heq =>
    split at heq
    · cases heq
    · exact canon_snd heq (by simpa using hs)
  · next t heq =>
    have h : t.ram.Canon := by
      split at heq
      · cases heq
        exact hs
      · exact canon_snd heq (by simpa using hs)
    generalize hu : (ite (i % v.h.rows = 0) _ t : State) = u
    have h : u.ram.Canon := by
      simp [← hu, h]
    split
    · exact h
    · split <;>
      · split
        · exact h
        · split
          · next heq => exact (canon_row_error heq (State.remoteOuts_canon h ..))
          · next heq =>
            have h := (canon_row_ok heq (State.remoteOuts_canon h ..))
            split <;> simp [h]
@[simp] theorem State.askRow_ram (x v r) : (s.askRow x v r).ram = s.ram := by simp [State.askRow]

/-! ### The matrix engine -/

@[simp] theorem State.telAppend_canon {s : State} (hs : s.ram.Canon) (core c bits) : (s.telAppend core c bits).ram.Canon := by
  unfold State.telAppend
  dsimp only
  (repeat' split)
  · exact hs
  · exact hs
  · exact State.vWrite_canon (by exact hs) ..
@[simp] theorem State.countSteps_ram (core m) : (s.countSteps core m).ram = s.ram := by simp [State.countSteps]
@[simp] theorem State.telemetry_canon {s : State} (hs : s.ram.Canon) (x m i b res) : (s.telemetry x m i b res).ram.Canon := by
  unfold State.telemetry
  dsimp only
  split
  · exact hs
  · split
    · exact hs
    · exact State.telAppend_canon (by exact hs) ..
@[simp] theorem State.subBlock_canon {s : State} (hs : s.ram.Canon) (x m) : (s.subBlock x m).ram.Canon := by
  unfold State.subBlock
  split <;> simp [hs]
@[simp] theorem State.subBlocks_canon {s : State} (hs : s.ram.Canon) (core slot k n) : (s.subBlocks core slot k n).ram.Canon := by
  induction n generalizing s with
  | zero => exact hs
  | succ n ih =>
    unfold State.subBlocks
    (repeat' split) <;> simp [ih, hs]
@[simp] theorem execTmmaSubblock_canon (core slot k) {s : State} (hs : s.ram.Canon) : NextCanon (execTmmaSubblock core slot k s) := by
  unfold execTmmaSubblock
  (repeat' split) <;> simp [hs]
@[simp] theorem execFollowOnStart_canon (core slot k) {s : State} (hs : s.ram.Canon) : NextCanon (execFollowOnStart core slot k s) := by
  unfold execFollowOnStart
  (repeat' split) <;> simp [hs]

/-! ### Copies and tags -/

@[simp] theorem State.fail_canon {s : State} (w m cause) (hs : s.ram.Canon) : NextCanon (s.fail w m cause) := by simp [State.fail, hs]
@[simp] theorem State.once_canon {s : State} {h a f} (hs : s.ram.Canon) (hf : ∀ t w m, t.ram.Canon → NextCanon (f t w m)) :
    NextCanon (s.once h a f) := by
  simp [State.once, State.fail, hs, hf]
@[simp] theorem State.onceLocal_canon {s : State} {h a f} (hs : s.ram.Canon) (hf : ∀ t w m, t.ram.Canon → NextCanon (f t w m)) :
    NextCanon (s.onceLocal h a f) := by
  refine State.once_canon hs fun s w m hs => ?_
  split
  · next heq => simpa using (canon_snd heq (State.settleLocal_canon hs ..))
  · next heq =>
    have ht := (canon_snd heq (State.settleLocal_canon hs ..))
    split
    · exact hf _ _ _ ht
    · simpa using ht
@[simp] theorem execCpy_canon (o) {s : State} (hs : s.ram.Canon) : NextCanon (execCpy o s) := by
  refine State.access_canon hs fun w m xs => ?_
  split
  · simp [hs]
  · split
    · simp [hs]
    · split
      · next heq => simp [canon_snd heq (State.settleLocal_canon hs ..)]
      · next heq => split <;> simp [canon_snd heq (State.settleLocal_canon hs ..)]
@[simp] theorem State.cpyUnit_canon {s : State} (hs : s.ram.Canon) (x dir n c) : (s.cpyUnit x dir n c).state.ram.Canon := by
  unfold State.cpyUnit
  dsimp only
  split
  · simp [hs]
  · next bs t heq =>
    have h : t.ram.Canon := by
      (repeat' split at heq) <;> simp only [Except.ok.injEq, reduceCtorEq, Prod.mk.injEq] at heq
      · simp [← heq.2, hs]
      · simp [← heq.2, hs]
      · exact canon_snd heq (State.engRead_canon (by simpa using hs) ..)
      · simp [← heq.2, hs]
      · simp [← heq.2, hs]
    split
    · split
      · simp [h]
      · exact Logged.did_canon (State.engWrite_canon (by simpa using h) ..) hs
    · simp [h]
@[simp] theorem State.passTags_ram (w mask any) : (s.passTags w mask any).ram = s.ram := by simp [State.passTags]
@[simp] theorem execCpywait_canon (h any mask) {s : State} (hs : s.ram.Canon) : NextCanon (execCpywait h any mask s) := by
  refine State.withIssuer_canon fun w => ?_
  dsimp only
  (repeat' split) <;> simp [hs]
@[simp] theorem execTagff_canon (h d mask) {s : State} (hs : s.ram.Canon) : NextCanon (execTagff h d mask s) := by
  refine State.withIssuer_canon fun w => ?_
  dsimp only
  (repeat' split) <;> simp [hs]
@[simp] theorem State.tileMove_canon {s : State} (o load) (hs : s.ram.Canon) : NextCanon (s.tileMove o load) := by
  refine State.onceLocal_canon hs fun s w m hs => ?_
  (repeat' split) <;> simp [hs]
@[simp] theorem execTzero_canon (h tag tile) {s : State} (hs : s.ram.Canon) : NextCanon (execTzero h tag tile s) := by
  refine State.onceLocal_canon hs fun s w m hs => ?_
  (repeat' split) <;> simp [hs]
@[simp] theorem execTacc_canon (h add tag tile base) {s : State} (hs : s.ram.Canon) : NextCanon (execTacc h add tag tile base s) := by
  refine State.onceLocal_canon hs fun s w m hs => ?_
  (repeat' split) <;> simp [hs]
@[simp] theorem State.taccUnit_ram (x t c base add) : (s.taccUnit x t c base add).ram = s.ram := by simp [State.taccUnit]
@[simp] theorem execTmma_canon (h tag desc) {s : State} (hs : s.ram.Canon) : NextCanon (execTmma h tag desc s) := by
  refine State.onceLocal_canon hs fun s w m hs => ?_
  (repeat' split) <;> simp [hs]
@[simp] theorem execTcpy_canon (o) {s : State} (hs : s.ram.Canon) : NextCanon (execTcpy o s) := by
  refine State.onceLocal_canon hs fun s w m hs => ?_
  dsimp only
  (repeat' split) <;> simp [hs]
@[simp] theorem execTdrain_canon (o) {s : State} (hs : s.ram.Canon) : NextCanon (execTdrain o s) := by
  refine State.onceLocal_canon hs fun s w m hs => ?_
  dsimp only
  (repeat' split) <;> simp [hs]
@[simp] theorem State.xsendUnit_ram (x src len dst bar i) : (s.xsendUnit x src len dst bar i).state.ram = s.ram := by
  unfold State.xsendUnit
  dsimp only
  (repeat' split) <;> simp
@[simp] theorem State.unit_canon {s : State} (hs : s.ram.Canon) (x i) : (s.unit x i).state.ram.Canon := by
  unfold State.unit
  (repeat' split) <;> simp [hs]
@[simp] theorem State.settleCmd_ram (core slot k) : (s.settleCmd core slot k).ram = s.ram := by
  unfold State.settleCmd
  split <;> simp
@[simp] theorem State.landCmd_ram (x) : (s.landCmd x).ram = s.ram := by
  unfold State.landCmd
  split <;> simp
@[simp] theorem State.askRows_ram (x v n) : (s.askRows x v n).2.ram = s.ram := by
  unfold State.askRows
  split <;> simp
@[simp] theorem State.advanceCmd_canon {s : State} (hs : s.ram.Canon) (x is) : (s.advanceCmd x is).ram.Canon := by
  have h := State.runUnits_canon hs (x := x) (is := is) fun t i ht => State.unit_canon ht x i
  unfold State.advanceCmd
  split
  · simp_all
  · (repeat' split) <;> simp_all
@[simp] theorem State.beginCmd_canon {s : State} (hs : s.ram.Canon) (x) : (s.beginCmd x).ram.Canon := by
  unfold State.beginCmd
  dsimp only
  (repeat' split) <;> simp [hs]
@[simp] theorem State.workCmd_canon {s : State} (hs : s.ram.Canon) (x part) : (s.workCmd x part).ram.Canon := by
  unfold State.workCmd
  split
  · split
    · split
      · next heq => exact State.advanceCmd_canon (canon_snd heq (by simpa using hs)) ..
      · next heq => exact canon_snd heq (by simpa using hs)
    · simp [hs]
  · simp [hs]
@[simp] theorem execCommandComplete_canon (core slot k part) {s : State} (hs : s.ram.Canon) :
    NextCanon (execCommandComplete core slot k part s) := by
  unfold execCommandComplete
  dsimp only
  (repeat' split) <;> simp [hs]

/-! ### Remote operations -/

@[simp] theorem State.sendDrafts_ram (w act m man k seat rop ds sent) :
    (s.sendDrafts w act m man k seat rop ds sent).2.ram = s.ram := by
  induction ds generalizing s sent with
  | nil => rfl
  | cons d ds ih => simp [State.sendDrafts, ih]
@[simp] theorem State.remote_canon {s : State} (w k act m cv man x ds) (hs : s.ram.Canon) :
    NextCanon (s.remote w k act m cv man x ds) := by
  simp [State.remote, hs]
@[simp] theorem execXld_canon (o) {s : State} (hs : s.ram.Canon) : NextCanon (execXld o s) := by
  refine State.withIssuer_canon fun w => ?_
  dsimp only
  (repeat' split) <;> simp [hs]
@[simp] theorem execXst_canon (o) {s : State} (hs : s.ram.Canon) : NextCanon (execXst o s) := by
  refine State.withIssuer_canon fun w => ?_
  dsimp only
  (repeat' split) <;> simp [hs]
@[simp] theorem execXatom_canon (o) {s : State} (hs : s.ram.Canon) : NextCanon (execXatom o s) := by
  refine State.access_canon hs fun w m xs => ?_
  split
  · simp [hs]
  · split
    · simp [hs]
    · exact State.remote_canon _ _ _ _ _ _ _ _ (by exact hs)
@[simp] theorem execXsend_canon (h acc tag desc bar) {s : State} (hs : s.ram.Canon) : NextCanon (execXsend h acc tag desc bar s) := by
  refine State.onceLocal_canon hs fun s w m hs => ?_
  (repeat' split) <;> simp [hs]
@[simp] theorem execCvopen_canon (h c e) {s : State} (hs : s.ram.Canon) : NextCanon (execCvopen h c e s) := by
  refine State.withIssuer_canon fun w => ?_
  dsimp only
  (repeat' split) <;> simp [hs]
@[simp] theorem execFencef_canon (h dom c bar n) {s : State} (hs : s.ram.Canon) : NextCanon (execFencef h dom c bar n s) := by
  refine State.withIssuer_canon fun w => ?_
  dsimp only
  (repeat' split) <;> simp [hs]
@[simp] theorem execSlotrsv_canon (h d e b) {s : State} (hs : s.ram.Canon) : NextCanon (execSlotrsv h d e b s) := by
  refine State.withIssuer_canon fun w => ?_
  dsimp only
  (repeat' split) <;> simp [hs]
@[simp] theorem State.slotFree_canon {s : State} (h j fault) (hs : s.ram.Canon) : NextCanon (s.slotFree h j fault) := by
  refine State.withIssuer_canon fun w => ?_
  dsimp only
  (repeat' split) <;> simp [hs]

/-! ### WAYMARK and IRREV -/

@[simp] theorem State.wayWho_ram (core slot grp) : (s.wayWho core slot grp).2.ram = s.ram := by
  unfold State.wayWho
  (repeat' split) <;> simp
@[simp] theorem State.tryWay_canon {s : State} (hs : s.ram.Canon) (core slot grp) : (s.tryWay core slot grp).ram.Canon := by
  have hw {o t} (h : s.wayWho core slot grp = (o, t)) := canon_snd h (by simpa using hs)
  unfold State.tryWay
  dsimp only
  (repeat' split) <;> simp_all
@[simp] theorem execWaymark_canon (k d vg) {s : State} (hs : s.ram.Canon) : NextCanon (execWaymark k d vg s) := by
  refine State.withIssuer_canon fun w => ?_
  split
  · simp [hs]
  · split
    · simp [hs]
    · exact nextCanon_next.2 (State.gatherAt_canon hs fun t ht => by simp [ht])
@[simp] theorem execIrrev_canon (h) {s : State} (hs : s.ram.Canon) : NextCanon (execIrrev h s) := by
  refine State.withIssuer_canon fun w => ?_
  dsimp only
  (repeat' split) <;> simp [hs]

/-! ### Itineraries -/

@[simp] theorem State.modItin_ram (id f) : (s.modItin id f).ram = s.ram := by simp [State.modItin]

/-! ### System instructions -/

@[simp] theorem State.locTouch_ram (w kind a l) : (s.locTouch w kind a l).ram = s.ram := by
  unfold State.locTouch
  split <;> simp
@[simp] theorem execLocq_canon (h kind d a) {s : State} (hs : s.ram.Canon) : NextCanon (execLocq h kind d a s) := by
  refine State.withIssuer_canon fun w => ?_
  dsimp only
  (repeat' split) <;> simp [hs]
@[simp] theorem State.launch_ram (c q rec top) : (s.launch c q rec top).2.ram = s.ram := by
  unfold State.launch
  dsimp only
  (repeat' split) <;> simp
@[simp] theorem execLaunch_canon (k d r q) {s : State} (hs : s.ram.Canon) : NextCanon (execLaunch k d r q s) := by
  refine State.withIssuer_canon fun w => ?_
  dsimp only
  iterate 4
    split
    · simp [State.fail, hs]
  split
  · next heq => simp [canon_snd heq (State.drainFor_canon hs ..)]
  · next heq => simp [canon_snd heq (State.drainFor_canon hs ..)]
@[simp] theorem State.rfe_canon {s : State} (next) (hs : s.ram.Canon) : NextCanon (s.rfe next) := by simp [State.rfe, hs]
@[simp] theorem execCtlrd_canon (h d r) {s : State} (hs : s.ram.Canon) : NextCanon (execCtlrd h d r s) := by
  refine State.withIssuer_canon fun w => ?_
  dsimp only
  (repeat' split) <;> simp [hs]
@[simp] theorem execCtlwr_canon (h r n) {s : State} (hs : s.ram.Canon) : NextCanon (execCtlwr h r n s) := by
  unfold execCtlwr
  split <;> simp [hs]
@[simp] theorem execTraprd_canon (h d k) {s : State} (hs : s.ram.Canon) : NextCanon (execTraprd h d k s) := by
  refine State.withIssuer_canon fun w => ?_
  dsimp only
  (repeat' split) <;> simp [hs]

/-! ### What a packet does where it lands -/

@[simp] theorem State.homeStore_canon {s : State} (hs : s.ram.Canon) (f atomic ps bs) : (s.homeStore f atomic ps bs).state.ram.Canon := by
  induction ps generalizing s bs with
  | nil => exact hs
  | cons p ps ih =>
    unfold State.homeStore
    dsimp only
    split
    · next heq => simp [ih, Logged.canon_ok heq (State.putHome_canon hs ..)]
    · simp [hs]
@[simp] theorem State.homeStores_canon {s : State} (hs : s.ram.Canon) (f xs) : (s.homeStores f xs).state.ram.Canon := by
  induction xs generalizing s with
  | nil => exact hs
  | cons x xs ih =>
    have h := State.homeStore_canon hs f false x.1 x.2
    unfold State.homeStores
    split <;> simp_all
@[simp] theorem State.homeLoad_canon {s : State} (hs : s.ram.Canon) (f ps) : (s.homeLoad f ps).2.ram.Canon := by
  refine foldl_snd_canon (p := (([] : List Byte), s)) (fun p x hs => ?_) ps hs
  exact State.readFor_canon hs ..
@[simp] theorem State.homeAtoms_canon {s : State} (hs : s.ram.Canon) (f op ty xs) : (s.homeAtoms f op ty xs).1.state.ram.Canon := by
  induction xs generalizing s with
  | nil => exact hs
  | cons x xs ih =>
    have h (o : Option Dword) : (match o with
        | some v => (s.homeLoad f x.1).2.homeStore f true x.1 (whole (leBytes (sizeOf ty) v.toNat))
        | none => Logged.ok (s.homeLoad f x.1).2).state.ram.Canon := by
      cases o <;> simp [hs]
    unfold State.homeAtoms
    dsimp only
    split
    · next heq => exact ih (Logged.canon_ok heq (h _))
    · exact h _
@[simp] theorem State.mergeElem_canon {s : State} (hs : s.ram.Canon) (f rop ps v) : (s.mergeElem f rop ps v).state.ram.Canon := by
  unfold State.mergeElem
  (repeat' split) <;> simp [hs]
@[simp] theorem State.reduceElem_canon {s : State} (hs : s.ram.Canon) (f rop ps v) : (s.reduceElem f rop ps v).state.ram.Canon := by
  unfold State.reduceElem
  dsimp only
  split
  · split
    · next pa _ =>
      have h := State.logFor_canon hs (s.makerOf f) pa v.length
      split <;> simp_all
    · simp [hs]
  · simp [hs]
@[simp] theorem State.reduceAll_canon {s : State} (hs : s.ram.Canon) (f rop ordered xs) : (State.reduceAll f rop ordered xs s).state.ram.Canon := by
  induction xs generalizing s with
  | nil => exact hs
  | cons x xs ih =>
    have hx : (if ordered then s.mergeElem f rop x.1 x.2 else s.reduceElem f rop x.1 x.2).state.ram.Canon := by
      split <;> simp [hs]
    unfold State.reduceAll
    split
    · next heq => exact ih (Logged.canon_ok heq hx)
    · exact hx
@[simp] theorem State.noteRank_ram (rank cmask pa) : (s.noteRank rank cmask pa).ram = s.ram := by simp [State.noteRank]
@[simp] theorem State.dropDup_ram (home) : (s.dropDup home).ram = s.ram := by simp [State.dropDup]
@[simp] theorem State.collMark_ram (dom p home) : (s.collMark dom p home).ram = s.ram := by
  unfold State.collMark
  split <;> simp
@[simp] theorem Logged.landed_canon {r : Logged} {s0 : State} {f a ms} (hr : r.state.ram.Canon) (hs : s0.ram.Canon) :
    (r.landed s0 f a ms).state.ram.Canon := by
  unfold Logged.landed
  split
  · exact hr
  · split <;> simp [hs]
  · simp [hs]
@[simp] theorem State.landHome_canon {s : State} (hs : s.ram.Canon) (f) : (s.landHome f).state.ram.Canon := by
  unfold State.landHome
  dsimp only
  split
  · split
    · exact hs
    · split
      · simp [hs]
      · exact Logged.landed_canon (by simp [hs]) hs
  · split
    · exact hs
    · refine foldl_snd_canon (p := (([] : List Dword), s)) (fun p l hs => ?_) _ hs
      exact State.homeLoad_canon hs ..
  · split
    · exact hs
    · split
      · exact hs
      · exact Logged.landed_canon (by simp [hs]) hs
  · split
    · exact hs
    · split
      · exact hs
      · split
        · simp [hs]
        · split
          · exact Logged.landed_canon (by simp [hs]) hs
          · split
            · exact Logged.landed_canon (by simp [hs]) hs
            · exact hs
  · exact hs
  · exact hs
@[simp] theorem State.localMarks_ram (f core slot) : (s.localMarks f core slot).ram = s.ram := by simp [State.localMarks]
@[simp] theorem State.landCore_canon {s : State} (hs : s.ram.Canon) (f) : (s.landCore f).state.ram.Canon := by
  unfold State.landCore
  dsimp only
  (repeat' split) <;> simp [hs]
@[simp] theorem State.landRx_ram (f) : (s.landRx f).ram = s.ram := by simp [State.landRx]
@[simp] theorem State.land_canon {s : State} (hs : s.ram.Canon) (f) : (s.land f).state.ram.Canon := by
  unfold State.land
  split
  · simp [hs]
  · split
    · exact hs
    · have h : (if f.p.toCore then s.landCore f else s.landHome f).state.ram.Canon := by
        split <;> simp [hs]
      split
      · next heq =>
        rw [heq] at h
        split <;> simpa using h
      · exact h

/-! ### The fabric -/

@[simp] theorem State.modFlight_ram (id f) : (s.modFlight id f).ram = s.ram := by simp [State.modFlight]
@[simp] theorem State.dropFlight_ram (id) : (s.dropFlight id).ram = s.ram := by simp [State.dropFlight]
@[simp] theorem State.answer_ram (id a) : (s.answer id a).ram = s.ram := by simp [State.answer]
@[simp] theorem State.modIssuer_ram (x f) : (s.modIssuer x f).ram = s.ram := by
  unfold State.modIssuer
  split <;> simp
@[simp] theorem State.creditEntry_ram (p) : (s.creditEntry p).ram = s.ram := by simp [State.creditEntry]
@[simp] theorem State.carryOn_ram (me d pkt acqs) : (s.carryOn me d pkt acqs).ram = s.ram := by simp [State.carryOn]
@[simp] theorem State.farRead_ram (f o core slot b m vs) : (s.farRead f o core slot b m vs).ram = s.ram := by
  simp [State.farRead]
@[simp] theorem State.groupDone_ram (f vs) : (s.groupDone f vs).ram = s.ram := by
  unfold State.groupDone
  dsimp only
  (repeat' split) <;> simp
@[simp] theorem State.cmdDone_ram (f k vs) : (s.cmdDone f k vs).ram = s.ram := by
  unfold State.cmdDone
  split <;> simp
@[simp] theorem State.positive_ram (f vs) : (s.positive f vs).ram = s.ram := by
  unfold State.positive
  (repeat' split) <;> simp
@[simp] theorem State.groupNegative_ram (f r) : (s.groupNegative f r).ram = s.ram := by
  unfold State.groupNegative
  dsimp only
  (repeat' split) <;> simp
@[simp] theorem State.cmdNegative_canon {s : State} (hs : s.ram.Canon) (f k r) : (s.cmdNegative f k r).ram.Canon := by
  unfold State.cmdNegative
  (repeat' split) <;> simp [hs]
@[simp] theorem State.negative_canon {s : State} (hs : s.ram.Canon) (f r) : (s.negative f r).ram.Canon := by
  unfold State.negative
  (repeat' split) <;> simp [hs]
@[simp] theorem State.leaveSource_ram (f) : (s.leaveSource f).ram = s.ram := by
  unfold State.leaveSource
  split <;> simp
@[simp] theorem State.ackHeld_ram (f) : (s.ackHeld f).ram = s.ram := by
  unfold State.ackHeld
  split <;> simp
@[simp] theorem State.depart_ram (f) : (s.depart f).ram = s.ram := by simp [State.depart]
@[simp] theorem execFirstHopCustody_canon (id) {s : State} (hs : s.ram.Canon) : NextCanon (execFirstHopCustody id s) := by
  unfold execFirstHopCustody
  dsimp only
  split
  · simp [hs]
  · split
    · simp [hs]
    · split
      · simp [hs]
      · split
        · split
          · next heq => simpa using Logged.canon_ok heq (by simpa using hs)
          · next heq => simpa using Logged.canon_wait heq (by simpa using hs)
          · next heq => simpa using Logged.canon_over heq (by simpa using hs)
        · simp [hs]
@[simp] theorem State.lose_ram (f) : (s.lose f).ram = s.ram := by simp [State.lose]
@[simp] theorem State.setPort_ram (p y) : (s.setPort p y).ram = s.ram := by simp [State.setPort]
@[simp] theorem State.exhaust_canon {s : State} (hs : s.ram.Canon) (port dir) : (s.exhaust port dir).ram.Canon := by simp [State.exhaust, hs]
@[simp] theorem State.count_canon {s : State} (hs : s.ram.Canon) (port dir n) : (s.count port dir n).ram.Canon := by simp [State.count, hs]
@[simp] theorem State.flitsOut_canon {s : State} (hs : s.ram.Canon) (port n msg) : (s.flitsOut port n msg).ram.Canon := by
  unfold State.flitsOut
  dsimp only
  generalize (if s.flitRoom port n = true then n else s.ctrRoom port) = k
  have h : (if s.flitRoom port n = true then { s with out := s.out ++ [msg] } else s).ram.Canon := by
    split <;> exact hs
  generalize (if s.flitRoom port n = true then { s with out := s.out ++ [msg] } else s) = u at h ⊢
  split
  · simp [h]
  · exact State.exhaust_canon (by simp [h]) ..
@[simp] theorem State.flitsIn_canon {s : State} (hs : s.ram.Canon) (port n) : (s.flitsIn port n).ram.Canon := by simp [State.flitsIn, hs]
@[simp] theorem State.sendOn_canon {s : State} (hs : s.ram.Canon) (f r) : (s.sendOn f r).ram.Canon := by simp [State.sendOn, hs]
@[simp] theorem State.forward_canon {s : State} (hs : s.ram.Canon) (f) : (s.forward f).ram.Canon := by
  unfold State.forward
  split <;> simp [hs]
@[simp] theorem State.reroute_canon {s : State} (hs : s.ram.Canon) (f port) : (s.reroute f port).ram.Canon := by
  unfold State.reroute
  split <;> simp [hs]
@[simp] theorem State.acceptSeq_ram (gate p) : (s.acceptSeq gate p).ram = s.ram := by simp [State.acceptSeq]
@[simp] theorem State.receive_canon {s : State} (hs : s.ram.Canon) (p port) : (s.receive p port).ram.Canon := by
  unfold State.receive
  dsimp only
  (repeat' split) <;> simp [hs]
@[simp] theorem execPacketHop_canon (h) {s : State} (hs : s.ram.Canon) : NextCanon (execPacketHop h s) := by
  unfold execPacketHop
  (repeat' split) <;> simp [hs]
@[simp] theorem execCustodyTimeout_canon (id) {s : State} (hs : s.ram.Canon) : NextCanon (execCustodyTimeout id s) := by
  unfold execCustodyTimeout
  dsimp only
  (repeat' split) <;> simp [hs]
@[simp] theorem execLinkFailure_canon (id) {s : State} (hs : s.ram.Canon) : NextCanon (execLinkFailure id s) := by
  unfold execLinkFailure
  (repeat' split) <;> simp [hs]
@[simp] theorem State.arrival_canon {s : State} (hs : s.ram.Canon) (f) : (s.arrival f).ram.Canon := by
  have h := State.land_canon hs f
  unfold State.arrival
  split
  · simp_all
  · split <;> simp_all
@[simp] theorem execPacketArrival_canon (id) {s : State} (hs : s.ram.Canon) : NextCanon (execPacketArrival id s) := by
  unfold execPacketArrival
  split <;> simp [hs]
@[simp] theorem execSlotrsvRequest_canon (id) {s : State} (hs : s.ram.Canon) : NextCanon (execSlotrsvRequest id s) := by
  unfold execSlotrsvRequest
  split <;> simp [hs]
@[simp] theorem State.replyRx_ram (f) : (s.replyRx f).ram = s.ram := by simp [State.replyRx]
@[simp] theorem execRemoteReply_canon (id r) {s : State} (hs : s.ram.Canon) : NextCanon (execRemoteReply id r s) := by
  unfold execRemoteReply
  dsimp only
  (repeat' split) <;> simp [hs]
@[simp] theorem execCustodyAck_canon (id) {s : State} (hs : s.ram.Canon) : NextCanon (execCustodyAck id s) := by
  unfold execCustodyAck
  split <;> simp [hs]
@[simp] theorem execNegativeReply_canon (id r) {s : State} (hs : s.ram.Canon) : NextCanon (execNegativeReply id r s) := by
  unfold execNegativeReply
  (repeat' split) <;> simp [hs]
@[simp] theorem execErrorNoticeArrival_canon (core slot gen off) {s : State} (hs : s.ram.Canon) :
    NextCanon (execErrorNoticeArrival core slot gen off s) := by
  unfold execErrorNoticeArrival
  split <;> simp [hs]

/-! ### Events of the core -/

@[simp] theorem State.deliver_canon {s : State} (hs : s.ram.Canon) (w) : (s.deliver w).ram.Canon := by
  unfold State.deliver
  split <;> simp [hs]
@[simp] theorem execTrapDelivery_canon (core slot grp ig) {s : State} (hs : s.ram.Canon) :
    NextCanon (execTrapDelivery core slot grp ig s) := by
  unfold execTrapDelivery
  split <;> simp [hs]
@[simp] theorem State.leave_canon {s : State} (hs : s.ram.Canon) (core k) : (s.leave core k).ram.Canon := by
  unfold State.leave
  split <;> simp [hs]
@[simp] theorem State.leaveRequest_canon {s : State} (hs : s.ram.Canon) (core k) : (s.leaveRequest core k).ram.Canon := by
  unfold State.leaveRequest
  split <;> simp [hs]
@[simp] theorem execInvalidationArrival_canon (core k) {s : State} (hs : s.ram.Canon) : NextCanon (execInvalidationArrival core k s) := by
  unfold execInvalidationArrival
  split <;> simp [hs]
@[simp] theorem execFilterAgeExpiry_canon (core k dom) {s : State} (hs : s.ram.Canon) : NextCanon (execFilterAgeExpiry core k dom s) := by
  unfold execFilterAgeExpiry
  (repeat' split) <;> simp [hs]
@[simp] theorem State.cuMerge_ram (k i j) : (s.cuMerge k i j).ram = s.ram := by
  unfold State.cuMerge
  split <;> simp
@[simp] theorem State.refuseStore_canon {s : State} (hs : s.ram.Canon) (core slot grp pa) : (s.refuseStore core slot grp pa).ram.Canon := by
  unfold State.refuseStore
  split <;> simp [hs]
@[simp] theorem execHomeAgentWrite_canon (x) {s : State} (hs : s.ram.Canon) : NextCanon (execHomeAgentWrite x s) := by
  unfold execHomeAgentWrite
  (repeat' split) <;> simp [hs]

/-! ### Ports and the mailbox's shared parts -/

@[simp] theorem State.done_ram (r) : (s.done r).ram = s.ram := rfl
@[simp] theorem State.retArg_ram (k x) : (s.retArg k x).ram = s.ram := rfl
@[simp] theorem State.command_canon {s : State} {code f} (hs : s.ram.Canon) (hf : (f s).ram.Canon) :
    NextCanon (s.command code f) := by
  simp [State.command, hs, hf]
@[simp] theorem State.cleanPort_canon {s : State} (hs : s.ram.Canon) (p) : (s.cleanPort p).ram.Canon :=
  foldl_canon (fun _ f hs => State.reroute_canon hs f p) _ hs
@[simp] theorem State.retirePort_canon {s : State} (hs : s.ram.Canon) (p cause) : (s.retirePort p cause).ram.Canon := by simp [State.retirePort, hs]
@[simp] theorem execFabcfg_canon {s : State} (hs : s.ram.Canon) : NextCanon (execFabcfg s) := by
  refine State.command_canon hs ?_
  dsimp only
  split <;> exact hs
@[simp] theorem State.installKey_ram (port dir k) : (s.installKey port dir k).ram = s.ram := by simp [State.installKey]

/-! ### Admission and placement -/

@[simp] theorem State.modQueue_ram (c q f) : (s.modQueue c q f).ram = s.ram := by simp [State.modQueue]
@[simp] theorem State.stopQueue_canon {s : State} (hs : s.ram.Canon) (c q) : (s.stopQueue c q).ram.Canon := by simp [State.stopQueue, hs]
@[simp] theorem State.complete_canon {s : State} (hs : s.ram.Canon) (c crec addr node reason status) :
    (s.complete c crec addr node reason status).ram.Canon := by
  simp [State.complete, hs]
@[simp] theorem execItineraryAdmit_canon (ctx q) {s : State} (hs : s.ram.Canon) : NextCanon (execItineraryAdmit ctx q s) := by
  unfold execItineraryAdmit
  dsimp only
  (repeat' split) <;> simp [hs]
@[simp] theorem State.bindSlot_ram (core slot) : (s.bindSlot core slot).ram = s.ram := by simp [State.bindSlot]
@[simp] theorem State.setFused_ram (core fused) : (s.setFused core fused).ram = s.ram := by
  unfold State.setFused
  dsimp only
  split
  · rfl
  · exact (foldl_ram (fun s i => by simp) _ _).trans (foldl_ram (fun s k => by simp) _ _)
@[simp] theorem State.place_canon {s : State} (hs : s.ram.Canon) (t k core slot parts) : (s.place t k core slot parts).ram.Canon := by
  unfold State.place
  dsimp only
  (repeat' split) <;> simp [hs]
@[simp] theorem execBlockPlace_canon (die) {s : State} (hs : s.ram.Canon) : NextCanon (execBlockPlace die s) := by
  unfold execBlockPlace
  (repeat' split) <;> simp [hs]
@[simp] theorem execStealRequest_canon (thief victim) {s : State} (hs : s.ram.Canon) : NextCanon (execStealRequest thief victim s) := by
  unfold execStealRequest
  (repeat' split) <;> simp [hs]
@[simp] theorem State.freeBlock_ram (core slot b) : (s.freeBlock core slot b).ram = s.ram := by simp [State.freeBlock]
@[simp] theorem State.noteRetired_canon {s : State} (hs : s.ram.Canon) (b) : (s.noteRetired b).ram.Canon := by
  unfold State.noteRetired
  dsimp only
  (repeat' split) <;> simp [hs]
@[simp] theorem State.retireBlock_canon {s : State} (hs : s.ram.Canon) (core slot b) : (s.retireBlock core slot b).ram.Canon := by
  unfold State.retireBlock
  split <;> simp [hs]
@[simp] theorem State.tellHalted_canon {s : State} (hs : s.ram.Canon) : s.tellHalted.ram.Canon :=
  foldl_canon (fun _ h hs => State.postEvent_canon hs h.ctx 2 0 0) _ (by exact hs)
@[simp] theorem execBlockTaskRetire_canon (core slot) {s : State} (hs : s.ram.Canon) : NextCanon (execBlockTaskRetire core slot s) := by
  unfold execBlockTaskRetire
  split
  · simpa using hs
  · rw [nextCanon_next]
    split
    · split
      · exact State.tellHalted_canon (State.allStuck_canon (by simp [hs]) _)
      · exact hs
    · split
      · exact State.tellHalted_canon (State.allStuck_canon (by simp [hs]) _)
      · exact hs
    · split
      · exact State.tellHalted_canon (State.allStuck_canon (by simp [hs]) _)
      · exact hs
    · exact hs
@[simp] theorem execWatchdogExpiry_canon (core slot) {s : State} (hs : s.ram.Canon) : NextCanon (execWatchdogExpiry core slot s) := by
  unfold execWatchdogExpiry
  (repeat' split) <;> simp [hs]

/-! ### Images -/

@[simp] theorem State.restartGroup_ram (core slot grp) : (s.restartGroup core slot grp).ram = s.ram := by
  simp [State.restartGroup]
@[simp] theorem execEvictionStopTimeout_canon (core slot grp) {s : State} (hs : s.ram.Canon) :
    NextCanon (execEvictionStopTimeout core slot grp s) := by
  unfold execEvictionStopTimeout
  dsimp only
  (repeat' split) <;> simp [hs]

/-! ### Eviction -/

@[simp] theorem State.askGroup_ram (core slot grp) : (s.askGroup core slot grp).ram = s.ram := by simp [State.askGroup]
@[simp] theorem State.askBlock_ram (core slot) : (s.askBlock core slot).ram = s.ram := by simp [State.askBlock]
@[simp] theorem execEvictionDecision_canon (die) {s : State} (hs : s.ram.Canon) : NextCanon (execEvictionDecision die s) := by
  unfold execEvictionDecision
  split
  · simpa using hs
  · have h (l : List Nat) : (l.foldl (fun s c => s.postEvent c 8 0 0) s).ram.Canon :=
      foldl_canon (fun _ c hs => State.postEvent_canon hs c 8 0 0) _ hs
    dsimp only
    split
    · simpa using h _
    · split <;> simpa using h _
@[simp] theorem State.keepGroup_ram (core slot grp) : (s.keepGroup core slot grp).ram = s.ram := by simp [State.keepGroup]
@[simp] theorem State.countEvicts_ram (core n) : (s.countEvicts core n).ram = s.ram := by simp [State.countEvicts]
@[simp] theorem State.saveGroup_canon {s : State} (hs : s.ram.Canon) (core slot grp b) : (s.saveGroup core slot grp b).ram.Canon := by
  unfold State.saveGroup
  split <;> simp [hs]
@[simp] theorem State.makeAbsent_ram (core slot b a) : (s.makeAbsent core slot b a).ram = s.ram := by simp [State.makeAbsent]
@[simp] theorem State.settleLoc_ram (core slot) : (s.settleLoc core slot).ram = s.ram := by simp [State.settleLoc]
@[simp] theorem State.saveBlock_canon {s : State} (hs : s.ram.Canon) (core slot b) : (s.saveBlock core slot b).ram.Canon := by
  unfold State.saveBlock
  split <;> simp [hs]
@[simp] theorem execBlockSave_canon (v) {s : State} (hs : s.ram.Canon) : NextCanon (execBlockSave v s) := by
  unfold execBlockSave
  split
  · simp [hs]
  · simp [hs]
  · split
    · simp [hs]
    · split
      · next heq => simpa using canon_snd heq (State.drainFor_canon hs ..)
      · next heq =>
        have hd := canon_snd heq (State.drainFor_canon hs ..)
        split
        · exact nextCanon_next.2 (State.tellHalted_canon (State.allStuck_canon (State.saveBlock_canon hd ..) _))
        · simpa using hd
@[simp] theorem State.restoreGroups_ram (x) : (s.restoreGroups x).ram = s.ram := by
  unfold State.restoreGroups
  dsimp only
  (repeat' split) <;> simp
@[simp] theorem State.rewriteEntries_ram (c pkg ns core' slot' gen') :
    (s.rewriteEntries c pkg ns core' slot' gen').ram = s.ram := by
  simp [State.rewriteEntries]
@[simp] theorem State.putBlock_canon {s : State} (hs : s.ram.Canon) (x core slot parts) : (s.putBlock x core slot parts).ram.Canon := by
  simp [State.putBlock, hs]
@[simp] theorem State.putBack_ram (x parts) : (s.putBack x parts).ram = s.ram := by simp [State.putBack]
@[simp] theorem State.restoreBlock_canon {s : State} (hs : s.ram.Canon) (x core) : (s.restoreBlock x core).ram.Canon := by
  unfold State.restoreBlock
  (repeat' split) <;> simp [hs]
@[simp] theorem execBlockRestore_canon (k core) {s : State} (hs : s.ram.Canon) : NextCanon (execBlockRestore k core s) := by
  unfold execBlockRestore
  split <;> simp [hs]
@[simp] theorem State.modMembers_ram (c ms f) : (s.modMembers c ms f).ram = s.ram := by simp [State.modMembers]
@[simp] theorem State.hearChunks_ram (c ms rs) : (s.hearChunks c ms rs).ram = s.ram := by simp [State.hearChunks]
@[simp] theorem State.startHalt_ram (c ms) : (s.startHalt c ms).ram = s.ram := by simp [State.startHalt]
@[simp] theorem State.haltCtx_ram (c ms) : (s.haltCtx c ms).ram = s.ram := by simp [State.haltCtx]
@[simp] theorem State.tellHeld_ram (h) : (s.tellHeld h).ram = s.ram := by simp [State.tellHeld]
@[simp] theorem execCaravanHaltComplete_canon (r) {s : State} (hs : s.ram.Canon) : NextCanon (execCaravanHaltComplete r s) := by
  unfold execCaravanHaltComplete
  split <;> simp [hs]
@[simp] theorem State.liftHalts_ram (c ns) : (s.liftHalts c ns).ram = s.ram := by simp [State.liftHalts]

/-! ### The seal -/

@[simp] theorem execSealIntervalExpiry_canon (dom) {s : State} (hs : s.ram.Canon) : NextCanon (execSealIntervalExpiry dom s) := by
  unfold execSealIntervalExpiry
  split <;> simp [hs]
@[simp] theorem execSealRequestMessage_canon (dom) {s : State} (hs : s.ram.Canon) : NextCanon (execSealRequestMessage dom s) := by
  unfold execSealRequestMessage
  split <;> simp [hs]
@[simp] theorem execSealreq_canon {s : State} (hs : s.ram.Canon) : NextCanon (execSealreq s) := by
  refine State.command_canon hs ?_
  split <;> simp [hs]
@[simp] theorem execSealPrep_canon (dom leg) {s : State} (hs : s.ram.Canon) : NextCanon (execSealPrep dom leg s) := by
  unfold execSealPrep
  split <;> simp [hs]
@[simp] theorem State.tellAtSeal_ram (d) : (s.tellAtSeal d).ram = s.ram := by simp [State.tellAtSeal]
@[simp] theorem execSealDrainBegin_canon (r) {s : State} (hs : s.ram.Canon) : NextCanon (execSealDrainBegin r s) := by
  unfold execSealDrainBegin
  split <;> simp [hs]
@[simp] theorem execSealWaitLimit_canon (dom) {s : State} (hs : s.ram.Canon) : NextCanon (execSealWaitLimit dom s) := by
  unfold execSealWaitLimit
  split <;> simp [hs]
@[simp] theorem State.saveRecords_canon {s : State} (hs : s.ram.Canon) (core slot b) : (s.saveRecords core slot b).ram.Canon := by
  refine foldl_canon (fun s g hs => ?_) _ hs
  simp [hs]
@[simp] theorem State.saveWay_canon {s : State} (hs : s.ram.Canon) (core slot b x leg) : (s.saveWay core slot b x leg).ram.Canon := by
  unfold State.saveWay
  rw [State.modBlock_ram]
  exact State.vWriteLogged_canon (State.vWriteLogged_canon (State.vWriteLogged_canon (State.saveRecords_canon hs ..) ..) ..) ..
theorem State.sealBlock_canon {s t : State} (hs : s.ram.Canon) {core slot b leg} (h : s.sealBlock core slot b leg = .ok t) : t.ram.Canon := by
  unfold State.sealBlock at h
  dsimp only at h
  split at h
  · simp [← Except.ok.inj h, hs]
  · split at h
    · simp [← Except.ok.inj h, hs]
    · split at h
      · nomatch h
      · simp [← Except.ok.inj h, hs]
theorem State.sealBlocks_canon {s t : State} (hs : s.ram.Canon) {leg bs} (h : s.sealBlocks leg bs = .ok t) : t.ram.Canon := by
  induction bs generalizing s with
  | nil => simp_all [State.sealBlocks]
  | cons b bs ih =>
    unfold State.sealBlocks at h
    split at h
    · simp at h
    · next heq => exact ih (State.sealBlock_canon hs heq) h
@[simp] theorem State.mergeAll_canon {s : State} (hs : s.ram.Canon) : s.mergeAll.ram.Canon :=
  foldl_canon (fun _ w hs => State.mergeWord_canon hs w) _ hs
@[simp] theorem execSealSave_canon (dom) {s : State} (hs : s.ram.Canon) : NextCanon (execSealSave dom s) := by
  unfold execSealSave
  split
  · simp [hs]
  · split
    · simp [hs]
    · split
      · simp [hs]
      · next heq =>
        have h := State.sealBlocks_canon hs heq
        dsimp only
        split <;> simp [h]
@[simp] theorem execSealReady_canon (dom member) {s : State} (hs : s.ram.Canon) : NextCanon (execSealReady dom member s) := by
  unfold execSealReady
  split <;> simp [hs]
@[simp] theorem execSealCommitWitness_canon (dom leg) {s : State} (hs : s.ram.Canon) : NextCanon (execSealCommitWitness dom leg s) := by
  unfold execSealCommitWitness
  split <;> simp [hs]
@[simp] theorem execSealCut_canon (dom) {s : State} (hs : s.ram.Canon) : NextCanon (execSealCut dom s) := by
  unfold execSealCut
  (repeat' split) <;> simp [hs]
@[simp] theorem State.sendHeld_ram (id) : (s.sendHeld id).ram = s.ram := by simp [State.sendHeld]
@[simp] theorem State.releaseHeld_canon {s : State} (hs : s.ram.Canon) (h) : (s.releaseHeld h).ram.Canon := by
  unfold State.releaseHeld
  (repeat' split) <;> simp [hs]
@[simp] theorem State.releaseHolds_canon {s : State} (hs : s.ram.Canon) (dom leg) : (s.releaseHolds dom leg).ram.Canon :=
  foldl_canon (fun _ h hs => State.releaseHeld_canon hs h) _ hs
@[simp] theorem State.postWaiting_canon {s : State} (hs : s.ram.Canon) (dom leg) : (s.postWaiting dom leg).ram.Canon := by
  refine foldl_canon (fun s c hs => ?_) _ hs
  exact foldl_canon (fun _ r hs => State.writeRec_canon hs c leg r) _ (by exact hs)
@[simp] theorem State.passWays_ram (dom) : (s.passWays dom).ram = s.ram := by simp [State.passWays]
@[simp] theorem State.startHalts_ram (dom) : (s.startHalts dom).ram = s.ram := by simp [State.startHalts]
@[simp] theorem State.cutOrders_ram (dom) : (s.cutOrders dom).ram = s.ram := by simp [State.cutOrders]
@[simp] theorem State.afterCut_canon {s : State} (hs : s.ram.Canon) (dom leg) : (s.afterCut dom leg).ram.Canon := by
  unfold State.afterCut
  dsimp only
  simpa using State.postWaiting_canon (State.releaseHolds_canon (by exact hs) ..) ..
@[simp] theorem State.applyCut_canon {s : State} (hs : s.ram.Canon) (d) : (s.applyCut d).ram.Canon := State.afterCut_canon (by exact hs) ..
@[simp] theorem execSealApply_canon (dom leg) {s : State} (hs : s.ram.Canon) : NextCanon (execSealApply dom leg s) := by
  unfold execSealApply
  split <;> simp [hs]
@[simp] theorem execSealApplyAck_canon (dom member) {s : State} (hs : s.ram.Canon) : NextCanon (execSealApplyAck dom member s) := by
  unfold execSealApplyAck
  split <;> simp [hs]
@[simp] theorem State.endBare_ram (cause c) : (s.endBare cause c).ram = s.ram := by simp [State.endBare]
@[simp] theorem State.endDomain_ram (dom cause) : (s.endDomain dom cause).ram = s.ram := by simp [State.endDomain]
@[simp] theorem State.memberLost_canon {s : State} (hs : s.ram.Canon) (d member) : (s.memberLost d member).ram.Canon := by
  unfold State.memberLost
  dsimp only
  generalize hu : (s.modDomain d.num fun _ => _).postRas _ = u
  have h : u.ram.Canon := hu ▸ State.postRas_canon (by simpa using hs) _
  (repeat' split) <;> simpa using h
@[simp] theorem execMemberSilence_canon (dom member) {s : State} (hs : s.ram.Canon) : NextCanon (execMemberSilence dom member s) := by
  unfold execMemberSilence
  split <;> simp [hs]

/-! ### Errors and rollback -/

@[simp] theorem State.errorEnds_ram (c) : (s.errorEnds c).ram = s.ram := by simp [State.errorEnds]
@[simp] theorem State.strike_canon {s : State} (hs : s.ram.Canon) (cs r overflow injected) : (s.strike cs r overflow injected).ram.Canon := by
  unfold State.strike
  dsimp only
  rw [foldl_ram fun s d => State.abortDomain_ram .., foldl_ram fun s c => State.errorEnds_ram ..]
  split
  · refine State.postRas_canon ?_ _
    exact foldl_canon (fun _ c hs => State.postRas_canon hs _) _ (foldl_canon (fun _ d hs => State.postRas_canon hs _) _ hs)
  · exact foldl_canon (fun _ c hs => State.postRas_canon hs _) _ (foldl_canon (fun _ d hs => State.postRas_canon hs _) _ hs)
@[simp] theorem State.poisonAt_ram (pa) : (s.poisonAt pa).ram = s.ram := by simp [State.poisonAt]
@[simp] theorem State.memoryError_canon {s : State} (hs : s.ram.Canon) (pa r) : (s.memoryError pa r).ram.Canon := by
  unfold State.memoryError
  dsimp only
  split
  · rw [foldl_ram fun s d => State.modDomain_ram ..]
    exact State.strike_canon hs ..
  · refine State.postRas_canon ?_ _
    rw [State.poisonAt_ram, foldl_ram fun s d => State.modDomain_ram ..]
    exact State.strike_canon hs ..
@[simp] theorem State.coreError_canon {s : State} (hs : s.ram.Canon) (core slot r) : (s.coreError core slot r).ram.Canon := by
  simp [State.coreError, hs]
@[simp] theorem execUncorrectableError_canon (site) {s : State} (hs : s.ram.Canon) : NextCanon (execUncorrectableError site s) := by
  unfold execUncorrectableError
  (repeat' split) <;> simp [hs]
@[simp] theorem execCorrectedError_canon (site) {s : State} (hs : s.ram.Canon) : NextCanon (execCorrectedError site s) := by
  unfold execCorrectedError
  (repeat' split) <;> simp [hs]
@[simp] theorem State.dieFault_canon {s : State} (hs : s.ram.Canon) (die detail) : (s.dieFault die detail).ram.Canon := by
  unfold State.dieFault
  dsimp only
  rw [foldl_ram fun s d => State.abortDomain_ram .., foldl_ram fun s c => State.errorEnds_ram .., foldl_ram fun s c => State.modCore_ram ..]
  exact State.postRas_canon hs _
@[simp] theorem execRollbackAbort_canon (r) {s : State} (hs : s.ram.Canon) : NextCanon (execRollbackAbort r s) := by
  unfold execRollbackAbort
  split <;> simp [hs]
@[simp] theorem State.undo_canon {s : State} (hs : s.ram.Canon) (e) : (s.undo e).ram.Canon := ⟨Memory.wf_writeN _ _ _ hs.1, hs.2⟩
@[simp] theorem State.undoLeg_canon {s : State} (hs : s.ram.Canon) (d leg) : (s.undoLeg d leg).ram.Canon :=
  foldl_canon (fun _ e hs => State.undo_canon hs e) _ hs
@[simp] theorem State.loseSectors_canon {s : State} (hs : s.ram.Canon) (d pas) : (s.loseSectors d pas).ram.Canon :=
  foldl_canon (fun _ pa hs => State.postRas_canon (by exact hs) _) pas hs
@[simp] theorem execRollbackStop_canon (r leg) {s : State} (hs : s.ram.Canon) : NextCanon (execRollbackStop r leg s) := by
  unfold execRollbackStop
  split
  · simpa using hs
  · next d _ =>
    split
    · simpa using hs
    · have h : (if leg = d.leg then s else s.applyCut d).ram.Canon := by
        split <;> simp [hs]
      generalize (if leg = d.leg then s else s.applyCut d) = u at h ⊢
      dsimp only
      split
      · simpa using h
      · rw [nextCanon_next]
        have hu : ∀ x d leg, ((u.modDomain r.dom x).undoLeg d leg).everyStuck.ram.Canon :=
          fun x d leg => State.everyStuck_canon (State.undoLeg_canon (by exact h) ..)
        split
        · exact hu ..
        · split
          · exact State.loseSectors_canon (hu ..) ..
          · rw [State.abortDomain_ram]
            exact State.loseSectors_canon (hu ..) ..
@[simp] theorem execRollbackDone_canon (dom member) {s : State} (hs : s.ram.Canon) : NextCanon (execRollbackDone dom member s) := by
  unfold execRollbackDone
  split <;> simp [hs]
@[simp] theorem State.putResumed_canon {s : State} (hs : s.ram.Canon) (t b core slot make) : (s.putResumed t b core slot make).ram.Canon := by
  simp [State.putResumed, hs]
theorem State.resumeWay_canon {s t : State} (hs : s.ram.Canon) {x b cores leg} (h : s.resumeWay x b cores leg = some t) : t.ram.Canon := by
  unfold State.resumeWay at h
  split at h
  · cases h
  · cases h
    simp [hs]
theorem State.resumeImage_canon {s t : State} (hs : s.ram.Canon) {cut x b a cores} (h : s.resumeImage cut x b a cores = some t) :
    t.ram.Canon := by
  unfold State.resumeImage at h
  dsimp only at h
  split at h
  · cases h
    simp [hs]
  · split at h
    · cases h
    · cases h
      exact hs
theorem State.resumeTasks_canon {s t : State} (hs : s.ram.Canon) {cut leg xs} (h : s.resumeTasks cut leg xs = some t) : t.ram.Canon := by
  induction xs generalizing s with
  | nil => simp_all [State.resumeTasks]
  | cons x xs ih =>
    unfold State.resumeTasks at h
    dsimp only at h
    split at h
    · split at h
      · next heq => exact ih (State.resumeWay_canon hs heq) h
      · simp at h
    · split at h
      · next heq => exact ih (State.resumeImage_canon hs heq) h
      · simp at h
    · exact ih hs h
@[simp] theorem State.tellRollback_canon {s : State} (hs : s.ram.Canon) (d leg) : (s.tellRollback d leg).ram.Canon :=
  State.postRas_canon (foldl_canon (fun _ c hs => State.postEvent_canon hs c ..) _ hs) _
@[simp] theorem State.followMoved_ram (dom xs) : (s.followMoved dom xs).ram = s.ram := by simp [State.followMoved]
@[simp] theorem execRollbackResume_canon (x) {s : State} (hs : s.ram.Canon) : NextCanon (execRollbackResume x s) := by
  unfold execRollbackResume
  dsimp only
  split
  · simp [hs]
  · split
    · simp [hs]
    · split
      · rw [nextCanon_next, State.endDomain_ram]
        exact State.postRas_canon (by exact hs) _
      · split
        · next heq => exact nextCanon_next.2 (State.tellRollback_canon (State.resumeTasks_canon (by simpa using hs) heq) ..)
        · simpa using hs
@[simp] theorem State.arm_canon {s : State} (kind ok) (hs : s.ram.Canon) : NextCanon (s.arm kind ok) := by simp [State.arm, hs]
@[simp] theorem State.starve_ram (port) : (s.starve port).ram = s.ram := by simp [State.starve]
@[simp] theorem State.injectRollback_canon {s : State} (hs : s.ram.Canon) (dom r) : (s.injectRollback dom r).ram.Canon := by
  unfold State.injectRollback
  (repeat' split) <;> simp [hs]
@[simp] theorem State.fire_canon {s : State} (hs : s.ram.Canon) (x) : (s.fire x).ram.Canon := by
  unfold State.fire
  split <;> simp [hs]
@[simp] theorem execInjectFire_canon (k) {s : State} (hs : s.ram.Canon) : NextCanon (execInjectFire k s) := by
  unfold execInjectFire
  split
  · exact nextCanon_next.2 hs
  · rw [nextCanon_next]
    split
    · exact State.fire_canon (by exact hs) _
    · exact hs

/-! ### Boot and power -/

@[simp] theorem State.restart_canon {s : State} (hs : s.ram.Canon) : s.restart.ram.Canon := hs
@[simp] theorem execPowerLoss_canon {s : State} (hs : s.ram.Canon) : NextCanon (execPowerLoss s) := by
  unfold execPowerLoss
  split
  · exact nextCanon_next.2 hs
  · exact nextCanon_next.2 ⟨rfl, hs.2⟩
@[simp] theorem State.bootFails_ram (die cause) : (s.bootFails die cause).ram = s.ram := rfl
@[simp] theorem State.selectImage_ram : s.selectImage.ram = s.ram := by
  unfold State.selectImage
  split <;> rfl
@[simp] theorem execBootVerify_canon (x) {s : State} (hs : s.ram.Canon) : NextCanon (execBootVerify x s) := by
  unfold execBootVerify
  split <;> simp [hs]
theorem KMap.wfFrom_filter {α : Type} [DecidableEq α] (d : α) (p : ℕ × α → Bool) : ∀ (m : KMap α) (a : ℕ), KMap.wfFrom d a m = true →
    KMap.wfFrom d a (m.filter p) = true
  | [], _, h => h
  | (k, v) :: m, a, h => by
    simp only [KMap.wfFrom, Bool.and_eq_true, decide_eq_true_eq] at h
    obtain ⟨⟨hk, hv⟩, hm⟩ := h
    have ih := KMap.wfFrom_filter d p m (k + 1) hm
    rw [List.filter_cons]
    split
    · simp [KMap.wfFrom, hk, hv, ih]
    · exact KMap.wfFrom_mono d (by omega) _ ih
@[simp] theorem execBootInit_canon (x) {s : State} (hs : s.ram.Canon) : NextCanon (execBootInit x s) := by
  unfold execBootInit
  split
  · exact nextCanon_next.2 ⟨KMap.wfFrom_filter _ _ _ _ hs.1, hs.2⟩
  · simp [hs]
  · simp [hs]
  · simp [hs]
@[simp] theorem execBootEnum_canon (x) {s : State} (hs : s.ram.Canon) : NextCanon (execBootEnum x s) := by
  unfold execBootEnum
  (repeat' split) <;> exact nextCanon_next.2 hs
@[simp] theorem execPowerSample_canon (power) {s : State} (hs : s.ram.Canon) : NextCanon (execPowerSample power s) := by
  unfold execPowerSample
  dsimp only
  (repeat' split)
  · exact nextCanon_next.2 hs
  · exact nextCanon_next.2 hs
  · exact nextCanon_next.2 (State.postRas_canon (by exact hs) _)
@[simp] theorem State.setLimit_ram (v) : (s.setLimit v).ram = s.ram := by
  unfold State.setLimit
  split <;> rfl
@[simp] theorem execI3cRasRead_canon {s : State} (hs : s.ram.Canon) : NextCanon (execI3cRasRead s) := by
  unfold execI3cRasRead
  split <;> exact nextCanon_next.2 hs
@[simp] theorem execAttest_canon {s : State} (hs : s.ram.Canon) : NextCanon (execAttest s) :=
  State.command_canon hs (by simpa using hs)
@[simp] theorem execI3cAttest_canon (nonce) {s : State} (hs : s.ram.Canon) : NextCanon (execI3cAttest nonce s) := by
  unfold execI3cAttest
  dsimp only
  (repeat' split) <;> exact nextCanon_next.2 hs

/-! ### Cross-lane instructions -/

@[simp] theorem State.shuffle_canon {s : State} (o n) (hs : s.ram.Canon) : NextCanon (s.shuffle o n) := by simp [State.shuffle, hs]
@[simp] theorem State.vote_canon {s : State} (o n) (hs : s.ram.Canon) : NextCanon (s.vote o n) := by simp [State.vote, hs]

/-! ### Host registers -/

@[simp] theorem State.setReadback_ram (bs) : (s.setReadback bs).ram = s.ram := rfl
@[simp] theorem State.hostStore_canon {s : State} (hs : s.ram.Canon) (a bs) : (s.hostStore a bs).ram.Canon := by
  unfold State.hostStore
  rw [State.settle_ram, State.storedPast_ram]
  exact State.rawWrite_canon (by exact hs) ..
@[simp] theorem State.onQueue_canon {s : State} {c q f} (hs : s.ram.Canon) (hf : (f s).ram.Canon) : NextCanon (s.onQueue c q f) := by
  simp [State.onQueue, hs, hf]
@[simp] theorem State.ring_canon {s : State} (hs : s.ram.Canon) (ctx q v) : (s.ring ctx q v).ram.Canon := by simp [State.ring, hs]
@[simp] theorem State.onCtx_canon {s : State} {c f} (hs : s.ram.Canon) (hf : (f s).ram.Canon) : NextCanon (s.onCtx c f) := by
  simp [State.onCtx, hs, hf]
@[simp] theorem State.dropXlates_ram (c r) : (s.dropXlates c r).ram = s.ram := by simp [State.dropXlates]
@[simp] theorem State.readReg_canon {s : State} {ok off f} (hs : s.ram.Canon) (hf : ∀ t, t.ram.Canon → (f t).ram.Canon) :
    NextCanon (s.readReg ok off f) := by
  rw [State.readReg, nextCanon_next]
  split
  · exact hf _ (by simpa using hs)
  · simpa using hs
@[simp] theorem execInvctlRead_canon (ctx) {s : State} (hs : s.ram.Canon) : NextCanon (execInvctlRead ctx s) :=
  State.readReg_canon hs fun t ht => by simp [ht]
@[simp] theorem execCtxstatRead_canon (ctx) {s : State} (hs : s.ram.Canon) : NextCanon (execCtxstatRead ctx s) :=
  State.readReg_canon hs fun t ht => by simp [ht]
@[simp] theorem execCmdstatRead_canon {s : State} (hs : s.ram.Canon) : NextCanon (execCmdstatRead s) :=
  State.readReg_canon hs fun _ ht => ht
@[simp] theorem State.installHandler_ram (c x) : (s.installHandler c x).ram = s.ram := by
  unfold State.installHandler
  (repeat' split) <;> simp
@[simp] theorem State.writeHandler_ram (c v) : (s.writeHandler c v).ram = s.ram := by simp [State.writeHandler]
@[simp] theorem State.writeCfg_ram (c v) : (s.writeCfg c v).ram = s.ram := by simp [State.writeCfg]
@[simp] theorem State.stageEntry_ram (c entry word v) : (s.stageEntry c entry word v).ram = s.ram := by
  simp [State.stageEntry]
@[simp] theorem State.installEntry_ram (c entry v) : (s.installEntry c entry v).ram = s.ram := by simp [State.installEntry]
@[simp] theorem State.writeCmd_ram (v) : (s.writeCmd v).ram = s.ram := by
  unfold State.writeCmd
  dsimp only
  split <;> rfl
@[simp] theorem State.writeArg_ram (k v) : (s.writeArg k v).ram = s.ram := by
  unfold State.writeArg
  split <;> rfl
@[simp] theorem State.writeGlobal_ram (off v) : (s.writeGlobal off v).ram = s.ram := by
  unfold State.writeGlobal
  dsimp only
  split
  · rfl
  · rfl
  · rfl
  · simp
  · simp
  · simp
@[simp] theorem State.writeQueue_canon {s : State} (hs : s.ram.Canon) (c q off v) : (s.writeQueue c q off v).ram.Canon := by
  unfold State.writeQueue
  split <;> simp [hs]
@[simp] theorem State.writeCtxReg_canon {s : State} (hs : s.ram.Canon) (c off v) : (s.writeCtxReg c off v).ram.Canon := by
  simp [State.writeCtxReg, hs]

/-! ### Mailbox commands -/

@[simp] theorem State.modCtxBlocks_ram (c f) : (s.modCtxBlocks c f).ram = s.ram := by simp [State.modCtxBlocks]
@[simp] theorem execRelease_canon {s : State} (hs : s.ram.Canon) : NextCanon (execRelease s) := by
  refine State.command_canon hs ?_
  (repeat' split) <;> simp [hs]
@[simp] theorem State.endItins_canon {s : State} (hs : s.ram.Canon) (c) : (s.endItins c).ram.Canon := by
  unfold State.endItins
  refine foldl_canon (fun s t hs => ?_) _ hs
  split
  · exact hs
  · simp [hs]
@[simp] theorem execAccset_canon {s : State} (hs : s.ram.Canon) : NextCanon (execAccset s) := by
  refine State.command_canon hs ?_
  dsimp only
  (repeat' split) <;> simp [hs]
@[simp] theorem execDomcreate_canon {s : State} (hs : s.ram.Canon) : NextCanon (execDomcreate s) := by
  refine State.command_canon hs ?_
  (repeat' split) <;> simp [hs]
@[simp] theorem execDomcreateMatch_canon (dom others) {s : State} (hs : s.ram.Canon) : NextCanon (execDomcreateMatch dom others s) := by
  unfold execDomcreateMatch
  split <;> simp [hs]
@[simp] theorem execDomcreateTimeout_canon (r) {s : State} (hs : s.ram.Canon) : NextCanon (execDomcreateTimeout r s) := by
  unfold execDomcreateTimeout
  split <;> simp [hs]
@[simp] theorem execCacheput_canon {s : State} (hs : s.ram.Canon) : NextCanon (execCacheput s) := by
  refine State.command_canon hs ?_
  extract_lets +onlyGivenNames n svn digest es
  split
  · simpa using hs
  · split
    · simpa using hs
    · split
      · simpa using hs
      · split
        · simpa using hs
        · rw [State.done_ram, State.retArg_ram]
          exact ⟨Memory.wf_writeN _ _ _ hs.1, hs.2⟩
@[simp] theorem execCacheget_canon {s : State} (hs : s.ram.Canon) : NextCanon (execCacheget s) := by
  refine State.command_canon hs ?_
  dsimp only
  (repeat' split) <;> simpa using hs
@[simp] theorem execCoreretRetire_canon {s : State} (hs : s.ram.Canon) : NextCanon (execCoreretRetire s) := by
  refine State.command_canon hs ?_
  dsimp only
  split
  · exact hs
  · split
    · simpa using hs
    · split
      · simpa using hs
      · rw [State.done_ram]
        exact State.postRas_canon (by exact hs) _
@[simp] theorem execCoreretReturn_canon {s : State} (hs : s.ram.Canon) : NextCanon (execCoreretReturn s) := by
  refine State.command_canon hs ?_
  dsimp only
  split
  · exact hs
  · split
    · simpa using hs
    · rw [State.done_ram]
      exact State.postRas_canon (by exact hs) _
@[simp] theorem execFwstage_canon {s : State} (hs : s.ram.Canon) : NextCanon (execFwstage s) := by
  refine State.command_canon hs ?_
  dsimp only
  split
  · simpa using hs
  · rw [State.done_ram]
    exact State.postRas_canon (by exact hs) _

/-! ### Bridges -/

@[simp] theorem State.bridges_ram (w m ps sc) : (s.bridges w m ps sc).ram = s.ram := by
  refine foldl_ram (fun s x => ?_) _ _
  simp

/-! ### Scalar instructions -/

@[simp] theorem State.ubin_canon {s : State} (o f) (hs : s.ram.Canon) : NextCanon (s.ubin o f) := by simp [State.ubin, hs]
@[simp] theorem State.ushift_canon {s : State} (o f) (hs : s.ram.Canon) : NextCanon (s.ushift o f) := by simp [State.ushift, hs]

/-! ### Issue -/

@[simp] theorem State.unwait_ram (w f) : (s.unwait w f).ram = s.ram := by simp [State.unwait]
@[simp] theorem State.wake_canon {s : State} (hs : s.ram.Canon) (w) : (s.wake w).ram.Canon := by
  unfold State.wake
  (repeat' split) <;> simp [hs]
@[simp] theorem State.wakeAll_canon {s : State} (hs : s.ram.Canon) (core part) : (s.wakeAll core part).ram.Canon := by
  unfold State.wakeAll
  refine foldl_canon (fun s x hs => ?_) _ hs
  (repeat' split) <;> simp [hs]
@[simp] theorem State.compTurn_ram (core part) : (s.compTurn core part).ram = s.ram := by
  unfold State.compTurn
  split <;> simp
@[simp] theorem State.setCur_ram (w) : (s.setCur w).ram = s.ram := by simp [State.setCur]
@[simp] theorem State.setComp_ram (core part c) : (s.setComp core part c).ram = s.ram := by simp [State.setComp]
@[simp] theorem State.enterRegion_ram (w) : (s.enterRegion w).ram = s.ram := by simp [State.enterRegion]
@[simp] theorem State.waitSlot_ram (w mask) : (s.waitSlot w mask).ram = s.ram := by simp [State.waitSlot]
@[simp] theorem State.slotTurn_canon {s : State} (hs : s.ram.Canon) (w b) : (s.slotTurn w b).state.ram.Canon := by
  unfold State.slotTurn
  dsimp only
  (repeat' split) <;> simp [hs]
@[simp] theorem State.bundleTurn_canon {s : State} (hs : s.ram.Canon) (w b) : (s.bundleTurn w b).state.ram.Canon := by
  unfold State.bundleTurn
  dsimp only
  (repeat' split) <;> simp [hs]
@[simp] theorem State.noteFetch_ram (w) : (s.noteFetch w).ram = s.ram := by
  unfold State.noteFetch
  split <;> simp
@[simp] theorem State.igTurn_canon {s : State} (hs : s.ram.Canon) (w) : (s.igTurn w).state.ram.Canon := by
  unfold State.igTurn
  (repeat' split) <;> simp [hs]
@[simp] theorem State.countIssue_ram (w c) : (s.countIssue w c).ram = s.ram := by simp [State.countIssue]
@[simp] theorem State.partTurn_canon {s : State} (hs : s.ram.Canon) (core part switch) : (s.partTurn core part switch).state.ram.Canon := by
  unfold State.partTurn
  dsimp only
  (repeat' split) <;> simp [hs]
@[simp] theorem State.tick_ram (n) : (s.tick n).ram = s.ram := by simp [State.tick]
@[simp] theorem State.dropXlate_ram (core k) : (s.dropXlate core k).ram = s.ram := by simp [State.dropXlate]
@[simp] theorem State.dropDieXlate_ram (die k) : (s.dropDieXlate die k).ram = s.ram := by simp [State.dropDieXlate]
@[simp] theorem State.dropPage_ram (core part lane) : (s.dropPage core part lane).ram = s.ram := by simp [State.dropPage]
@[simp] theorem State.l1Drop_ram (pos sector) : (s.l1Drop pos sector).ram = s.ram := by simp [State.l1Drop]

/-! ### The wire -/

@[simp] theorem State.flitsOn_canon {s : State} (hs : s.ram.Canon) (port via) : (s.flitsOn port via).ram.Canon :=
  State.flitsOut_canon (by exact hs) ..
@[simp] theorem State.flitsTo_canon {s : State} (hs : s.ram.Canon) (pkg) : (s.flitsTo pkg).ram.Canon := by
  unfold State.flitsTo
  split <;> simp [hs]
@[simp] theorem State.sendFlits_canon {s : State} (hs : s.ram.Canon) (m) : (s.sendFlits m).ram.Canon := by
  unfold State.sendFlits
  split
  · exact State.flitsOn_canon hs ..
  · exact foldl_canon (fun _ p hs => State.flitsTo_canon hs p) _ hs
@[simp] theorem State.wire_canon {s t : State} (ht : t.ram.Canon) : (s.wire t).ram.Canon := by
  unfold State.wire
  exact foldl_canon (fun _ m ht => State.sendFlits_canon ht m) _ ht
@[simp] theorem State.hearOn_canon {s : State} (hs : s.ram.Canon) (port) : (s.hearOn port).ram.Canon := by
  unfold State.hearOn
  split
  · exact State.flitsIn_canon (by exact hs) ..
  · exact hs
@[simp] theorem State.hearFrom_canon {s : State} (hs : s.ram.Canon) (pkg) : (s.hearFrom pkg).ram.Canon := by
  unfold State.hearFrom
  split <;> simp [hs]
@[simp] theorem State.hearOf_canon {s : State} (hs : s.ram.Canon) (id) : (s.hearOf id).ram.Canon := by
  unfold State.hearOf
  split <;> simp [hs]
@[simp] theorem State.hears_canon {s : State} (hs : s.ram.Canon) (i) : (s.hears i).ram.Canon := by
  have h := fun l => foldl_canon (fun _ p hs => State.hearFrom_canon hs p) l hs
  unfold State.hears
  split
  case h_1 => (repeat' split) <;> simp [hs]
  all_goals simp only [State.hearOf_canon, State.hearFrom_canon, hs, h]
end

/-! ### Every instruction and event, and every turn -/

@[simp] theorem execFuseadv_canon {s : State} (hs : s.ram.Canon) : NextCanon (execFuseadv s) := by
  refine State.command_canon hs ?_
  dsimp only
  split
  · simpa using hs
  · rw [State.done_ram]
    exact State.postRas_canon (by exact hs) _

@[simp] theorem execContextEnded_canon (ctx) {s : State} (hs : s.ram.Canon) : NextCanon (execContextEnded ctx s) := by
  unfold execContextEnded
  split
  · exact nextCanon_next.2 hs
  · exact nextCanon_next.2 (State.postEvent_canon (by exact State.endItins_canon hs ctx) ..)

@[simp] theorem execRailUndervolt_canon (base) {s : State} (hs : s.ram.Canon) : NextCanon (execRailUndervolt base s) := by
  refine nextCanon_next.2 ?_
  split
  · exact foldl_canon (fun t i ht => State.dieFault_canon ht ..) _ hs
  · exact hs
@[simp] theorem execInvalidatePage_canon (ctx size) {s : State} (hs : s.ram.Canon) : NextCanon (execInvalidatePage ctx size s) :=
  State.onCtx_canon hs (by exact hs)
@[simp] theorem execInvalidateContext_canon (ctx size) {s : State} (hs : s.ram.Canon) : NextCanon (execInvalidateContext ctx size s) :=
  State.onCtx_canon hs (by exact hs)
@[simp] theorem execInjectUe_canon {s : State} (hs : s.ram.Canon) : NextCanon (execInjectUe s) := by
  unfold execInjectUe
  split
  · exact State.command_canon hs (by simpa using hs)
  · simp [hs]
@[simp] theorem execCtxresume_canon {s : State} (hs : s.ram.Canon) : NextCanon (execCtxresume s) := by
  refine State.command_canon hs ?_
  dsimp only
  split
  · simpa using hs
  · rw [State.done_ram]
    refine State.everyStuck_canon ?_
    rw [foldl_ram fun s x => State.trySync_ram ..]
    simpa using hs

/-- The instructions named to `simp` are those whose `exec…` is a shared operation above at fixed arguments. -/
theorem exec_canon (i : Instr) {s : State} (hs : s.ram.Canon) : NextCanon (exec i s) := by
  cases i
  all_goals simp [exec, hs,
    execIadd, execIsub, execIadd3, execImul, execImulhi, execImad, execImin, execImax, execIabs, execIneg, execAnd, execOr, execXor,
    execNot, execLop3, execShl, execShr, execSar, execRotl, execFunnel, execBfx, execBfi, execPopc, execClz, execCtz, execBrev,
    execPermb, execSel, execMov, execMovi, execMovk, execIcmp, execPset, execFadd, execFsub, execFmul, execFfma, execFmin, execFmax,
    execFcmp, execFclass, execFrnd, execFrcp, execFrsq, execFsqrt, execFexp2, execFlog2, execFsin, execFcos, execFtanh, execCvt,
    execCvtsr, execQdec, execPack2, execUnpack2, execSt, execCctlIvall, execAtoml, execRed, execBarinit, execGrow, execShrink,
    execNextSeg, execNextp, execNextx, execCall, execRet, execExit, execNop, execWaitClk, execTrap, execBkpt, execExtensionWord,
    execIllegalWord, execTagrd, execTcfg, execTld, execTst, execTstat, execAccrd, execAccwr, execCvclose, execSlotrel, execSlotrelFault,
    execChunk, execLegrd, execPrio, execRfeRegion, execRfeNext, execResultWriteback, execStoreDrain, execBankRequestComplete,
    execFlitError, execPeerLost, execPortTrain, execKeylow, execKeyExhausted, execKeyStarveTimeout, execKeySwitch, execRouteset,
    execKeyinst, execLinkstat, execLinkctlRetire, execLinkctlUp, execGroupRelease, execHalt, execUnhalt, execCaravanHaltPause,
    execDieFault, execInjectDieFault, execInjectRollback, execInjectPortRetire, execInjectKeyStarve,
    execPowerUp, execFundamentalReset, execPwrlimWrite, execI3cPwrlimWrite, execShfl, execShfl16, execVote, execVote16, execBallot,
    execBallot16, execRedux, execScan, execMatchLanes, execBcast, execBar2Read, execBar2Write, execQtailWrite, execQueueEnable,
    execQueueDisable, execInvalidationComplete, execHandlerWrite, execCtxcfgWrite,
    execManifestStage, execManifestInstall, execRegisterWrite, execMailboxUnknownCode, execCtxend, execCtxcreate,
    execCtxfree, execDomjoin, execDomfree, execFence, execBridge, execSadd, execSsub, execSmul, execSand, execSor,
    execSxor, execSshl, execSshr, execSmov, execSmovi, execScmp, execMovsr]

theorem State.wired_canon {s : State} {o} (h : NextCanon o) : NextCanon (s.wired o) := by
  unfold State.wired
  split
  · exact nextCanon_next.2 (State.wire_canon (nextCanon_next.1 h))
  · exact h

theorem State.slotIssued_canon {s : State} {o} (h : NextCanon o) : NextCanon (s.slotIssued o) := by
  unfold State.slotIssued
  split
  · have ht := nextCanon_next.1 h
    (repeat' split) <;> simpa using ht
  · exact h

theorem State.eventStep_canon {s : State} (hs : s.ram.Canon) (i) : NextCanon (s.eventStep i) := by
  unfold State.eventStep
  split
  · exact State.wired_canon (exec_canon i (State.hears_canon hs i))
  · simp

theorem State.issueStep_canon {s : State} (hs : s.ram.Canon) (core part switch) : NextCanon (s.issueStep core part switch) := by
  have hp := State.partTurn_canon hs core part switch
  refine State.wired_canon ?_
  cases hq : s.partTurn core part switch with
  | run t i => exact State.slotIssued_canon (exec_canon i (by rwa [hq] at hp))
  | done t => exact nextCanon_next.2 (by rwa [hq] at hp)
  | held t => exact nextCanon_next.2 (by rwa [hq] at hp)
  | idle t => exact nextCanon_next.2 (by rwa [hq] at hp)

theorem State.turn_canon {s : State} (hs : s.ram.Canon) (x) : NextCanon (s.turn x) := by
  cases x with
  | event i => exact State.eventStep_canon hs i
  | issue core part switch => exact State.issueStep_canon hs core part switch
  | l1Drop pos sector => exact nextCanon_next.2 (by simpa using hs)
  | tlbDrop core k => exact nextCanon_next.2 (by simpa using hs)
  | dieDrop die k => exact nextCanon_next.2 (by simpa using hs)
  | pageDrop core part lane => exact nextCanon_next.2 (by simpa using hs)
  | upperDrop k => exact nextCanon_next.2 hs
  | choose pick joint => exact nextCanon_next.2 hs
  | clock n => exact nextCanon_next.2 (by simpa using hs)

theorem State.idleStep_canon {s : State} (hs : s.ram.Canon) : NextCanon s.idleStep := by
  unfold State.idleStep
  split
  · exact State.eventStep_canon hs _
  · split
    · exact nextCanon_next.2 (by simpa using hs)
    · next round _ =>
      exact State.issueStep_canon (s := if round then s.tick 1 else s) (by simp [hs]) _ _ _

theorem step_canon {s : State} (hs : s.ram.Canon) : NextCanon (step s) := by
  unfold step
  split
  · exact State.turn_canon (by exact hs) _
  · exact State.idleStep_canon hs

/-- Settles O59: the functions that write memory do it by `Memory.writeN`, `writeMasked` or `mergeWord`, which keep the form, and every other
operation leaves both memories (`exec_canon`, `step_canon`). -/
theorem memoryCanonical : Obligations.MemoryCanonical :=
  fun _ t hm hh h => step_canon ⟨hm, hh⟩ t h
end Sys2Proof.Machine

end

section

/-! # Accesses whose operands can be read, and slots without a result -/

namespace Sys2Proof.Machine
open Host (Outcome)

theorem gather_eq_ok {α : Type} {f : Nat → Except Flt α} {a : Nat → α} {ls : List Nat} (h : ∀ l ∈ ls, f l = .ok (a l)) :
    gather ls f = .ok (ls.map fun l => (l, a l)) := by
  induction ls with
  | nil => rfl
  | cons l ls ih =>
    rw [gather, h l (by simp)]
    dsimp only
    rw [ih fun x hx => h x (by simp [hx])]
    rfl

/-- An access on operands that can be read, of which no active lane's is refused. -/
theorem State.accessAt_readable {α : Type} {s : State} {w : Who} {hd : Hd} {rs : List VRead} {ds : List VName}
    {f : Who → Nat → Except Flt α} {a : Nat → α} (h : s.issuer = some w) (hr : Readable w (w.active hd.g) rs ds)
    (hf : ∀ l, (w.active hd.g).getLsbD l = true → f w l = .ok (a l)) (touch : Who → State → Nat → List (Nat × Nat))
    (go : State → Who → LaneMask → List (Nat × α) → Outcome State Fault Refusal) :
    s.accessAt hd rs ds false touch f go =
      go (s.touchLanes w (w.active hd.g) (touch w)) w (w.active hd.g) ((lanesOf (w.active hd.g)).map fun l => (l, a l)) := by
  rw [State.accessAt, State.withIssuer_of h]
  dsimp only
  rw [Who.check_readable hr, gather_eq_ok fun l hl => hf l ((mem_lanesOf _ _).1 hl)]
  simp

theorem State.access_readable {α : Type} {s : State} {w : Who} {hd : Hd} {rs : List VRead} {ds : List VName}
    {f : Who → Nat → Except Flt α} {a : Nat → α} (h : s.issuer = some w) (hr : Readable w (w.active hd.g) rs ds)
    (hf : ∀ l, (w.active hd.g).getLsbD l = true → f w l = .ok (a l))
    (go : Who → LaneMask → List (Nat × α) → Outcome State Fault Refusal) :
    s.access hd rs ds false f go = go w (w.active hd.g) ((lanesOf (w.active hd.g)).map fun l => (l, a l)) :=
  State.accessAt_readable h hr hf _ _

theorem writeVals_map (ls : List Nat) (wb : Wb) (d : BitVec 8) (wide : Bool) (x : Nat → Dword) :
    writeVals (ls.map fun l => (l, x l)) wb d wide = writeList ls wb d wide x := by
  funext g
  rw [writeVals, writeList, List.foldl_map]

/-- Of the issuer's block, finishing a slot looks at the generation alone, and at nothing of its group. -/
theorem State.finish_congr {v w : Who} (hp : { v with b := w.b, g := w.g } = w) (hg : v.b.gen = w.b.gen) (s : State) (k : Ctl)
    (f : Group → Group) : s.finish v k f = s.finish w k f := by
  have hh (c : Comp) : c.holds v = c.holds w := by rw [← hp, Comp.holds, Comp.holds, hg]
  have hc (s : State) : s.compOf v = s.compOf w := by
    rw [State.compOf, State.compOf, funext hh, ← hp]
  have ho (s : State) : s.otherRunnable v = s.otherRunnable w := by
    rw [State.otherRunnable, State.otherRunnable, hc, ← hp]
  have hs (s : State) : s.schedule v = s.schedule w := by
    rw [← hp]
    rfl
  have hy (s : State) : s.yieldNow v = s.yieldNow w := by
    rw [State.yieldNow, State.yieldNow, hc, hs, hg, ← hp]
    rfl
  rw [State.finish, State.finish, ho, hy, ← hp]

/-- A slot with no result, by an issuer `v` that may differ from `w` in its block and group. -/
theorem Issues.noResult {s : State} {v w : Who} (h : Issues s v) (hp : { v with b := w.b, g := w.g } = w)
    (hg : v.b.gen = w.b.gen) (k : Ctl) : NoResult v k s (s.skip w k) := by
  have hs : Slotted v k s (s.skip w k) id := by
    rw [State.skip, ← State.finish_congr hp hg]
    exact State.finish_slotted h k id
  exact { hs.done h rfl rfl rfl rfl with
    vregs := hs.regs.1
    sregs := hs.regs.2
    threads := fun l => by
      rcases hs.threads l with e | ⟨_, _, e⟩ <;> rw [e] <;> exact ⟨rfl, rfl⟩
    latches := fun l => by
      rcases hs.threads l with e | ⟨hy, hw, e⟩
      · exact .inl (by rw [e]; rfl)
      · exact .inr ⟨hy, hw, by rw [e]⟩ }

/-- The issuer after its block has changed outside the groups. -/
theorem Issues.put {s : State} {w : Who} (h : Issues s w) {b : Block} (hb : b.groups = w.b.groups) :
    Issues (w.put s b) (w.withBlock b) := by
  have hg : b.group w.grp = w.g := by rw [h.group, Block.group, Block.group, hb]
  exact {
    block := by rw [Who.put, State.block_setBlock]; exact if_pos ⟨rfl, rfl⟩
    group := rfl
    ig := by rw [Who.withBlock, hg]; exact h.ig
    inRange := by rw [Who.withBlock, hb]; exact h.inRange }

end Sys2Proof.Machine

end

section

/-! # Accumulator words: ACCRD and ACCWR -/

namespace Sys2Proof.Machine

/-! ### ACCRD and ACCWR -/

theorem Who.accAccess_ok {w : Who} {ty : Ty} {l i : Nat} (ha : i % (Machine.sizeOf ty / 4) = 0)
    (hb : i + Machine.sizeOf ty / 4 ≤ w.b.accSize) : w.accAccess ty l i = .ok i := by
  simp [Who.accAccess, ha, hb]

theorem Block.accBusy_of_idle {b : Block} (h : b.cmds = []) (ty : Ty) (xs : List (Nat × Nat)) (write : Bool) :
    b.accBusy ty xs write = false := by
  simp [Block.accBusy, Block.engaged, Block.inUse, h]

theorem toNat_pairOf (hi lo : Word) : (pairOf hi lo).toNat = lo.toNat + 2 ^ 32 * hi.toNat := by
  rw [pairOf, BitVec.toNat_append, ← Nat.shiftLeft_add_eq_or_of_lt lo.isLt, Nat.shiftLeft_eq]
  omega

theorem accrd_reads {o : AccrdOp} {s : State} {w : Who} (h : s.issuer = some w)
    (hr : Readable w (w.active o.h.g) (baseReads false o.base) [⟨o.d, wide o.ty⟩])
    (hok : ∀ l, (w.active o.h.g).getLsbD l = true → w.laddr l o.base o.imm % (Machine.sizeOf o.ty / 4) = 0 ∧
      w.laddr l o.base o.imm + Machine.sizeOf o.ty / 4 ≤ w.b.accSize)
    (hc : w.b.cmds = []) :
    ∃ t, exec (.accrd o) s = .next t ∧ LaneResults w o.h o.wb o.d (wide o.ty) (fun l =>
      (KMap.get 0 w.b.acc (w.laddr l o.base o.imm)).toNat
        + (if wide o.ty then 2 ^ 32 * (KMap.get 0 w.b.acc (w.laddr l o.base o.imm + 1)).toNat else 0)) s t := by
  have he : execAccrd o s = _ := State.access_readable h hr (fun l hl => Who.accAccess_ok (hok l hl).1 (hok l hl).2) _
  rw [Block.accBusy_of_idle hc, List.map_map] at he
  refine ⟨_, he, ?_⟩
  rw [show (_ ∘ _) = fun l => (l, if wide o.ty then pairOf (KMap.get 0 w.b.acc (w.laddr l o.base o.imm + 1))
    (KMap.get 0 w.b.acc (w.laddr l o.base o.imm)) else (KMap.get 0 w.b.acc (w.laddr l o.base o.imm)).setWidth 64) from rfl, writeVals_map]
  refine (Issues.laneResults (State.issuer_spec h) o.h o.wb o.d (wide o.ty) _).congr fun l _ => ?_
  split
  · exact toNat_pairOf ..
  · rw [BitVec.toNat_setWidth]
    omega

/-- An accumulator with a lane's word, or pair, put. -/
def accPut (wide : Bool) (v : Dword) (a : KMap Word) (i : Nat) : KMap Word :=
  if wide then KMap.set 0 (KMap.set 0 a i (loWord v)) (i + 1) (hiWord v) else KMap.set 0 a i (loWord v)

theorem wfFrom_accPut {a : KMap Word} (h : KMap.wfFrom 0 0 a = true) (wide : Bool) (v : Dword) (i : Nat) :
    KMap.wfFrom 0 0 (accPut wide v a i) = true := by
  have h1 := KMap.wfFrom_set 0 (loWord v) a 0 i h (Nat.zero_le _)
  unfold accPut
  split
  · exact KMap.wfFrom_set _ _ _ _ _ h1 (Nat.zero_le _)
  · exact h1

theorem get_accPut {a : KMap Word} (h : KMap.wfFrom 0 0 a = true) (wide : Bool) (v : Dword) (i k : Nat) :
    KMap.get 0 (accPut wide v a i) k =
      if wide = true ∧ k = i + 1 then hiWord v else if k = i then loWord v else KMap.get 0 a k := by
  have h1 := KMap.wfFrom_set 0 (loWord v) a 0 i h (Nat.zero_le _)
  have hg := KMap.get_set 0 (loWord v) a 0 i k h
  unfold accPut
  cases wide
  · rw [if_neg (by simp), if_neg (by simp)]
    exact hg
  · rw [if_pos rfl, KMap.get_set 0 (hiWord v) _ 0 (i + 1) k h1, hg]
    simp

/-- The lanes' words put in the order of a list. -/
def accPuts (wide : Bool) (v : Nat → Dword) (at_ : Nat → Nat) (ls : List Nat) (a : KMap Word) : KMap Word :=
  ls.foldl (fun a l => accPut wide (v l) a (at_ l)) a

section
variable {wide : Bool} {v : Nat → Dword} {at_ : Nat → Nat} {a : KMap Word} (h : KMap.wfFrom 0 0 a = true)
include h

theorem wfFrom_accPuts (ls : List Nat) : KMap.wfFrom 0 0 (accPuts wide v at_ ls a) = true :=
  List.foldlRecOn ls _ (motive := fun a => KMap.wfFrom 0 0 a = true) h fun _ hb _ _ => wfFrom_accPut hb ..

theorem get_accPuts_concat (ls : List Nat) (m k : Nat) : KMap.get 0 (accPuts wide v at_ (ls ++ [m]) a) k =
    if wide = true ∧ k = at_ m + 1 then hiWord (v m) else if k = at_ m then loWord (v m)
    else KMap.get 0 (accPuts wide v at_ ls a) k := by
  rw [accPuts, List.foldl_append]
  exact get_accPut (wfFrom_accPuts h ls) ..

/-- A word that no lane names stands. -/
theorem get_accPuts_of_not {ls : List Nat} {k : Nat} (hk : ∀ l ∈ ls, k ≠ at_ l ∧ (wide = true → k ≠ at_ l + 1)) :
    KMap.get 0 (accPuts wide v at_ ls a) k = KMap.get 0 a k := by
  induction ls using List.reverseRecOn with
  | nil => rfl
  | append_singleton ls m ih =>
    obtain ⟨h1, h2⟩ := hk m (by simp)
    rw [get_accPuts_concat h, if_neg fun hc => h2 hc.1 hc.2, if_neg h1, ih fun l hl => hk l (by simp [hl])]

/-- The words of the last lane that names them hold its value. -/
theorem get_accPuts_last {ls : List Nat} {l : Nat} (hl : l ∈ ls) (hs : ls.Pairwise (· < ·))
    (hlast : ∀ j ∈ ls, l < j → at_ j ≠ at_ l ∧ (wide = true → at_ j + 1 ≠ at_ l ∧ at_ j ≠ at_ l + 1)) :
    KMap.get 0 (accPuts wide v at_ ls a) (at_ l) = loWord (v l) ∧
      (wide = true → KMap.get 0 (accPuts wide v at_ ls a) (at_ l + 1) = hiWord (v l)) := by
  induction ls using List.reverseRecOn with
  | nil => simp at hl
  | append_singleton ls m ih =>
    rw [get_accPuts_concat h, get_accPuts_concat h]
    by_cases hm : l = m
    · subst hm
      exact ⟨by simp, fun hw => by simp [hw]⟩
    · have hin : l ∈ ls := by simpa [hm] using hl
      rw [List.pairwise_append] at hs
      obtain ⟨h1, h2⟩ := hlast m (by simp) (hs.2.2 l hin m (by simp))
      obtain ⟨ih1, ih2⟩ := ih hin hs.1 fun j hj => hlast j (by simp [hj])
      exact ⟨by rw [if_neg fun hc => (h2 hc.1).1 hc.2.symm, if_neg h1.symm, ih1],
        fun hw => by rw [if_neg (by simpa [hw] using h1.symm), if_neg (h2 hw).2.symm, ih2 hw]⟩

end

/-- The types of ACCWR: a word, or an aligned pair. -/
theorem accwr_size {o : AccwrOp} (h : (Instr.accwr o).legal = true) : Machine.sizeOf o.ty / 4 = if wide o.ty then 2 else 1 := by
  have hraw : o.ty.raw = true := (Bool.and_eq_true_iff.1 h).1
  revert hraw
  cases o.ty <;> decide

/-- The accumulator that ACCWR leaves. -/
def Who.accWritten (w : Who) (o : AccwrOp) : KMap Word :=
  accPuts (wide o.ty) (fun l => w.src l (wide o.ty) o.data) (fun l => w.laddr l o.base o.imm) (lanesOf (w.active o.h.g)) w.b.acc

theorem accwr_writes {o : AccwrOp} {s : State} {w : Who} (h : s.issuer = some w)
    (hr : Readable w (w.active o.h.g) (baseReads false o.base ++ vr o.ty o.data) [])
    (hok : ∀ l, (w.active o.h.g).getLsbD l = true → w.laddr l o.base o.imm % (Machine.sizeOf o.ty / 4) = 0 ∧
      w.laddr l o.base o.imm + Machine.sizeOf o.ty / 4 ≤ w.b.accSize)
    (hc : w.b.cmds = []) :
    exec (.accwr o) s = .next ((w.put s { w.b with acc := w.accWritten o }).skip w o.h.k) := by
  have he : execAccwr o s = _ := State.access_readable h hr (fun l hl => Who.accAccess_ok (hok l hl).1 (hok l hl).2) _
  rw [Block.accBusy_of_idle hc] at he
  refine he.trans ?_
  simp only [Bool.false_eq_true, if_false, State.modBlock, (State.issuer_spec h).block, List.foldl_map]
  rfl

section
variable {o : AccwrOp} {w : Who} (hn : Machine.sizeOf o.ty / 4 = if wide o.ty then 2 else 1) (hwf : KMap.wfFrom 0 0 w.b.acc = true)
include hn hwf

/-- Where lanes name one word, the highest lane's value stands: two aligned pairs are one, or apart. -/
theorem Who.accWritten_last {l : Nat} (ha : (w.active o.h.g).getLsbD l = true)
    (hal : ∀ l, (w.active o.h.g).getLsbD l = true → w.laddr l o.base o.imm % (Machine.sizeOf o.ty / 4) = 0)
    (hlast : ∀ j, l < j → (w.active o.h.g).getLsbD j = true → w.laddr j o.base o.imm ≠ w.laddr l o.base o.imm) :
    KMap.get 0 (w.accWritten o) (w.laddr l o.base o.imm) = loWord (w.src l (wide o.ty) o.data) ∧
      (wide o.ty = true → KMap.get 0 (w.accWritten o) (w.laddr l o.base o.imm + 1) = hiWord (w.src l (wide o.ty) o.data)) := by
  refine get_accPuts_last (at_ := fun l => w.laddr l o.base o.imm) hwf ((mem_lanesOf _ _).2 ha) (pairwise_lanesOf _) fun j hj hlt => ?_
  have haj := (mem_lanesOf _ _).1 hj
  have hne := hlast j hlt haj
  refine ⟨hne, fun hw => ?_⟩
  have hl := hal l ha
  have hj := hal j haj
  simp only [hn, hw, if_true] at hl hj
  omega

theorem Who.accWritten_other {k : Nat} (hk : ∀ l, (w.active o.h.g).getLsbD l = true →
    k < w.laddr l o.base o.imm ∨ w.laddr l o.base o.imm + Machine.sizeOf o.ty / 4 ≤ k) :
    KMap.get 0 (w.accWritten o) k = KMap.get 0 w.b.acc k := by
  refine get_accPuts_of_not hwf fun l hl => ?_
  have hkl := hk l ((mem_lanesOf _ _).1 hl)
  rw [hn] at hkl
  refine ⟨?_, fun hw => ?_⟩
  · split at hkl <;> omega
  · rw [if_pos hw] at hkl
    omega

end

/-- Settles O27: ACCRD's lanes read through `accrd_reads`; ACCWR's lanes put their words in ascending order (`accWritten`). -/
theorem accumulatorAccess : Obligations.AccumulatorAccess := by
  refine ⟨fun o s w h hr hok hc => accrd_reads h hr hok hc, fun o s w h hl hr hok hc hwf => ?_⟩
  have hn := accwr_size hl
  have hi : Issues (w.put s { w.b with acc := w.accWritten o }) (w.withBlock { w.b with acc := w.accWritten o }) :=
    (State.issuer_spec h).put rfl
  refine ⟨w.accWritten o, _, accwr_writes h hr hok hc, hi.noResult rfl rfl o.h.k, fun l ha hlast => ?_, fun k hk =>
    Who.accWritten_other hn hwf hk⟩
  obtain ⟨h1, h2⟩ := Who.accWritten_last hn hwf ha (fun l ha => (hok l ha).1) hlast
  exact ⟨h1, fun hw => by rw [h2 hw, hw]⟩

end Sys2Proof.Machine

end

section

/-! # Translations made -/

namespace Sys2Proof.Machine

/-! ### Entries of a map -/

theorem KMap.any_of_get {α : Type} {d : α} {p : α → Bool} (hd : p d = false) (m : KMap α) (k : Nat) (h : p (KMap.get d m k) = true) :
    m.any (fun x => p x.2) = true := by
  induction m with
  | nil => exact absurd h (by simp [KMap.get, hd])
  | cons x m ih =>
    rw [List.any_cons, Bool.or_eq_true]
    unfold KMap.get at h
    split at h
    · exact .inl h
    · exact .inr (ih h)

/-- Whether some entry of a map has a property does not depend on an entry that has it exactly where the old one did. -/
theorem KMap.any_put {α : Type} {d : α} {p : α → Bool} (hd : p d = false) (m : KMap α) (k : Nat) {v : α}
    (h : p v = p (KMap.get d m k)) : (KMap.put m k v).any (fun x => p x.2) = m.any (fun x => p x.2) := by
  induction m with
  | nil => simp [KMap.put, h, KMap.get, hd]
  | cons x m ih =>
    have hany := KMap.any_of_get hd (x :: m) k
    unfold KMap.put
    split
    · next e =>
      have hv : p v = p x.2 := by rw [h, KMap.get, if_pos e]
      simp [hv]
    · next e =>
      split
      · rw [List.any_cons, h]
        cases hg : p (KMap.get d (x :: m) k)
        · exact Bool.false_or _
        · rw [hany hg, Bool.true_or]
      · rw [List.any_cons, List.any_cons, ih]
        rw [h, KMap.get, if_neg e]

/-! ### What an access may leave in the caches of translation (R65) -/

theorem SameParts.refl (k : Core) : SameParts k k := fun _ => rfl

theorem SameParts.trans {k l m : Core} (h : SameParts k l) (h' : SameParts l m) : SameParts k m := fun p => by
  have hp := h p
  rw [← h' p] at hp
  exact hp

theorem CachesRest.trans {s t u : State} (h : CachesRest s t) (h' : CachesRest t u) : CachesRest s u := by
  unfold CachesRest at h h' ⊢
  rw [← h'] at h
  exact h

theorem CachesOnly.slots {s t : State} (h : CachesOnly s t) (c : Nat) : (t.core c).slots = (s.core c).slots := by
  rw [← h.cores c]

theorem CachesOnly.block {s t : State} (h : CachesOnly s t) (c k : Nat) : t.block c k = s.block c k := by
  rw [State.block, State.block, h.slots]

theorem CachesOnly.issues {s t : State} {w : Who} (h : CachesOnly s t) (hi : Issues s w) : Issues t w :=
  ⟨by rw [h.block, hi.block], hi.group, hi.ig, hi.inRange⟩

/-- `t` is `s` with translations made: but for the translation caches, each lane's last page and counters the two are one. -/
structure Touched (s t : State) : Prop where
  rest : CachesRest s t
  cores : ∀ c, { t.core c with tlb := (s.core c).tlb, parts := (s.core c).parts } = s.core c
  parts : ∀ c, SameParts (s.core c) (t.core c)
  lengths : ∀ c, (t.core c).parts.length = (s.core c).parts.length
  streams : t.freeCtr = s.freeCtr ∧ t.nextId = s.nextId
  unperformed : ∀ id, t.unperformed id = s.unperformed id

theorem Touched.refl (s : State) : Touched s s := ⟨rfl, fun _ => rfl, fun _ _ => rfl, fun _ => rfl, ⟨rfl, rfl⟩, fun _ => rfl⟩

section
variable {s t u : State}

theorem Touched.trans (h : Touched s t) (h' : Touched t u) : Touched s u where
  rest := h.rest.trans h'.rest
  cores := fun c => by
    have hc := h.cores c
    rw [← h'.cores c] at hc
    exact hc
  parts := fun c => (h.parts c).trans (h'.parts c)
  lengths := fun c => (h'.lengths c).trans (h.lengths c)
  streams := ⟨h'.streams.1.trans h.streams.1, h'.streams.2.trans h.streams.2⟩
  unperformed := fun id => (h'.unperformed id).trans (h.unperformed id)

theorem Touched.ite (c : Bool) (ht : Touched s t) (hu : Touched s u) : Touched s (if c then t else u) := by
  split
  · exact ht
  · exact hu

theorem Touched.caches (h : Touched s t) : CachesOnly s t where
  rest := h.rest
  cores := fun c => by
    have hc := h.cores c
    generalize t.core c = k at hc ⊢
    rw [← hc]
  parts := h.parts

end

/-- Whether a store stands in some queue is told by the queues alone. -/
theorem State.unperformed_modCore (s : State) (c : Nat) {f : Core → Core} (hf : (f (s.core c)).stores = (s.core c).stores) (id : Nat) :
    (s.modCore c f).unperformed id = s.unperformed id := by
  have h := KMap.any_put (d := ({} : Core)) (p := fun k => k.stores.any fun e => e.id == id) rfl s.cores c (v := f (s.core c))
    (by rw [hf]; rfl)
  unfold State.unperformed
  rw [← h]
  rfl

/-- A change of one core that its translations alone show. -/
theorem State.modCore_touched (s : State) (c : Nat) {f : Core → Core}
    (hf : { f (s.core c) with tlb := (s.core c).tlb, parts := (s.core c).parts } = s.core c)
    (hp : SameParts (s.core c) (f (s.core c))) (hl : (f (s.core c)).parts.length = (s.core c).parts.length) :
    Touched s (s.modCore c f) := by
  have hs : (f (s.core c)).stores = (s.core c).stores := by
    generalize f (s.core c) = k at hf
    rw [← hf]
  refine ⟨rfl, fun k => ?_, fun k => ?_, fun k => ?_, ⟨rfl, rfl⟩, s.unperformed_modCore c hs⟩ <;>
    rw [State.core_modCore] <;> split
  · next e => rw [e, hf]
  · rfl
  · next e => rwa [e]
  · exact .refl _
  · next e => rw [e, hl]
  · rfl

theorem State.countWalk_touched (s : State) (core : Nat) : Touched s (s.countWalk core) :=
  ⟨rfl, fun _ => rfl, fun _ _ => rfl, fun _ => rfl, ⟨rfl, rfl⟩, fun _ => rfl⟩

theorem State.fill_touched (s : State) (core : Nat) (x : Xlate) : Touched s (s.fill core x) := by
  unfold State.fill
  dsimp only
  generalize hu : (if ((s.core core).tlb.contains x || (s.dieTlbOf core).contains x) = true then s else _) = u
  have h1 : Touched s u := by
    subst hu
    exact .ite _ (.refl s) ⟨rfl, fun _ => rfl, fun _ _ => rfl, fun _ => rfl, ⟨rfl, rfl⟩, fun _ => rfl⟩
  generalize hv : (if (u.dieTlbOf core).contains x = true then u else _) = v
  have h2 : Touched u v := by
    subst hv
    exact .ite _ (.refl u) ⟨rfl, fun _ => rfl, fun _ _ => rfl, fun _ => rfl, ⟨rfl, rfl⟩, fun _ => rfl⟩
  refine (h1.trans h2).trans (State.modCore_touched _ _ ?_ ?_ ?_)
  · split <;> rfl
  · split <;> exact fun _ => rfl
  · split <;> rfl

theorem State.setLast_touched (s : State) (core part lane : Nat) (x : Xlate) : Touched s (s.setLast core part lane x) := by
  refine State.modCore_touched _ _ rfl (fun p => ?_) (listMod_length ..)
  rw [listGet_listMod]
  split
  · next e => rw [e.1]
  · rfl

theorem State.touchAt_touched (s : State) (core part lane c va : Nat) : Touched s (s.touchAt core part lane c va) := by
  have hgo : Touched s (State.touchAt.go s core part lane c va) := by
    unfold State.touchAt.go
    (repeat' split)
    · exact .refl s
    · exact (State.fill_touched ..).trans (State.setLast_touched ..)
    · exact State.countWalk_touched ..
  unfold State.touchAt
  (repeat' split)
  · exact .refl s
  · exact hgo
  · exact hgo

theorem State.touch_touched (s : State) (core part lane c va n : Nat) : Touched s (s.touch core part lane c va n) := by
  unfold State.touch
  split
  · exact .refl s
  · exact (State.touchAt_touched ..).trans (State.touchAt_touched ..)

theorem foldl_touched {α : Type} {f : State → α → State} (hf : ∀ s x, Touched s (f s x)) (l : List α) (s : State) :
    Touched s (l.foldl f s) :=
  List.foldlRecOn l f (motive := Touched s) (.refl s) fun t ht x _ => ht.trans (hf t x)

theorem State.touchLanes_touched (s : State) (w : Who) (m : LaneMask) (f : State → Nat → List (Nat × Nat)) :
    Touched s (s.touchLanes w m f) :=
  foldl_touched (fun s l => foldl_touched (fun s _ => State.touch_touched s ..) (f s l) s) _ s

end Sys2Proof.Machine

end

section

/-! # Uniform results, and LOCQ -/

namespace Sys2Proof.Machine

/-! ### A uniform result -/

theorem Issues.uniformResult {s : State} {w : Who} (h : Issues s w) (k : Ctl) (d : BitVec 6) (x : Nat) :
    UniformResult w k d false x s (s.finish w k fun g => g.writeS d.toNat false (dw x)) := by
  have hs := State.finish_slotted h k fun g => g.writeS d.toNat false (dw x)
  have hreg (n : Nat) : (w.grpIn (s.finish w k fun g => g.writeS d.toNat false (dw x))).sreg n =
      if n = d.toNat then loWord (dw x) else w.g.sreg n := by
    rw [Group.sreg, hs.regs.2]
    exact KMap.get_put ..
  exact { hs.done h rfl rfl rfl rfl with
    result := by
      rw [hreg, if_pos rfl, loWord, dw, BitVec.toNat_setWidth, BitVec.toNat_ofNat]
      exact ⟨by omega, nofun⟩
    keep := fun n hn _ => by rw [hreg, if_neg hn]
    vregs := hs.regs.1
    threads := fun l => by
      rcases hs.threads l with e | ⟨_, _, e⟩ <;> rw [e] <;> exact ⟨rfl, rfl⟩
    latches := fun l => by
      rcases hs.threads l with e | ⟨hy, hw, e⟩
      · exact .inl (by rw [e]; rfl)
      · exact .inr ⟨hy, hw, by rw [e]⟩ }

/-! ### LOCQ -/

section
variable {h : Hd} {d a : BitVec 6} {k : LocKind} {s : State} {w : Who} (hw : s.issuer = some w) (hm : w.active h.g ≠ 0)
include hw hm

theorem execLocq_ok {x : Dword} (hq : s.locq w k a (lowest (w.active h.g)) = .ok x) : exec (.locq h k d a) s =
    .next ({ s.locTouch w k a (lowest (w.active h.g)) with freeCtr := s.freeCtr + 1 }.finish w h.k fun g => g.writeS d.toNat false x) := by
  show execLocq h k d a s = _
  rw [execLocq, State.anyLane, State.withIssuer_of hw]
  dsimp only
  rw [if_neg hm, hq]

theorem execLocq_error {f : Flt} (hq : s.locq w k a (lowest (w.active h.g)) = .error f) : exec (.locq h k d a) s =
    (s.locTouch w k a (lowest (w.active h.g))).raise w (w.active h.g) f := by
  show execLocq h k d a s = _
  rw [execLocq, State.anyLane, State.withIssuer_of hw]
  dsimp only
  rw [if_neg hm, hq]

/-- A query with an answer: the caches of translation may have changed, and the slot is finished with the word. -/
theorem locq_answers {die cls : Nat} (hq : s.locq w k a (lowest (w.active h.g)) = .ok (locWord die cls)) :
    ∃ s1 t, CachesOnly s s1 ∧ exec (.locq h k d a) s = .next t ∧ UniformResult w h.k d false (256 * die + cls) s1 t := by
  have hc : CachesOnly s (s.locTouch w k a (lowest (w.active h.g))) := by
    cases k
    · exact (State.touchAt_touched ..).caches
    · exact (Touched.refl s).caches
    · exact (Touched.refl s).caches
  have hc' : CachesOnly s { s.locTouch w k a (lowest (w.active h.g)) with freeCtr := s.freeCtr + 1 } :=
    ⟨hc.rest, hc.cores, hc.parts⟩
  refine ⟨_, _, hc', execLocq_ok hw hm hq, ?_⟩
  rw [locWord, Nat.mul_comm die]
  exact (hc'.issues (State.issuer_spec hw)).uniformResult ..

/-- A query of a number that is refused. -/
theorem locq_raises {c : Nat} (hk : k ≠ .addr) (hc : BitVec.ofNat 6 c ≠ 13)
    (hq : s.locq w k a (lowest (w.active h.g)) = .error { cause := c, lane := lowest (w.active h.g) }) :
    Raises (.locq h k d a) w (w.active h.g) c (lowest (w.active h.g)) 0 s := by
  have ht : s.locTouch w k a (lowest (w.active h.g)) = s := by
    cases k
    · exact absurd rfl hk
    · rfl
    · rfl
  refine (State.issuer_spec hw).raises (f := { cause := c, lane := lowest (w.active h.g) }) ((execLocq_error hw hm hq).trans ?_) rfl hc
  rw [ht]

/-- A query of an address that is refused: of the machine the walk's counter alone may have changed. -/
theorem locq_traps {c : Nat} (hc : BitVec.ofNat 6 c ≠ 13)
    (hq : s.locq w .addr a (lowest (w.active h.g)) =
      .error { cause := c, lane := lowest (w.active h.g), addr := dw (w.s64 a) })
    (ht : s.locTouch w .addr a (lowest (w.active h.g)) = s ∨ s.locTouch w .addr a (lowest (w.active h.g)) = s.countWalk w.core) :
    ∃ s1 r t, CachesOnly s s1 ∧ exec (.locq h .addr d a) s = .next t ∧ RecordAt w s1 (w.active h.g) c (lowest (w.active h.g)) r ∧
      r.addr = BitVec.ofNat 64 (w.s64 a) ∧ Traps w r 0 s1 t := by
  have he : exec (.locq h .addr d a) s = _ := execLocq_error hw hm hq
  have hi := State.issuer_spec hw
  have hr s1 := State.record_recordAt s1 w (w.active h.g) { cause := c, lane := lowest (w.active h.g), addr := dw (w.s64 a) }
  rcases ht with ht | ht <;> rw [ht] at he
  · exact ⟨s, _, _, (Touched.refl s).caches, he, hr s, rfl, hi.stands.traps _ _ hc⟩
  · have hcw := (State.countWalk_touched s w.core).caches
    exact ⟨_, _, _, hcw, he, hr _, rfl, (hcw.issues hi).stands.traps _ _ hc⟩

end

/-- A lookup that finds no leaf leaves the caches of translation: at most the walk is counted. -/
theorem State.touchAt_of_not_leaf {s : State} {core part lane c va : Nat}
    (h : 2 ^ 52 ≤ va ∨ ∀ x, s.lookupLast (s.lastPage core part lane) core c va ≠ .leaf x) :
    s.touchAt core part lane c va = s ∨ s.touchAt core part lane c va = s.countWalk core := by
  have hgo (hl : 2 ^ 52 ≤ va ∨ ∀ x, s.lookup core c va ≠ .leaf x) :
      State.touchAt.go s core part lane c va = s ∨ State.touchAt.go s core part lane c va = s.countWalk core := by
    unfold State.touchAt.go
    (repeat' split)
    · exact .inl rfl
    · next hva _ x hx => exact absurd hx (hl.resolve_left hva x)
    · exact .inr rfl
  unfold State.touchAt
  unfold State.lookupLast at h
  (repeat' split)
  · exact .inl rfl
  · next x hx hhit => exact hgo (h.imp_right fun h => by simpa [hx, hhit] using h)
  · next hx => exact hgo (h.imp_right fun h => by simpa [hx] using h)

/-- What the numbers of LOCQ's operands are. -/
theorem Who.s32_eq (w : Who) (a : BitVec 6) : w.s32 a = (w.g.sreg a.toNat).toNat := by
  show ((KMap.get (0 : Word) w.g.s a.toNat).setWidth 64).toNat = (KMap.get (0 : Word) w.g.s a.toNat).toNat
  rw [BitVec.toNat_setWidth]
  omega

section
variable {s : State} {w : Who} {a : BitVec 6} {l : Nat}

theorem locq_core_of_live (h : w.s32 a < s.sys.liveCount) :
    s.locq w .core a l = .ok (s.locDie w.core (s.sys.dieOfCore (w.s32 a))) := if_neg (by omega)

theorem locq_core_of_not_live (h : s.sys.liveCount ≤ w.s32 a) : s.locq w .core a l = .error { cause := 3, lane := l } := if_pos h

theorem locq_addr (h : w.s64 a < 2 ^ 52) {k : Walked} (hk : s.lookupLast (s.lastPage w.core w.g.part l) w.core w.b.ctx (w.s64 a) = k) :
    s.locq w .addr a l = match k with
    | .absent => .error { cause := 9, lane := l, addr := dw (w.s64 a) }
    | .refused => .error { cause := 8, lane := l, addr := dw (w.s64 a) }
    | .leaf x => .ok (if x.tgt = 0 then s.locDie w.core (sliceDie (x.pa + (w.s64 a - x.va))) else locWord 0xFE 4) := by
  unfold State.locq
  dsimp only
  rw [if_pos h]
  simp only [Who.ctx, hk]
  cases k with
  | absent => rfl
  | refused => rfl
  | leaf x =>
    simp only [Xlate.target]
    match htgt : x.tgt with
    | 0 => rfl
    | 1 => rfl
    | n + 2 => rfl

theorem locq_addr_of_high (h : 2 ^ 52 ≤ w.s64 a) : s.locq w .addr a l = .error { cause := 8, lane := l, addr := dw (w.s64 a) } := by
  unfold State.locq
  dsimp only
  rw [if_neg (by omega)]

theorem locq_ent_of_number (h : 256 ≤ w.s32 a) : s.locq w .ent a l = .error { cause := 3, lane := l } := if_pos h

theorem locq_ent_of_none (h : w.s32 a < 256) (he : s.entry w.b.ctx (w.s32 a) = none) :
    s.locq w .ent a l = .error { cause := 10, lane := l } := by
  unfold State.locq
  simp only [Who.ctx, he]
  exact if_neg (by omega)

theorem locq_ent_of_some (h : w.s32 a < 256) {e : Man} (he : s.entry w.b.ctx (w.s32 a) = some e) : s.locq w .ent a l =
    if e.pkg != s.sys.pkg.toNat then .ok (s.locFar e.pkg)
    else if e.isCore then
      (if s.sys.liveCount ≤ e.unit then .error { cause := 3, lane := l } else .ok (s.locDie w.core (s.sys.dieOfCore e.unit)))
    else .ok (s.locDie w.core (sliceDie (e.unit % 32 * 2 ^ 36))) := by
  unfold State.locq
  simp only [Who.ctx, he]
  exact if_neg (by omega)

end

/-- Settles O42: `execLocq_ok` and `execLocq_error` reduce the query to `State.locq`, whose cases are the statement's. -/
theorem localityQuery : Obligations.LocalityQuery := by
  intro h d a s w hw hm m n va mine answers near traps walk
  have hn : w.s32 a = n := w.s32_eq a
  have hans {k die cls} (hq : s.locq w k a (lowest m) = .ok (locWord die cls)) : answers k die cls := locq_answers hw hm hq
  have hnear {k die} (hq : s.locq w k a (lowest m) = .ok (s.locDie w.core die)) : near k die := hans hq
  have htraps {c} (hc : BitVec.ofNat 6 c ≠ 13) (hv : 2 ^ 52 ≤ va ∨ ∀ x, walk ≠ .leaf x)
      (hq : s.locq w .addr a (lowest m) = .error { cause := c, lane := lowest m, addr := dw va }) : traps c :=
    locq_traps hw hm hc hq (State.touchAt_of_not_leaf hv)
  have hent e (hl : n < 256) (he : s.entry w.b.ctx n = some e) := locq_ent_of_some (a := a) (l := lowest m) (hn.symm ▸ hl) (hn.symm ▸ he)
  refine ⟨fun hl => ?_, fun hl => ?_, fun x hva hx => ⟨fun ht => ?_, fun ht => ?_⟩, fun hva hx => ?_, fun hx => ?_, fun hl => ?_,
    fun hl he => ?_, fun e hl he => ⟨fun hp => ⟨fun r hr => ?_, fun hr => ?_⟩,
      fun hp hc => ⟨fun hu => ?_, fun hu => ?_⟩, fun hp hc => ?_⟩⟩
  · exact hnear (hn ▸ locq_core_of_live (hn.symm ▸ hl))
  · exact locq_raises hw hm (by decide) (by decide) (locq_core_of_not_live (hn.symm ▸ hl))
  · exact hnear ((locq_addr hva hx).trans (congrArg _ (if_pos ht)))
  · exact hans ((locq_addr hva hx).trans (congrArg _ (if_neg ht)))
  · exact htraps (by decide) (.inr fun x => by rw [hx]; nofun) (locq_addr hva hx)
  · refine htraps (by decide) (hx.imp_right fun hx x => by rw [hx]; nofun) ?_
    rcases Nat.lt_or_ge va (2 ^ 52) with hva | hva
    · exact locq_addr hva (hx.resolve_left (by omega))
    · exact locq_addr_of_high hva
  · exact locq_raises hw hm (by decide) (by decide) (locq_ent_of_number (hn.symm ▸ hl))
  · exact locq_raises hw hm (by decide) (by decide) (locq_ent_of_none (hn.symm ▸ hl) (hn.symm ▸ he))
  · refine hans ((hent e hl he).trans ?_)
    rw [if_pos (by simpa using hp), State.locFar, State.farClass, hr]
    rfl
  · have hq := (hent e hl he).trans (if_pos (by simpa using hp))
    rw [State.locFar, State.farClass, hr] at hq
    dsimp only at hq
    split at hq
    · exact .inr (hans hq)
    · exact .inl (hans hq)
  · refine hnear ((hent e hl he).trans ?_)
    rw [if_neg (by simpa using hp), if_pos hc, if_neg (by omega)]
    rfl
  · refine locq_raises hw hm (by decide) (by decide) ((hent e hl he).trans ?_)
    rw [if_neg (by simpa using hp), if_pos hc, if_pos hu]
  · refine hnear ((hent e hl he).trans ?_)
    rw [if_neg (by simpa using hp), if_neg (by simp [hc])]

end Sys2Proof.Machine

end

section

/-! # Acts of an issuer that reorder its accesses -/

namespace Sys2Proof.Machine

/-- A thread but for what orders its accesses. -/
def SameOrder (t t' : Thread) : Prop := { t' with ahead := t.ahead, past := t.past, seen := t.seen, fed := t.fed } = t

theorem SameOrder.trans {x y z : Thread} (h : SameOrder x y) (h' : SameOrder y z) : SameOrder x z := by
  unfold SameOrder at h h' ⊢
  rw [← h'] at h
  exact h

/-- The issuer with one of its threads changed. -/
def Who.modThread (v : Who) (l : Nat) (f : Thread → Thread) : Who :=
  { v with b := v.b.modGroup v.grp fun g => g.modThread l f, g := v.g.modThread l f }

section
variable {w v : Who}

theorem Reordered.refl (h : w.g = w.b.group w.grp) : Reordered w w := ⟨rfl, ⟨rfl, rfl, h⟩, fun _ _ => rfl, rfl, fun _ => rfl⟩

theorem Reordered.core (h : Reordered w v) : v.core = w.core := by rw [← h.place]
theorem Reordered.slot (h : Reordered w v) : v.slot = w.slot := by rw [← h.place]
theorem Reordered.grp (h : Reordered w v) : v.grp = w.grp := by rw [← h.place]

theorem Reordered.gen (h : Reordered w v) : v.b.gen = w.b.gen := by
  obtain ⟨hb, -, -⟩ := h.block
  generalize v.b = b at hb ⊢
  rw [← hb]

theorem Reordered.modThread (h : Reordered w v) (hr : v.grp < v.b.groups.length) (l : Nat) {f : Thread → Thread}
    (hf : ∀ x, SameOrder x (f x)) : Reordered w (v.modThread l f) := by
  obtain ⟨hb, hlen, hg⟩ := h.block
  refine ⟨h.place, ⟨hb, (listMod_length ..).trans hlen, ?_⟩, fun g hne => ?_, h.group, fun i => ?_⟩
  · show _ = (v.b.modGroup v.grp _).group v.grp
    rw [Block.group_modGroup, if_pos ⟨rfl, hr⟩, ← hg]
    rfl
  · show (v.b.modGroup v.grp _).group g = _
    rw [Block.group_modGroup, if_neg (by rw [h.grp]; exact fun hc => hne hc.1), h.groups g hne]
  · show SameOrder (w.g.thread i) (listGet {} (listMod v.g.threads l f) i)
    rw [listGet_listMod]
    split
    · next e => exact e.1 ▸ SameOrder.trans (h.threads i) (e.1 ▸ hf _)
    · exact h.threads i

end

/-- The issuer `w` has acted on `s`, and stands in `t` as `v`: what orders its accesses may differ, the caches and the queue of its core. -/
structure Acted (w v : Who) (s t : State) : Prop where
  rest : CachesRest s t
  order : Reordered w v
  blocks : ∀ c k, t.block c k = if c = w.core ∧ k = w.slot then some v.b else s.block c k
  cores : ∀ c, { t.core c with
      slots := (s.core c).slots, stores := (s.core c).stores, tlb := (s.core c).tlb, parts := (s.core c).parts } = s.core c
  parts : ∀ c, SameParts (s.core c) (t.core c)
  issues : Issues t v

section
variable {w v : Who} {s t u : State}

theorem Touched.acted (h : Touched s t) (hi : Issues s w) : Acted w w s t where
  rest := h.rest
  order := .refl hi.group
  blocks := fun c k => by
    rw [h.caches.block]
    split
    · next e => rw [e.1, e.2, hi.block]
    · rfl
  cores := fun c => by
    have hc := h.cores c
    generalize t.core c = k at hc ⊢
    rw [← hc]
  parts := h.parts
  issues := h.caches.issues hi

/-- A change outside the cores that the caches and the counters alone show. -/
theorem Acted.outside (h : Acted w v s t) (hr : CachesRest t u) (hc : u.cores = t.cores) : Acted w v s u := by
  have hcore (c : Nat) : u.core c = t.core c := by rw [State.core, State.core, hc]
  have hblock (c k : Nat) : u.block c k = t.block c k := by rw [State.block, State.block, hcore]
  exact {
    rest := h.rest.trans hr
    order := h.order
    blocks := fun c k => (hblock c k).trans (h.blocks c k)
    cores := fun c => by rw [hcore, h.cores]
    parts := fun c => by rw [hcore]; exact h.parts c
    issues := ⟨(hblock ..).trans h.issues.block, h.issues.group, h.issues.ig, h.issues.inRange⟩ }

theorem Acted.modThread (h : Acted w v s t) (l : Nat) {f : Thread → Thread} (hf : ∀ x, SameOrder x (f x)) :
    Acted w (v.modThread l f) s (t.modGroup w.core w.slot w.grp fun g => g.modThread l f) := by
  have hb := h.issues.block
  rw [h.order.core, h.order.slot] at hb
  have ho := h.order.modThread h.issues.inRange l hf
  have hvb : (v.modThread l f).b = v.b.modGroup w.grp fun g => g.modThread l f := by rw [← h.order.grp]; rfl
  have hblocks (c k : Nat) : (t.modGroup w.core w.slot w.grp fun g => g.modThread l f).block c k =
      if c = w.core ∧ k = w.slot then some (v.modThread l f).b else s.block c k := by
    rw [State.modGroup_of_block hb, State.block_setBlock, hvb]
    split
    · rfl
    · next e => rw [h.blocks, if_neg e]
  have hcore (c : Nat) : ∃ x, (t.modGroup w.core w.slot w.grp fun g => g.modThread l f).core c = { t.core c with slots := x } := by
    rw [State.modGroup_of_block hb, State.setBlock, State.core_modCore]
    split
    · next e => exact ⟨_, by rw [e]⟩
    · exact ⟨_, rfl⟩
  refine ⟨h.rest.trans ?_, ho, hblocks, fun c => ?_, fun c => ?_, ⟨?_, ?_, ?_, ?_⟩⟩
  · rw [State.modGroup_of_block hb]
    rfl
  · obtain ⟨x, hx⟩ := hcore c
    rw [hx]
    exact h.cores c
  · obtain ⟨x, hx⟩ := hcore c
    rw [hx]
    exact h.parts c
  · rw [ho.core, ho.slot, hblocks, if_pos ⟨rfl, rfl⟩]
  · exact ho.block.2.2
  · exact h.issues.ig
  · exact (listMod_length ..).symm ▸ h.issues.inRange

/-- A change of the queue of a core. -/
theorem Acted.modStores (h : Acted w v s t) (c : Nat) (f : Core → List Store) :
    Acted w v s (t.modCore c fun k => { k with stores := f k }) := by
  have hcore (i : Nat) : ∃ x, (t.modCore c fun k => { k with stores := f k }).core i = { t.core i with stores := x } := by
    rw [State.core_modCore]
    split
    · next e => exact ⟨_, by rw [e]⟩
    · exact ⟨_, rfl⟩
  have hblock (i k : Nat) : (t.modCore c fun k => { k with stores := f k }).block i k = t.block i k := by
    obtain ⟨x, hx⟩ := hcore i
    rw [State.block, hx]
    rfl
  refine ⟨h.rest.trans rfl, h.order, fun i k => (hblock i k).trans (h.blocks i k), fun i => ?_, fun i => ?_, ⟨(hblock ..).trans h.issues.block,
    h.issues.group, h.issues.ig, h.issues.inRange⟩⟩
  · obtain ⟨x, hx⟩ := hcore i
    rw [hx]
    exact h.cores i
  · obtain ⟨x, hx⟩ := hcore i
    rw [hx]
    exact h.parts i

/-- A write of a lane is noted. -/
theorem Acted.noteWrite (h : Acted w v s t) (l : Nat) (d : Dom) (sc : Scope) (id : Nat) :
    ∃ v', Acted w v' s (t.noteWrite (w.agent l) d sc id) := ⟨_, h.modThread l fun _ => rfl⟩

end

end Sys2Proof.Machine

end

section

/-! # Converting stores: STX -/

namespace Sys2Proof.Machine

/-! ### The generator's number, drawn after translations were made -/

theorem listSet_eq_listMod {α : Type} (x : α) : ∀ (l : List α) (i : Nat), listSet l i x = listMod l i fun _ => x
  | [], _ => rfl
  | _ :: _, 0 => rfl
  | y :: l, i + 1 => congrArg (y :: ·) (listSet_eq_listMod x l i)

/-- A partition but for its lanes' last pages. -/
def SamePart (p q : Part) : Prop := { q with last := p.last } = p

theorem SamePart.advance {p q : Part} (h : SamePart p q) (core part c n : Nat) :
    SamePart (p.advance core part c n) (q.advance core part c n) := by
  unfold SamePart at h
  generalize p.last = x at h
  subst h
  unfold Part.advance
  dsimp only
  split <;> rfl

theorem SamePart.compOf {p q : Part} (h : SamePart p q) (w : Who) : q.compOf w = p.compOf w := by
  rw [← h]
  rfl

/-- The same partitions change in two lists alike. -/
theorem samePart_listMod {P Q : List Part} (h : ∀ i, SamePart (listGet {} P i) (listGet {} Q i)) (hl : Q.length = P.length) (k : Nat)
    {f g : Part → Part} (hf : SamePart (f (listGet {} P k)) (g (listGet {} Q k))) (i : Nat) :
    SamePart (listGet {} (listMod P k f) i) (listGet {} (listMod Q k g) i) := by
  rw [listGet_listMod, listGet_listMod, hl]
  split
  · next e => exact e.1 ▸ hf
  · exact h i

section
variable {s t : State}

/-- One core's partitions change in both states. -/
theorem Touched.modParts (h : Touched s t) (c : Nat) {P Q : List Part} (hp : ∀ i, SamePart (listGet {} P i) (listGet {} Q i))
    (hl : Q.length = P.length) : Touched (s.modCore c fun k => { k with parts := P }) (t.modCore c fun k => { k with parts := Q }) := by
  refine ⟨?_, fun i => ?_, fun i => ?_, fun i => ?_, h.streams, fun id => ?_⟩
  · exact congrArg (fun x : State => { x with cores := (s.modCore c fun k => { k with parts := P }).cores }) h.rest
  · rw [State.core_modCore, State.core_modCore]
    split
    · exact congrArg (fun k : Core => { k with parts := P }) (h.cores c)
    · exact h.cores i
  · rw [State.core_modCore, State.core_modCore]
    split
    · exact hp
    · exact h.parts i
  · rw [State.core_modCore, State.core_modCore]
    split
    · exact hl
    · exact h.lengths i
  · rw [State.unperformed_modCore, State.unperformed_modCore]
    · exact h.unperformed id
    · rfl
    · rfl

theorem Touched.setStream (h : Touched s t) (n : Nat) : Touched { s with freeCtr := n } { t with freeCtr := n } :=
  ⟨by
    have hr := congrArg (fun x : State => { x with freeCtr := n }) h.rest
    exact hr, h.cores, h.parts, h.lengths, ⟨rfl, h.streams.2⟩, h.unperformed⟩

theorem Touched.advanceGen (h : Touched s t) (core part c : Nat) : (t.advanceGen core part c).1 = (s.advanceGen core part c).1 ∧
    Touched (s.advanceGen core part c).2 (t.advanceGen core part c).2 := by
  have ha := SamePart.advance (h.parts core part) core part c s.freeCtr
  unfold State.advanceGen
  rw [h.streams.1]
  refine ⟨?_, (h.modParts core (fun i => ?_) ?_).setStream _⟩
  · dsimp only
    rw [← ha]
  · rw [listSet_eq_listMod, listSet_eq_listMod]
    exact samePart_listMod (h.parts core) (h.lengths core) part ha i
  · rw [length_listSet, length_listSet, h.lengths core]

/-- The number that the lanes share under composite issue is kept. -/
def Part.keepDrawn (c : Comp) (g : Word) (p : Part) : Part := { p with comp := some { c with drawn := some g } }

theorem Touched.issueGen (h : Touched s t) (w : Who) : (t.issueGen w).1 = (s.issueGen w).1 ∧
    Touched (s.issueGen w).2 (t.issueGen w).2 := by
  have hp := SamePart.compOf (h.parts w.core w.part) w
  obtain ⟨hg, ht⟩ := h.advanceGen w.core w.part w.ctx
  have hkeep (c : Comp) (g : Word) : SamePart
      ((listGet {} ((s.advanceGen w.core w.part w.ctx).2.core w.core).parts w.part).keepDrawn c g)
      ((listGet {} ((t.advanceGen w.core w.part w.ctx).2.core w.core).parts w.part).keepDrawn c g) :=
    congrArg (Part.keepDrawn c g) (ht.parts w.core w.part)
  unfold State.issueGen
  rw [hp]
  split
  · exact ⟨hg, ht⟩
  · next c _ =>
    split
    · exact ⟨rfl, h⟩
    · refine ⟨hg, ?_⟩
      dsimp only
      rw [hg]
      exact ht.modParts w.core (samePart_listMod (ht.parts w.core) (ht.lengths w.core) w.part (hkeep c _))
        ((listMod_length ..).trans ((ht.lengths w.core).trans (listMod_length ..).symm))

end

/-! ### Queued stores of lanes -/

/-- What has joined the queue of the issuer's core. -/
structure Queued (w : Who) (acc : Acc) (xs : List (List Nat × Put)) (s t : State) : Prop where
  other : ∀ c, c ≠ w.core → (t.core c).stores = (s.core c).stores
  queue : ∃ new, (t.core w.core).stores = (s.core w.core).stores ++ new ∧
    new.map (fun e => (e.who, e.place, e.work, e.irrev)) = xs.map (fun x => (w.agent (x.1.headD 0), x.2.1, x.2.2.1, x.2.2.2)) ∧
    new.map (fun e => e.lanes) = xs.map (fun x => maskOf fun l => x.1.contains l) ∧
    ∀ e ∈ new, e.dom = acc.dom ∧ e.scope = e.place.scope acc.scope ∧ e.rel = isRelease acc ∧ e.leg = s.legOf w.b.ctx ∧ e.pc = w.ig.pc

/-- `e` is the store of a lane of the issuer. -/
structure StoreOf (w : Who) (acc : Acc) (l : Nat) (x : Put) (leg : Word) (e : Store) : Prop where
  made : (e.who, e.place, e.work, e.irrev) = (w.agent l, x.1, x.2.1, x.2.2)
  lanes : e.lanes = maskOf fun i => [l].contains i
  order : e.dom = acc.dom ∧ e.scope = e.place.scope acc.scope ∧ e.rel = isRelease acc ∧ e.leg = leg ∧ e.pc = w.ig.pc

section
variable {w v : Who} {acc : Acc} {xs : List (List Nat × Put)} {s t u : State}

theorem Acted.enqueued (h : Acted w v s t) (q : Queued w acc xs s t) : Enqueued w v acc xs s t :=
  { h, q with }

theorem Touched.queued (h : Touched s t) : Queued w acc [] s t := by
  have hs (c : Nat) : (t.core c).stores = (s.core c).stores := by
    have hc := h.cores c
    generalize t.core c = k at hc ⊢
    rw [← hc]
  exact ⟨fun c _ => hs c, [], (hs w.core).trans (List.append_nil _).symm, rfl, rfl, fun _ he => absurd he List.not_mem_nil⟩

theorem Queued.snoc (q : Queued w acc xs s t) {e : Store} {l : Nat} {x : Put} (he : StoreOf w acc l x (s.legOf w.b.ctx) e)
    (hu : ∀ c, (u.core c).stores = (t.core c).stores ++ if c = w.core then [e] else []) : Queued w acc (xs ++ [([l], x)]) s u := by
  obtain ⟨new, hnew, hmade, hlanes, horder⟩ := q.queue
  refine ⟨fun c hc => ?_, new ++ [e], ?_, ?_, ?_, fun f hf => ?_⟩
  · rw [hu, if_neg hc, List.append_nil, q.other c hc]
  · rw [hu, if_pos rfl, hnew, List.append_assoc]
  · rw [List.map_append, List.map_append, hmade]
    exact congrArg _ (congrArg (· :: []) he.made)
  · rw [List.map_append, List.map_append, hlanes]
    exact congrArg _ (congrArg (· :: []) he.lanes)
  · rcases List.mem_append.1 hf with hf | hf
    · exact horder f hf
    · rw [List.mem_singleton.1 hf]
      exact he.order

theorem State.stores_modGroup (s : State) (c k g : Nat) (f : Group → Group) (i : Nat) :
    ((s.modGroup c k g f).core i).stores = (s.core i).stores := by
  unfold State.modGroup State.modBlock
  split
  · rw [State.setBlock, State.core_modCore]
    split
    · next e => rw [e]
    · rfl
  · rfl

theorem State.placeTx_core (s : State) (c : Nat) (p : Place) (n i : Nat) : (s.placeTx c p n).core i = s.core i := by
  cases p <;> rfl

/-- The store that a lane enqueues. -/
def State.laneStore (s : State) (w : Who) (batch l : Nat) (acc : Acc) (sc : Scope) (x : Put) : Store :=
  let e : Store :=
    { id := s.nextId, who := w.agent l, dom := acc.dom, scope := sc, rel := isRelease acc, place := x.1, work := x.2.1, after := []
      lanes := maskOf (fun i => [l].contains i), rels := w.relsOf [l] acc sc s.nextId, els := w.elsOf [l] acc.dom, irrev := x.2.2
      leg := s.legOf w.ctx, pc := w.ig.pc, node := wd w.b.task.node, block := wd w.b.task.lin }
  { e with after := [l].flatMap (fun i => s.storeAfter w i acc.dom sc (isRelease acc) [(x.1, e.len)]) ++
      ((s.core w.core).stores.filter (fun y => decide (batch ≤ y.id) && placesMeet y.place y.len x.1 e.len)).map (·.id) }

theorem State.enqueue_eq (s : State) (w : Who) (batch l : Nat) (acc : Acc) (sc : Scope) (x : Put) :
    s.enqueue w batch [l] acc sc x.1 x.2.1 x.2.2 = ((s.fresh.2.placeTx w.core x.1 (s.laneStore w batch l acc sc x).len).modCore w.core
      fun k => { k with stores := k.stores ++ [s.laneStore w batch l acc sc x] }).noteWrite (w.agent l) acc.dom sc s.nextId := rfl

/-- One store of a lane joins the queue. -/
theorem State.enqueue_stores (s : State) (w : Who) (batch l : Nat) (acc : Acc) (sc : Scope) (x : Put) (c : Nat) :
    ((s.enqueue w batch [l] acc sc x.1 x.2.1 x.2.2).core c).stores =
      (s.core c).stores ++ if c = w.core then [s.laneStore w batch l acc sc x] else [] := by
  rw [State.enqueue_eq, State.noteWrite, State.stores_modGroup, State.core_modCore]
  split
  · next e =>
    dsimp only
    rw [State.placeTx_core, e]
    rfl
  · rw [State.placeTx_core, List.append_nil]
    rfl

theorem Acted.enqueue (h : Acted w v s t) (batch l : Nat) (sc : Scope) (x : Put) :
    ∃ v', Acted w v' s (t.enqueue w batch [l] acc sc x.1 x.2.1 x.2.2) := by
  have hp (n : Nat) : Acted w v s (t.fresh.2.placeTx w.core x.1 n) := by
    cases x.1 with
    | glob _ => exact h.outside rfl rfl
    | loc _ _ => exact h.outside rfl rfl
  rw [State.enqueue_eq]
  exact ((hp _).modStores w.core _).noteWrite l ..

/-- The queue of a page's stores lies at the page's scope. -/
theorem Xlate.scope_eq (y : Xlate) (pasid va : Nat) (sc : Scope) : y.scope sc = (Place.glob (y.target pasid va)).scope sc := by
  unfold Xlate.scope Xlate.target
  match y.tgt with
  | 0 => rfl
  | 1 => rfl
  | n + 2 => rfl

/-- The pieces of a lane's store join the queue in order. -/
theorem Acted.enqueuePieces (h : Acted w v s t) (q : Queued w acc xs s t) (batch l : Nat) (ps : List Piece) (bs : List (Byte × Byte)) :
    ∃ v', Acted w v' s (t.enqueuePieces w batch [l] acc ps bs) ∧
      Queued w acc (xs ++ (s.puts w.b.ctx ps bs).map fun x => ([l], x)) s (t.enqueuePieces w batch [l] acc ps bs) := by
  induction ps generalizing v t xs bs with
  | nil => exact ⟨v, h, by rw [State.puts, List.map_nil, List.append_nil]; exact q⟩
  | cons p ps ih =>
    have hctx : t.ctx w.ctx = s.ctx w.b.ctx := by rw [← h.rest]; rfl
    have hirr : t.irrevPage w.ctx p.x = s.irrevPage w.b.ctx p.x := by rw [← h.rest]; rfl
    have hleg : t.legOf w.ctx = s.legOf w.b.ctx := by rw [← h.rest]; rfl
    let x : Put := (.glob (p.x.target (s.ctx w.b.ctx).pasid.toNat p.va), .bytes (bs.take p.n), s.irrevPage w.b.ctx p.x)
    obtain ⟨v', h'⟩ := h.enqueue (acc := acc) batch l (p.x.scope acc.scope) x
    have q' := q.snoc (e := t.laneStore w batch l acc (p.x.scope acc.scope) x) (l := l) (x := x)
      ⟨rfl, rfl, rfl, Xlate.scope_eq .., rfl, hleg, rfl⟩ (t.enqueue_stores w batch l acc _ x)
    obtain ⟨v'', h'', q''⟩ := ih h' q' (bs.drop p.n)
    refine ⟨v'', ?_⟩
    rw [State.enqueuePieces, hctx, hirr, State.puts, List.map_cons, List.append_cons]
    exact ⟨h'', q''⟩

/-- What STX stores of a lane (R294): under an SQ format a half's block is one store by its lowest lane. -/
def State.stxPuts (s : State) (w : Who) (o : StxOp) (g : Word) (l : Nat) (e : Elem) : List Put :=
  let val := fun l => fp32.decode (fp32.flushBits (ftzOf w.g.mode fp32) (w.src l false o.data).toNat)
  if fmtSq e.fmt then
    if l % 16 = 0 then s.puts w.b.ctx e.ps (whole (sqEncode (fmtSqBits e.fmt) (rndOf w.g.mode)
      ((List.range 16).map fun i => draw g (l + i)) ((List.range 16).map fun i => val (l + i))))
    else []
  else s.puts w.b.ctx e.ps (elemBytes w.g.mode (draw g l) e.fmt e.within (w.src l false o.data))

theorem Acted.stxLane {o : StxOp} (h : Acted w v s t) (q : Queued w o.acc xs s t) (batch : Nat) (g : Word) (l : Nat) (e : Elem) :
    ∃ v', Acted w v' s (t.stxLane w batch o g l e) ∧
      Queued w o.acc (xs ++ (s.stxPuts w o g l e).map fun x => ([l], x)) s (t.stxLane w batch o g l e) := by
  unfold State.stxLane State.stxPuts
  dsimp only
  split
  · by_cases hl : l % 16 = 0
    · rw [if_pos hl, if_neg (by simp [hl])]
      exact h.enqueuePieces q ..
    · rw [if_neg hl, if_pos (by simp [hl]), List.map_nil, List.append_nil]
      exact ⟨v, h, q⟩
  · exact h.enqueuePieces q ..

theorem Acted.stxLanes {o : StxOp} (h : Acted w v s t) (q : Queued w o.acc xs s t) (batch : Nat) (g : Word) (es : List (Nat × Elem)) :
    ∃ v', Acted w v' s (es.foldl (fun s x => s.stxLane w batch o g x.1 x.2) t) ∧
      Queued w o.acc (xs ++ es.flatMap fun x => (s.stxPuts w o g x.1 x.2).map fun y => ([x.1], y)) s
        (es.foldl (fun s x => s.stxLane w batch o g x.1 x.2) t) := by
  induction es generalizing v t xs with
  | nil => exact ⟨v, h, by rw [List.flatMap_nil, List.append_nil]; exact q⟩
  | cons x es ih =>
    obtain ⟨v', h', q'⟩ := h.stxLane q batch g x.1 x.2
    obtain ⟨v'', h'', q''⟩ := ih h' q'
    exact ⟨v'', h'', by rw [List.flatMap_cons, ← List.append_assoc]; exact q''⟩

end

/-! ### STX -/

theorem found_map (ls : List Nat) (e : Nat → Elem) : found (ls.map fun l => (l, Except.ok (e l))) = ls.map fun l => (l, e l) := by
  rw [found, List.filterMap_map]
  exact List.filterMap_eq_map ▸ rfl

theorem find?_lane {α : Type} (e : Nat → α) {j : Nat} : ∀ {ls : List Nat}, j ∈ ls →
    (ls.map fun l => (l, e l)).find? (fun x => x.1 == j) = some (j, e j)
  | l :: ls, hj => by
    rw [List.map_cons, List.find?_cons]
    by_cases hl : l = j
    · simp [hl]
    · rw [beq_false_of_ne hl]
      exact find?_lane e ((List.mem_cons.1 hj).resolve_left (Ne.symm hl))

/-- STX has no fault where every lane's element is found, and every half of an SQ block is whole and in lane order. -/
theorem stxFault_none {ls : List Nat} {e : Nat → Elem}
    (hsq : ∀ l ∈ ls, fmtSq (e l).fmt = true → ∀ i, i < 16 →
      l / 16 * 16 + i ∈ ls ∧ (e (l / 16 * 16 + i)).fmt = (e l).fmt ∧ (e (l / 16 * 16 + i)).at_ = (e l).at_ ∧
        (e (l / 16 * 16 + i)).within = i) :
    stxFault (ls.map fun l => (l, Except.ok (e l))) = none := by
  have hs : sqFault (ls.map fun l => (l, e l)) = none := by
    rw [sqFault, Option.map_eq_none_iff, List.find?_eq_none]
    intro x hx
    obtain ⟨l, hl, rfl⟩ := List.mem_map.1 hx
    simp only [Bool.and_eq_true, Bool.not_eq_true', not_and, Bool.not_eq_false]
    intro hf
    rw [sqHalfOk, List.all_eq_true]
    intro i hi
    obtain ⟨hj, h1, h2, h3⟩ := hsq l hl hf i (List.mem_range.1 hi)
    rw [halfOf, find?_lane e hj]
    simp [h1, h2, h3]
  unfold stxFault
  rw [found_map, hs]
  dsimp only
  rw [List.findSome?_eq_none_iff]
  intro x hx
  obtain ⟨l, -, rfl⟩ := List.mem_map.1 hx
  rfl

/-- The generator's number for STX, drawn under stochastic rounding alone. -/
def State.stxGen (s : State) (w : Who) : Word × State := if rndOf w.g.mode = 4 then s.issueGen w else (0, s)

theorem Touched.stxGen {s t : State} (h : Touched s t) (w : Who) : (t.stxGen w).1 = (s.stxGen w).1 ∧ Touched (s.stxGen w).2 (t.stxGen w).2 := by
  unfold State.stxGen
  split
  · exact h.issueGen w
  · exact ⟨rfl, h⟩

theorem State.issueGen_slots (s : State) (w : Who) (c : Nat) : ((s.issueGen w).2.core c).slots = (s.core c).slots := by
  have hm (s : State) (F : List Part → List Part) :
      ((s.modCore w.core fun k => { k with parts := F k.parts }).core c).slots = (s.core c).slots := by
    rw [State.core_modCore]
    split
    · next e => rw [e]
    · rfl
  have ha : ((s.advanceGen w.core w.part w.ctx).2.core c).slots = (s.core c).slots := hm s fun P => listSet P w.part _
  unfold State.issueGen
  split
  · exact ha
  · split
    · rfl
    · exact (hm _ fun P => listMod P w.part _).trans ha

theorem Issues.stxGen {s : State} {w : Who} (h : Issues s w) : Issues (s.stxGen w).2 w := by
  refine ⟨?_, h.group, h.ig, h.inRange⟩
  rw [← h.block, State.block, State.block]
  unfold State.stxGen
  split
  · rw [State.issueGen_slots]
  · rfl

section
variable {o : StxOp} {s : State} {w : Who} {e : Nat → Elem} (hw : s.issuer = some w)
  (hr : Readable w (w.active o.h.g) (baseReads true o.base ++ vr32 o.data ++ vr32 o.idx) []) (hb : badMark storeMarks o.acc = false)
  (he : ∀ l, (w.active o.h.g).getLsbD l = true →
    s.elem w l (needOf false true o.acc.dom) (rank o.acc.dom) o.ty (w.base l true o.base) (w.src l false o.idx).toNat = .ok (e l))
  (hsq : ∀ l, (w.active o.h.g).getLsbD l = true → fmtSq (e l).fmt = true → ∀ i, i < 16 →
    let j := l / 16 * 16 + i
    (w.active o.h.g).getLsbD j = true ∧ (e j).fmt = (e l).fmt ∧ (e j).at_ = (e l).at_ ∧ (e j).within = i)
include hw hr hb he hsq

theorem execStx_eq : ∃ t, Touched s t ∧ exec (.stx o) s =
    .next ((((lanesOf (w.active o.h.g)).map fun l => (l, e l)).foldl
      (fun u x => u.stxLane w (t.stxGen w).2.nextId o (t.stxGen w).1 x.1 x.2) (t.stxGen w).2).skip w o.h.k) := by
  refine ⟨_, State.touchLanes_touched s w (w.active o.h.g) fun s l => s.elemTouch w l (w.base l true o.base) (w.src l false o.idx).toNat, ?_⟩
  show execStx o s = _
  rw [execStx, hb, State.accessAt_readable hw hr (a := fun l => .ok (e l)) fun l hl => by rw [he l hl]]
  rw [stxFault_none fun l hl hf i hi => ?_, found_map]
  · rfl
  · have h := hsq l ((mem_lanesOf _ _).1 hl) hf i hi
    exact ⟨(mem_lanesOf _ _).2 h.1, h.2⟩

end

/-- Settles O24: the lanes' pieces join the queue in lane order (`Acted.stxLanes`), after the translations that the lanes make and the
generator's advance, which the translations leave as it is (`Touched.stxGen`). -/
theorem storeConverted : Obligations.StoreConverted := by
  intro o s w e hw hr hb he hsq val
  have hi := State.issuer_spec hw
  obtain ⟨t, ht, hexec⟩ := execStx_eq hw hr hb he hsq
  obtain ⟨hg, ht0⟩ := ht.stxGen w
  obtain ⟨v, ha, hq⟩ := (ht0.acted hi.stxGen).stxLanes (o := o) (xs := []) ht0.queued (t.stxGen w).2.nextId (t.stxGen w).1
    ((lanesOf (w.active o.h.g)).map fun l => (l, e l))
  refine ⟨(s.stxGen w).1, (s.stxGen w).2, v, _, _, ?_, ?_, hexec, ha.issues.noResult ha.order.place ha.order.gen o.h.k⟩
  · unfold State.stxGen
    split <;> rfl
  · have hen := ha.enqueued hq
    rw [List.nil_append, List.flatMap_map, hg] at hen
    rw [hg]
    exact hen

end Sys2Proof.Machine

end

section

/-! # The words of an atomic -/

namespace Sys2Proof.Machine

/-! ### Numbers in memory -/

theorem Memory.writeMasked_whole (m : Memory) (a : Nat) (bs : List Byte) : Memory.writeMasked m a (whole bs) = Memory.writeN m a bs := by
  induction bs generalizing m a with
  | nil => rfl
  | cons b bs ih =>
    have hb : (b &&& 0xFF) ||| (m.read a &&& ~~~(0xFF : Byte)) = b := by
      rw [show ~~~(0xFF : Byte) = 0 from rfl, show (0xFF : Byte) = BitVec.allOnes 8 from rfl, BitVec.and_allOnes]
      simp
    show Memory.writeMasked (m.write a _) (a + 1) (whole bs) = Memory.writeN (m.write a b) (a + 1) bs
    rw [hb, ih]

theorem length_leBytes (n x : Nat) : (leBytes n x).length = n := by
  induction n generalizing x with
  | zero => rfl
  | succ n ih => exact congrArg (· + 1) (ih _)

theorem leNat_leBytes (n x : Nat) : leNat (leBytes n x) = x % 256 ^ n := by
  induction n generalizing x with
  | zero => simp [leBytes, leNat, Nat.mod_one]
  | succ n ih =>
    rw [leBytes, leNat, ih, BitVec.toNat_ofNat, show 256 ^ (n + 1) = 256 * 256 ^ n from Nat.pow_succ', Nat.mod_mul]

theorem leNat_lt (bs : List Byte) : leNat bs < 256 ^ bs.length := by
  induction bs with
  | nil => exact Nat.one_pos
  | cons b bs ih =>
    have hb := b.isLt
    rw [leNat, List.length_cons, Nat.pow_succ']
    omega

theorem Memory.length_readN (m : Memory) (a n : Nat) : (Memory.readN m a n).length = n := by
  induction n generalizing a with
  | zero => rfl
  | succ n ih => exact congrArg (· + 1) (ih _)

theorem two_pow_eight_mul (n : Nat) : 2 ^ (8 * n) = 256 ^ n := by
  rw [Nat.pow_mul]

/-- A word of memory, of eight bytes at most, as a number. -/
theorem Memory.toNat_word {n : Nat} (hn : n ≤ 8) (m : Memory) (a : Nat) : (dw (leNat (Memory.readN m a n))).toNat = leNat (Memory.readN m a n) := by
  have h := leNat_lt (Memory.readN m a n)
  have hp : 256 ^ n ≤ 256 ^ 8 := Nat.pow_le_pow_right (by decide) hn
  rw [Memory.length_readN] at h
  rw [dw, BitVec.toNat_ofNat, Nat.mod_eq_of_lt (by omega)]

theorem Memory.leNat_readN_lt (m : Memory) (a n : Nat) : leNat (Memory.readN m a n) < 2 ^ (8 * n) := by
  have h := leNat_lt (Memory.readN m a n)
  rwa [Memory.length_readN, ← two_pow_eight_mul] at h

/-! ### The three memories of an atomic's words -/

/-- Device memory, host memory, and the local memory of the issuer's block. -/
structure Mems where
  dev : Memory
  host : Memory
  loc : Memory

/-- The memory of a place. -/
def Mems.of (m : Mems) : Place → Memory
  | .glob (.dev _) => m.dev
  | .glob _ => m.host
  | .loc .. => m.loc

/-- The word at a place. -/
def Mems.word (m : Mems) (n : Nat) (p : Place) : Dword := dw (leNat (Memory.readN (m.of p) p.addr n))

/-- A word written at a place; nothing is written at a peer's device. -/
def Mems.put (m : Mems) (n : Nat) (p : Place) (v : Dword) : Mems :=
  match p with
  | .glob (.dev a) => { m with dev := Memory.writeN m.dev a (leBytes n v.toNat) }
  | .glob (.host a) => { m with host := Memory.writeN m.host a (leBytes n v.toNat) }
  | .glob (.mmio _) => m
  | .loc _ a => { m with loc := Memory.writeN m.loc a (leBytes n v.toNat) }

/-- The words that were written, put in the order of a list. -/
def Mems.puts (m : Mems) (n : Nat) (ws : List AWord) : Mems := ws.foldl (fun m x => if x.wrote then m.put n x.place x.value else m) m

/-- Memory, and not a peer's device: of local memory, the issuer's slot. -/
def Place.stored (slot : Nat) : Place → Prop
  | .glob (.mmio _) => False
  | .glob _ => True
  | .loc s _ => s = slot

/-- The memory of a place, once a word is put: as it was, or with the word written. -/
theorem Mems.of_put (m : Mems) (n : Nat) (p q : Place) (v : Dword) :
    (m.put n p v).of q = m.of q ∨ (m.put n p v).of q = Memory.writeN (m.of q) p.addr (leBytes n v.toNat) := by
  rcases p with (a | a | a) | ⟨s, a⟩ <;> rcases q with (b | b | b) | ⟨s', b⟩
  case glob.dev.glob.dev | glob.host.glob.host | glob.host.glob.mmio | loc.loc => exact .inr rfl
  all_goals exact .inl rfl

theorem Mems.wf_put {m : Mems} {q : Place} (h : (m.of q).wf = true) (n : Nat) (p : Place) (v : Dword) : ((m.put n p v).of q).wf = true := by
  rcases m.of_put n p q v with e | e <;> rw [e]
  · exact h
  · exact Memory.wf_writeN _ _ _ h

/-- A byte after a word was put: of another memory, or outside the word, it stands. -/
theorem Mems.read_put_of_not {m : Mems} {n : Nat} {p q : Place} (h : (m.of q).wf = true) (v : Dword) {x : Nat}
    (hx : (m.put n p v).of q = m.of q ∨ x < p.addr ∨ p.addr + n ≤ x) : ((m.put n p v).of q).read x = (m.of q).read x := by
  rcases hx with hx | hx
  · rw [hx]
  · rcases m.of_put n p q v with e | e <;> rw [e]
    rw [Memory.read_writeN _ _ _ _ h, length_leBytes, if_neg (by omega)]

theorem Mems.word_put_same {m : Mems} {n slot : Nat} {p : Place} (h : (m.of p).wf = true) (hp : p.stored slot) (hn : n ≤ 8) (v : Dword) :
    ((m.put n p v).word n p).toNat = v.toNat % 2 ^ (8 * n) := by
  have hr (m : Memory) (a : Nat) (hm : m.wf = true) :
      (dw (leNat (Memory.readN (Memory.writeN m a (leBytes n v.toNat)) a n))).toNat = v.toNat % 2 ^ (8 * n) := by
    have he := Memory.readN_writeN m a (leBytes n v.toNat) hm
    rw [length_leBytes] at he
    rw [Memory.toNat_word hn, he, leNat_leBytes, two_pow_eight_mul]
  rcases p with (a | a | a) | ⟨s, a⟩
  · exact hr _ _ h
  · exact hr _ _ h
  · exact hp.elim
  · exact hr _ _ h

/-- A write at `p` leaves the memory of `q`. -/
def Place.outside (p q : Place) : Prop := ∀ (m : Mems) (n : Nat) (v : Dword), (m.put n p v).of q = m.of q

/-- Words that do not meet lie in two memories, or apart in one. -/
theorem outside_or_apart {n slot : Nat} {p q : Place} (hp : p.stored slot) (hq : q.stored slot) (h : placesMeet p n q n = false) :
    p.outside q ∨ p.addr + n ≤ q.addr ∨ q.addr + n ≤ p.addr := by
  have hr (a b : Nat) (h : runsMeet a n b n = false) : a + n ≤ b ∨ b + n ≤ a := by
    simp only [runsMeet, Bool.and_eq_false_iff, decide_eq_false_iff_not] at h
    omega
  rcases p with (a | a | a) | ⟨s, a⟩ <;> rcases q with (b | b | b) | ⟨s', b⟩
  case glob.dev.glob.dev => exact .inr (hr a b h)
  case glob.host.glob.host => exact .inr (hr a b h)
  case glob.host.glob.mmio => exact hq.elim
  case glob.mmio.glob.mmio => exact hp.elim
  case loc.loc =>
    have hs : (s == s') = true := beq_iff_eq.2 (Eq.trans hp (Eq.symm hq))
    exact .inr (hr a b (by simpa [placesMeet, hs] using h))
  all_goals exact .inl fun _ _ _ => rfl

section
variable {n slot : Nat} (hn : n ≤ 8)

theorem Mems.wf_puts {m : Mems} {q : Place} (h : (m.of q).wf = true) (n : Nat) (ws : List AWord) : ((m.puts n ws).of q).wf = true :=
  List.foldlRecOn ws _ (motive := fun m : Mems => (m.of q).wf = true) h fun m hm x _ => by
    split
    · exact Mems.wf_put hm ..
    · exact hm

/-- Words of other memories change nothing. -/
theorem Mems.of_puts (m : Mems) (n : Nat) {ws : List AWord} {q : Place} (h : ∀ x ∈ ws, x.place.outside q) : (m.puts n ws).of q = m.of q :=
  List.foldlRecOn ws _ (motive := fun u : Mems => u.of q = m.of q) rfl fun u hu x hx => by
    split
    · exact (h x hx u n _).trans hu
    · exact hu

/-- A byte that lies in none of the words stands. -/
theorem Mems.read_puts {m : Mems} {q : Place} (h : (m.of q).wf = true) {ws : List AWord} {a : Nat}
    (ha : ∀ x ∈ ws, x.place.outside q ∨ a < x.place.addr ∨ x.place.addr + n ≤ a) : ((m.puts n ws).of q).read a = (m.of q).read a := by
  induction ws generalizing m with
  | nil => rfl
  | cons x ws ih =>
    have hx := ha x List.mem_cons_self
    have hstep : ((if x.wrote then m.put n x.place x.value else m).of q).read a = (m.of q).read a := by
      split
      · exact Mems.read_put_of_not h _ (hx.imp_left fun hx => hx _ _ _)
      · rfl
    have hwf : ((if x.wrote then m.put n x.place x.value else m).of q).wf = true := Mems.wf_puts h n [x]
    exact (ih hwf fun y hy => ha y (List.mem_cons_of_mem _ hy)).trans hstep

/-- A word that meets none of the words stands. -/
theorem Mems.word_puts_other {m : Mems} {q : Place} (h : (m.of q).wf = true) {ws : List AWord} (hq : q.stored slot)
    (hs : ∀ x ∈ ws, x.place.stored slot ∧ placesMeet x.place n q n = false) : (m.puts n ws).word n q = m.word n q := by
  rw [Mems.word, Mems.word, Memory.readN_congr n q.addr fun a ha hlt => Mems.read_puts h fun x hx => ?_]
  obtain ⟨hp, hm⟩ := hs x hx
  exact (outside_or_apart hp hq hm).imp_right fun hm => by omega

include hn in
/-- What the words hold in the end. -/
theorem Mems.word_puts {m : Mems} {ws : List AWord} (h : ∀ x ∈ ws, (m.of x.place).wf = true) (hs : ∀ x ∈ ws, x.place.stored slot)
    (hp : ws.Pairwise fun x y => placesMeet x.place n y.place n = false ∧ placesMeet y.place n x.place n = false) {x : AWord} (hx : x ∈ ws) :
    ((m.puts n ws).word n x.place).toNat = if x.wrote then x.value.toNat % 2 ^ (8 * n) else (m.word n x.place).toNat := by
  induction ws generalizing m with
  | nil => cases hx
  | cons y ws ih =>
    obtain ⟨hy, hws⟩ := List.pairwise_cons.1 hp
    have hsy := hs y List.mem_cons_self
    have hwf (x : AWord) (hx : x ∈ y :: ws) : ((if y.wrote then m.put n y.place y.value else m).of x.place).wf = true :=
      Mems.wf_puts (h x hx) n [y]
    show (((if y.wrote then m.put n y.place y.value else m).puts n ws).word n x.place).toNat = _
    rcases List.mem_cons.1 hx with rfl | hxm
    · rw [Mems.word_puts_other (hwf x hx) hsy fun z hz => ⟨hs z (List.mem_cons_of_mem _ hz), (hy z hz).2⟩]
      split
      · exact Mems.word_put_same (h x hx) hsy hn _
      · rfl
    · rw [ih (fun z hz => hwf z (List.mem_cons_of_mem _ hz)) (fun z hz => hs z (List.mem_cons_of_mem _ hz)) hws hxm]
      have hsame : (if y.wrote then m.put n y.place y.value else m).word n x.place = m.word n x.place :=
        Mems.word_puts_other (h x hx) (ws := [y]) (hs x hx) fun z hz => by
          rw [List.mem_singleton.1 hz]
          exact ⟨hsy, (hy x hxm).1⟩
      rw [hsame]

end

/-! ### The lanes on their words (R64, R300) -/

/-- The words that lanes `done` have operated on: each holds what they made of the value found. -/
structure Worked (w : Who) (o : AtomOp) (p : Nat → Place) (val : Place → Dword) (done : List Nat) (ws : List AWord) : Prop where
  value : ∀ x ∈ ws, x.value = w.atomAfter o (done.filter fun j => p j == x.place) (val x.place)
  unwritten : ∀ x ∈ ws, x.wrote = false → x.value = val x.place

section
variable {w : Who} {o : AtomOp} {p : Nat → Place} {val : Place → Dword} {done : List Nat} {ws : List AWord}

theorem atomAfter_snoc (ls : List Nat) (l : Nat) (x : Dword) : w.atomAfter o (ls ++ [l]) x =
    (atomNew o.op o.ty (w.atomAfter o ls x) (w.atomArgs l o.ty o.arg).1 (w.atomArgs l o.ty o.arg).2).getD (w.atomAfter o ls x) := by
  rw [Who.atomAfter, List.foldl_append]
  rfl

/-- What a lane makes of a word. -/
theorem atomAfter_done_snoc (l : Nat) (q : Place) (x : Dword) :
    w.atomAfter o ((done ++ [l]).filter fun j => p j == q) x =
      let y := w.atomAfter o (done.filter fun j => p j == q) x
      if p l = q then (atomNew o.op o.ty y (w.atomArgs l o.ty o.arg).1 (w.atomArgs l o.ty o.arg).2).getD y else y := by
  rw [List.filter_append]
  by_cases hq : p l = q
  · rw [List.filter_cons_of_pos (by simpa using hq), List.filter_nil, atomAfter_snoc, if_pos hq]
  · rw [List.filter_cons_of_neg (by simpa using hq), List.filter_nil, List.append_nil, if_neg hq]

/-- One lane operates on its word: it returns what it found. -/
theorem Worked.atomLane (h : Worked w o p val done ws) {l : Nat} (hl : p l ∈ ws.map (·.place)) {r : Dword × List AWord}
    (hr : atomLane o.op o.ty ws (p l) (w.atomArgs l o.ty o.arg).1 (w.atomArgs l o.ty o.arg).2 = r) :
    r.1 = w.atomAfter o (done.filter fun j => p j == p l) (val (p l)) ∧ Worked w o p val (done ++ [l]) r.2 ∧
      r.2.map (·.place) = ws.map (·.place) := by
  obtain ⟨x, hx, hxp⟩ := List.mem_map.1 hl
  have hval (y : AWord) (hy : y ∈ ws) (hyp : y.place = p l) : y.value = w.atomAfter o (done.filter fun j => p j == p l) (val (p l)) := by
    rw [h.value y hy, hyp]
  cases hf : ws.find? (fun y => y.place == p l) with
  | none => exact absurd (List.find?_eq_none.1 hf x hx) (by simp [hxp])
  | some x =>
    have hxm := List.mem_of_find?_eq_some hf
    have hxp : x.place = p l := by simpa using List.find?_some hf
    have hx := hval x hxm hxp
    rw [Machine.atomLane, hf] at hr
    dsimp only at hr
    cases hn : atomNew o.op o.ty x.value (w.atomArgs l o.ty o.arg).1 (w.atomArgs l o.ty o.arg).2 with
    | none =>
      rw [hn] at hr
      subst hr
      refine ⟨hx, ⟨fun y hy => ?_, h.unwritten⟩, rfl⟩
      rw [atomAfter_done_snoc]
      dsimp only
      split
      · next hq => rw [← h.value y hy, hval y hy hq.symm, ← hx, hn, Option.getD_none]
      · exact h.value y hy
    | some v =>
      rw [hn] at hr
      subst hr
      refine ⟨hx, ⟨fun y hy => ?_, fun y hy hw => ?_⟩, ?_⟩
      · obtain ⟨z, hz, rfl⟩ := List.mem_map.1 hy
        rw [atomAfter_done_snoc]
        by_cases hq : z.place = p l
        · rw [if_pos (by simpa using hq)]
          dsimp only
          rw [if_pos hq.symm, ← h.value z hz, hval z hz hq, ← hx, hn, Option.getD_some]
        · rw [if_neg (by simpa using hq)]
          dsimp only
          rw [if_neg (Ne.symm hq), h.value z hz]
      · obtain ⟨z, hz, rfl⟩ := List.mem_map.1 hy
        by_cases hq : z.place = p l
        · rw [if_pos (by simpa using hq)] at hw
          cases hw
        · rw [if_neg (by simpa using hq)] at hw ⊢
          exact h.unwritten z hz hw
      · rw [List.map_map]
        refine List.map_congr_left fun z _ => ?_
        simp only [Function.comp_apply]
        split <;> rfl

/-- The lanes that have operated before lane `l`, of lanes in ascending order. -/
theorem filter_before {done ls : List Nat} {l : Nat} (hs : (done ++ l :: ls).Pairwise (· < ·)) (f : Nat → Bool) :
    (done ++ l :: ls).filter (fun j => decide (j < l) && f j) = done.filter f := by
  obtain ⟨-, hls, hd⟩ := List.pairwise_append.1 hs
  have hnone : (l :: ls).filter (fun j => decide (j < l) && f j) = [] := by
    refine List.filter_eq_nil_iff.2 fun j hj => ?_
    have hle : l ≤ j := by
      rcases List.mem_cons.1 hj with rfl | hj
      · exact Nat.le_refl _
      · exact Nat.le_of_lt ((List.pairwise_cons.1 hls).1 j hj)
    simp [Nat.not_lt.2 hle]
  rw [List.filter_append, hnone, List.append_nil]
  refine List.filter_congr fun j hj => ?_
  rw [decide_eq_true (hd j hj l List.mem_cons_self), Bool.true_and]

/-- All lanes operate on their words, in ascending order. -/
theorem Worked.atomLanes (h : Worked w o p val done ws) {ls : List Nat} (hs : (done ++ ls).Pairwise (· < ·))
    (hl : ∀ l ∈ ls, p l ∈ ws.map (·.place)) {r : List (Nat × Dword) × List AWord}
    (hr : atomLanes o.op o.ty (ls.map fun l => (l, p l, (w.atomArgs l o.ty o.arg).1, (w.atomArgs l o.ty o.arg).2)) ws = r) :
    r.1 = ls.map (fun l => (l, w.atomAfter o ((done ++ ls).filter fun j => decide (j < l) && p j == p l) (val (p l)))) ∧
      Worked w o p val (done ++ ls) r.2 ∧ r.2.map (·.place) = ws.map (·.place) := by
  induction ls generalizing done ws r with
  | nil =>
    subst hr
    rw [List.append_nil]
    exact ⟨rfl, h, rfl⟩
  | cons l ls ih =>
    obtain ⟨h1, h2, h3⟩ := h.atomLane (hl l List.mem_cons_self) rfl
    have hs' : (done ++ [l] ++ ls).Pairwise (· < ·) := by rwa [List.append_assoc]
    obtain ⟨i1, i2, i3⟩ := ih h2 hs' (fun j hj => h3 ▸ hl j (List.mem_cons_of_mem _ hj)) rfl
    subst hr
    rw [List.append_cons]
    refine ⟨(congrArg₂ (fun a b => (l, a) :: b) h1 i1).trans ?_, i2, i3.trans h3⟩
    rw [List.map_cons, ← List.append_cons, filter_before hs]

end

end Sys2Proof.Machine

end

section

/-! # What an atomic does on its words, and beside them -/

namespace Sys2Proof.Machine

/-! ### What an atomic does beside its words -/

/-- Of the machine, only what the caches, the marks and the counters hold may differ, and no core. -/
def Beside (s t : State) : Prop := CachesRest s t ∧ t.cores = s.cores

theorem Beside.refl (s : State) : Beside s s := ⟨rfl, rfl⟩

theorem Beside.trans {s t u : State} (h : Beside s t) (h' : Beside t u) : Beside s u := ⟨h.1.trans h'.1, h'.2.trans h.2⟩

theorem foldl_beside {α : Type} {f : State → α → State} (hf : ∀ s x, Beside s (f s x)) (l : List α) (s : State) : Beside s (l.foldl f s) :=
  List.foldlRecOn l f (motive := Beside s) (.refl s) fun _ ht x _ => ht.trans (hf _ x)

section
variable (s : State)

theorem State.bump_beside (off n : Nat) : Beside s (s.bump off n) := ⟨rfl, rfl⟩
theorem State.fresh_beside : Beside s s.fresh.2 := ⟨rfl, rfl⟩
theorem State.arriveAt_beside (pos : Nat) (f : Inval → Bool) : Beside s (s.arriveAt pos f) := ⟨rfl, rfl⟩
theorem State.acquire_beside (me : Agent) (d : Dom) (sc : Scope) : Beside s (s.acquire me d sc) := ⟨rfl, rfl⟩
theorem State.invalidate_beside (own src store keys tctx) : Beside s (s.invalidate own src store keys tctx) := ⟨rfl, rfl⟩
theorem State.putMark_beside (m : Mark) (atomic : Bool) : Beside s (s.putMark m atomic).2 := ⟨rfl, rfl⟩
theorem State.updateL1_beside (core : Nat) (t : Tgt) (bs : List (Byte × Byte)) (m : Mark) : Beside s (s.updateL1 core t bs m) := by
  refine foldl_beside (fun u key => ?_) _ s
  exact ⟨rfl, rfl⟩
theorem State.afterStore_beside (d : Dom) (id : Nat) : Beside s (s.afterStore d id) := by
  unfold State.afterStore
  split
  · exact ⟨rfl, rfl⟩
  · exact .refl s
theorem State.placeAtomic_beside (core : Nat) (p : Place) (n : Nat) : Beside s (s.placeAtomic core p n) := by
  have ht (s : State) (t : Tgt) : Beside s (s.txTo core t n) := s.bump_beside ..
  have hr (s : State) (t : Tgt) : Beside s (s.rxCore core t n) := s.bump_beside ..
  have hh (s : State) (t : Tgt) : Beside s (s.rxHome core t n) := by
    unfold State.rxHome
    split
    · exact s.bump_beside ..
    · exact .refl s
  cases p with
  | glob t => exact ((ht s t).trans (hh _ t)).trans (hr _ t)
  | loc _ _ => exact .refl s

/-- A read at the home, of a context in no domain, with no word gathered in the CU. -/
theorem State.coreRead_of_plain (hcu : s.cu = []) (core c : Nat) (hd : (s.ctx c).domain = none) (m : Mems) (hm : s.mem = m.dev)
    (hh : s.hmem = m.host) {t : Tgt} (ht : (Place.glob t).stored 0) (n : Nat) :
    (s.coreRead core c t n).1 = Memory.readN (m.of (.glob t)) (Place.glob t).addr n ∧ Beside s (s.coreRead core c t n).2 := by
  have ha : Beside s ((sectorKeys t n).foldl (fun s key => s.arriveAt (s.l1Pos core key) fun i => i.sector == key) s) :=
    foldl_beside (fun s _ => s.arriveAt_beside ..) _ s
  unfold State.coreRead
  dsimp only
  generalize (sectorKeys t n).foldl (fun s key => s.arriveAt (s.l1Pos core key) fun i => i.sector == key) s = u at ha ⊢
  have hr := ha.1
  have hucu : u.cu = [] := by rw [← hcu, ← hr]
  have hud : (u.ctx c).domain = none := by
    rw [← hd, ← hr]
    rfl
  have hum : u.mem = m.dev := by rw [← hm, ← hr]
  have huh : u.hmem = m.host := by rw [← hh, ← hr]
  rw [State.homeRead, hud]
  cases t with
  | dev pa =>
    rw [State.readFor, State.mergeLine_of_none hucu]
    exact ⟨congrArg (Memory.readN · pa n) hum, ha⟩
  | host a => exact ⟨congrArg (Memory.readN · a n) huh, ha⟩
  | mmio a => exact ht.elim

end

/-! ### The words are read, worked on and written -/

/-- The issuer with the local memory of its block replaced. -/
def Who.withMem (w : Who) (x : Memory) : Who := w.withBlock { w.b with mem := x }

/-- The state with device and host memory replaced. -/
def State.withMems (s : State) (m : Mems) : State := { s with mem := m.dev, hmem := m.host }

/-- The issuer `w` has acted on `s`, whose memories and whose local memory are now `m`, and stands in `t` as `v`; no queue has changed. -/
structure ActedOn (w v : Who) (m : Mems) (s t : State) : Prop where
  acted : Acted (w.withMem m.loc) v (s.withMems m) t
  stores : ∀ c, (t.core c).stores = (s.core c).stores

/-- A word that the issuer reaches: memory that admits its context, which is in no domain, and of which the CU has gathered nothing. -/
def Place.Reached (s : State) (w : Who) (p : Place) : Prop :=
  p.stored w.slot ∧ match p with
    | .glob t => s.admitsTgt w.ctx t = true ∧ s.cu = [] ∧ (s.ctx w.ctx).domain = none
    | .loc .. => True

theorem CachesRest.reached {s t : State} (h : CachesRest s t) {w : Who} {p : Place} (hp : p.Reached s w) : p.Reached t w := by
  obtain ⟨hs, hp⟩ := hp
  refine ⟨hs, ?_⟩
  cases p with
  | glob u =>
    obtain ⟨ha, hc, hd⟩ := hp
    have hadm : t.admitsTgt w.ctx u = s.admitsTgt w.ctx u := by
      rw [← h]
      cases u <;> rfl
    have hcu : t.cu = s.cu := by rw [← h]
    have hdom : (t.ctx w.ctx).domain = (s.ctx w.ctx).domain := by
      rw [← h]
      rfl
    exact ⟨hadm.trans ha, hcu.trans hc, hdom.trans hd⟩
  | loc k a => trivial

section
variable {w : Who} {n : Nat} {m : Mems}

/-- The words as they are found. -/
theorem State.readWords_spec (hl : w.b.mem = m.loc) (ps : List Place) {t : State} (hm : t.mem = m.dev) (hh : t.hmem = m.host)
    (hp : ∀ p ∈ ps, p.Reached t w) {r : List AWord × State} (hr : t.readWords w n ps = r) :
    r.1.map (fun x => (x.place, x.value, x.wrote)) = ps.map (fun p => (p, m.word n p, false)) ∧ Beside t r.2 := by
  induction ps generalizing t r with
  | nil =>
    subst hr
    exact ⟨rfl, .refl t⟩
  | cons p ps ih =>
    obtain ⟨hst, hre⟩ := hp p List.mem_cons_self
    have hnext {u : State} (hu : Beside t u) := ih (t := u) (by rw [← hm, ← hu.1]) (by rw [← hh, ← hu.1])
      (fun q hq => hu.1.reached (hp q (List.mem_cons_of_mem _ hq))) rfl
    cases p with
    | glob u =>
      obtain ⟨ha, hc, hd⟩ := hre
      have hst' : (Place.glob u).stored 0 := by cases u <;> exact hst
      obtain ⟨hv, hb⟩ := t.coreRead_of_plain hc w.core w.ctx hd m hm hh hst' n
      obtain ⟨h1, h2⟩ := hnext hb
      subst hr
      unfold State.readWords
      dsimp only
      rw [if_pos ha]
      refine ⟨?_, hb.trans h2⟩
      rw [List.map_cons, List.map_cons, ← h1, hv]
      rfl
    | loc k a =>
      obtain ⟨h1, h2⟩ := hnext (.refl t)
      subst hr
      unfold State.readWords
      refine ⟨?_, h2⟩
      rw [List.map_cons, List.map_cons, ← h1, hl]
      rfl

/-- Nothing of a context in no domain is logged. -/
theorem State.logWords_of_reached {t : State} (ws : List AWord) (hw : ∀ x ∈ ws, x.place.Reached t w) : t.logWords w n ws = (some t, t) := by
  induction ws with
  | nil => rfl
  | cons x ws ih =>
    have ih := ih fun y hy => hw y (List.mem_cons_of_mem _ hy)
    obtain ⟨-, hre⟩ := hw x List.mem_cons_self
    rw [State.logWords]
    split
    · next pa _ hp =>
      rw [hp] at hre
      obtain ⟨ha, -, hd⟩ := hre
      rw [if_pos (show t.homeAdmits w.ctx pa = true from ha), State.logWrite, State.logFor, State.maker]
      simp only [hd, ih]
    · exact ih

end

theorem State.stores_setBlock (s : State) (c k : Nat) (b : Block) (i : Nat) : ((s.setBlock c k b).core i).stores = (s.core i).stores := by
  rw [State.setBlock, State.core_modCore]
  split
  · next e => rw [e]
  · rfl

section
variable {w v : Who} {m : Mems} {s t : State}

theorem ActedOn.beside (h : ActedOn w v m s t) {u : State} (hu : Beside t u) : ActedOn w v m s u where
  acted := h.acted.outside hu.1 hu.2
  stores := fun c => by
    rw [← h.stores, State.core, hu.2]
    rfl

theorem ActedOn.mems (h : ActedOn w v m s t) : t.mem = m.dev ∧ t.hmem = m.host ∧ v.b.mem = m.loc := by
  have hr := h.acted.rest
  have hb := h.acted.order.block.1
  exact ⟨(congrArg State.mem hr : _), (congrArg State.hmem hr : _), (congrArg Block.mem hb : _)⟩

theorem ActedOn.reached (h : ActedOn w v m s t) {p : Place} (hp : p.Reached s w) : p.Reached t w :=
  h.acted.rest.reached (s := s.withMems m) (by cases p <;> exact hp)

theorem ActedOn.modThread (h : ActedOn w v m s t) (l : Nat) {f : Thread → Thread} (hf : ∀ x, SameOrder x (f x)) :
    ActedOn w (v.modThread l f) m s (t.modGroup w.core w.slot w.grp fun g => g.modThread l f) where
  acted := h.acted.modThread l hf
  stores := fun c => (State.stores_modGroup ..).trans (h.stores c)

/-- What a lane's part of an atomic orders. -/
theorem ActedOn.atomEvents (h : ActedOn w v m s t) (a : Acc) (sc : Scope) (ms : List Mark) (id : Nat) (wrote : Nat → Bool) (ls : List Nat)
    (new : List Rel × List (Agent × List Before) × Bool) : ∃ v', ActedOn w v' m s (t.atomEvents w a sc ms id wrote ls new).2 := by
  induction ls generalizing v t new with
  | nil => exact ⟨v, h⟩
  | cons l ls ih =>
    have hread (ms : List Mark) : ∃ v', ActedOn w v' m s (t.afterRead w a l sc ms) := by
      have hn : ActedOn w _ m s (t.noteRead (w.agent l) a.dom sc (isAcquire a) ms) := h.modThread l fun _ => rfl
      unfold State.afterRead
      dsimp only
      split
      · exact ⟨_, hn.beside (State.acquire_beside ..)⟩
      · exact ⟨_, hn⟩
    unfold State.atomEvents
    dsimp only
    obtain ⟨v1, h1⟩ := hread (if new.2.2 then ms ++ [{ place := .glob (.dev 0), core := 0, len := 0, id := id, rels := new.1, els := new.2.1 }]
      else ms)
    split
    · have h2 : ActedOn w _ m s (State.noteWrite _ (w.agent l) a.dom sc id) := h1.modThread l fun _ => rfl
      exact ih h2 _
    · exact ih h1 _

/-- A word is written in device memory. -/
theorem ActedOn.setDev (h : ActedOn w v m s t) (x : Memory) : ActedOn w v { m with dev := x } s { t with mem := x } := by
  have ha := h.acted
  refine ⟨⟨?_, ha.order, ha.blocks, ha.cores, ha.parts, ha.issues.block, ha.issues.group, ha.issues.ig, ha.issues.inRange⟩, h.stores⟩
  have hr := ha.rest
  unfold CachesRest at hr ⊢
  exact congrArg (fun u : State => { u with mem := x }) hr

/-- A word is written in host memory. -/
theorem ActedOn.setHost (h : ActedOn w v m s t) (x : Memory) : ActedOn w v { m with host := x } s { t with hmem := x } := by
  have ha := h.acted
  refine ⟨⟨?_, ha.order, ha.blocks, ha.cores, ha.parts, ha.issues.block, ha.issues.group, ha.issues.ig, ha.issues.inRange⟩, h.stores⟩
  have hr := ha.rest
  unfold CachesRest at hr ⊢
  exact congrArg (fun u : State => { u with hmem := x }) hr

/-- A word is written in local memory. -/
theorem ActedOn.setLoc (h : ActedOn w v m s t) (x : Memory) :
    ActedOn w { v with b := { v.b with mem := x } } { m with loc := x } s (t.setBlock w.core w.slot { v.b with mem := x }) := by
  have ha := h.acted
  have ho := ha.order
  obtain ⟨hb, hlen, hg⟩ := ho.block
  have hcore (c : Nat) : ∃ y, (t.setBlock w.core w.slot { v.b with mem := x }).core c = { t.core c with slots := y } := by
    rw [State.setBlock, State.core_modCore]
    split
    · next e => exact ⟨_, by rw [e]⟩
    · exact ⟨_, rfl⟩
  have hblocks (c k : Nat) : (t.setBlock w.core w.slot { v.b with mem := x }).block c k =
      if c = w.core ∧ k = w.slot then some { v.b with mem := x } else s.block c k := by
    rw [State.block_setBlock]
    split
    · rfl
    · next e =>
      rw [ha.blocks]
      exact if_neg e
  have hplace : v.core = w.core ∧ v.slot = w.slot := ⟨ho.core, ho.slot⟩
  refine ⟨⟨ha.rest.trans rfl, ⟨?_, ⟨?_, hlen, hg⟩, ho.groups, ho.group, ho.threads⟩, hblocks, fun c => ?_, fun c => ?_, ⟨?_, hg, ha.issues.ig,
    ha.issues.inRange⟩⟩, fun c => (State.stores_setBlock ..).trans (h.stores c)⟩
  · exact congrArg (fun u : Who => { u with b := { w.b with mem := x } }) ho.place
  · exact congrArg (fun b : Block => { b with mem := x }) hb
  · obtain ⟨y, hy⟩ := hcore c
    rw [hy]
    exact ha.cores c
  · obtain ⟨y, hy⟩ := hcore c
    rw [hy]
    exact ha.parts c
  · rw [hplace.1, hplace.2, hblocks, if_pos ⟨rfl, rfl⟩]

/-- A word that an atomic changed is written. -/
theorem ActedOn.writeWord (h : ActedOn w v m s t) {n : Nat} {x : AWord} (hx : x.place.Reached s w) (id : Nat) (d : Dom) (ls : List Nat)
    (rels : List Rel) : ∃ v', ActedOn w v' (m.put n x.place x.value) s (t.writeWord w n id d ls rels x) := by
  obtain ⟨hmem, hhost, hloc⟩ := h.mems
  obtain ⟨hst, hre⟩ := h.reached hx
  unfold State.writeWord
  dsimp only
  generalize x.place = p at hst hre ⊢
  cases p with
  | glob u =>
    obtain ⟨ha, hcu, -⟩ := hre
    have hraw : ActedOn w v (m.put n (.glob u) x.value) s (t.rawWrite u (whole (leBytes n x.value.toNat))) := by
      cases u with
      | dev pa =>
        rw [State.rawWrite_dev_of_none hcu, Memory.writeMasked_whole, hmem]
        exact h.setDev _
      | host a =>
        rw [State.rawWrite, Memory.writeMasked_whole, hhost]
        exact h.setHost _
      | mmio a => exact hst.elim
    dsimp only
    rw [if_pos ha]
    refine ⟨v, hraw.beside ?_⟩
    exact ((State.invalidate_beside ..).trans (State.putMark_beside ..)).trans ((State.updateL1_beside ..).trans (State.afterStore_beside ..))
  | loc k a =>
    obtain rfl : k = w.slot := hst
    have hb := h.acted.issues.block
    rw [h.acted.order.core, h.acted.order.slot] at hb
    have hb : t.block w.core w.slot = some v.b := hb
    have hs := h.setLoc (Memory.writeN m.loc a (leBytes n x.value.toNat))
    dsimp only
    rw [State.modBlock, hb]
    dsimp only
    rw [Memory.writeMasked_whole, hloc]
    exact ⟨_, hs.beside (State.putMark_beside ..)⟩

/-- The words of an atomic take effect. -/
theorem ActedOn.writeWords (h : ActedOn w v m s t) (a : Acc) (n : Nat) (wrote : Nat → Bool) (xs : List (Nat × Place)) (ws : List AWord)
    (hw : ∀ x ∈ ws, x.place.Reached s w) : ∃ v', ActedOn w v' (m.puts n ws) s (t.writeWords w a n wrote xs ws) := by
  induction ws generalizing v m t with
  | nil => exact ⟨v, h⟩
  | cons x ws ih =>
    have ih {v m t} (h : ActedOn w v m s t) := ih h fun y hy => hw y (List.mem_cons_of_mem _ hy)
    obtain ⟨v1, h1⟩ := (h.beside t.fresh_beside).atomEvents a (x.place.scope a.scope) x.marks t.fresh.1 wrote
      ((xs.filter fun y => y.2 == x.place).map (·.1)) ([], [], false)
    obtain ⟨v2, h2⟩ := h1.writeWord (n := n) (hw x List.mem_cons_self) t.fresh.1 a.dom
      (((xs.filter fun y => y.2 == x.place).map (·.1)).filter wrote) (State.atomEvents t.fresh.2 w a (x.place.scope a.scope) x.marks t.fresh.1 wrote
        ((xs.filter fun y => y.2 == x.place).map (·.1)) ([], [], false)).1
    have hstep : ∃ v', ActedOn w v' (if x.wrote then m.put n x.place x.value else m) s (t.writeWords w a n wrote xs [x]) := by
      unfold State.writeWords
      dsimp only [List.foldl_cons, List.foldl_nil]
      by_cases hx : x.wrote = true
      · rw [if_pos hx, if_pos hx]
        exact ⟨v2, h2⟩
      · rw [if_neg hx, if_neg hx]
        exact ⟨v1, h1⟩
    obtain ⟨v3, h3⟩ := hstep
    exact ih h3

end

end Sys2Proof.Machine

end

section

/-! # Slots that forget their bank requests -/

namespace Sys2Proof.Machine

/-! ### Finishing a slot whose bank requests are forgotten -/

theorem KMap.put_put {α : Type} (m : KMap α) (k : Nat) (v u : α) : KMap.put (KMap.put m k v) k u = KMap.put m k u := by
  induction m with
  | nil => simp [KMap.put]
  | cons x m ih =>
    rw [KMap.put]
    split
    · next e => simp [KMap.put, e]
    · next e =>
      split
      · next hlt => simp [KMap.put, e, hlt]
      · next hlt => simp [KMap.put, e, hlt, ih]

theorem listMod_listMod {α : Type} (f g : α → α) : ∀ (l : List α) (i : Nat), listMod (listMod l i f) i g = listMod l i fun x => g (f x)
  | [], _ => rfl
  | _ :: _, 0 => rfl
  | x :: l, i + 1 => congrArg (x :: ·) (listMod_listMod f g l i)

theorem State.modCore_modCore (s : State) (c : Nat) (f g : Core → Core) : (s.modCore c f).modCore c g = s.modCore c fun k => g (f k) := by
  have hc : (s.modCore c f).core c = f (s.core c) := by rw [State.core_modCore, if_pos rfl]
  show (s.modCore c f).setCore c (g ((s.modCore c f).core c)) = s.setCore c (g (f (s.core c)))
  rw [hc]
  exact congrArg (fun m => { s with cores := m }) (KMap.put_put ..)

theorem State.modGroup_modGroup (s : State) (c k g : Nat) (f h : Group → Group) :
    (s.modGroup c k g f).modGroup c k g h = s.modGroup c k g fun x => h (f x) := by
  cases hb : s.block c k with
  | none =>
    have hn (f : Group → Group) : s.modGroup c k g f = s := by rw [State.modGroup, State.modBlock, hb]
    rw [hn, hn, hn]
  | some b =>
    have hb' : (s.modGroup c k g f).block c k = some (b.modGroup g f) := by
      rw [State.modGroup_of_block hb, State.block_setBlock, if_pos ⟨rfl, rfl⟩]
    have hbb : (b.modGroup g f).modGroup g h = b.modGroup g fun x => h (f x) :=
      congrArg (fun l => { b with groups := l }) (listMod_listMod ..)
    rw [State.modGroup_of_block hb', State.modGroup_of_block hb, State.modGroup_of_block hb, hbb, State.setBlock, State.setBlock,
      State.modCore_modCore, State.setBlock]
    simp only [KMap.put_put]

/-- The issue group keeps no bank request that has completed. -/
def Group.forget (id : Nat) (g : Group) : Group := g.modIg id fun x => { x with got := [] }

/-- The issuer that keeps no bank request. -/
def Who.forget (v : Who) : Who :=
  { v with b := v.b.modGroup v.grp fun g => g.forget v.ig.id, g := v.g.forget v.ig.id }

/-- The state in which the issuer keeps no bank request. -/
def State.forget (s : State) (v : Who) : State := s.modGroup v.core v.slot v.grp fun g => g.forget v.ig.id

theorem State.finish_forget (s : State) (v : Who) (k : Ctl) (f : Group → Group) :
    s.finish v k (fun g => f (g.forget v.ig.id)) = (s.forget v).finish v k f := by
  rw [State.finish, State.finish, State.forget, State.modGroup_modGroup]

section
variable {s t : State} {v : Who} (hi : Issues s v) (hgot : v.ig.got = [])
include hi hgot

/-- No search finds another issue group. -/
theorem Group.find_forget (id : Nat) :
    (v.g.forget v.ig.id).igs.find? (fun x => x.id == id) = v.g.igs.find? (fun x => x.id == id) := by
  rw [Group.forget, Group.modIg_find _ _ _ (f := fun x => { x with got := [] }) fun _ => rfl]
  by_cases he : id = v.ig.id
  · rw [he, hi.ig, Option.map_some, if_pos (beq_self_eq_true _), ← hgot]
  · cases hf : v.g.igs.find? (fun x => x.id == id) with
    | none => rfl
    | some x =>
      have hx : x.id = id := by simpa using List.find?_some hf
      rw [Option.map_some, if_neg (by simpa [hx] using he)]

theorem Issues.forget : Issues (s.forget v) v.forget where
  block := by rw [State.forget, hi.block_modGroup]; exact if_pos ⟨rfl, rfl⟩
  group := by
    show _ = (v.b.modGroup v.grp _).group v.grp
    rw [Block.group_modGroup, if_pos ⟨rfl, hi.inRange⟩, ← hi.group]
    rfl
  ig := (Group.find_forget hi hgot _).trans hi.ig
  inRange := (listMod_length ..).symm ▸ hi.inRange

omit hgot in
theorem OnlyGroup.of_forget (h : OnlyGroup v.forget (s.forget v) t) : OnlyGroup v s t := by
  have h0 := hi.onlyGroup_modGroup fun g => g.forget v.ig.id
  obtain ⟨b, hb, hbb, hlen, hgs⟩ := h.block
  refine ⟨⟨⟨?_, fun a => (h.memory a).trans (h0.memory a), fun a => (h.host a).trans (h0.host a)⟩, fun c => ?_, fun c p =>
    (h.parts c p).trans (h0.parts c p), fun c k hn => (h.blocks c k hn).trans (h0.blocks c k hn)⟩, b, hb, ?_, ?_, fun g hg => ?_⟩
  · obtain ⟨x, hx⟩ : ∃ x, s.forget v = { s with cores := x } := by
      rw [State.forget, State.modGroup_of_block hi.block]
      exact ⟨_, rfl⟩
    have hr := h.rest
    rw [hx] at hr
    exact congrArg (fun u : State => { u with cores := s.cores }) hr
  · have hc := h0.core c
    unfold State.forget at h
    rw [← h.core c] at hc
    exact hc
  · exact congrArg (fun b : Block => { b with groups := v.b.groups }) hbb
  · exact hlen.trans (listMod_length ..)
  · rw [hgs g hg]
    show (v.b.modGroup v.grp _).group g = _
    rw [Block.group_modGroup, if_neg fun hc => hg hc.1]

theorem LaneResults.of_forget {h : Hd} {wb : Wb} {d : BitVec 8} {wide : Bool} {x : Nat → Nat}
    (r : LaneResults v.forget h wb d wide x (s.forget v) t) : LaneResults v h wb d wide x s t := by
  obtain ⟨b, hb, -⟩ := r.frame.block
  have hb : t.block v.core v.slot = some b := hb
  have hg : v.forget.grpIn t = v.grpIn t := by
    rw [Who.grpIn, Who.grpIn, Who.blockIn, Who.blockIn]
    show ((t.block v.core v.slot).getD _).group v.grp = _
    rw [hb]
    rfl
  have hsw : (s.forget v).switch = s.switch := by
    rw [State.forget, State.modGroup_of_block hi.block]
    rfl
  have hlat {l ls} (hl : LatchesAre v.forget h.k (s.forget v) t l ls) : LatchesAre v h.k s t l ls := by
    unfold LatchesAre at hl ⊢
    rwa [hg, hsw] at hl
  refine { frame := OnlyGroup.of_forget hi r.frame, group := ?_, advanced := ⟨?_, fun id hne => ?_⟩, token := ?_, result := ?_, keep := ?_
           sregs := ?_, latch := fun l ha => hlat (r.latch l ha), latchKeep := fun l ha => hlat (r.latchKeep l ha), threads := ?_ }
  · have h1 := r.group
    unfold SameGroup at h1 ⊢
    rw [hg] at h1
    exact congrArg (fun g : Group => { g with igs := v.g.igs }) h1
  · have h1 := r.advanced.own
    rw [Who.igIn, hg] at h1
    exact h1
  · have h1 := r.advanced.others id hne
    rw [hg] at h1
    exact h1.trans (Group.find_forget hi hgot id)
  · have h1 := r.token
    unfold TokenSet at h1 ⊢
    rwa [hg] at h1
  · rw [← hg]
    exact r.result
  · rw [← hg]
    exact r.keep
  · rw [← hg]
    exact r.sregs
  · rw [← hg]
    exact r.threads

end

end Sys2Proof.Machine

end

section

/-! # Issuers with nothing under way -/

namespace Sys2Proof.Machine

/-! ### An issuer with nothing under way -/

section
variable {s t : State} {w : Who}

theorem CachesOnly.issuer (h : CachesOnly s t) : t.issuer = s.issuer := by
  have hf : t.focus = s.focus := by rw [← h.rest]
  have hp := congrArg Part.cur (h.parts s.focus.1 s.focus.2)
  have hc : (listGet ({} : Part) (t.core s.focus.1).parts s.focus.2).cur = (listGet ({} : Part) (s.core s.focus.1).parts s.focus.2).cur :=
    hp
  rw [State.issuer, State.issuer, hf, hc]
  simp only [h.block]

theorem Touched.quiet (h : Touched s t) (hq : Quiet w s) : Quiet w t := by
  have hs : (t.core w.core).stores = (s.core w.core).stores := by rw [← h.cores w.core]
  refine ⟨?_, hq.ops, hq.got, fun d => ?_, fun l x hx => (h.unperformed _).trans (hq.ahead l x hx)⟩
  · rw [← hq.stores, State.pendingStores, State.pendingStores, hs, ← h.rest]
  · rw [← hq.packets d, State.coreFlights, State.coreFlights, ← h.rest]

section
variable (hq : Quiet w s) (l : Nat) (d : Dom) (ps : List (Place × Nat))
include hq

/-- No access of a lane that is ordered before its next ones is open. -/
theorem Quiet.ahead_open : (((w.g.thread l).ahead.filter (fun p => p.1 == d)).map (·.2.id)).filter s.unperformed = [] := by
  refine List.filter_eq_nil_iff.2 fun id hid => ?_
  obtain ⟨x, hx, rfl⟩ := List.mem_map.1 hid
  rw [hq.ahead l x (List.mem_of_mem_filter hx)]
  exact Bool.false_ne_true

theorem Quiet.ownPackets : s.ownPackets w l d ps = [] := by
  simp [State.ownPackets, hq.ops]

theorem Quiet.remotePending : w.g.remotePending l d = [] := by
  simp [Group.remotePending, hq.ops]

theorem Quiet.acqPending : w.g.acqPending l d = [] := by
  simp [Group.acqPending, hq.ops]

theorem Quiet.corePackets : s.corePackets w.core d = [] := by
  simp [State.corePackets, hq.packets d]

theorem Quiet.rcPackets (sc : Scope) : s.rcPackets w.core sc ps = [] := by
  simp [State.rcPackets, hq.packets .rc]

/-- A store waits for nothing. -/
theorem Quiet.storeAfter (sc : Scope) (rel : Bool) : s.storeAfter w l d sc rel ps = [] := by
  simp [State.storeAfter, hq.ahead_open, hq.ownPackets, hq.remotePending, hq.acqPending, hq.corePackets, hq.rcPackets]

/-- A load waits for nothing. -/
theorem Quiet.loadAfter : s.loadAfter w l d ps = [] := by
  simp [State.loadAfter, hq.ahead_open, hq.ownPackets, hq.remotePending, hq.acqPending, hq.corePackets]

end

theorem Quiet.drainFor (hq : Quiet w s) (need : Store → Bool) : s.drainFor w.core need = (true, s) := by
  rw [State.drainFor, hq.stores]
  rfl

end

end Sys2Proof.Machine

end

section

/-! # Atomics: ATOM and ATOML -/

namespace Sys2Proof.Machine

/-! ### The words of the lanes, each once -/

theorem mem_foldl_distinct (ps acc : List Place) (q : Place) :
    q ∈ ps.foldl (fun a p => if a.contains p then a else a ++ [p]) acc ↔ q ∈ acc ∨ q ∈ ps := by
  induction ps generalizing acc with
  | nil => simp
  | cons p ps ih =>
    rw [List.foldl_cons, ih, List.mem_cons]
    split
    · next hc =>
      have hp : p ∈ acc := by simpa using hc
      constructor
      · rintro (h | h)
        · exact .inl h
        · exact .inr (.inr h)
      · rintro (h | rfl | h)
        · exact .inl h
        · exact .inl hp
        · exact .inr h
    · rw [List.mem_append, List.mem_singleton, or_assoc]

theorem mem_distinct (ps : List Place) (q : Place) : q ∈ distinct ps ↔ q ∈ ps := by
  rw [distinct, mem_foldl_distinct]
  simp

theorem nodup_distinct (ps : List Place) : (distinct ps).Nodup := by
  refine List.foldlRecOn ps _ (motive := List.Nodup) List.nodup_nil fun a ha p _ => ?_
  split
  · exact ha
  · next hc =>
    have hp : p ∉ a := by simpa using hc
    exact List.nodup_append.2 ⟨ha, List.nodup_singleton p, fun x hx y hy e => hp (List.mem_singleton.1 hy ▸ e ▸ hx)⟩

/-! ### The bank requests that have completed -/

theorem KMap.put_snoc {α : Type} (m : KMap α) (k : Nat) (v : α) (h : ∀ x ∈ m, x.1 < k) : KMap.put m k v = m ++ [(k, v)] := by
  induction m with
  | nil => rfl
  | cons x m ih =>
    have hx := h x List.mem_cons_self
    rw [KMap.put, if_neg (by omega), if_neg (by omega), ih fun y hy => h y (List.mem_cons_of_mem _ hy)]
    rfl

/-- Entries put in ascending order. -/
theorem KMap.foldl_put_ascending {α : Type} (x : Nat → α) (ls : List Nat) (m : KMap α) (hs : ls.Pairwise (· < ·))
    (hm : ∀ y ∈ m, ∀ l ∈ ls, y.1 < l) :
    (ls.map fun l => (l, x l)).foldl (fun (g : KMap α) y => KMap.put g y.1 y.2) m = m ++ ls.map fun l => (l, x l) := by
  induction ls generalizing m with
  | nil => simp
  | cons l ls ih =>
    obtain ⟨hl, hls⟩ := List.pairwise_cons.1 hs
    rw [List.map_cons, List.foldl_cons, KMap.put_snoc m l (x l) fun y hy => hm y hy l List.mem_cons_self, ih _ hls, List.append_assoc]
    · rfl
    · intro y hy j hj
      rcases List.mem_append.1 hy with hy | hy
      · exact hm y hy j (List.mem_cons_of_mem _ hj)
      · rw [List.mem_singleton.1 hy]
        exact hl j hj

/-- Every lane's request completes, of an issuer that kept none. -/
theorem State.bankDone_all {w : Who} (hgot : w.ig.got = []) {ls : List Nat} (hs : ls.Pairwise (· < ·)) (s : State) (h : Hd) (x : Nat → Dword)
    (wb : Wb) (d : BitVec 8) (wide : Bool) : s.bankDone w h (ls.map fun l => (l, x l)) ls (fun got => writeVals got wb d wide) =
      s.finish w h.k fun g => writeList ls wb d wide x (g.forget w.ig.id) := by
  have hall : (ls.all fun k => (ls.map fun l => (l, x l)).any fun y => y.1 == k) = true := by
    refine List.all_eq_true.2 fun l hl => List.any_eq_true.2 ⟨(l, x l), List.mem_map.2 ⟨l, hl, rfl⟩, beq_self_eq_true l⟩
  rw [State.bankDone, hgot]
  rw [KMap.foldl_put_ascending x ls [] hs (fun _ h => absurd h List.not_mem_nil), List.nil_append, if_pos hall, writeVals_map]
  rfl

/-- The results of the lanes, of an issuer that forgets its bank requests. -/
theorem Issues.laneResults_forget {s : State} {v : Who} (hi : Issues s v) (hgot : v.ig.got = []) (h : Hd) (wb : Wb) (d : BitVec 8) (wide : Bool)
    (x : Nat → Dword) : LaneResults v h wb d wide (fun l => (x l).toNat) s
      (s.finish v h.k fun g => writeList (lanesOf (v.active h.g)) wb d wide x (g.forget v.ig.id)) := by
  rw [State.finish_forget s v h.k (writeList (lanesOf (v.active h.g)) wb d wide x), State.finish_congr (w := v.forget) rfl rfl]
  exact LaneResults.of_forget hi hgot ((hi.forget hgot).laneResults h wb d wide x)

theorem Reordered.active {w v : Who} (h : Reordered w v) (g : Guard) : v.active g = w.active g := by
  have hig : v.ig = w.ig := by rw [← h.place]
  have hth (l : Nat) : (v.g.thread l).live = (w.g.thread l).live ∧ guardHolds g (v.g.thread l) = guardHolds g (w.g.thread l) := by
    rw [← h.threads l]
    exact ⟨rfl, rfl⟩
  have hlive : v.live = w.live := congrArg maskOf (funext fun l => by rw [hig, (hth l).1])
  exact congrArg maskOf (funext fun l => by rw [hlive, (hth l).2])

/-! ### An atomic whose lanes all act (R64, R298) -/

theorem Issues.withMem {s : State} {w : Who} (hi : Issues s w) (x : Memory) : w.withMem x = { w with b := { w.b with mem := x } } := by
  rw [Who.withMem, Who.withBlock]
  congr 1
  exact hi.group.symm

theorem Issues.withMem_self {s : State} {w : Who} (hi : Issues s w) : w.withMem w.b.mem = w := hi.withMem _

theorem ActedOn.refl {s : State} {w : Who} (hi : Issues s w) {m : Mems} (hm : s.mem = m.dev) (hh : s.hmem = m.host) (hl : w.b.mem = m.loc) :
    ActedOn w w m s s := by
  have hw : w.withMem m.loc = w := hl ▸ hi.withMem_self
  have hs : s.withMems m = s := by rw [State.withMems, ← hm, ← hh]
  refine ⟨?_, fun _ => rfl⟩
  rw [hw, hs]
  exact (Touched.refl s).acted hi

theorem Place.Reached.refusedWord {s : State} {w : Who} {p : Place} (h : p.Reached s w) : s.refusedWord w.ctx p = false := by
  obtain ⟨-, hr⟩ := h
  cases p with
  | glob t =>
    obtain ⟨ha, -, -⟩ := hr
    rw [State.refusedWord, ha]
    rfl
  | loc k a => rfl

section
variable {s : State} {w : Who} {o : AtomOp} {p : Nat → Place} {m : Mems} {ls : List Nat}

/-- The words that are read are words on which no lane has worked. -/
theorem State.readWords_worked (w : Who) (o : AtomOp) (p : Nat → Place) {n : Nat} (hl : w.b.mem = m.loc) (ps : List Place)
    (hm : s.mem = m.dev) (hh : s.hmem = m.host) (hp : ∀ q ∈ ps, q.Reached s w) {r : List AWord × State} (hr : s.readWords w n ps = r) :
    r.1.map (·.place) = ps ∧ Worked w o p (m.word n) [] r.1 ∧ Beside s r.2 := by
  obtain ⟨hv, hb⟩ := State.readWords_spec hl ps hm hh hp hr
  have hval : ∀ x ∈ r.1, x.value = m.word n x.place := fun x hx => by
    have hx := hv ▸ List.mem_map_of_mem (f := fun x : AWord => (x.place, x.value, x.wrote)) hx
    obtain ⟨q, -, he⟩ := List.mem_map.1 hx
    simp only [Prod.mk.injEq] at he
    rw [← he.1, ← he.2.1]
  refine ⟨?_, ⟨hval, fun x hx _ => hval x hx⟩, hb⟩
  have := congrArg (List.map Prod.fst) hv
  simpa [List.map_map, Function.comp_def] using this

/-- The words of lanes that reach them are read, worked on in lane order, and written. -/
theorem State.atomic_eq (hw : s.issuer = some w) (hq : Quiet w s) (hs : ls.Pairwise (· < ·)) (hm : s.mem = m.dev) (hh : s.hmem = m.host)
    (hl : w.b.mem = m.loc) (hp : ∀ l ∈ ls, (p l).Reached s w) (hb : s.wordLanes w (ls.map fun l => (l, p l)) = ls.map fun l => (l, p l)) :
    ∃ v u ws, ActedOn w v (m.puts (Machine.sizeOf o.ty) ws) s u ∧ Worked w o p (m.word (Machine.sizeOf o.ty)) ls ws ∧
      ws.map (·.place) = distinct (ls.map p) ∧
      s.atomic w o (ls.map fun l => (l, p l)) = .next (u.finish w o.h.k fun g => writeList ls o.wb o.d (wide o.ty) (fun l =>
        w.atomAfter o (ls.filter fun j => decide (j < l) && p j == p l) (m.word (Machine.sizeOf o.ty) (p l))) (g.forget w.ig.id)) := by
  have hafter (l : Nat) : s.remoteIds (s.storeAfter w l o.acc.dom ((p l).scope o.acc.scope) (isRelease o.acc) [(p l, Machine.sizeOf o.ty)] ++
      s.loadAfter w l o.acc.dom [(p l, Machine.sizeOf o.ty)]) = false := by
    rw [hq.storeAfter, hq.loadAfter]
    rfl
  have hre : ∀ q ∈ distinct (ls.map p), q.Reached s w := fun q hq => by
    obtain ⟨l, hl, rfl⟩ := List.mem_map.1 ((mem_distinct ..).1 hq)
    exact hp l hl
  obtain ⟨hplace, hworked, hbr⟩ := State.readWords_worked w o p (n := Machine.sizeOf o.ty) hl _ hm hh hre rfl
  generalize hrd : s.readWords w (Machine.sizeOf o.ty) (distinct (ls.map p)) = r at hplace hworked hbr
  obtain ⟨holds, hw2, hp2⟩ := hworked.atomLanes (ls := ls) hs (fun l hl => by
    rw [hplace, mem_distinct]
    exact List.mem_map_of_mem hl) rfl
  generalize hal : Machine.atomLanes o.op o.ty (ls.map fun l => (l, p l, (w.atomArgs l o.ty o.arg).1, (w.atomArgs l o.ty o.arg).2)) r.1 = a
    at holds hw2 hp2
  have hws : ∀ x ∈ a.2, x.place.Reached s w := fun x hx =>
    hre _ (hplace ▸ hp2 ▸ List.mem_map_of_mem (f := fun x : AWord => x.place) hx)
  have hbr2 : Beside s ((ls.map fun l => (l, p l)).foldl (fun s x => s.placeAtomic w.core x.2 (Machine.sizeOf o.ty)) r.2) :=
    hbr.trans (foldl_beside (fun s x => s.placeAtomic_beside ..) _ _)
  have hlog : r.2.logWords w (Machine.sizeOf o.ty) a.2 = (some r.2, r.2) := State.logWords_of_reached _ fun x hx => hbr.1.reached (hws x hx)
  have hadm (y : Nat × Dword) : ((ls.map fun l => (l, p l)).any fun x => x.1 == y.1 && s.refusedWord w.ctx x.2) = false := by
    refine List.any_eq_false.2 fun x hx => ?_
    obtain ⟨l, hl, rfl⟩ := List.mem_map.1 hx
    rw [(hp l hl).refusedWord, Bool.and_false]
    exact Bool.false_ne_true
  obtain ⟨wrote, hrun⟩ : ∃ wrote, s.atomic w o (ls.map fun l => (l, p l)) = .next (((((ls.map fun l => (l, p l)).foldl
      (fun s x => s.placeAtomic w.core x.2 (Machine.sizeOf o.ty)) r.2).writeWords w o.acc (Machine.sizeOf o.ty) wrote
        (ls.map fun l => (l, p l)) a.2)).bankDone w o.h a.1 ls (fun got => writeVals got o.wb o.d (wide o.ty))) := by
    unfold State.atomic
    dsimp only
    rw [hb, hq.drainFor]
    dsimp only
    rw [hw]
    dsimp only
    simp only [List.map_map, Function.comp_def]
    rw [hrd, hal, hlog, if_neg fun hc => ?_]
    · simp only [hadm, Bool.false_eq_true, if_false, List.map_id']
      exact ⟨_, rfl⟩
    · obtain ⟨x, hx, hc⟩ := List.any_eq_true.1 hc
      obtain ⟨l, -, rfl⟩ := List.mem_map.1 hx
      exact Bool.false_ne_true ((hafter l).symm.trans hc)
  obtain ⟨v, hact⟩ := ((ActedOn.refl (State.issuer_spec hw) hm hh hl).beside hbr2).writeWords o.acc (Machine.sizeOf o.ty) wrote
    (ls.map fun l => (l, p l)) a.2 hws
  refine ⟨v, _, a.2, hact, hw2, hp2.trans hplace, ?_⟩
  rw [hrun, holds, State.bankDone_all hq.got hs]
  rfl

end

section
variable {s : State} {w : Who} {o : AtomOp} {p : Nat → Place} {m : Mems} {ls : List Nat}

/-- What memory holds once the words that the lanes worked on are put. -/
theorem Worked.puts {n slot : Nat} (hn : n ≤ 8) {ws : List AWord} (hw : Worked w o p (m.word n) ls ws)
    (hwf : ∀ l ∈ ls, (m.of (p l)).wf = true) (hplace : ws.map (·.place) = distinct (ls.map p)) (hst : ∀ l ∈ ls, (p l).stored slot)
    (hd : ∀ l ∈ ls, ∀ j ∈ ls, p l = p j ∨ placesMeet (p l) n (p j) n = false) :
    (∀ l ∈ ls, ((m.puts n ws).word n (p l)).toNat =
      (w.atomAfter o (ls.filter fun j => p j == p l) (m.word n (p l))).toNat % 2 ^ (8 * n)) ∧
    (∀ q, (m.of q).wf = true → ∀ a, (∀ l ∈ ls, (p l).outside q ∨ a < (p l).addr ∨ (p l).addr + n ≤ a) →
      ((m.puts n ws).of q).read a = (m.of q).read a) ∧
    ∀ q, (∀ l ∈ ls, (p l).outside q) → (m.puts n ws).of q = m.of q := by
  have hof (x : AWord) (hx : x ∈ ws) : ∃ l ∈ ls, p l = x.place :=
    List.mem_map.1 ((mem_distinct ..).1 (hplace ▸ List.mem_map_of_mem (f := fun x : AWord => x.place) hx))
  have hmeet (x y : AWord) (hx : x ∈ ws) (hy : y ∈ ws) (hne : x.place ≠ y.place) : placesMeet x.place n y.place n = false := by
    obtain ⟨l, hl, hlx⟩ := hof x hx
    obtain ⟨j, hj, hjy⟩ := hof y hy
    rw [← hlx, ← hjy] at hne ⊢
    exact (hd l hl j hj).resolve_left hne
  have hstored (x : AWord) (hx : x ∈ ws) : x.place.stored slot := by
    obtain ⟨l, hl, hlx⟩ := hof x hx
    exact hlx ▸ hst l hl
  have hwfs (x : AWord) (hx : x ∈ ws) : (m.of x.place).wf = true := by
    obtain ⟨l, hl, hlx⟩ := hof x hx
    exact hlx ▸ hwf l hl
  have hnodup : (ws.map (·.place)).Nodup := hplace ▸ nodup_distinct _
  have happart : ws.Pairwise fun x y => placesMeet x.place n y.place n = false ∧ placesMeet y.place n x.place n = false :=
    (List.pairwise_map.1 hnodup).imp_of_mem fun {x y} hx hy hne => ⟨hmeet x y hx hy hne, hmeet y x hy hx (Ne.symm hne)⟩
  refine ⟨fun l hl => ?_, fun q hq a ha => Mems.read_puts hq fun x hx => ?_, fun q hq => m.of_puts n fun x hx => ?_⟩
  · obtain ⟨x, hx, hxl⟩ := List.mem_map.1 (hplace ▸ (mem_distinct ..).2 (List.mem_map_of_mem (f := p) hl) : p l ∈ ws.map (·.place))
    have hv := hw.value x hx
    have hu := hw.unwritten x hx
    rw [← hxl, Mems.word_puts hn hwfs hstored happart hx, ← hv]
    split
    · rfl
    · next hc =>
      rw [hu (Bool.eq_false_iff.2 hc), Mems.word, Memory.toNat_word hn, Nat.mod_eq_of_lt (Memory.leNat_readN_lt ..)]
  · obtain ⟨l, hl, hlx⟩ := hof x hx
    exact hlx ▸ ha l hl
  · obtain ⟨l, hl, hlx⟩ := hof x hx
    exact hlx ▸ hq l hl

theorem Issues.active_withMem {s : State} {w : Who} (hi : Issues s w) (x : Memory) (g : Guard) : (w.withMem x).active g = w.active g := by
  rw [hi.withMem]
  rfl

theorem sizeOf_le (ty : Ty) : Machine.sizeOf ty ≤ 8 := by cases ty <;> decide

/-- An atomic whose lanes all act: what the lanes receive, and what memory holds in the end. -/
theorem State.atomic_spec (hw : s.issuer = some w) (hq : Quiet w s) (hls : ls = lanesOf (w.active o.h.g)) (hm : s.mem = m.dev) (hh : s.hmem = m.host)
    (hwf : ∀ l ∈ ls, (m.of (p l)).wf = true) (hl : w.b.mem = m.loc) (hp : ∀ l ∈ ls, (p l).Reached s w)
    (hb : s.wordLanes w (ls.map fun l => (l, p l)) = ls.map fun l => (l, p l))
    (hd : ∀ l ∈ ls, ∀ j ∈ ls, p l = p j ∨ placesMeet (p l) (Machine.sizeOf o.ty) (p j) (Machine.sizeOf o.ty) = false) :
    ∃ m' v u t, ActedOn w v m' s u ∧ s.atomic w o (ls.map fun l => (l, p l)) = .next t ∧
      LaneResults v o.h o.wb o.d (wide o.ty) (fun l =>
        (w.atomAfter o (ls.filter fun j => decide (j < l) && p j == p l) (m.word (Machine.sizeOf o.ty) (p l))).toNat) u t ∧
      (∀ l ∈ ls, (m'.word (Machine.sizeOf o.ty) (p l)).toNat =
        (w.atomAfter o (ls.filter fun j => p j == p l) (m.word (Machine.sizeOf o.ty) (p l))).toNat % 2 ^ (8 * Machine.sizeOf o.ty)) ∧
      (∀ q, (m.of q).wf = true → ∀ a, (∀ l ∈ ls, (p l).outside q ∨ a < (p l).addr ∨ (p l).addr + Machine.sizeOf o.ty ≤ a) →
        (m'.of q).read a = (m.of q).read a) ∧
      ∀ q, (∀ l ∈ ls, (p l).outside q) → m'.of q = m.of q := by
  obtain ⟨v, u, ws, hact, hworked, hplace, hrun⟩ := State.atomic_eq hw hq (hls ▸ pairwise_lanesOf _) hm hh hl hp hb
  obtain ⟨hend, hrest⟩ := hworked.puts (sizeOf_le o.ty) hwf hplace (fun l hl => (hp l hl).1) hd
  have ho := hact.acted.order
  have hv : { v with b := w.b, g := w.g } = w := congrArg (fun x : Who => { x with b := w.b, g := w.g }) ho.place
  have hgen : v.b.gen = w.b.gen := ho.gen
  have hig : v.ig = w.ig := by rw [← hv]
  have hactive : v.active o.h.g = w.active o.h.g := (ho.active _).trans (Issues.active_withMem (State.issuer_spec hw) ..)
  refine ⟨_, v, u, _, hact, hrun, ?_, hend, hrest⟩
  rw [← State.finish_congr hv hgen, hls, ← hactive, ← hig]
  exact hact.acted.issues.laneResults_forget (hig ▸ hq.got) o.h o.wb o.d (wide o.ty) _

end

/-! ### ATOM and ATOML -/

theorem ActedOn.blockOnly {s0 s t : State} {w v : Who} {m : Mems} (h : ActedOn w v m s t) (ht : Touched s0 s) :
    BlockOnly w v.b (s0.withMems m) t where
  rest := CachesRest.trans (t := s.withMems m) (congrArg (State.withMems · m) ht.rest) h.acted.rest
  blocks := fun c k => by
    rw [h.acted.blocks]
    split
    · next e => exact (if_pos e).symm
    · next e => exact (ht.caches.block c k).trans (if_neg e).symm
  cores := fun c => by
    have hc := (congrArg (fun x : Core => { x with tlb := (s0.core c).tlb, parts := (s0.core c).parts }) (h.acted.cores c)).trans (ht.cores c)
    have hs : (s.core c).slots = (s0.core c).slots := ht.caches.slots c
    have hq := h.stores c
    rw [show ((s.withMems m).core c) = s.core c from rfl, hs, ← hq] at hc
    exact hc
  parts := fun c => (ht.parts c).trans (h.acted.parts c)

section
variable {s : State} {w : Who}

theorem State.wordLanes_glob (p : Nat → Tgt) (ls : List Nat) :
    s.wordLanes w (ls.map fun l => (l, .glob (p l))) = ls.map fun l => (l, .glob (p l)) := by
  refine if_neg fun hc => ?_
  obtain ⟨x, hx, hc⟩ := List.any_eq_true.1 hc
  obtain ⟨l, -, rfl⟩ := List.mem_map.1 hx
  exact Bool.false_ne_true hc

/-- An aligned word lies in one word of the banks. -/
theorem bankWords_aligned {a : Nat} {ty : Ty} (h : a % Machine.sizeOf ty = 0) : bankWords a (Machine.sizeOf ty) = [a / 8] := by
  have hn : Machine.sizeOf ty = 1 ∨ Machine.sizeOf ty = 2 ∨ Machine.sizeOf ty = 4 ∨ Machine.sizeOf ty = 8 := by cases ty <;> decide
  have hlen : (a + Machine.sizeOf ty - 1) / 8 - a / 8 = 0 := by
    rcases hn with e | e | e | e <;> rw [e] at h ⊢ <;> omega
  rw [bankWords, hlen]
  rfl

/-- The requests of all lanes complete where the words of the banks that are chosen are all of theirs. -/
theorem State.wordLanes_loc {m : LaneMask} {off : Nat → Nat} {ty : Ty} (hgot : w.ig.got = [])
    (ha : ∀ l ∈ lanesOf m, off l % Machine.sizeOf ty = 0) (hb : s.bankNow (bankList m off (Machine.sizeOf ty)) = bankList m off (Machine.sizeOf ty))
    (slot : Nat) : s.wordLanes w ((lanesOf m).map fun l => (l, .loc slot (off l))) = (lanesOf m).map fun l => (l, .loc slot (off l)) := by
  have hlist : bankList m off (Machine.sizeOf ty) = ((lanesOf m).map fun l => off l / 8).dedup := by
    rw [bankList, List.map_eq_flatMap]
    exact congrArg List.dedup (List.flatMap_congr fun l hl => bankWords_aligned (ha l hl))
  rw [State.wordLanes]
  split
  · simp only [hgot, List.any_nil, Bool.not_false, List.filter_true, List.map_map, Function.comp_def]
    rw [show ((lanesOf m).map fun l => (Place.loc slot (off l)).addr / 8).dedup = bankList m off (Machine.sizeOf ty) from hlist.symm, hb, hlist]
    refine List.filter_eq_self.2 fun x hx => ?_
    obtain ⟨l, hl, rfl⟩ := List.mem_map.1 hx
    exact List.contains_iff_mem.2 (List.mem_dedup.2 (List.mem_map.2 ⟨l, hl, rfl⟩))
  · rfl

/-- A word of device or host memory. -/
theorem State.wordOf_eq {m : Mems} (hm : s.mem = m.dev) (hh : s.hmem = m.host) {t : Tgt} (ht : ∀ a, t ≠ .mmio a) (n : Nat) :
    s.wordOf t n = m.word n (.glob t) := by
  cases t with
  | dev a => exact congrArg (fun m => dw (leNat (Memory.readN m a n))) hm
  | host a => exact congrArg (fun m => dw (leNat (Memory.readN m a n))) hh
  | mmio a => exact absurd rfl (ht a)

end

theorem Place.beq_glob (t u : Tgt) : (Place.glob t == Place.glob u) = (t == u) := by
  rw [Bool.eq_iff_iff, beq_iff_eq, beq_iff_eq, Place.glob.injEq]

theorem Place.beq_loc (k a b : Nat) : (Place.loc k a == Place.loc k b) = (a == b) := by
  rw [Bool.eq_iff_iff, beq_iff_eq, beq_iff_eq, Place.loc.injEq]
  simp

/-- Words of one size that are aligned in a slot's local memory are one, or do not meet. -/
theorem loc_eq_or_apart {ty : Ty} {a b : Nat} (ha : a % Machine.sizeOf ty = 0) (hb : b % Machine.sizeOf ty = 0) (k : Nat) :
    Place.loc k a = Place.loc k b ∨ placesMeet (.loc k a) (Machine.sizeOf ty) (.loc k b) (Machine.sizeOf ty) = false := by
  have hn : Machine.sizeOf ty = 1 ∨ Machine.sizeOf ty = 2 ∨ Machine.sizeOf ty = 4 ∨ Machine.sizeOf ty = 8 := by cases ty <;> decide
  by_cases e : a = b
  · exact .inl (congrArg _ e)
  · refine .inr ?_
    have hr : runsMeet a (Machine.sizeOf ty) b (Machine.sizeOf ty) = false := by
      simp only [runsMeet, Bool.and_eq_false_iff, decide_eq_false_iff_not]
      rcases hn with h | h | h | h <;> rw [h] at ha hb ⊢ <;> omega
    simpa [placesMeet] using hr

section
variable {o : AtomOp} {s : State} {w : Who}

theorem execAtoml_eq (hw : s.issuer = some w)
    (hr : Readable w (w.active o.h.g) (baseReads false o.base ++ argReads o.ty o.arg) [⟨o.d, wide o.ty⟩]) (hmk : badMark atomMarks o.acc = false)
    (ha : ∀ l, (w.active o.h.g).getLsbD l = true → w.laddr l o.base (argImm o.arg) % Machine.sizeOf o.ty = 0 ∧
      w.b.locCheck (w.laddr l o.base (argImm o.arg)) (Machine.sizeOf o.ty) true = true) :
    exec (.atoml o) s = s.atomic w o ((lanesOf (w.active o.h.g)).map fun l => (l, .loc w.slot (w.laddr l o.base (argImm o.arg)))) := by
  show execAtoml o s = _
  rw [execAtoml, hmk, vd, State.access_readable (a := fun l => w.laddr l o.base (argImm o.arg)) hw hr, List.map_map]
  · rfl
  · intro l hl
    obtain ⟨h0, hc⟩ := ha l hl
    dsimp only
    rw [h0, Who.locAccess, if_pos hc]
    rfl

/-- ATOM acts where its translations are made. -/
theorem execAtom_eq {tg : Nat → Tgt} (hw : s.issuer = some w)
    (hr : Readable w (w.active o.h.g) (baseReads true o.base ++ argReads o.ty o.arg) [⟨o.d, wide o.ty⟩]) (hmk : badMark atomMarks o.acc = false)
    (ha : ∀ l, (w.active o.h.g).getLsbD l = true → ∃ ps,
      s.atomAddr w l (needOf true true o.acc.dom) (rank o.acc.dom) (w.gaddr l o.base (argImm o.arg)) (Machine.sizeOf o.ty) = .ok ps ∧
        s.wordPlace w.b.ctx ps = .glob (tg l)) :
    ∃ s1, Touched s s1 ∧ exec (.atom o) s = s1.atomic w o ((lanesOf (w.active o.h.g)).map fun l => (l, .glob (tg l))) := by
  choose! ps hps using ha
  refine ⟨_, s.touchLanes_touched w (w.active o.h.g) fun _ l => [(w.gaddr l o.base (argImm o.arg), Machine.sizeOf o.ty)], ?_⟩
  show execAtom o s = _
  rw [execAtom, hmk, vd, State.accessAt_readable (a := ps) hw hr fun l hl => (hps l hl).1]
  generalize hs1 : s.touchLanes w (w.active o.h.g) _ = s1
  have ht : Touched s s1 := hs1 ▸ s.touchLanes_touched ..
  have hplace (ps : List Piece) : s1.wordPlace w.ctx ps = s.wordPlace w.b.ctx ps := by
    unfold State.wordPlace
    rw [← ht.rest]
    rfl
  refine congrArg (s1.atomic w o) ?_
  rw [List.map_map]
  refine List.map_congr_left fun l hl => ?_
  rw [Function.comp_apply]
  dsimp only
  rw [hplace, (hps l ((mem_lanesOf _ _).1 hl)).2]

end

/-- Settles O26: memory is split into the words that the lanes name, each lane's part is what it makes of the value that the lanes before
it left, and the words are put one by one, apart from each other. -/
theorem atomicsInLaneOrder : Obligations.AtomicsInLaneOrder := by
  unfold Obligations.AtomicsInLaneOrder
  refine ⟨fun o s w tg hw hr hmk hq hpl hdom hmwf hhwf ha hd => ?_, fun o s w hw hr hmk hq hwf hb ha => ?_⟩
  · obtain ⟨s1, ht, hrun⟩ := execAtom_eq hw hr hmk fun l hl => (ha l hl).imp fun ps h => ⟨h.1, h.2.1⟩
    have hmmio (l : Nat) (hl : (w.active o.h.g).getLsbD l = true) : ∀ a, tg l ≠ .mmio a := (ha l hl).elim fun ps h => h.2.2.2
    have hdev : s1.mem = s.mem := by rw [← ht.rest]
    have hhost : s1.hmem = s.hmem := by rw [← ht.rest]
    have hreach (l : Nat) (hl : l ∈ lanesOf (w.active o.h.g)) : (Place.glob (tg l)).Reached s1 w := by
      obtain ⟨ps, -, -, hadm, hno⟩ := ha l ((mem_lanesOf _ _).1 hl)
      refine ht.rest.reached ⟨?_, hadm, hpl.cu, hdom⟩
      cases htg : tg l with
      | mmio a => exact absurd htg (hno a)
      | dev a => trivial
      | host a => trivial
    obtain ⟨m', v, u, t, hact, hat, hres, hend, hrest, hsame⟩ := State.atomic_spec (o := o) (p := fun l => .glob (tg l)) (m := ⟨s.mem, s.hmem, w.b.mem⟩)
      (ht.caches.issuer.trans hw) (ht.quiet hq) rfl hdev hhost
      (fun l _ => by cases tg l <;> assumption) rfl hreach
      (State.wordLanes_glob ..) fun l hl j hj => (hd l j ((mem_lanesOf _ _).1 hl) ((mem_lanesOf _ _).1 hj)).imp_left (congrArg _)
    have htm : t.mem = m'.dev := (congrArg State.mem hres.frame.rest).trans hact.mems.1
    have hth : t.hmem = m'.host := (congrArg State.hmem hres.frame.rest).trans hact.mems.2.1
    have hmloc : m'.loc = w.b.mem := hsame (.loc w.slot 0) fun l hl => by cases tg l <;> exact fun _ _ _ => rfl
    have hword (l : Nat) (hl : (w.active o.h.g).getLsbD l = true) := State.wordOf_eq (m := ⟨s.mem, s.hmem, w.b.mem⟩) rfl rfl (hmmio l hl)
    have hord := hact.acted.order
    rw [hmloc, (State.issuer_spec hw).withMem_self] at hord
    simp only [Place.beq_glob] at hres hend
    refine ⟨v, u, t, hord, ?_, hrun.trans hat, hres.congr fun l hl => ?_, fun l hl => ?_, fun a h => ?_, fun a h => ?_⟩
    · rw [htm, hth]
      exact hact.blockOnly ht
    · rw [hord.active] at hl
      rw [hword l hl]
    · rw [State.wordOf_eq htm hth (hmmio l hl), hword l hl]
      exact hend l ((mem_lanesOf _ _).2 hl)
    · rw [htm]
      refine hrest (.glob (.dev 0)) hmwf a fun l hl => ?_
      cases htg : tg l with
      | dev pa => exact .inr (h l pa ((mem_lanesOf _ _).1 hl) htg)
      | host ha => exact .inl fun _ _ _ => rfl
      | mmio x => exact absurd htg (hmmio l ((mem_lanesOf _ _).1 hl) x)
    · rw [hth]
      refine hrest (.glob (.host 0)) hhwf a fun l hl => ?_
      cases htg : tg l with
      | dev pa => exact .inl fun _ _ _ => rfl
      | host ha => exact .inr (h l ha ((mem_lanesOf _ _).1 hl) htg)
      | mmio x => exact absurd htg (hmmio l ((mem_lanesOf _ _).1 hl) x)
  · obtain ⟨m', v, u, t, hact, hat, hres, hend, hrest, hsame⟩ := State.atomic_spec (o := o)
      (p := fun l => .loc w.slot (w.laddr l o.base (argImm o.arg))) (m := ⟨s.mem, s.hmem, w.b.mem⟩)
      hw hq rfl rfl rfl (fun _ _ => hwf) rfl (fun _ _ => ⟨rfl, trivial⟩)
      (State.wordLanes_loc hq.got (fun l hl => (ha l ((mem_lanesOf _ _).1 hl)).1) hb _) fun l hl j hj =>
        loc_eq_or_apart (ha l ((mem_lanesOf _ _).1 hl)).1 (ha j ((mem_lanesOf _ _).1 hj)).1 _
    simp only [Place.beq_loc] at hres hend
    have hbo := hact.blockOnly (.refl s)
    have hms : s.withMems m' = s := by
      rw [State.withMems, show m'.dev = s.mem from hsame (.glob (.dev 0)) fun _ _ _ _ _ => rfl,
        show m'.host = s.hmem from hsame (.glob (.host 0)) fun _ _ _ _ _ => rfl]
    exact ⟨m'.loc, v, u, t, hact.acted.order, hms ▸ hbo, (execAtoml_eq hw hr hmk ha).trans hat, hres,
      fun l hl => hend l ((mem_lanesOf _ _).2 hl), fun a h => hrest (.loc w.slot 0) hwf a fun l hl => .inr (h l ((mem_lanesOf _ _).1 hl))⟩

end Sys2Proof.Machine

end

section

/-! # Fences and bridges (O29)

A fence changes what stands before the later accesses of its threads, and the filters of its core's L1, alone (`Bridged`). So each pair of domains
finds the queues, the open stores and each thread's past as they were, and what a pair has put ahead stays there. -/

namespace Sys2Proof.Machine

/-! ### Filters and threads do not say what is open -/

theorem L1.apply_unarrived (k : L1) (d : Dom) (p : Inval → Bool) (id : Nat) :
    (k.apply d p).invs.any (fun i => i.store == id && i.arrived.isNone) = k.invs.any (fun i => i.store == id && i.arrived.isNone) := by
  rw [L1.apply, List.any_filter, List.any_map]
  congr 1
  funext i
  dsimp only [Function.comp]
  split
  · cases i.arrived <;> simp
  · cases i.arrived <;> simp

theorem State.isOpen_acquire (s : State) (me : Agent) (d : Dom) (sc : Scope) (id : Nat) : (s.acquire me d sc).isOpen id = s.isOpen id := by
  have h := KMap.any_put (d := ({} : L1)) (p := fun k => k.invs.any fun i => i.store == id && i.arrived.isNone) rfl s.l1s
    (s.sys.physCore me.core) (v := (s.l1 (s.sys.physCore me.core)).apply d fun i => s.inScope sc me i.src) (L1.apply_unarrived ..)
  unfold State.isOpen
  rw [← h]
  rfl

theorem State.isOpen_modGroup (s : State) (c k g : Nat) (f : Group → Group) (id : Nat) : (s.modGroup c k g f).isOpen id = s.isOpen id := by
  unfold State.modGroup State.modBlock
  split
  · next b _ =>
    have h := s.unperformed_modCore c (f := fun x => { x with slots := KMap.put x.slots k (b.modGroup g f) }) rfl id
    unfold State.isOpen
    rw [← h]
    rfl
  · rfl

/-! ### One thread -/

theorem mem_unite {α : Type} [BEq α] [LawfulBEq α] {l new : List α} {a : α} : a ∈ unite l new ↔ a ∈ l ∨ a ∈ new := by
  rw [unite, List.mem_append, List.mem_filter]
  by_cases h : a ∈ l <;> simp [h]

theorem Before.mem_via_step (b : Before) (me : Agent) (sc : Scope) (e : Edge) : (me, sc) ∈ (b.step me sc e).via := by
  unfold Before.step
  dsimp only
  split
  · next h => exact List.contains_iff_mem.1 h
  · simp

/-- What BRIDGE.x.y at a scope makes of a thread. -/
def State.bridged (s : State) (w : Who) (x y : Dom) (sc : Scope) (lane : Nat) (t : Thread) : Thread :=
  let new := (s.threadPending w lane x).map fun i => ({ id := i, via := [(w.agent lane, sc)], edge := .fence } : Before)
  { t with ahead := unite (s.prune t).ahead ((new ++ s.fences (s.prune t) (w.agent lane) x sc).map fun b => (y, b)) }

theorem State.bridge1_eq (s : State) (w : Who) (x y : Dom) (sc : Scope) (lane : Nat) : s.bridge1 w x y sc lane =
    (s.modGroup w.core w.slot w.grp fun g => g.modThread lane (s.bridged w x y sc lane)).acquire (w.agent lane) y sc := rfl

/-- A fence of an agent at a scope has put store `k` before the thread's later accesses of a domain (R80). -/
def Thread.fencedBy (t : Thread) (me : Agent) (sc : Scope) (y : Dom) (k : Nat) : Prop :=
  ∃ b, (y, b) ∈ t.ahead ∧ b.id = k ∧ b.edge = .fence ∧ (me, sc) ∈ b.via

section
variable {s : State} {k : Nat} (hk : s.isOpen k = true)
include hk

theorem State.bridged_keeps {t : Thread} {me : Agent} {sc : Scope} {d : Dom} (h : t.fencedBy me sc d k) (w : Who) (x y : Dom) (sc' : Scope)
    (lane : Nat) : (s.bridged w x y sc' lane t).fencedBy me sc d k := by
  obtain ⟨b, hb, hid, hrest⟩ := h
  refine ⟨b, mem_unite.2 (.inl ?_), hid, hrest⟩
  exact List.mem_filter.2 ⟨hb, by rw [hid]; exact hk⟩

theorem State.bridged_adds {t : Thread} {w : Who} {x : Dom} {lane : Nat}
    (h : k ∈ s.threadPending w lane x ∨ ∃ p ∈ t.past, p.dom = x ∧ p.b.id = k) (y : Dom) (sc : Scope) :
    (s.bridged w x y sc lane t).fencedBy (w.agent lane) sc y k := by
  rcases h with h | ⟨p, hp, hd, hid⟩
  · refine ⟨{ id := k, via := [(w.agent lane, sc)], edge := .fence }, mem_unite.2 (.inr ?_), rfl, rfl, List.mem_singleton.2 rfl⟩
    exact List.mem_map.2 ⟨_, List.mem_append_left _ (List.mem_map.2 ⟨k, h, rfl⟩), rfl⟩
  · refine ⟨{ p.b.step (w.agent lane) sc .fence with causal := false }, mem_unite.2 (.inr ?_), hid, rfl, Before.mem_via_step p.b _ sc .fence⟩
    have hpast : p ∈ (s.prune t).past := List.mem_filter.2 ⟨hp, by rw [hid]; exact hk⟩
    refine List.mem_map.2 ⟨_, List.mem_append_right _ (List.mem_map.2 ⟨p.b, List.mem_append_left _ ?_, rfl⟩), rfl⟩
    exact List.mem_map.2 ⟨p, List.mem_filter.2 ⟨hpast, beq_iff_eq.2 hd⟩, rfl⟩

end

/-! ### Every thread and pair in turn -/

/-- The issuer `w` has ordered accesses in `s` and stands in `t` as `v`: no queue has changed, nor which stores are open, nor a thread's past. -/
structure Bridged (w v : Who) (s t : State) : Prop extends Acted w v s t where
  stores : ∀ c, (t.core c).stores = (s.core c).stores
  isOpen : ∀ id, t.isOpen id = s.isOpen id
  past : ∀ l, (v.g.thread l).past = (w.g.thread l).past

theorem Bridged.refl {s : State} {w : Who} (hi : Issues s w) : Bridged w w s s :=
  { (Touched.refl s).acted hi with
    stores := fun _ => rfl
    isOpen := fun _ => rfl
    past := fun _ => rfl }

section
variable {w v : Who} {s t : State} (h : Bridged w v s t)
include h

theorem Bridged.threadPending (lane : Nat) (d : Dom) : t.threadPending w lane d = s.threadPending w lane d := by
  have hheld : t.homeHeld = s.homeHeld := by rw [← h.rest]
  rw [State.threadPending, State.threadPending, State.pendingStores, State.pendingStores, hheld, h.stores]

theorem Bridged.bridge1 (x y : Dom) (sc : Scope) (lane : Nat) :
    Bridged w (v.modThread lane (t.bridged w x y sc lane)) s (t.bridge1 w x y sc lane) := by
  rw [State.bridge1_eq]
  refine { (h.modThread lane (f := t.bridged w x y sc lane) fun _ => rfl).outside (State.acquire_beside ..).1 rfl with
    stores := fun c => (State.stores_modGroup ..).trans (h.stores c)
    isOpen := fun id => ((State.isOpen_acquire ..).trans (State.isOpen_modGroup ..)).trans (h.isOpen id)
    past := fun l => ?_ }
  rw [← h.past]
  show ((v.g.modThread lane _).thread l).past = _
  rw [Group.thread_modThread]
  split
  · next e => rw [e.1]; rfl
  · rfl

theorem Bridged.keeps {me : Agent} {l : Nat} {sc : Scope} {d : Dom} {k : Nat} (hk : s.isOpen k = true)
    (hf : (v.g.thread l).fencedBy me sc d k) (x y : Dom) (sc' : Scope) (lane : Nat) :
    ((v.modThread lane (t.bridged w x y sc' lane)).g.thread l).fencedBy me sc d k := by
  show ((v.g.modThread lane _).thread l).fencedBy ..
  rw [Group.thread_modThread]
  split
  · next e => rw [← e.1]; exact State.bridged_keeps ((h.isOpen k).trans hk) hf ..
  · exact hf

theorem Bridged.adds {l : Nat} (hl : (w.g.thread l).live = true) {x : Dom} {k : Nat} (hk : s.isOpen k = true)
    (hx : k ∈ s.threadPending w l x ∨ ∃ p ∈ (w.g.thread l).past, p.dom = x ∧ p.b.id = k) (y : Dom) (sc : Scope) :
    ((v.modThread l (t.bridged w x y sc l)).g.thread l).fencedBy (w.agent l) sc y k := by
  have hlive : (v.g.thread l).live = true := by rw [← hl, ← h.order.threads l]; rfl
  show ((v.g.modThread l _).thread l).fencedBy ..
  rw [Group.thread_modThread, if_pos ⟨rfl, Group.lt_of_live hlive⟩]
  refine State.bridged_adds ((h.isOpen k).trans hk) ?_ y sc
  rwa [h.threadPending, h.past]

end

/-- What one step of a fold brings about, and every step keeps, holds after it. -/
theorem foldl_of_mem {α β : Type} {f : β → α → β} {P Q : β → Prop} (hP : ∀ b x, P b → P (f b x)) (hQ : ∀ b x, Q b → Q (f b x)) {a : α}
    (hPQ : ∀ b, P b → Q (f b a)) {l : List α} (ha : a ∈ l) {b : β} (hb : P b) : Q (l.foldl f b) := by
  obtain ⟨l₁, l₂, rfl⟩ := List.append_of_mem ha
  rw [List.foldl_append, List.foldl_cons]
  exact List.foldlRecOn l₂ f (hPQ _ (List.foldlRecOn l₁ f hb fun c hc x _ => hP c x hc)) fun c hc x _ => hQ c x hc

/-- The threads and pairs of a fence, in turn. -/
theorem State.bridges_eq (s : State) (w : Who) (m : LaneMask) (ps : List (Dom × Dom)) (sc : Scope) : s.bridges w m ps sc =
    ((lanesOf m).flatMap fun l => ps.map fun p => (l, p)).foldl (fun s q => s.bridge1 w q.2.1 q.2.2 sc q.1) s := by
  rw [List.foldl_flatMap, State.bridges, forLanes]
  simp only [List.foldl_map]

section
variable {s : State} {w : Who} (hi : Issues s w) (m : LaneMask) (ps : List (Dom × Dom)) (sc : Scope)
include hi

theorem Issues.bridges : ∃ v, Bridged w v s (s.bridges w m ps sc) := by
  rw [State.bridges_eq]
  refine List.foldlRecOn _ _ (motive := fun t => ∃ v, Bridged w v s t) ⟨w, .refl hi⟩ ?_
  rintro t ⟨v, hv⟩ q -
  exact ⟨_, hv.bridge1 ..⟩

/-- Every open store of the first domain of a pair that a lane's thread has made or read stands before its later accesses of the second. -/
theorem Issues.bridges_fenced {l : Nat} (hl : m.getLsbD l = true) (hlive : (w.g.thread l).live = true) {x y : Dom} (hp : (x, y) ∈ ps) {k : Nat}
    (hk : s.isOpen k = true) (hx : k ∈ s.threadPending w l x ∨ ∃ p ∈ (w.g.thread l).past, p.dom = x ∧ p.b.id = k) :
    ∃ v, Bridged w v s (s.bridges w m ps sc) ∧ (v.g.thread l).fencedBy (w.agent l) sc y k := by
  rw [State.bridges_eq]
  refine foldl_of_mem (P := fun t => ∃ v, Bridged w v s t) (Q := fun t => ∃ v, Bridged w v s t ∧ (v.g.thread l).fencedBy (w.agent l) sc y k)
    ?_ ?_ (a := (l, x, y)) ?_ (List.mem_flatMap.2 ⟨l, (mem_lanesOf _ _).2 hl, List.mem_map.2 ⟨_, hp, rfl⟩⟩) ⟨w, .refl hi⟩
  · rintro t q ⟨v, hv⟩
    exact ⟨_, hv.bridge1 ..⟩
  · rintro t q ⟨v, hv, hf⟩
    exact ⟨_, hv.bridge1 .., hv.keeps hk hf ..⟩
  · rintro t ⟨v, hv⟩
    exact ⟨_, hv.bridge1 .., hv.adds hlive hk hx ..⟩

end

/-! ### The slot -/

/-- The issuer's group in a state does not depend on what the issuer knew of it. -/
theorem Reordered.grpIn {w v : Who} (h : Reordered w v) {t : State} {b : Block} (hb : t.block w.core w.slot = some b) :
    v.grpIn t = w.grpIn t := by
  rw [Who.grpIn, Who.grpIn, Who.blockIn, Who.blockIn, h.core, h.slot, h.grp, hb]
  rfl

theorem Reordered.ig {w v : Who} (h : Reordered w v) : v.ig = w.ig := by rw [← h.place]

/-- The issue group advances as the issuer's, whatever orders its accesses. -/
theorem Reordered.advanced {w v : Who} (h : Reordered w v) {t : State} {b : Block} (hb : t.block w.core w.slot = some b)
    (ha : Advanced v t) : Advanced w t := by
  have higs : v.g.igs = w.g.igs := by rw [← h.group]
  obtain ⟨hown, hothers⟩ := ha
  rw [Who.igIn, h.grpIn hb, h.ig] at hown
  rw [h.grpIn hb, h.ig, higs] at hothers
  exact ⟨hown, hothers⟩

/-- What FENCE and BRIDGE do with some pairs of domains: the statement's own words. -/
theorem bridges_order {s : State} {w : Who} (hi : Issues s w) (h : Hd) (ps : List (Dom × Dom)) (sc : Scope) :
    let t := (s.bridges w (w.active h.g) ps sc).skip w h.k
    Advanced w t ∧ t.mem = s.mem ∧ t.hmem = s.hmem ∧ (w.grpIn t).v = w.g.v ∧ (w.grpIn t).s = w.g.s ∧ (w.grpIn t).mode = w.g.mode ∧
      (∀ l, ((w.grpIn t).thread l).preds = (w.g.thread l).preds) ∧ (t.core w.core).stores = (s.core w.core).stores ∧
      ∀ l, (w.active h.g).getLsbD l = true → ∀ x y, (x, y) ∈ ps → ∀ k, s.isOpen k = true →
        (k ∈ s.threadPending w l x ∨ ∃ p ∈ (w.g.thread l).past, p.dom = x ∧ p.b.id = k) →
        ((w.grpIn t).thread l).fencedBy (w.agent l) sc y k := by
  intro t
  have hslot {v : Who} (hv : Bridged w v s (s.bridges w (w.active h.g) ps sc)) : NoResult v h.k (s.bridges w (w.active h.g) ps sc) t :=
    hv.issues.noResult hv.order.place hv.order.gen h.k
  obtain ⟨v, hv⟩ := hi.bridges (w.active h.g) ps sc
  have hn := hslot hv
  obtain ⟨b, hb, -⟩ := hn.frame.block
  rw [hv.order.core, hv.order.slot] at hb
  have hgrp := hv.order.grpIn hb
  have hcore := hn.frame.core w.core
  have hgroup := hv.order.group
  refine ⟨hv.order.advanced hb hn.advanced, ?_, ?_, ?_, ?_, ?_, fun l => ?_, ?_, fun l hl x y hp k hk hx => ?_⟩
  · rw [← hv.rest, ← hn.frame.rest]
  · rw [← hv.rest, ← hn.frame.rest]
  · rw [← hgrp, hn.vregs, ← hgroup]
  · rw [← hgrp, hn.sregs, ← hgroup]
  · rw [← hgrp, ← hgroup, ← hn.group]
  · rw [← hgrp, (hn.threads l).2, ← hv.order.threads l]
  · rw [← hv.stores, ← hcore]
  · have hactive := hl
    rw [Who.mem_active] at hactive
    simp only [Bool.and_eq_true] at hactive
    obtain ⟨u, hu, hf⟩ := hi.bridges_fenced _ ps sc hl hactive.2.1.2 hp hk hx
    have hthread := ((hslot hu).threads l).1
    rw [hu.order.grpIn hb] at hthread
    rw [← hthread] at hf
    exact hf

/-- Settles O29: `bridges_order` for the pairs of each form. -/
theorem fencesOrder : Obligations.FencesOrder := by
  intro s w h ordered
  have hi := State.issuer_spec h
  exact ⟨fun o => ⟨_, State.withIssuer_of h _, bridges_order hi o.h (fencePairs o.dom) o.scope⟩,
    fun o => ⟨_, State.withIssuer_of h _, bridges_order hi o.h [(o.x, o.y)] o.scope⟩⟩

end Sys2Proof.Machine

end

section

/-! # Commands (O32)

`exec_issuesCmd` reduces each form to `State.issueCmd`; `State.issueCmd_eq` says what that does to a slot that is not held. -/

namespace Sys2Proof.Machine
open Host (Outcome)

/-! ### Instructions that act once -/

section
variable {s : State} {w : Who} (h : s.issuer = some w) {hd : Hd} (hm : w.active hd.g ≠ 0) {a : CAcc}
include h hm

theorem State.anyLane_of_active (f : Who → LaneMask → Outcome State Fault Refusal) : s.anyLane hd f = f w (w.active hd.g) := by
  rw [State.anyLane, State.withIssuer_of h]
  exact if_neg hm

/-- A flag on a UB command is an illegal operand, whatever the command (R92). -/
theorem State.onceLocal_badFlags (ha : badFlags a = true) (f : State → Who → LaneMask → Outcome State Fault Refusal) :
    s.onceLocal hd a f = s.fail w (w.active hd.g) 3 := by
  rw [State.onceLocal, State.once, State.anyLane_of_active h hm, if_pos ha]

end

theorem State.drainFor_of_idle {s : State} {core : Nat} (hs : s.pendingStores core = []) (need : Store → Bool) :
    s.drainFor core need = (true, s) := by
  rw [State.drainFor, hs]
  rfl

theorem State.settleLocal_of_idle {s : State} {w : Who} (hs : s.pendingStores w.core = []) (m : LaneMask) : s.settleLocal w m = (true, s) :=
  State.drainFor_of_idle hs _

/-- With the flags in order and no store waiting, the instruction acts at once. -/
theorem State.onceLocal_acts {s : State} {w : Who} (h : s.issuer = some w) {hd : Hd} (hm : w.active hd.g ≠ 0) {a : CAcc}
    (ha : badFlags a = false) (hs : s.pendingStores w.core = []) (f : State → Who → LaneMask → Outcome State Fault Refusal) :
    s.onceLocal hd a f = f s w (w.active hd.g) := by
  rw [State.onceLocal, State.once, State.anyLane_of_active h hm, ha, if_neg Bool.false_ne_true, State.settleLocal_of_idle hs]
  dsimp only
  rw [h]

/-! ### What issuing a command does -/

theorem State.setBlock_setBlock (s : State) (c k : Nat) (b b' : Block) : (s.setBlock c k b).setBlock c k b' = s.setBlock c k b' := by
  rw [State.setBlock, State.setBlock, State.setBlock, State.modCore_modCore]
  simp only [KMap.put_put]

theorem State.modBlock_of_block {s : State} {c k : Nat} {b : Block} (h : s.block c k = some b) (f : Block → Block) :
    s.modBlock c k f = s.setBlock c k (f b) := by
  rw [State.modBlock, h]

/-- A state with other counters and another count of numbers given out. -/
def State.withCounts (s : State) (n : Nat) (x : KMap Dword) : State := { s with nextId := n, sys := { s.sys with counters := x } }

theorem NoResult.ofWithCounts {s t : State} {w : Who} {k : Ctl} {n : Nat} {x : KMap Dword} (h : NoResult w k (s.withCounts n x) t) :
    NoResult w k s t :=
  { h with
    frame := { h.frame with
      rest := congrArg (fun y : State => { y with nextId := s.nextId, sys := { y.sys with counters := s.sys.counters } }) h.frame.rest }
    latches := h.latches }

section
variable {s : State} {w : Who} (m : LaneMask) (k : Ctl) (tag : BitVec 6) (a : CAcc) (op : CmdOp) (ep : Option (Nat × Option Nat))

/-- The state when a command takes its number: its convoy counts it. -/
def State.itemTaken (s : State) (w : Who) (ep : Option (Nat × Option Nat)) : State := (s.nextItem w.core w.slot (ep.bind (·.2))).2.fresh.2

/-- The command that an instruction issues. -/
def State.newCmd (s : State) (w : Who) (m : LaneMask) (tag : BitVec 6) (a : CAcc) (op : CmdOp) (ep : Option (Nat × Option Nat)) : Cmd :=
  let t := s.itemTaken w ep
  { id := w.b.nextCmd, tag := tag.toNat, grp := w.grp, lanes := m, pc := w.ig.pc, iword := (s.wordAt w.core w.ctx w.ig.pc).2
    slotctl := (s.wordAt w.core w.ctx w.ig.pc).1, leg := t.legOf w.ctx, mode := w.g.mode, acc := a, op := op, entry := ep.map (·.1)
    mans := ((op.entries (ep.map (·.1))).map fun e => (e, KMap.get 0 (t.ctx w.ctx).manifest e)).foldl (fun m e => KMap.put m e.1 e.2) []
    convoy := ep.bind (·.2), item := (s.nextItem w.core w.slot (ep.bind (·.2))).1
    store := (s.nextItem w.core w.slot (ep.bind (·.2))).2.fresh.1
    after := w.fed t m ++ if a.acqf then t.acquireAfter w m else [], part := w.g.part }

/-- A full tag or a full queue holds the slot (R128, R395). -/
theorem State.issueCmd_held (hh : (w.b.tag tag.toNat).count = 0xFFFF ∨ s.queueFull w.core op = true) :
    s.issueCmd w m k tag a op ep = .next s := by
  rw [State.issueCmd]
  dsimp only
  rw [if_pos (by simpa using hh)]

/-- The state once the command has joined the block's others. -/
def State.cmdJoined (s : State) (w : Who) (m : LaneMask) (tag : BitVec 6) (a : CAcc) (op : CmdOp) (ep : Option (Nat × Option Nat)) : State :=
  let t := s.itemTaken w ep
  (if op.copies then t.bumpCe w.core 0 1 else t).modBlock w.core w.slot fun b =>
    { (b.modTag tag.toNat fun t => { t with count := t.count + 1 }) with
      cmds := b.cmds ++ [s.newCmd w m tag a op ep], nextCmd := b.nextCmd + 1 }

theorem State.issueCmd_eq (hc : (w.b.tag tag.toNat).count ≠ 0xFFFF) (hq : s.queueFull w.core op = false) :
    s.issueCmd w m k tag a op ep = .next ((s.cmdJoined w m tag a op ep).skip w k) := by
  rw [State.issueCmd]
  dsimp only
  rw [if_neg (by simp [hc, hq])]
  rfl

theorem State.legOf_itemTaken (c : Nat) : (s.itemTaken w ep).legOf c = s.legOf c := by
  unfold State.itemTaken State.nextItem
  split <;> rfl

/-- Of the machine, only the issuer's block and counts change: the block has the command last, its tag and its convoy count it. -/
theorem Issues.cmdJoined (hi : Issues s w) : ∃ n x, s.cmdJoined w m tag a op ep =
    (w.put s (w.b.issued (s.newCmd w m tag a op ep))).withCounts n x := by
  have hcounts (u : State) : ∃ x, (if op.copies then u.bumpCe w.core 0 1 else u) = u.withCounts u.nextId x := by
    split
    · exact ⟨_, rfl⟩
    · exact ⟨u.sys.counters, rfl⟩
  have hput (u : State) (n : Nat) (x : KMap Dword) {b : Block} (hb : u.block w.core w.slot = some b) (f : Block → Block) :
      (u.withCounts n x).modBlock w.core w.slot f = (u.setBlock w.core w.slot (f b)).withCounts n x :=
    State.modBlock_of_block (s := u.withCounts n x) hb f
  unfold State.cmdJoined
  dsimp only
  generalize hc : s.newCmd w m tag a op ep = c
  have hcv : c.convoy = ep.bind (·.2) := by rw [← hc]; rfl
  have htag : c.tag = tag.toNat := by rw [← hc]; rfl
  obtain ⟨x, hx⟩ := hcounts (s.itemTaken w ep)
  rw [hx]
  refine ⟨s.nextId + 1, x, ?_⟩
  cases hv : ep.bind (·.2) with
  | none =>
    have ht : s.itemTaken w ep = s.withCounts (s.nextId + 1) s.sys.counters := by rw [State.itemTaken, hv]; rfl
    rw [hv] at hcv
    rw [ht]
    refine (hput s _ x hi.block _).trans ?_
    rw [Who.put, Block.issued, hcv, htag]
    rfl
  | some v =>
    have ht : s.itemTaken w ep = (s.setBlock w.core w.slot { w.b with
        convoys := KMap.put w.b.convoys v { KMap.get ({} : Convoy) w.b.convoys v with
          items := (KMap.get ({} : Convoy) w.b.convoys v).items + 1 } }).withCounts (s.nextId + 1) s.sys.counters := by
      simp only [State.itemTaken, hv, State.nextItem, hi.block]
      rfl
    rw [hv] at hcv
    rw [ht]
    refine (hput _ _ x ((State.block_setBlock ..).trans (if_pos ⟨rfl, rfl⟩)) _).trans ?_
    rw [State.setBlock_setBlock, Who.put, Block.issued, hcv, htag]
    rfl

theorem Issues.issuesCmd (hi : Issues s w) :
    NoResult (w.withBlock (w.b.issued (s.newCmd w m tag a op ep))) k (w.put s (w.b.issued (s.newCmd w m tag a op ep)))
      ((s.cmdJoined w m tag a op ep).skip w k) := by
  obtain ⟨n, x, hj⟩ := hi.cmdJoined m tag a op ep
  have hgroups (c : Cmd) : (w.b.issued c).groups = w.b.groups ∧ (w.b.issued c).gen = w.b.gen := by
    unfold Block.issued
    split <;> exact ⟨rfl, rfl⟩
  obtain ⟨hg, hgen⟩ := hgroups (s.newCmd w m tag a op ep)
  have hput := hi.put hg
  rw [hj]
  exact NoResult.ofWithCounts (Issues.noResult (s := (w.put s _).withCounts n x) ⟨hput.block, hput.group, hput.ig, hput.inRange⟩ rfl hgen k)

end

/-! ### The forms -/

/-- An instruction whose operands pass every check issues its operation. -/
def IssuesCmd (i : Instr) (p : CmdReq) (s : State) (w : Who) : Prop :=
  ∀ op ep, p.op s w = some (op, ep) → exec i s = s.issueCmd w (w.active p.h.g) p.h.k p.tag p.acc op ep

section
variable {s : State} {w : Who} (h : s.issuer = some w) (hs : s.pendingStores w.core = [])
include h hs

theorem execCpy_issues {o : CpyOp} (hr : Readable w (w.active o.h.g) (cpyReads o) []) (hm : w.active o.h.g ≠ 0)
    (ha : badFlags o.acc = false) {p : CmdReq} (hp : cmdReqs (.cpy o) = some p) : IssuesCmd (.cpy o) p s w := by
  cases hp
  intro op ep hop
  dsimp only at hop
  split at hop
  · cases hop
  · next hcnt =>
    split at hop
    · next xs hxs =>
      cases hop
      have hcnt' (l : Nat) (hl : (w.active o.h.g).getLsbD l = true) :
          (if 4 * 2 ^ o.sz.toNat < w.cpyCount l o.cnt then Except.error ({ cause := 3, lane := l } : Flt) else .ok ()) = .ok () := by
        refine if_neg fun hlt => hcnt (List.any_eq_true.2 ⟨l, (mem_lanesOf _ _).2 hl, ?_⟩)
        exact decide_eq_true hlt
      show execCpy o s = _
      rw [execCpy, ha, State.access_readable h hr hcnt']
      dsimp only
      rw [if_neg hm, hxs]
      dsimp only
      rw [State.settleLocal_of_idle hs]
      dsimp only
      rw [h]
    · cases hop

theorem tileMove_issues {o : TileMv} (hm : w.active o.h.g ≠ 0) (ha : badFlags o.acc = false) {load : Bool} {c : TileCfg}
    (hc : cmdReqs.moved w o load = some c) : s.tileMove o load =
      s.issueCmd w (w.active o.h.g) o.h.k o.tag o.acc (if load then .tld o.tile.toNat c (w.s32 o.addr) else .tst o.tile.toNat c (w.s32 o.addr))
        none := by
  unfold cmdReqs.moved at hc
  split at hc
  · next d hd =>
    split at hc
    · next hok =>
      cases hc
      rw [State.tileMove, State.onceLocal_acts h hm ha hs]
      dsimp only
      rw [hd]
      simp [hok.1, hok.2]
    · cases hc
  · cases hc

theorem execTcpy_issues {o : TcpyOp} (hm : w.active o.h.g ≠ 0) (ha : badFlags o.acc = false) {op : CmdOp} {ep : Option (Nat × Option Nat)}
    (hop : tcpyReq o s w = some (op, ep)) : execTcpy o s = s.issueCmd w (w.active o.h.g) o.h.k o.tag o.acc op ep := by
  rw [execTcpy, State.onceLocal_acts h hm ha hs]
  unfold tcpyReq at hop
  split at hop
  · cases hop
  · next g hg =>
    dsimp only at hop ⊢
    rw [hg]
    dsimp only
    split at hop
    · cases hop
    · next dense df hd =>
      split at hop
      · cases hop
      · next hok =>
        simp only [Bool.or_eq_true, Bool.not_eq_true', not_or, Bool.not_eq_false] at hok
        obtain ⟨⟨hpair, hloc⟩, hfits⟩ := hok
        rw [if_pos hpair, hd]
        dsimp only
        split at hop
        · next bar coll ep' hbar hends =>
          rw [hbar, hends, hfits, hloc, Who.followOn]
          split at hop
          · next hfo =>
            cases hop
            rw [if_pos hfo]
            rfl
          · next hfo =>
            rw [if_neg hfo]
            split at hop
            · cases hop
            · next hfar =>
              rw [if_neg hfar]
              split at hop
              · next x hx =>
                cases hop
                rw [hx]
                rfl
              · cases hop
        · cases hop

theorem execTdrain_issues {o : TdrainOp} (hm : w.active o.h.g ≠ 0) (ha : badFlags o.acc = false) {op : CmdOp} {ep : Option (Nat × Option Nat)}
    (hop : tdrainReq o s w = some (op, ep)) : execTdrain o s = s.issueCmd w (w.active o.h.g) o.h.k o.tag o.acc op ep := by
  rw [execTdrain, State.onceLocal_acts h hm ha hs]
  unfold tdrainReq at hop
  split at hop
  · next g bar hg hbar =>
    dsimp only at hop ⊢
    split at hop
    · cases hop
    · next hok =>
      rw [not_not] at hok
      obtain ⟨hfield, hacc, hloc⟩ := hok
      rw [if_neg (by simp [hfield]), hg]
      dsimp only
      rw [hbar, State.drainSecond]
      split at hop
      · next hnone =>
        cases hop
        rw [if_pos hnone, hloc, decide_eq_true hacc]
        rfl
      · next hsome =>
        rw [if_neg hsome]
        split at hop
        · next g2 hg2 =>
          split at hop
          · next hok2 =>
            obtain ⟨hbox, hrows, hloc2⟩ := hok2
            cases hop
            rw [hg2]
            dsimp only
            rw [if_neg (by simp [hbox, hrows]), hloc, decide_eq_true hacc]
            dsimp only
            rw [hloc2]
            rfl
          · cases hop
        · cases hop
  · cases hop

theorem execXsend_issues {hd : Hd} {acc : CAcc} {tag desc bar : BitVec 6} (hm : w.active hd.g ≠ 0) (ha : badFlags acc = false) {p : CmdReq}
    (hp : cmdReqs (.xsend hd acc tag desc bar) = some p) : IssuesCmd (.xsend hd acc tag desc bar) p s w := by
  cases hp
  intro op ep hop
  show execXsend hd acc tag desc bar s = _
  rw [execXsend, State.onceLocal_acts h hm ha hs]
  dsimp only at hop ⊢
  split at hop
  · next e cv br hep hbr =>
    rw [hep, hbr]
    dsimp only
    split at hop
    · next man hman =>
      split at hop
      · next hok =>
        obtain ⟨hlo, hhi, hcore, hright, hloc⟩ := hok
        cases hop
        have hlen : ¬ ((decide (w.sAt desc 2 = 0) || decide (65536 < w.sAt desc 2)) = true) := by simp; omega
        have hentry : s.entry w.ctx e = some man := hman
        rw [if_neg hlen, hentry, if_neg (by simp [hcore]), if_neg (by simp [hloc]), State.checkEntry, hentry]
        dsimp only
        rw [if_pos hright]
      · cases hop
    · cases hop
  · cases hop

theorem exec_issuesCmd {i : Instr} {p : CmdReq} (hp : cmdReqs i = some p) (hr : Readable w (w.active p.h.g) p.reads [])
    (hm : w.active p.h.g ≠ 0) (ha : badFlags p.acc = false) : IssuesCmd i p s w := by
  cases i <;> try cases hp
  case cpy o => exact execCpy_issues h hs hr hm ha rfl
  case tcpy o => exact fun op ep hop => execTcpy_issues h hs hm ha hop
  case tld o =>
    intro op ep hop
    obtain ⟨c, hc, he⟩ := Option.map_eq_some_iff.1 hop
    cases he
    exact tileMove_issues h hs hm ha hc
  case tst o =>
    intro op ep hop
    obtain ⟨c, hc, he⟩ := Option.map_eq_some_iff.1 hop
    cases he
    exact tileMove_issues h hs hm ha hc
  case tzero hd tag tile =>
    intro op ep hop
    obtain ⟨c, hc, he⟩ := Option.map_eq_some_iff.1 hop
    cases he
    show execTzero .. = _
    rw [execTzero, State.onceLocal_acts h hm ha hs]
    dsimp only
    rw [hc]
  case tmma hd tag desc =>
    intro op ep hop
    show execTmma .. = _
    rw [execTmma, State.onceLocal_acts h hm ha hs]
    dsimp only at hop ⊢
    split at hop
    · next x hx =>
      cases hop
      rw [hx]
    · cases hop
  case tdrain o => exact fun op ep hop => execTdrain_issues h hs hm ha hop
  case tacc hd add tag tile base =>
    intro op ep hop
    show execTacc .. = _
    rw [execTacc, State.onceLocal_acts h hm ha hs]
    dsimp only at hop ⊢
    split at hop
    · next c hc =>
      split at hop
      · next hle =>
        cases hop
        rw [hc]
        dsimp only
        rw [if_neg (by omega)]
      · cases hop
    · cases hop
  case xsend hd acc tag desc bar => exact execXsend_issues h hs hm ha rfl

end

/-- A flag on a UB command comes before every check but that of the operands themselves. -/
theorem exec_badFlags {s : State} {w : Who} (h : s.issuer = some w) {i : Instr} {p : CmdReq} (hp : cmdReqs i = some p)
    (hr : Readable w (w.active p.h.g) p.reads []) (hm : w.active p.h.g ≠ 0) (ha : badFlags p.acc = true) :
    exec i s = s.fail w (w.active p.h.g) 3 := by
  cases i <;> try cases hp
  case cpy o =>
    show execCpy o s = _
    rw [execCpy, ha, State.access, State.accessAt, State.withIssuer_of h]
    dsimp only
    rw [Who.check_readable hr]
    dsimp only
    rw [if_pos (by simpa using hm)]
    rfl
  case tzero => cases ha
  case tmma => cases ha
  case tacc => cases ha
  case tcpy o => exact (State.onceLocal_badFlags h hm ha _ : execTcpy o s = _)
  case tld o => exact (State.onceLocal_badFlags h hm ha _ : s.tileMove o true = _)
  case tst o => exact (State.onceLocal_badFlags h hm ha _ : s.tileMove o false = _)
  case tdrain o => exact (State.onceLocal_badFlags h hm ha _ : execTdrain o s = _)
  case xsend hd acc tag desc bar => exact (State.onceLocal_badFlags h hm ha _ : execXsend hd acc tag desc bar s = _)

/-- Settles O32: every form that passes its checks issues its command (`exec_issuesCmd`), which holds the slot or joins the block's others. -/
theorem commandsIssue : Obligations.CommandsIssue := by
  intro i p hp s w h hr hm
  have hi := State.issuer_spec h
  refine ⟨fun ha => ?_, fun ha hs op ep hop => ?_⟩
  · exact hi.raises (f := { cause := 3, lane := lowest (w.active p.h.g) }) (exec_badFlags h hp hr hm ha) rfl
      (show BitVec.ofNat 6 3 ≠ 13 by decide)
  · have hexec := exec_issuesCmd h hs hp hr hm ha op ep hop
    refine ⟨fun hheld => hexec.trans (State.issueCmd_held _ _ _ _ _ _ hheld), fun hc hq => ?_⟩
    refine ⟨s.newCmd w (w.active p.h.g) p.tag p.acc op ep, _, hexec.trans (State.issueCmd_eq _ _ _ _ _ _ hc hq), hi.issuesCmd .., ?_⟩
    exact ⟨rfl, rfl, rfl, rfl, rfl, rfl, rfl, rfl, State.legOf_itemTaken .., rfl, rfl, rfl, rfl, rfl, rfl, rfl⟩

end Sys2Proof.Machine

end

section

/-! # Steps of the engines (O48)

A command's step is a change of its block (`Block.mapCmds`, `Block.without`, the effect itself) and, under the release flag, of the L1s
(`State.releaseCmd`). Each step is reduced to `State.modBlock` on one state, from which `State.modBlock_blockAt` gives its frame. -/

namespace Sys2Proof.Machine
open Host (Outcome)

/-! ### Changes of one block -/

theorem State.modBlock_modBlock (s : State) (c k : Nat) (f g : Block → Block) :
    (s.modBlock c k f).modBlock c k g = s.modBlock c k fun b => g (f b) := by
  cases hb : s.block c k with
  | none =>
    have hn (f : Block → Block) : s.modBlock c k f = s := by rw [State.modBlock, hb]
    rw [hn, hn, hn]
  | some b =>
    have hb' : (s.modBlock c k f).block c k = some (f b) := by rw [State.block_modBlock, if_pos ⟨rfl, rfl⟩, hb]; rfl
    rw [State.modBlock_of_block hb', State.modBlock_of_block hb, State.modBlock_of_block hb, State.setBlock_setBlock]

theorem State.modBlock_blockAt {s : State} {c k : Nat} {b : Block} (h : s.block c k = some b) (f : Block → Block) :
    BlockAt c k (f b) s (s.modBlock c k f) := by
  rw [State.modBlock_of_block h]
  exact State.setBlock_blockAt ..

theorem State.modBlock_congr {s : State} {c k : Nat} {b : Block} (h : s.block c k = some b) {f g : Block → Block} (hfg : f b = g b) :
    s.modBlock c k f = s.modBlock c k g := by
  rw [State.modBlock_of_block h, State.modBlock_of_block h, hfg]

/-! ### A command in its block -/

/-- The commands numbered `k` of a block changed. -/
def Block.mapCmds (b : Block) (k : Nat) (f : Cmd → Cmd) : Block := { b with cmds := b.cmds.map fun c => if c.id = k then f c else c }

/-- Command `k` of a block. -/
def Block.cmd? (b : Block) (k : Nat) : Option Cmd := b.cmds.find? fun c => c.id == k

theorem Block.cmd?_mapCmds {b : Block} {k : Nat} {c : Cmd} (h : b.cmd? k = some c) {f : Cmd → Cmd} (hf : ∀ c, (f c).id = c.id) :
    (b.mapCmds k f).cmd? k = some (f c) := by
  have hid : c.id = k := by simpa using List.find?_some h
  have hsame : (fun c : Cmd => (if c.id = k then f c else c).id == k) = fun c => c.id == k := by
    funext c
    split <;> simp [*]
  rw [Block.cmd?, Block.mapCmds, List.find?_map, show ((fun c : Cmd => c.id == k) ∘ _) = _ from hsame, ← Block.cmd?, h, Option.map_some,
    if_pos hid]

/-- A command that counts on its tag retires (R94). -/
theorem Block.retireCmd_eq {b : Block} {c : Cmd} (h : b.cmd? c.id = some c) (hc : c.credited = false) : b.retireCmd c.id = b.without c := by
  rw [Block.retireCmd, show b.cmds.find? _ = _ from h]
  dsimp only
  rw [hc]
  rfl

/-- What has been noted in a command does not matter once it is gone. -/
theorem Block.without_mapCmds (b : Block) {c d : Cmd} (hid : d.id = c.id) (htag : d.tag = c.tag) {f : Cmd → Cmd} (hf : ∀ c, (f c).id = c.id) :
    (b.mapCmds c.id f).without d = b.without c := by
  have hcmds : (b.mapCmds c.id f).cmds.filter (fun x => x.id != d.id) = b.cmds.filter fun x => x.id != c.id := by
    rw [Block.mapCmds, List.filter_map, hid]
    have hsame : ((fun x : Cmd => x.id != c.id) ∘ fun x => if x.id = c.id then f x else x) = fun x => x.id != c.id := by
      funext x
      rw [Function.comp_apply]
      split <;> simp [*]
    rw [hsame]
    refine (List.map_congr_left fun x hx => ?_).trans (List.map_id _)
    exact if_neg (by simpa using (List.mem_filter.1 hx).2)
  rw [Block.without, hcmds, htag]
  rfl

/-- Command `k` of the block in a slot, as a run. -/
structure RunAt (s : State) (core slot k : Nat) (x : Run) : Prop where
  place : x.core = core ∧ x.slot = slot
  block : s.block core slot = some x.b
  cmd : x.b.cmd? k = some x.c

theorem State.run?_eq_some {s : State} {core slot k : Nat} {x : Run} : s.run? core slot k = some x ↔ RunAt s core slot k x := by
  unfold State.run?
  constructor
  · intro h
    split at h
    · cases h
    · next b hb =>
      obtain ⟨c, hc, rfl⟩ := Option.map_eq_some_iff.1 h
      exact ⟨⟨rfl, rfl⟩, hb, hc⟩
  · rintro ⟨⟨rfl, rfl⟩, hb, hc⟩
    rw [hb]
    exact Option.map_eq_some_iff.2 ⟨x.c, hc, rfl⟩

section
variable {s : State} {core slot k : Nat} {x : Run} (h : RunAt s core slot k x)
include h

theorem RunAt.id : x.c.id = k := by simpa using List.find?_some h.cmd

theorem RunAt.modCmd_eq (f : Cmd → Cmd) : s.modCmd x f = s.modBlock core slot fun b => b.mapCmds k f := by
  rw [State.modCmd, h.place.1, h.place.2, h.id]
  rfl

/-- The command where its block has changed, itself as `f` says. -/
theorem RunAt.modBlock {g : Block → Block} {f : Cmd → Cmd} (hg : (g x.b).cmd? k = some (f x.c)) :
    RunAt (s.modBlock core slot g) core slot k ⟨core, slot, g x.b, f x.c⟩ :=
  ⟨⟨rfl, rfl⟩, by rw [State.block_modBlock, if_pos ⟨rfl, rfl⟩, h.block]; rfl, hg⟩

end

/-- A release settles L1s, whatever has become of the block (R94). -/
theorem State.releaseCmd_modBlock (s : State) (core slot : Nat) (f : Block → Block) {x y : Run} (hy : y.c.acc = x.c.acc)
    (hstore : y.c.store = x.c.store) : (s.modBlock core slot f).releaseCmd y = (s.releaseCmd x).modBlock core slot f := by
  rw [State.releaseCmd, State.releaseCmd, hy, hstore]
  split
  · unfold State.modBlock
    split
    · next b hb => rw [show (s.settle [x.c.store]).block core slot = some b from hb]; rfl
    · next hb => rw [show (s.settle [x.c.store]).block core slot = none from hb]
  · rfl

theorem State.block_releaseCmd (s : State) (x : Run) (core slot : Nat) : (s.releaseCmd x).block core slot = s.block core slot := by
  unfold State.releaseCmd
  split <;> rfl

/-- What a command's release and a change of its block amount to, where the block has changed before. -/
theorem RunAt.modBlock_released {s : State} {core slot k : Nat} {x y : Run} (h : RunAt s core slot k x) (hacc : y.c.acc = x.c.acc)
    (hstore : y.c.store = x.c.store) {f g e : Block → Block} (hfg : g (f x.b) = e x.b) :
    ((s.modBlock core slot f).releaseCmd y).modBlock core slot g = (s.releaseCmd x).modBlock core slot e := by
  rw [State.releaseCmd_modBlock s core slot f hacc hstore, State.modBlock_modBlock]
  exact State.modBlock_congr ((State.block_releaseCmd ..).trans h.block) hfg

theorem RunAt.released_blockAt {s : State} {core slot k : Nat} {x : Run} (h : RunAt s core slot k x) (e : Block → Block) :
    BlockAt core slot (e x.b) (s.releaseCmd x) ((s.releaseCmd x).modBlock core slot e) :=
  State.modBlock_blockAt ((State.block_releaseCmd ..).trans h.block) e

/-! ### A command of one unit (TLD, TST, TZERO) -/

/-- The operations whose one unit changes tiles or local memory alone. -/
def CmdOp.inBlock : CmdOp → Bool
  | .tld .. | .tst .. | .tzero .. => true
  | _ => false

theorem CmdOp.inBlock_cases {o : CmdOp} (h : o.inBlock = true) :
    (∃ t c a, o = .tld t c a) ∨ (∃ t c a, o = .tst t c a) ∨ ∃ t, o = .tzero t := by
  cases o with
  | tld t c a => exact .inl ⟨t, c, a, rfl⟩
  | tst t c a => exact .inr (.inl ⟨t, c, a, rfl⟩)
  | tzero t => exact .inr (.inr ⟨t, rfl⟩)
  | _ => cases h

/-- What the unit of such a command does to its block. -/
def CmdOp.effect (o : CmdOp) (b : Block) : Block :=
  match o with
  | .tld t c a => { b with tiles := putMasked b.tiles (32768 * t) (whole (Memory.readN b.mem a (c.rows * c.rowb))) }
  | .tst t c a => { b with mem := Memory.writeN b.mem a (getBytes b.tiles (32768 * t) (c.rows * c.rowb)) }
  | .tzero t => { b with tiles := b.tiles.filter fun p => p.1 / 32768 != t }
  | _ => b

/-- The command with its first unit done. -/
def Cmd.oneDone (c : Cmd) : Cmd := { c with did := c.did ++ [0] }

/-- The command begun, with operands `o`. -/
def Cmd.started (o : CmdOp) (c : Cmd) : Cmd := { c with op := o, begun := true }

/-- The effect neither reads nor changes commands. -/
theorem CmdOp.effect_mapCmds (o : CmdOp) (b : Block) (k : Nat) (f : Cmd → Cmd) : o.effect (b.mapCmds k f) = (o.effect b).mapCmds k f := by
  cases o <;> rfl

theorem CmdOp.cmd?_effect (o : CmdOp) (b : Block) (k : Nat) : (o.effect b).cmd? k = b.cmd? k := by cases o <;> rfl

section
variable {s : State} {core slot k : Nat} {x : Run} (ho : x.c.op.inBlock = true)
include ho

theorem State.unit_inBlock (s : State) (i : Nat) : s.unit x i = .done (s.modBlock x.core x.slot x.c.op.effect) := by
  unfold State.unit
  obtain ⟨_, _, _, hop⟩ | ⟨_, _, _, hop⟩ | ⟨_, hop⟩ := CmdOp.inBlock_cases ho <;> rw [hop] <;> rfl

theorem Run.units_inBlock : x.units = 1 := by
  unfold Run.units
  obtain ⟨_, _, _, hop⟩ | ⟨_, _, _, hop⟩ | ⟨_, hop⟩ := CmdOp.inBlock_cases ho <;> rw [hop]

theorem CmdOp.move_inBlock (second : Bool) : x.c.op.move second = none := by
  obtain ⟨_, _, _, hop⟩ | ⟨_, _, _, hop⟩ | ⟨_, hop⟩ := CmdOp.inBlock_cases ho <;> rw [hop] <;> rfl

theorem Run.remote_inBlock : x.remote = false := by
  unfold Run.remote
  rw [CmdOp.move_inBlock ho]
  obtain ⟨_, _, _, hop⟩ | ⟨_, _, _, hop⟩ | ⟨_, hop⟩ := CmdOp.inBlock_cases ho <;> rw [hop]

theorem Cmd.mma_inBlock : x.c.mma = none := by
  unfold Cmd.mma
  obtain ⟨_, _, _, hop⟩ | ⟨_, _, _, hop⟩ | ⟨_, hop⟩ := CmdOp.inBlock_cases ho <;> rw [hop]

theorem State.landCmd_inBlock (s : State) : s.landCmd x = s.completeCmd x := by
  unfold State.landCmd
  rw [Run.remote_inBlock ho]
  obtain ⟨_, _, _, hop⟩ | ⟨_, _, _, hop⟩ | ⟨_, hop⟩ := CmdOp.inBlock_cases ho <;> rw [hop] <;> rfl

theorem State.beginOp_inBlock (s : State) : s.beginOp x = .ok x.c.op := by
  unfold State.beginOp
  obtain ⟨_, _, _, hop⟩ | ⟨_, _, _, hop⟩ | ⟨_, hop⟩ := CmdOp.inBlock_cases ho <;> rw [hop]

theorem CmdOp.bases_inBlock : x.c.op.bases = [] := by
  obtain ⟨_, _, _, hop⟩ | ⟨_, _, _, hop⟩ | ⟨_, hop⟩ := CmdOp.inBlock_cases ho <;> rw [hop] <;> rfl

theorem RunAt.runUnits_inBlock (h : RunAt s core slot k x) :
    s.runUnits x (fun s i => s.unit x i) [0] = (s.modBlock core slot fun b => (x.c.op.effect b).mapCmds k Cmd.oneDone, none) := by
  obtain ⟨hcore, hslot⟩ := h.place
  rw [State.runUnits, State.unit_inBlock ho, hcore, hslot]
  dsimp only
  rw [State.runUnits, State.modCmd, hcore, hslot, State.modBlock_modBlock, h.id]
  rfl

/-- The engine does the one unit, and the command leaves. -/
theorem RunAt.workCmd_inBlock (h : RunAt s core slot k x) (hdid : x.c.did = []) (hcred : x.c.credited = false) :
    s.workCmd x none = (s.releaseCmd x).modBlock core slot fun b => (x.c.op.effect b).without x.c := by
  obtain ⟨hcore, hslot⟩ := h.place
  have hturn : x.turn none = [0] := by
    rw [Run.turn, Run.units_inBlock ho, hdid]
    rfl
  have hcmd : ((x.c.op.effect x.b).mapCmds k Cmd.oneDone).cmd? k = some x.c.oneDone :=
    Block.cmd?_mapCmds ((CmdOp.cmd?_effect ..).trans h.cmd) fun _ => rfl
  have hrun := h.modBlock (g := fun b => (x.c.op.effect b).mapCmds k Cmd.oneDone) hcmd
  rw [State.workCmd, CmdOp.move_inBlock ho]
  dsimp only
  rw [State.advanceCmd, hturn, h.runUnits_inBlock ho]
  dsimp only
  rw [hcore, hslot, h.id, State.run?_eq_some.2 hrun]
  dsimp only
  rw [if_pos (by rw [Run.units_inBlock ho, Cmd.oneDone, hdid]; exact Nat.le_refl 1), State.landCmd_inBlock (x := ⟨core, slot, _, x.c.oneDone⟩) ho,
    State.completeCmd]
  refine h.modBlock_released rfl rfl ?_
  have hid : x.c.oneDone.id = k := h.id
  refine (Block.retireCmd_eq (c := x.c.oneDone) (by rw [hid]; exact hcmd) hcred).trans ?_
  rw [← h.id]
  exact Block.without_mapCmds _ rfl rfl fun _ => rfl

theorem RunAt.beginCmd_inBlock (h : RunAt s core slot k x) :
    s.beginCmd x = if x.c.begun then s else s.modBlock core slot fun b => b.mapCmds k (Cmd.started x.c.op) := by
  rw [State.beginCmd, CmdOp.bases_inBlock ho, List.foldl_nil]
  dsimp only
  rw [State.beginOp_inBlock ho]
  dsimp only
  rw [h.modCmd_eq]
  rfl

/-- COMMAND_COMPLETE of such a command. -/
theorem RunAt.completes_inBlock (h : RunAt s core slot k x) (hmay : s.mayRun x = true) (hstate : x.c.state = .queued) (hdid : x.c.did = [])
    (hcred : x.c.credited = false) : exec (.commandComplete core slot k none) s =
      .next ((s.releaseCmd x).modBlock core slot fun b => (x.c.op.effect b).without x.c) := by
  show execCommandComplete core slot k none s = _
  rw [execCommandComplete, State.run?_eq_some.2 h]
  dsimp only
  rw [hmay, if_neg (by simp), Cmd.mma_inBlock ho]
  dsimp only
  rw [hstate, if_neg (by simp), h.beginCmd_inBlock ho]
  by_cases hb : x.c.begun = true
  · rw [if_pos hb, State.run?_eq_some.2 h]
    exact congrArg Outcome.next (h.workCmd_inBlock ho hdid hcred)
  · have hcmd : (x.b.mapCmds k (Cmd.started x.c.op)).cmd? k = some (x.c.started x.c.op) := Block.cmd?_mapCmds h.cmd fun _ => rfl
    have hrun := h.modBlock (g := fun b => b.mapCmds k (Cmd.started x.c.op)) hcmd
    rw [if_neg hb, State.run?_eq_some.2 hrun]
    refine congrArg Outcome.next ((hrun.workCmd_inBlock (x := ⟨core, slot, _, x.c.started x.c.op⟩) ho hdid hcred).trans ?_)
    refine h.modBlock_released rfl rfl ?_
    show (x.c.op.effect (x.b.mapCmds k (Cmd.started x.c.op))).without (x.c.started x.c.op) = _
    rw [CmdOp.effect_mapCmds, ← h.id]
    exact Block.without_mapCmds _ rfl rfl fun _ => rfl

end

theorem RunAt.completesAt_inBlock {s : State} {core slot k : Nat} {x : Run} (h : RunAt s core slot k x) {o : CmdOp} (hop : x.c.op = o)
    (ho : o.inBlock = true) (hmay : s.mayRun x = true) (hstate : x.c.state = .queued) (hdid : x.c.did = [])
    (hcred : x.c.credited = false) : ∃ t, exec (.commandComplete core slot k none) s = .next t ∧
      BlockAt core slot ((o.effect x.b).without x.c) (s.releaseCmd x) t := by
  subst hop
  exact ⟨_, h.completes_inBlock ho hmay hstate hdid hcred, h.released_blockAt fun b => (x.c.op.effect b).without x.c⟩

/-! ### Tile bytes -/

/-- Tiles are a sparse map of bytes, as memory is. -/
theorem putMasked_eq_writeMasked (bs : List (Byte × Byte)) : ∀ (m : KMap Byte) (a : Nat), putMasked m a bs = Memory.writeMasked m a bs := by
  induction bs with
  | nil => exact fun _ _ => rfl
  | cons b bs ih => exact fun m a => ih ..

theorem listGet_readN (m : Memory) : ∀ (n a i : Nat), i < n → listGet 0 (Memory.readN m a n) i = m.read (a + i)
  | n + 1, a, 0, _ => rfl
  | n + 1, a, i + 1, h => by
    rw [Memory.readN, listGet, listGet_readN m n (a + 1) i (by omega), Nat.add_right_comm, Nat.add_assoc]

theorem listGet_map_range (f : Nat → Byte) (n i : Nat) (h : i < n) : listGet 0 ((List.range n).map f) i = f i :=
  listGet_of_getElem? 0 (by simp [h])

section
variable {b : Block} (hb : b.canonical = true)
include hb

theorem Block.tileByte_tld (tl a : Nat) (c : TileCfg) {u i : Nat} (hi : i < 32768) (hc : c.rows * c.rowb ≤ 32768) :
    ((CmdOp.tld tl c a).effect b).tileByte u i =
      if u = tl ∧ i < c.rows * c.rowb then b.mem.read (a + i) else b.tileByte u i := by
  have hwf : Memory.wf b.tiles = true := by simp only [Block.canonical, Bool.and_eq_true] at hb; exact hb.2
  show Memory.read (putMasked b.tiles (32768 * tl) (whole (Memory.readN b.mem a (c.rows * c.rowb)))) (32768 * u + i) = _
  rw [putMasked_eq_writeMasked, Memory.writeMasked_whole, Memory.read_writeN _ _ _ _ hwf, Memory.length_readN]
  by_cases hin : u = tl ∧ i < c.rows * c.rowb
  · rw [if_pos hin, if_pos (by omega), listGet_readN _ _ _ _ (by omega)]
    congr 1
    omega
  · rw [if_neg hin, if_neg (by omega)]
    rfl

theorem Block.read_tst (tl a : Nat) (c : TileCfg) (i : Nat) :
    ((CmdOp.tst tl c a).effect b).mem.read i =
      if a ≤ i ∧ i < a + c.rows * c.rowb then b.tileByte tl (i - a) else b.mem.read i := by
  have hwf : b.mem.wf = true := by simp only [Block.canonical, Bool.and_eq_true] at hb; exact hb.1.1
  show (Memory.writeN b.mem a (getBytes b.tiles (32768 * tl) (c.rows * c.rowb))).read i = _
  rw [Memory.read_writeN _ _ _ _ hwf, getBytes, List.length_map, List.length_range]
  split
  · exact listGet_map_range _ _ _ (by omega)
  · rfl

omit hb in
theorem Block.tileByte_tzero (tl : Nat) {u i : Nat} (hi : i < 32768) :
    ((CmdOp.tzero tl).effect b).tileByte u i = if u = tl then 0 else b.tileByte u i := by
  refine (KMap.get_filter_key 0 (fun j => j / 32768 != tl) (32768 * u + i) b.tiles).trans ?_
  rw [show (32768 * u + i) / 32768 = u by omega]
  by_cases h : u = tl <;> simp [h, Block.tileByte]

end

end Sys2Proof.Machine

end

section

/-! # Sub-blocks of TMMA (O48)

A sub-block changes its command's block (`Block.subBlocked`) and what counts it (`State.subBlocked`: MMA_STEPS, the telemetry record, the
release of the last one). Each of the two is described apart, and `RunAt.subBlock_eq` says that the step is both. -/

namespace Sys2Proof.Machine
open Host (Outcome)

/-! ### The words of a sub-block -/

/-- A map after writes that agree with each other on every key. -/
theorem KMap.get_foldl_set {α : Type} [DecidableEq α] (d : α) (j : Nat) (v : α) : ∀ (ps : List (Nat × α)) (m : KMap α),
    KMap.wfFrom d 0 m = true → (∀ p ∈ ps, p.1 = j → p.2 = v) →
    KMap.get d (ps.foldl (fun m p => KMap.set d m p.1 p.2) m) j = if j ∈ ps.map Prod.fst then v else KMap.get d m j
  | [], m, _, _ => rfl
  | p :: ps, m, hm, hv => by
    rw [List.foldl_cons, KMap.get_foldl_set d j v ps _ (KMap.wfFrom_set d p.2 m 0 p.1 hm (Nat.zero_le _))
      fun q hq => hv q (List.mem_cons_of_mem _ hq), KMap.get_set d p.2 m 0 p.1 j hm, List.map_cons]
    by_cases hp : p.1 = j
    · rw [hv p List.mem_cons_self hp]
      simp [hp]
    · simp only [List.mem_cons, Ne.symm hp, false_or, if_false]

/-- The columns of a sub-block are below the multiply's. -/
theorem Mma.elems_col_lt {m : Mma} {i r c : Nat} (h : (r, c) ∈ m.elems i) : c < m.cb.rows := by
  simp only [Mma.elems, List.mem_flatMap, List.mem_map, List.mem_range, Prod.mk.injEq] at h
  obtain ⟨_, _, _, ⟨j, hj, rfl⟩, rfl, rfl⟩ := h
  omega

/-- Two elements in one word are one. -/
theorem Mma.elem_word_inj {m : Mma} {i r c r' c' : Nat} (h : (r, c) ∈ m.elems i) (h' : (r', c') ∈ m.elems i)
    (hw : m.abase + r' * m.cb.rows + c' = m.abase + r * m.cb.rows + c) : (r', c') = (r, c) := by
  have hc := Mma.elems_col_lt h
  have hc' := Mma.elems_col_lt h'
  have hsum : c' + m.cb.rows * r' = c + m.cb.rows * r := by
    rw [Nat.mul_comm m.cb.rows, Nat.mul_comm m.cb.rows]
    omega
  have hcol : c' = c := by
    rw [← Nat.mod_eq_of_lt hc, ← Nat.mod_eq_of_lt hc', ← Nat.add_mul_mod_self_left c', hsum, Nat.add_mul_mod_self_left]
  subst hcol
  have hrow : r' = r := Nat.eq_of_mul_eq_mul_left (by omega : 0 < m.cb.rows) (by omega)
  rw [hrow]

/-- The block with the words of a sub-block written. -/
def Block.wrote (b : Block) (res : List (Nat × Word)) : Block :=
  { b with acc := res.foldl (fun a p => KMap.set 0 a p.1 p.2) b.acc }

section
variable {b : Block} (hb : b.canonical = true) (m : Mma) (mode : Word) (i : Nat)
include hb

theorem Block.accWord_wrote {r c : Nat} (h : (r, c) ∈ m.elems i) :
    (b.wrote (b.subResults m mode i)).accWord (m.abase + r * m.cb.rows + c) =
      mmaElem mode (m.ca.fmt == 7) (b.tileRow m.ta m.ca r) (b.tileRow m.tb m.cb c) (b.accStart m r c) := by
  simp only [Block.canonical, Bool.and_eq_true] at hb
  obtain ⟨⟨-, hacc⟩, -⟩ := hb
  have hmem : (m.abase + r * m.cb.rows + c, mmaElem mode (m.ca.fmt == 7) (b.tileRow m.ta m.ca r) (b.tileRow m.tb m.cb c) (b.accStart m r c)) ∈
      b.subResults m mode i := List.mem_map.2 ⟨(r, c), h, rfl⟩
  refine (KMap.get_foldl_set 0 _ _ _ _ hacc ?_).trans (if_pos (List.mem_map_of_mem hmem))
  intro p hp hw
  obtain ⟨⟨r', c'⟩, h', rfl⟩ := List.mem_map.1 hp
  obtain ⟨rfl, rfl⟩ := Prod.mk.inj (Mma.elem_word_inj h h' hw)
  rfl

theorem Block.accWord_wrote_other {j : Nat} (h : ∀ r c, (r, c) ∈ m.elems i → j ≠ m.abase + r * m.cb.rows + c) :
    (b.wrote (b.subResults m mode i)).accWord j = b.accWord j := by
  simp only [Block.canonical, Bool.and_eq_true] at hb
  obtain ⟨⟨-, hacc⟩, -⟩ := hb
  have hnot : ∀ p ∈ b.subResults m mode i, p.1 ≠ j := by
    intro p hp
    obtain ⟨⟨r, c⟩, hrc, rfl⟩ := List.mem_map.1 hp
    exact (h r c hrc).symm
  refine (KMap.get_foldl_set 0 j 0 _ _ hacc fun p hp hj => absurd hj (hnot p hp)).trans (if_neg fun hj => ?_)
  obtain ⟨p, hp, hpj⟩ := List.mem_map.1 hj
  exact hnot p hp hpj

end

/-! ### Telemetry -/

/-- There is room for a record in the ring of a context. -/
def State.telRoom (s : State) (c : Nat) : Prop :=
  ringFull (s.ctx c).telTail (s.ctx c).telHead (s.ctx c).telLog2n.toNat = false ∧
    s.telOpen c ((s.ctx c).telbase.toNat * 32 + 32 * ((s.ctx c).telTail.toNat % 2 ^ (s.ctx c).telLog2n.toNat)) = true

theorem State.block_modCore (s : State) (n : Nat) {f : Core → Core} (hf : (f (s.core n)).slots = (s.core n).slots) (c k : Nat) :
    (s.modCore n f).block c k = s.block c k := by
  unfold State.block
  rw [State.core_modCore]
  split
  · subst_vars
    rw [hf]
  · rfl

theorem State.core_setCtx (s : State) (c : Nat) (x : Ctx) (n : Nat) : (s.setCtx c x).core n = s.core n := rfl

theorem State.block_setCtx (s : State) (c : Nat) (x : Ctx) (n k : Nat) : (s.setCtx c x).block n k = s.block n k := rfl

section
variable (s : State) (core c : Nat) (bits : Nat → Nat)

theorem State.telAppend_off (h : (s.ctx c).telLog2n = 0) : s.telAppend core c bits = s := by
  rw [State.telAppend, if_pos (by rw [h]; rfl)]

theorem State.telAppend_lost (h : (s.ctx c).telLog2n ≠ 0) (hroom : ¬ s.telRoom c) :
    s.telAppend core c bits = s.modCore core fun k => { k with telLost := min 0xFFFF ((s.core core).telLost + 1) } := by
  rw [State.telAppend, if_neg (by simpa using h), if_pos]
  unfold State.telRoom at hroom
  rw [Bool.or_eq_true, Bool.not_eq_true']
  rw [not_and_or] at hroom
  simpa using hroom

theorem State.telAppend_room (h : (s.ctx c).telLog2n ≠ 0) (hroom : s.telRoom c) : ∃ va bs, s.telAppend core c bits =
    ((s.modCore core fun k => { k with telLost := 0 }).setCtx c { s.ctx c with telTail := (s.ctx c).telTail + 1 }).vWrite c va bs := by
  obtain ⟨hfull, hopen⟩ := hroom
  rw [State.telAppend, if_neg (by simpa using h), if_neg (by rw [hfull, hopen]; simp)]
  exact ⟨_, _, rfl⟩

/-- A record changes no block. -/
theorem State.telAppend_block (n k : Nat) : (s.telAppend core c bits).block n k = s.block n k := by
  by_cases h : (s.ctx c).telLog2n = 0
  · rw [s.telAppend_off core c bits h]
  by_cases hroom : s.telRoom c
  · obtain ⟨va, bs, heq⟩ := s.telAppend_room core c bits h hroom
    rw [heq, (State.vWrite_onlyRecords ..).block, State.block_setCtx, State.block_modCore]
    rfl
  · rw [s.telAppend_lost core c bits h hroom, State.block_modCore]
    rfl

theorem State.telAppend_telCount : ((s.telAppend core c bits).core core).telCount = (s.core core).telCount := by
  by_cases h : (s.ctx c).telLog2n = 0
  · rw [s.telAppend_off core c bits h]
  by_cases hroom : s.telRoom c
  · obtain ⟨va, bs, heq⟩ := s.telAppend_room core c bits h hroom
    rw [heq, (State.vWrite_onlyRecords ..).core, State.core_setCtx, State.core_modCore, if_pos rfl]
  · rw [s.telAppend_lost core c bits h hroom, State.core_modCore, if_pos rfl]

theorem State.telAppend_counts_room (h : (s.ctx c).telLog2n ≠ 0) (hroom : s.telRoom c) :
    ((s.telAppend core c bits).ctx c).telTail = (s.ctx c).telTail + 1 ∧ ((s.telAppend core c bits).core core).telLost = 0 := by
  obtain ⟨va, bs, heq⟩ := s.telAppend_room core c bits h hroom
  rw [heq]
  constructor
  · rw [State.ctx, State.vWrite_ctxs]
    show (State.ctx (State.setCtx ..) c).telTail = _
    rw [State.ctx_setCtx, if_pos rfl]
  · rw [(State.vWrite_onlyRecords ..).core, State.core_setCtx, State.core_modCore, if_pos rfl]

theorem State.telAppend_counts_lost (h : (s.ctx c).telLog2n ≠ 0) (hroom : ¬ s.telRoom c) :
    ((s.telAppend core c bits).ctx c).telTail = (s.ctx c).telTail ∧
      ((s.telAppend core c bits).core core).telLost = min 0xFFFF ((s.core core).telLost + 1) := by
  rw [s.telAppend_lost core c bits h hroom]
  exact ⟨rfl, by rw [State.core_modCore, if_pos rfl]⟩

end

/-! ### What a translation reads

Neither cores nor counters, nor which values are free: the telemetry slot of a context is writable before and after it is counted. -/

/-- A state with other counters and other values to come. -/
def State.withMeters (s : State) (y : KMap Dword) (n : Nat) : State := { s with sys := { s.sys with counters := y }, freeCtr := n }

section
variable (s : State) (y : KMap Dword) (n : Nat)

theorem State.foldl_mergeWord_mem (ws : List CuWord) {s t : State} (h : t.mem = s.mem) :
    (ws.foldl State.mergeWord t).mem = (ws.foldl State.mergeWord s).mem := by
  induction ws generalizing s t with
  | nil => exact h
  | cons w ws ih =>
    refine ih ?_
    show Memory.writeN t.mem _ (leBytes _ (w.fold (dw (leNat (Memory.readN t.mem _ _)))).toNat) = _
    rw [h]
    rfl

theorem State.pteAt_withMeters (a : Nat) : (s.withMeters y n).pteAt a = s.pteAt a := by
  unfold State.pteAt State.firmRead State.mergeLine
  dsimp only
  rw [State.foldl_mergeWord_mem _ (s := s) (t := s.withMeters y n) rfl]
  rfl

theorem State.walkFrom_withMeters (c va : Nat) : ∀ lvl table, (s.withMeters y n).walkFrom c va lvl table = s.walkFrom c va lvl table
  | 0, table => by
    unfold State.walkFrom
    rw [State.pteAt_withMeters]
    rfl
  | lvl + 1, table => by
    have hnext : ∀ e, (s.withMeters y n).pteNext lvl e = s.pteNext lvl e := fun _ => rfl
    unfold State.walkFrom
    dsimp only
    rw [State.pteAt_withMeters, hnext]
    simp only [walkFrom_withMeters c va lvl]
    rfl

theorem State.vTargetOf_withMeters (c va : Nat) (ok : Xlate → Bool) : (s.withMeters y n).vTargetOf c va ok = s.vTargetOf c va ok := by
  unfold State.vTargetOf State.vPage State.walkCached State.walk
  simp only [State.walkFrom_withMeters]
  rfl

theorem State.telRoom_withMeters (c : Nat) : (s.withMeters y n).telRoom c ↔ s.telRoom c := by
  unfold State.telRoom State.telOpen
  rw [State.vTargetOf_withMeters]
  rfl

theorem State.telRoom_modCore (core : Nat) (f : Core → Core) (c : Nat) : (s.modCore core f).telRoom c ↔ s.telRoom c := by
  show (s.withPlaces (s.modCore core f).cores s.l1s s.nextId).telRoom c ↔ _
  unfold State.telRoom State.telOpen
  rw [State.vTargetOf_withPlaces]
  rfl

end

/-! ### The count of sub-blocks -/

/-- How many sub-blocks the context of a multiply will have counted on its core. -/
def State.telNumber (s : State) (x : Run) : Nat := KMap.get 0 (s.core x.core).telCount x.b.ctx + 1

/-- MODE and the count have a sub-block checked (R124). -/
def State.telChecks (s : State) (x : Run) : Prop :=
  x.c.mode.getLsbD 15 = true ∧ s.telNumber x % 2 ^ (x.c.mode.toNat / 2 ^ 10 % 32) = 0

/-- The machine once a sub-block is counted. -/
def State.telCounted (s : State) (x : Run) : State :=
  if x.c.mode.getLsbD 15 then s.modCore x.core fun u => { u with telCount := KMap.put u.telCount x.b.ctx (s.telNumber x) } else s

theorem State.telCounted_block (s : State) (x : Run) (c k : Nat) : (s.telCounted x).block c k = s.block c k := by
  unfold State.telCounted
  split
  · rw [State.block_modCore]
    rfl
  · rfl

theorem State.telCounted_number (s : State) {x : Run} (h : x.c.mode.getLsbD 15 = true) :
    KMap.get 0 ((s.telCounted x).core x.core).telCount x.b.ctx = s.telNumber x := by
  rw [State.telCounted, if_pos h, State.core_modCore, if_pos rfl]
  exact (KMap.get_put ..).trans (if_pos rfl)

theorem State.telCounted_lost (s : State) (x : Run) : ((s.telCounted x).core x.core).telLost = (s.core x.core).telLost := by
  unfold State.telCounted
  split
  · rw [State.core_modCore, if_pos rfl]
  · rfl

theorem State.telCounted_ctx (s : State) (x : Run) (c : Nat) : (s.telCounted x).ctx c = s.ctx c := by
  unfold State.telCounted
  split <;> rfl

theorem State.telCounted_telRoom (s : State) (x : Run) (c : Nat) : (s.telCounted x).telRoom c ↔ s.telRoom c := by
  unfold State.telCounted
  split
  · exact s.telRoom_modCore ..
  · rfl

section
variable (s : State) {x : Run} (m : Mma) (i : Nat) (b : Block) (res : List (Nat × Word))

theorem State.telemetry_unchecked (h : ¬ s.telChecks x) : s.telemetry x m i b res = s.telCounted x := by
  unfold State.telemetry State.telCounted
  by_cases hon : x.c.mode.getLsbD 15 = true
  · have hn : ¬ s.telNumber x % 2 ^ field x.c.mode.toNat 10 5 = 0 := fun hn => h ⟨hon, hn⟩
    simp only [hon]
    rw [if_neg (by simp), if_pos (by simpa [State.telNumber] using hn)]
    rfl
  · simp only [hon]
    rfl

/-- A check counts the cycles, draws what is free and appends the record. -/
theorem State.telemetry_checked (h : s.telChecks x) : ∃ y n bits, s.telemetry x m i b res =
    ((s.telCounted x).withMeters y n).telAppend x.core x.b.ctx bits := by
  obtain ⟨hon, hn⟩ := h
  unfold State.telemetry State.telCounted
  simp only [hon]
  rw [if_neg (by simp), if_neg (by simpa [State.telNumber, field] using hn)]
  exact ⟨_, _, _, rfl⟩

theorem State.telemetry_block (c k : Nat) : (s.telemetry x m i b res).block c k = s.block c k := by
  by_cases h : s.telChecks x
  · obtain ⟨y, n, bits, heq⟩ := s.telemetry_checked m i b res h
    rw [heq, State.telAppend_block]
    exact s.telCounted_block x c k
  · rw [s.telemetry_unchecked m i b res h, State.telCounted_block]

theorem State.telemetry_number (hon : x.c.mode.getLsbD 15 = true) :
    KMap.get 0 ((s.telemetry x m i b res).core x.core).telCount x.b.ctx = s.telNumber x := by
  by_cases h : s.telChecks x
  · obtain ⟨y, n, bits, heq⟩ := s.telemetry_checked m i b res h
    rw [heq, State.telAppend_telCount]
    exact s.telCounted_number hon
  · rw [s.telemetry_unchecked m i b res h, s.telCounted_number hon]

theorem State.telemetry_room (h : s.telChecks x) (hlog : (s.ctx x.b.ctx).telLog2n ≠ 0) (hroom : s.telRoom x.b.ctx) :
    ((s.telemetry x m i b res).ctx x.b.ctx).telTail = (s.ctx x.b.ctx).telTail + 1 ∧
      ((s.telemetry x m i b res).core x.core).telLost = 0 := by
  obtain ⟨y, n, bits, heq⟩ := s.telemetry_checked m i b res h
  rw [← s.telCounted_ctx x] at hlog ⊢
  rw [← s.telCounted_telRoom x, ← State.telRoom_withMeters _ y n] at hroom
  rw [heq]
  exact State.telAppend_counts_room _ _ _ _ hlog hroom

theorem State.telemetry_lost (h : s.telChecks x) (hlog : (s.ctx x.b.ctx).telLog2n ≠ 0) (hroom : ¬ s.telRoom x.b.ctx) :
    ((s.telemetry x m i b res).ctx x.b.ctx).telTail = (s.ctx x.b.ctx).telTail ∧
      ((s.telemetry x m i b res).core x.core).telLost = min 0xFFFF ((s.core x.core).telLost + 1) := by
  obtain ⟨y, n, bits, heq⟩ := s.telemetry_checked m i b res h
  rw [← s.telCounted_ctx x] at hlog ⊢
  rw [← s.telCounted_telRoom x, ← State.telRoom_withMeters _ y n] at hroom
  rw [heq, ← s.telCounted_lost x]
  exact State.telAppend_counts_lost _ _ _ _ hlog hroom

end

/-! ### A sub-block of TMMA -/

theorem RunAt.of_block {s t : State} {core slot k : Nat} {x : Run} (h : RunAt s core slot k x) (ht : ∀ c k, t.block c k = s.block c k) :
    RunAt t core slot k x := ⟨h.place, (ht ..).trans h.block, h.cmd⟩

/-- The last sub-block completes the command. -/
def Mma.last (m : Mma) : Bool := decide (m.total ≤ m.next + 1)

/-- What a sub-block does to the block of its command, `k` (R332). -/
def Block.subBlocked (x : Run) (m : Mma) (b : Block) : Block :=
  let b := b.wrote (x.b.subResults m x.c.mode m.next)
  if m.last then b.without x.c else b.mapCmds x.c.id fun c => { c with op := c.op.withNext (m.next + 1) }

/-- The machine after a sub-block, its block apart. -/
def State.subBlocked (s : State) (x : Run) (m : Mma) : State :=
  let t := (s.countSteps x.core m).telemetry x m m.next x.b (x.b.subResults m x.c.mode m.next)
  if m.last then t.releaseCmd x else t

theorem State.block_subBlocked (s : State) (x : Run) (m : Mma) (c k : Nat) : (s.subBlocked x m).block c k = s.block c k := by
  unfold State.subBlocked
  dsimp only
  split
  · rw [State.block_releaseCmd, State.telemetry_block]
    rfl
  · rw [State.telemetry_block]
    rfl

/-- The last sub-block: its words are written, then the command retires. -/
theorem Block.subBlocked_last {b : Block} {x : Run} {m : Mma} (h : b.cmd? x.c.id = some x.c) (hcred : x.c.credited = false)
    (hlast : m.last = true) : (b.wrote (x.b.subResults m x.c.mode m.next)).retireCmd x.c.id = b.subBlocked x m := by
  rw [Block.subBlocked, if_pos hlast]
  exact Block.retireCmd_eq (b := b.wrote _) h hcred

theorem RunAt.subBlock_eq {s : State} {core slot k : Nat} {x : Run} (h : RunAt s core slot k x) (m : Mma) (hcred : x.c.credited = false) :
    s.subBlock x m = (s.subBlocked x m).modBlock core slot fun b => b.subBlocked x m := by
  obtain ⟨rfl, rfl⟩ := h.place
  have hid := h.id
  subst hid
  have ht := h.of_block (t := (s.countSteps x.core m).telemetry x m m.next x.b (x.b.subResults m x.c.mode m.next))
    (State.telemetry_block _ m m.next x.b _)
  rw [State.subBlock, h.block]
  unfold State.subBlocked
  dsimp only
  by_cases hlast : m.total ≤ m.next + 1
  · have hl : m.last = true := decide_eq_true hlast
    rw [if_pos hlast, if_pos hl]
    exact ht.modBlock_released rfl rfl (Block.subBlocked_last h.cmd hcred hl)
  · have hl : ¬ m.last = true := by simpa [Mma.last] using hlast
    rw [if_neg hlast, if_neg hl, State.modCmd, State.modBlock_modBlock]
    refine State.modBlock_congr ht.block ?_
    rw [Block.subBlocked, if_neg hl]
    rfl

theorem RunAt.execTmmaSubblock_eq {s : State} {core slot k : Nat} {x : Run} (h : RunAt s core slot k x) {m : Mma} (hop : x.c.op = .tmma m)
    (hruns : s.mmaRuns x = true) (hcred : x.c.credited = false) : exec (.tmmaSubblock core slot k) s =
      .next ((s.subBlocked x m).modBlock core slot fun b => b.subBlocked x m) := by
  show execTmmaSubblock core slot k s = _
  have hmma : x.c.mma = some m := by rw [Cmd.mma, hop]
  rw [execTmmaSubblock, State.run?_eq_some.2 h]
  dsimp only
  rw [hmma]
  dsimp only
  rw [if_pos hruns, h.subBlock_eq m hcred]

section
variable (s : State) (x : Run) (m : Mma)

/-- What a sub-block counts and appends stands after its release: that concerns L1s. -/
theorem State.subBlocked_core (n : Nat) : (s.subBlocked x m).core n =
    ((s.countSteps x.core m).telemetry x m m.next x.b (x.b.subResults m x.c.mode m.next)).core n := by
  unfold State.subBlocked State.releaseCmd
  dsimp only
  split
  · split <;> rfl
  · rfl

theorem State.subBlocked_ctx (n : Nat) : (s.subBlocked x m).ctx n =
    ((s.countSteps x.core m).telemetry x m m.next x.b (x.b.subResults m x.c.mode m.next)).ctx n := by
  unfold State.subBlocked State.releaseCmd
  dsimp only
  split
  · split <;> rfl
  · rfl

theorem State.subBlocked_unchecked (h : ¬ s.telChecks x) : s.subBlocked x m =
    if m.total ≤ m.next + 1 ∧ x.c.acc.relf = true then ((s.countSteps x.core m).telCounted x).settle [x.c.store]
    else (s.countSteps x.core m).telCounted x := by
  unfold State.subBlocked
  rw [(s.countSteps x.core m).telemetry_unchecked m m.next x.b _ h]
  unfold State.releaseCmd Mma.last
  by_cases hlast : m.total ≤ m.next + 1
  · simp [hlast]
  · rw [if_neg (by simpa using hlast), if_neg fun h => hlast h.1]

end

theorem State.countSteps_telRoom (s : State) (core : Nat) (m : Mma) (c : Nat) : (s.countSteps core m).telRoom c ↔ s.telRoom c :=
  s.telRoom_withMeters (s.countSteps core m).sys.counters s.freeCtr c

/-- A change of a block leaves its core otherwise as it was. -/
theorem State.modBlock_core (s : State) (core slot : Nat) (f : Block → Block) (n : Nat) :
    { (s.modBlock core slot f).core n with slots := (s.core n).slots } = s.core n := by
  unfold State.modBlock
  split
  · exact (State.setBlock_blockAt ..).cores n
  · rfl

theorem State.modBlock_ctx (s : State) (core slot : Nat) (f : Block → Block) (n : Nat) : (s.modBlock core slot f).ctx n = s.ctx n := by
  unfold State.modBlock
  split <;> rfl

/-! ### What O48 says of a sub-block -/

theorem Block.subBlocked_acc (b : Block) (x : Run) (m : Mma) :
    (b.subBlocked x m).acc = (b.wrote (x.b.subResults m x.c.mode m.next)).acc := by
  unfold Block.subBlocked
  dsimp only
  split <;> rfl

theorem Block.subBlocked_frame (x : Run) (m : Mma) : { x.b.subBlocked x m with acc := x.b.acc } =
    (if m.total ≤ m.next + 1 then x.b.without x.c else x.b.mapCmds x.c.id fun c => { c with op := c.op.withNext (m.next + 1) }) := by
  unfold Block.subBlocked Mma.last
  by_cases hlast : m.total ≤ m.next + 1
  · rw [if_pos hlast, if_pos (decide_eq_true hlast)]
    rfl
  · rw [if_neg hlast, if_neg (by simpa using hlast)]
    rfl

section
variable {s : State} {x : Run} {m : Mma}

theorem State.subBlocked_room (h : s.telChecks x) (hlog : (s.ctx x.b.ctx).telLog2n ≠ 0) (hroom : s.telRoom x.b.ctx) :
    ((s.subBlocked x m).ctx x.b.ctx).telTail = (s.ctx x.b.ctx).telTail + 1 ∧ ((s.subBlocked x m).core x.core).telLost = 0 := by
  rw [State.subBlocked_ctx, State.subBlocked_core]
  exact (s.countSteps x.core m).telemetry_room m m.next x.b _ h hlog ((s.countSteps_telRoom x.core m x.b.ctx).2 hroom)

theorem State.subBlocked_lost (h : s.telChecks x) (hlog : (s.ctx x.b.ctx).telLog2n ≠ 0) (hroom : ¬ s.telRoom x.b.ctx) :
    ((s.subBlocked x m).ctx x.b.ctx).telTail = (s.ctx x.b.ctx).telTail ∧
      ((s.subBlocked x m).core x.core).telLost = min 0xFFFF ((s.core x.core).telLost + 1) := by
  rw [State.subBlocked_ctx, State.subBlocked_core]
  exact (s.countSteps x.core m).telemetry_lost m m.next x.b _ h hlog (mt (s.countSteps_telRoom x.core m x.b.ctx).1 hroom)

theorem State.subBlocked_number (hon : x.c.mode.getLsbD 15 = true) :
    KMap.get 0 ((s.subBlocked x m).core x.core).telCount x.b.ctx = s.telNumber x := by
  rw [State.subBlocked_core]
  exact (s.countSteps x.core m).telemetry_number m m.next x.b _ hon

end

theorem State.modBlock_telLost (s : State) (core slot : Nat) (f : Block → Block) (n : Nat) :
    ((s.modBlock core slot f).core n).telLost = (s.core n).telLost := (congrArg Core.telLost (s.modBlock_core core slot f n) :)

theorem State.modBlock_telCount (s : State) (core slot : Nat) (f : Block → Block) (n : Nat) :
    ((s.modBlock core slot f).core n).telCount = (s.core n).telCount := (congrArg Core.telCount (s.modBlock_core core slot f n) :)

/-- FOLLOW_ON_START where the command may run. -/
theorem RunAt.execFollowOnStart_eq {s : State} {core slot k : Nat} {x : Run} (h : RunAt s core slot k x) {sh : Shape} {org : List Int} {d : Dense}
    {col : Option Coll} {bar : BarRef} {m : Mma} (hop : x.c.op = .tcpy sh org d col bar (some m)) (hstate : x.c.state = .landed)
    (hmay : s.mayRun x = true) : exec (.followOnStart core slot k) s =
      .next ((s.releaseCmd x).modBlock core slot fun b => b.mapCmds k fun c => { c with state := .follow }) := by
  show execFollowOnStart core slot k s = _
  rw [execFollowOnStart, State.run?_eq_some.2 h]
  dsimp only
  rw [hop, hstate]
  dsimp only
  rw [if_pos hmay, State.modCmd, h.place.1, h.place.2, h.id]
  rfl

/-- Settles O48: every step is a change of the command's block on the released state. -/
theorem engineSteps : Obligations.EngineSteps := by
  refine ⟨fun s core slot k tl a c x hrun hmay hstate hdid hcred hb hc => ⟨fun hop => ?_, fun hop => ?_, fun hop => ?_⟩,
    fun s core slot k x m hrun hop hruns hcred hb => ?_, fun s core slot k x sh org d col bar m hrun hop hstate hmay => ?_⟩
  · obtain ⟨t, hexec, hat⟩ := (State.run?_eq_some.1 hrun).completesAt_inBlock hop rfl hmay hstate hdid hcred
    exact ⟨t, _, hexec, hat, rfl, fun i hi => (Block.tileByte_tld hb tl a c (by omega) hc).trans (if_pos ⟨rfl, hi⟩),
      fun u i hi hu => (Block.tileByte_tld hb tl a c hi hc).trans (if_neg (by omega))⟩
  · obtain ⟨t, hexec, hat⟩ := (State.run?_eq_some.1 hrun).completesAt_inBlock hop rfl hmay hstate hdid hcred
    exact ⟨t, _, hexec, hat, rfl, fun i hi => (Block.read_tst hb tl a c (a + i)).trans (by rw [if_pos (by omega), Nat.add_sub_cancel_left]),
      fun i hi => (Block.read_tst hb tl a c i).trans (if_neg (by omega))⟩
  · obtain ⟨t, hexec, hat⟩ := (State.run?_eq_some.1 hrun).completesAt_inBlock hop rfl hmay hstate hdid hcred
    exact ⟨t, _, hexec, hat, rfl, fun u i hi => Block.tileByte_tzero tl hi⟩
  · have h := State.run?_eq_some.1 hrun
    obtain ⟨rfl, rfl⟩ := h.place
    have hid := h.id
    subst hid
    have hblock := (s.block_subBlocked x m x.core x.slot).trans h.block
    have hat := State.modBlock_blockAt hblock fun b => b.subBlocked x m
    refine ⟨_, x.b.subBlocked x m, h.execTmmaSubblock_eq hop hruns hcred, ?_, fun hck => ?_, fun hck hlog => ?_, fun hon => ?_,
      fun r c hrc => ?_, fun i hi => ?_, Block.subBlocked_frame x m⟩
    · exact (hat.blocks ..).trans (if_pos ⟨rfl, rfl⟩)
    · rw [s.subBlocked_unchecked x m hck] at hat ⊢
      exact hat
    · rw [State.modBlock_ctx, State.modBlock_telLost]
      exact ⟨State.subBlocked_room hck hlog, State.subBlocked_lost hck hlog⟩
    · rw [State.modBlock_telCount]
      exact State.subBlocked_number hon
    · rw [Block.accWord, Block.subBlocked_acc]
      exact Block.accWord_wrote hb m x.c.mode m.next hrc
    · rw [Block.accWord, Block.subBlocked_acc]
      exact Block.accWord_wrote_other hb m x.c.mode m.next hi
  · have h := State.run?_eq_some.1 hrun
    exact ⟨_, h.execFollowOnStart_eq hop hstate hmay, h.released_blockAt fun b => b.mapCmds k fun c => { c with state := .follow }⟩

end Sys2Proof.Machine

end
